-- ==== Sys2Proof/Word.lean ====
section
/-! DEFINITION. The word and byte types and the sparse tables in which the state keeps numbered things. -/
namespace Sys2Proof

/-- A scalar register, an operation word or a bundle header: 64 bits. -/
abbrev Word := BitVec 64
/-- One byte of memory. -/
abbrev Byte := BitVec 8
/-- One 128-byte line or granule, byte 0 in the low bits (R4). -/
abbrev Line := BitVec 1024

/-- A sparse table: numbered entries in rising order; a number that is not listed holds the table's default. -/
abbrev Table (α : Type) := List (Nat × α)

/-- The entry of number `k`, or the default `d`. -/
def Table.get {α : Type} (d : α) : Table α → Nat → α
  | [], _ => d
  | (j, v) :: r, k => if j = k then v else Table.get d r k

/-- Put `v` at number `k`, keeping the numbers rising. -/
def Table.insert {α : Type} (k : Nat) (v : α) : Table α → Table α
  | [] => [(k, v)]
  | (j, x) :: r =>
    if k < j then (k, v) :: (j, x) :: r
    else if k = j then (k, v) :: r
    else (j, x) :: Table.insert k v r

/-- Take number `k` off the list. -/
def Table.erase {α : Type} (k : Nat) : Table α → Table α
  | [] => []
  | (j, x) :: r => if j = k then Table.erase k r else (j, x) :: Table.erase k r

/-- Write `v` at `k`; writing the default removes the entry, so that equal tables are equal data. -/
def Table.put {α : Type} [DecidableEq α] (d : α) (t : Table α) (k : Nat) (v : α) : Table α :=
  if v = d then t.erase k else t.insert k v

end Sys2Proof
end

