-- ==== Sys2Proof/Machine/Bits.lean ====
section
/-! DEFINITION. The helpers of R9: bit fields, extension and truncation, on unbounded numbers. -/
namespace Sys2Proof

/-- `bits(x, h, l)` of R9. -/
def bits (x h l : Nat) : Nat := (x >>> l) % 2 ^ (h + 1 - l)
/-- One bit of `x`, as a Bool. -/
def bit (x i : Nat) : Bool := (x >>> i) % 2 = 1
/-- `zext(x, n)` and `trunc(x, n)` of R9 on an exact integer. -/
def truncI (x : Int) (n : Nat) : Nat := (x % (2 ^ n : Nat)).toNat
/-- `sext(x, n)` of R9. -/
def sextN (x n : Nat) : Int :=
  let y := x % 2 ^ n
  if y < 2 ^ (n - 1) then y else (y : Int) - (2 ^ n : Nat)
/-- The 64-bit word of an exact integer, wrapped (R46). -/
def wordI (x : Int) : Word := BitVec.ofInt 64 x
/-- The 64-bit word of a natural number, wrapped. -/
def wordN (x : Nat) : Word := BitVec.ofNat 64 x
/-- A 64-bit word read as a signed integer. -/
def sgn (x : Word) : Int := x.toInt
/-- The i-th byte of a number, little-endian (R4). -/
def byteOf (x i : Nat) : Byte := BitVec.ofNat 8 (x >>> (8 * i))
/-- The n low bytes of a number, little-endian (R4). -/
def bytesOf (x : Nat) : Nat → List Byte
  | 0 => []
  | n + 1 => BitVec.ofNat 8 x :: bytesOf (x >>> 8) n
/-- The number whose little-endian bytes are given (R4). -/
def ofBytes : List Byte → Nat
  | [] => 0
  | b :: r => b.toNat + 256 * ofBytes r
/-- Replace bits h:l of a number. -/
def setBits (x h l v : Nat) : Nat :=
  (x >>> (h + 1)) <<< (h + 1) + (v % 2 ^ (h + 1 - l)) <<< l + x % 2 ^ l
/-- Lane i, of w bytes, of a 128-byte vector (R134). -/
def lane (v : Line) (w i : Nat) : Nat := (v.toNat >>> (8 * w * i)) % 2 ^ (8 * w)
/-- The vector whose lanes of w bytes, from lane 0 up, are given; the bytes above are zero (R134). -/
def ofLanes (w : Nat) : List Nat → Nat
  | [] => 0
  | x :: r => x % 2 ^ (8 * w) + (ofLanes w r) <<< (8 * w)
/-- Ceiling division. -/
def ceilDiv (a b : Nat) : Nat := (a + b - 1) / b

end Sys2Proof
end

