-- ==== Sys2Proof/Machine/Numbers.lean ====
section
/-! DEFINITION. Number formats and exact arithmetic (R43-R62, R69-R72): values are exact dyadic numbers, infinities or
NaN, and precision is lost only in `rnd`, `ovf` and `satF`. -/
namespace Sys2Proof

/-- The formats of R135. -/
inductive Fmt where
  | fp32 | fp64 | bf16 | fp16
  | int (signed : Bool) (wid : Nat)
  | b8 (p : Nat) (uns fin : Bool)
  deriving DecidableEq, Repr
/-- The format of a code (R135); reserved codes, which the decode step refuses, read as FP32. -/
def fmtOf (c : Nat) : Fmt :=
  match c with
  | 0x00 => .fp32 | 0x01 => .fp64 | 0x02 => .bf16 | 0x03 => .fp16
  | 0x04 => .int true 1 | 0x05 => .int true 2 | 0x06 => .int true 4 | 0x07 => .int true 8
  | 0x08 => .int false 1 | 0x09 => .int false 2 | 0x0A => .int false 4 | 0x0B => .int false 8
  | c => if 0x20 ≤ c then .b8 ((c - 0x20) / 4 + 1) (bit (c - 0x20) 1) (bit (c - 0x20) 0) else .fp32
/-- wid of R135, in bytes. -/
def Fmt.wid : Fmt → Nat
  | .fp32 => 4 | .fp64 => 8 | .bf16 => 2 | .fp16 => 2 | .int _ w => w | .b8 .. => 1
/-- A floating format, binary8 included (R137). -/
def Fmt.isFloat : Fmt → Bool
  | .int .. => false | _ => true
def Fmt.isB8 : Fmt → Bool
  | .b8 .. => true | _ => false

/-- A floating-point value (R8, R50): NaN, an infinity, or (-1)^neg × m × 2^e exactly. -/
inductive XVal where
  | nan
  | inf (neg : Bool)
  | fin (neg : Bool) (m : Nat) (e : Int)
  deriving DecidableEq, Repr

/-- Flags as the low six bits of FPST (R54). -/
abbrev Flags := Nat
def fNX : Flags := 1
def fUF : Flags := 2
def fOF : Flags := 4
def fDZ : Flags := 8
def fNV : Flags := 16
def fSAT : Flags := 32

/-- What rounding needs of a floating format (R43-R45). -/
structure Shape where
  prec : Nat          -- significand bits P
  emin : Int          -- exponent of the smallest normal value
  ebits : Nat         -- exponent bits
  signed : Bool
  ieee : Bool         -- infinity and NaN in the all-ones exponent, and a negative zero
  inf : Bool          -- has infinities
  nan : Nat           -- code of the canonical NaN (R52)
  top : Nat           -- code of the largest finite value
  wid : Nat
  deriving DecidableEq, Repr

/-- The shape of a floating format. -/
def Fmt.shape : Fmt → Shape
  | .fp64 => ⟨53, -1022, 11, true, true, true, 0x7FF8000000000000, 0x7FEFFFFFFFFFFFFF, 8⟩
  | .bf16 => ⟨8, -126, 8, true, true, true, 0x7FC0, 0x7F7F, 2⟩
  | .fp16 => ⟨11, -14, 5, true, true, true, 0x7E00, 0x7BFF, 2⟩
  | .b8 p uns fin =>
    if uns then ⟨p, 1 - (2 ^ (8 - p) : Nat), 9 - p, false, false, !fin, 0xFF, if fin then 0xFE else 0xFD, 1⟩
    else ⟨p, 1 - (2 ^ (7 - p) : Nat), 8 - p, true, false, !fin, 0x80, if fin then 0x7F else 0x7E, 1⟩
  | _ => ⟨24, -126, 8, true, true, true, 0x7FC00000, 0x7F7FFFFF, 4⟩

/-- The magnitude of a code without its sign: exponent field and trailing field (R43, R44). -/
def Shape.mag (s : Shape) (c : Nat) : Nat × Int :=
  let t := c % 2 ^ (s.prec - 1)
  let e := c >>> (s.prec - 1)
  if e = 0 then (t, s.emin - (s.prec - 1 : Nat))
  else (2 ^ (s.prec - 1) + t, s.emin - (s.prec - 1 : Nat) + (e - 1 : Nat))
/-- The value of a code (R43, R44). -/
def Shape.value (s : Shape) (code : Nat) : XVal :=
  let c := code % 2 ^ (8 * s.wid)
  let sg := if s.signed then bit c (8 * s.wid - 1) else false
  let a := if s.signed then c % 2 ^ (8 * s.wid - 1) else c
  if s.ieee then
    if a >>> (s.prec - 1) = 2 ^ s.ebits - 1 then (if a % 2 ^ (s.prec - 1) = 0 then .inf sg else .nan)
    else let (m, e) := s.mag a; .fin sg m e
  else if c = s.nan then .nan
  else if s.inf && a = s.top + 1 then .inf sg
  else let (m, e) := s.mag a; .fin sg m e
/-- The code of an infinity; formats that lack it give the NaN (R50). -/
def Shape.infCode (s : Shape) (neg : Bool) : Nat :=
  if !s.inf || (neg && !s.signed) then s.nan
  else s.top + 1 + (if neg then 2 ^ (8 * s.wid - 1) else 0)
/-- The code of the largest finite value with a sign; an unsigned format gives +0 below zero (R57). -/
def Shape.maxCode (s : Shape) (neg : Bool) : Nat :=
  if neg then (if s.signed then s.top + 2 ^ (8 * s.wid - 1) else 0) else s.top
/-- The code of a zero (R50: no −0 outside the IEEE formats). -/
def Shape.zeroCode (s : Shape) (neg : Bool) : Nat := if neg && s.ieee then 2 ^ (8 * s.wid - 1) else 0

/-- Shift right with a round bit and a sticky bit: quotient, 0 exact, 1 below half, 2 half, 3 above half. -/
def shiftRem (m k : Nat) : Nat × Nat :=
  if m = 0 then (0, 0)
  else if Nat.log2 m + 2 < k then (0, 1)
  else
    let q := m >>> k
    let r := m - q <<< k
    let h := 2 ^ k
    (q, if r = 0 then 0 else if 2 * r < h then 1 else if 2 * r = h then 2 else 3)
/-- Whether a rounding mode (0 RN, 1 RZ, 2 RU, 3 RD) rounds the magnitude up. -/
def roundUp (mode : Nat) (neg : Bool) (q r : Nat) : Bool :=
  r != 0 && match mode with
    | 0 => r = 3 || (r = 2 && q % 2 = 1)
    | 1 => false
    | 2 => !neg
    | _ => neg
/-- Round m × 2^e to the precision of `s`, as if the exponent had no upper bound: new significand, exponent, inexact. -/
def Shape.roundMag (s : Shape) (mode : Nat) (neg : Bool) (m : Nat) (e : Int) : Nat × Int × Bool :=
  let p1 : Int := (s.prec - 1 : Nat)
  let q := max (((Nat.log2 m : Nat) : Int) + e - p1) (s.emin - p1)
  if q ≤ e then (m <<< (e - q).toNat, q, false)
  else
    let (a, r) := shiftRem m (q - e).toNat
    let a' := if roundUp mode neg a r then a + 1 else a
    if a' = 2 ^ s.prec then (2 ^ (s.prec - 1), q + 1, r != 0) else (a', q, r != 0)
/-- m × 2^q exceeds the largest finite value. -/
def Shape.exceeds (s : Shape) (m : Nat) (q : Int) : Bool :=
  let (tm, te) := s.mag s.top
  if q > te then m != 0 else if q = te then tm < m else decide (tm <<< (te - q).toNat < m)
/-- The code of a rounded finite magnitude. -/
def Shape.code (s : Shape) (neg : Bool) (m : Nat) (q : Int) : Nat :=
  let q0 := s.emin - (s.prec - 1 : Nat)
  let mag := if m < 2 ^ (s.prec - 1) then m
    else ((q - q0).toNat + 1) <<< (s.prec - 1) + (m - 2 ^ (s.prec - 1))
  if m = 0 then s.zeroCode neg else mag + (if neg then 2 ^ (8 * s.wid - 1) else 0)
/-- |m × 2^e| lies below the smallest normal value (R50: tininess before rounding). -/
def Shape.tiny (s : Shape) (m : Nat) (e : Int) : Bool := decide (((Nat.log2 m : Nat) : Int) + e < s.emin)
/-- An overflow in this mode delivers the infinity (R50). -/
def overflowsToInf (mode : Nat) (neg : Bool) : Bool :=
  match mode with | 0 => true | 1 => false | 2 => !neg | _ => neg

/-- `ovf(x, fmt, mode)`, which is `rnd(x, fmt, mode)` (R50, R56): the code and the flags. -/
def ovf (f : Fmt) (mode : Nat) (x : XVal) : Nat × Flags :=
  let s := f.shape
  match x with
  | .nan => (s.nan, 0)
  | .inf neg => if !s.inf || (neg && !s.signed) then (s.nan, fNV) else (s.infCode neg, 0)
  | .fin neg m e =>
    if m = 0 then (s.zeroCode neg, 0)
    else
      let (a, q, nx) := s.roundMag mode neg m e
      if neg && !s.signed then (if a = 0 then (0, fUF ||| fNX) else (s.nan, fNV))
      else if s.exceeds a q then
        (if overflowsToInf mode neg then s.infCode neg else s.maxCode neg, fOF ||| fNX)
      else (s.code neg a q, (if nx then fNX else 0) ||| (if nx && s.tiny m e then fUF else 0))
/-- `sat_f(x, fmt, mode)` (R56, R57). -/
def satF (f : Fmt) (mode : Nat) (x : XVal) : Nat × Flags :=
  let s := f.shape
  match x with
  | .nan => (s.nan, 0)
  | .inf neg => (s.maxCode neg, fSAT ||| fNX)
  | .fin neg m e =>
    if m = 0 then (s.zeroCode neg, 0)
    else
      let (a, q, _) := s.roundMag mode neg m e
      if neg && !s.signed then (0, if a = 0 then fUF ||| fNX else fSAT ||| fNX)
      else if s.exceeds a q then (s.maxCode neg, fSAT ||| fNX)
      else ovf f mode x
/-- The value of a code of a floating format. -/
def Fmt.value (f : Fmt) (c : Nat) : XVal := f.shape.value c
/-- RN_FP32 of an exact value, as a value again; no flags (R63). -/
def rn32 (x : XVal) : XVal := Fmt.fp32.value (ovf .fp32 0 x).1
/-- An integer, signed or unsigned, of `wid` bytes (R46). -/
def readInt (signed : Bool) (wid c : Nat) : Int := if signed then sextN c (8 * wid) else (c % 2 ^ (8 * wid) : Nat)

/-- −x. -/
def XVal.neg : XVal → XVal
  | .nan => .nan | .inf s => .inf (!s) | .fin s m e => .fin (!s) m e
def XVal.abs : XVal → XVal
  | .nan => .nan | .inf _ => .inf false | .fin _ m e => .fin false m e
def XVal.sign : XVal → Bool
  | .nan => false | .inf s => s | .fin s _ _ => s
def XVal.isZero : XVal → Bool
  | .fin _ 0 _ => true | _ => false
def XVal.isNaN : XVal → Bool
  | .nan => true | _ => false
def XVal.isInf : XVal → Bool
  | .inf _ => true | _ => false
/-- The exact value of an integer. -/
def XVal.ofInt (x : Int) : XVal := .fin (x < 0) x.natAbs 0
/-- x × 2^k. -/
def XVal.scale (k : Int) : XVal → XVal
  | .fin s m e => .fin s m (e + k) | x => x
/-- m × 2^e as an integer multiple of 2^b, for b ≤ e (0 for NaN and infinities). -/
def XVal.fix (b : Int) : XVal → Int
  | .fin s m e => let a : Int := (m <<< (e - b).toNat : Nat); if s then -a else a
  | _ => 0
/-- An integer multiple of 2^b; a zero gets the sign `z`. -/
def XVal.ofFix (b : Int) (z : Bool) (x : Int) : XVal := .fin (if x = 0 then z else decide (x < 0)) x.natAbs b
/-- The exact sum with its flags (R50-R53); `mode` decides the sign of an exact zero. -/
def XVal.add (mode : Nat) (x y : XVal) : XVal × Flags :=
  match x, y with
  | .nan, _ => (.nan, 0)
  | _, .nan => (.nan, 0)
  | .inf s, .inf t => if s = t then (.inf s, 0) else (.nan, fNV)
  | .inf s, _ => (.inf s, 0)
  | _, .inf t => (.inf t, 0)
  | .fin s m e, .fin t n g =>
    let b := min e g
    let z := if s = t then s else mode == 3
    (.ofFix b z ((XVal.fin s m e).fix b + (XVal.fin t n g).fix b), 0)
/-- The exact product with its flags (R52, R53). -/
def XVal.mul (x y : XVal) : XVal × Flags :=
  match x, y with
  | .nan, _ => (.nan, 0)
  | _, .nan => (.nan, 0)
  | .inf s, .inf t => (.inf (s != t), 0)
  | .inf s, .fin t m _ => if m = 0 then (.nan, fNV) else (.inf (s != t), 0)
  | .fin t m _, .inf s => if m = 0 then (.nan, fNV) else (.inf (s != t), 0)
  | .fin s m e, .fin t n g => (.fin (s != t) (m * n) (e + g), 0)
/-- a × b + c, one exact value (R141): 0 × ∞ raises NV even when c is NaN. -/
def XVal.fma (mode : Nat) (a b c : XVal) : XVal × Flags :=
  let (p, f) := a.mul b
  let (r, g) := p.add mode c
  (r, f ||| g)
/-- x < y for numbers that are not NaN; −0 equals +0. -/
def XVal.lt (x y : XVal) : Bool :=
  match x, y with
  | .nan, _ => false
  | _, .nan => false
  | .inf s, .inf t => s && !t
  | .inf s, _ => s
  | _, .inf t => !t
  | .fin s m e, .fin t n g => let b := min e g; decide ((XVal.fin s m e).fix b < (XVal.fin t n g).fix b)
/-- Equality of value; NaN is equal to nothing. -/
def XVal.eqv (x y : XVal) : Bool := !x.isNaN && !y.isNaN && !x.lt y && !y.lt x
/-- x below y, with −0 below +0 (VMIN, VMAX, R141). -/
def XVal.below (x y : XVal) : Bool := x.lt y || (x.isZero && y.isZero && x.sign && !y.sign)
/-- The larger and the smaller of two values; NaN if either is. -/
def XVal.maxv (x y : XVal) : XVal := if x.isNaN || y.isNaN then .nan else if x.below y then y else x
def XVal.minv (x y : XVal) : XVal := if x.isNaN || y.isNaN then .nan else if y.below x then y else x

/-- A positive rational n / d as a value: exact, or its first 130 bits and a sticky bit, which rounds alike. -/
def ratVal (neg : Bool) (n d : Nat) (e : Int) : XVal :=
  if n = 0 then .fin neg 0 0
  else
    let k := 130 + Nat.log2 d
    let q := (n <<< k) / d
    if q * d = n <<< k then .fin neg q (e - (k : Nat)) else .fin neg (2 * q + 1) (e - (k : Nat) - 1)
/-- The exact quotient with its flags (R52-R54, R141). -/
def XVal.div (x y : XVal) : XVal × Flags :=
  match x, y with
  | .nan, _ => (.nan, 0)
  | _, .nan => (.nan, 0)
  | .inf _, .inf _ => (.nan, fNV)
  | .inf s, .fin t _ _ => (.inf (s != t), 0)
  | .fin s _ _, .inf t => (.fin (s != t) 0 0, 0)
  | .fin s m e, .fin t n g =>
    if n = 0 then (if m = 0 then (.nan, fNV) else (.inf (s != t), fDZ))
    else (ratVal (s != t) m n (e - g), 0)
/-- The integer square root by bits from 2^k down: structural, so that the kernel evaluates it. -/
def isqrtBits : Nat → Nat → Nat → Nat
  | 0, _, r => r
  | k + 1, n, r =>
    let r' := r + 2 ^ k
    if r' * r' ≤ n then isqrtBits k n r' else isqrtBits k n r
/-- floor(√n). -/
def isqrt (n : Nat) : Nat := isqrtBits (Nat.log2 n / 2 + 1) n 0
/-- The exact square root of m × 2^e, with a sticky bit where it is not exact. -/
def sqrtVal (m : Nat) (e : Int) : XVal :=
  let (m, e) := if e % 2 = 0 then (m, e) else (2 * m, e - 1)
  let n := m <<< 260
  let r := isqrt n
  if r * r = n then .fin false r (e / 2 - 130) else .fin false (2 * r + 1) (e / 2 - 131)
/-- Round to an integer in a mode: the integer magnitude with its sign, and whether it differs (R58, R141). -/
def XVal.toInteger (mode : Nat) (neg : Bool) (m : Nat) (e : Int) : Nat × Bool :=
  if 0 ≤ e then (m <<< e.toNat, false)
  else
    let (q, r) := shiftRem m (-e).toNat
    (if roundUp mode neg q r then q + 1 else q, r != 0)
/-- The range of an integer type. -/
def intMin (signed : Bool) (wid : Nat) : Int := if signed then -(2 ^ (8 * wid - 1) : Nat) else 0
def intMax (signed : Bool) (wid : Nat) : Int := if signed then (2 ^ (8 * wid - 1) : Nat) - 1 else (2 ^ (8 * wid) : Nat) - 1
/-- Conversion of a floating value to an integer type (R58). -/
def toIntType (signed : Bool) (wid mode : Nat) (x : XVal) : Nat × Flags :=
  let lo := intMin signed wid
  let hi := intMax signed wid
  match x with
  | .nan => (0, fNV)
  | .inf s => (truncI (if s then lo else hi) (8 * wid), fSAT)
  | .fin s m e =>
    if ((Nat.log2 m : Nat) : Int) + e > 70 then (truncI (if s then lo else hi) (8 * wid), if m = 0 then 0 else fSAT)
    else
      let (q, nx) := XVal.toInteger mode s m e
      let i : Int := if s then -(q : Int) else q
      let c := max lo (min hi i)
      (truncI c (8 * wid), (if nx then fNX else 0) ||| (if c = i then 0 else fSAT))
/-- Delivery of an exact integer to an integer type (R137, `vout`). -/
def intOut (sat : Bool) (signed : Bool) (wid : Nat) (x : Int) : Nat × Flags :=
  let lo := intMin signed wid
  let hi := intMax signed wid
  if lo ≤ x && x ≤ hi then (truncI x (8 * wid), 0)
  else if sat then (truncI (if x < lo then lo else hi) (8 * wid), fSAT)
  else (truncI x (8 * wid), 0)

/-- `blk_dec(q, S, fmt, dst, mode)` (R48). -/
def blkDec (q S : Nat) (f dst : Fmt) (mode : Nat) : Nat × Flags :=
  match f.value q with
  | .nan => (dst.shape.nan, 0)
  | v => if S = 0xFF then (dst.shape.nan, 0) else ovf dst mode (v.scale ((S : Int) - 127))

/-- floor(log2 |x|) of a finite non-zero value. -/
def XVal.ilog : XVal → Int
  | .fin _ m e => ((Nat.log2 m : Nat) : Int) + e
  | _ => 0
/-- The exponent of the largest finite value of a binary8 format (R45). -/
def emaxOf (f : Fmt) : Int := (f.value f.shape.top).ilog
/-- One candidate of the quantiser: the codes, their flags and the exact error, in units of 2^-2560 (R59). -/
def quantCandidate (f : Fmt) (x : List XVal) (e : Int) : List Nat × Flags × Int :=
  x.foldr (fun v (qs, fl, err) =>
    let (q, g) := satF f 0 (v.scale (-e))
    let d := ((f.value q).scale e).fix (-1280) - v.fix (-1280)
    (q :: qs, fl ||| g, err + d * d)) ([], 0, 0)
/-- `quantise(x, fmt)` (R59): scale byte, codes, flags. -/
def quantise (f : Fmt) (x : List XVal) : Nat × List Nat × Flags :=
  if x.any (fun v => v.isNaN || v.isInf) then (0xFF, x.map fun _ => 0, if x.any XVal.isInf then fNV else 0)
  else
    let amax := x.foldl (fun a v => if a.lt v.abs then v.abs else a) (.fin false 0 0)
    if amax.isZero then (0, x.map fun _ => 0, 0)
    else
      let e0 := amax.ilog - emaxOf f
      let cs := [e0 + 1, e0, e0 - 1].filter fun e => decide (-127 ≤ e && e ≤ 127)
      let cs := if cs.isEmpty then [if e0 < 0 then -127 else 127] else cs
      let tried := cs.map fun e => (e, quantCandidate f x e)
      match tried with
      | [] => (0, [], 0)
      | t :: ts =>
        let (e, q, g, _) := ts.foldl (fun b c => if c.2.2.2 < b.2.2.2 then c else b) t
        ((e + 127).toNat, q, g)

/-- The exact chunk sum of R61: products in order, with their flags. -/
def chunkSum (ab : List (XVal × XVal)) : XVal × Flags :=
  let ps := ab.map fun (a, b) => a.mul b
  let fl := ps.foldl (fun f p => f ||| p.2) 0
  let vs := ps.map Prod.fst
  let up := vs.any fun v => v.isInf && !v.sign
  let dn := vs.any fun v => v.isInf && v.sign
  if up && dn then (.nan, fl ||| fNV)
  else if vs.any XVal.isNaN then (.nan, fl)
  else
    if up || dn then (.inf dn, fl)
    else
      let b := vs.foldl (fun b v => match v with | .fin _ _ e => min b e | _ => b) (0 : Int)
      let z := !vs.isEmpty && vs.all fun v => v.isZero && v.sign
      (.ofFix b z (vs.foldl (fun t v => t + v.fix b) 0), fl)
/-- One step of `chunk_acc` (R60): acc and s in the accumulator format. -/
def chunkStep (acc : Fmt) (p : Nat) (ab : List (XVal × XVal)) : Nat × Flags :=
  let (s, f) := chunkSum ab
  let (r, g) := (acc.value p).add 0 s
  let (c, h) := ovf acc 0 r
  (c, f ||| g ||| h)

/-- The table of R71. -/
def epsTable : List Nat :=
  [0, 40767, 81596, 122548, 163690, 205086, 246801, 288913, 331495, 374632, 418413, 462937, 508308, 554657, 602113,
   650838, 701008, 752838, 806577, 862525, 921040, 982579, 1047699, 1117135, 1191852, 1273166, 1362957, 1464036,
   1580912, 1721586, 1902567, 2168917, 2799698]
/-- `mix` of R70. -/
def epsMix (v : Nat) : Nat :=
  let v := v ^^^ (v >>> 15)
  let v := (v * 0x6B43A9B5) % 2 ^ 32
  let v := v ^^^ (v >>> 12)
  let v := (v * 0x8E1D2C4F) % 2 ^ 32
  v ^^^ (v >>> 15)
/-- `eps_hash(seed, m, index)` (R70). -/
def epsHash (seed m index : Nat) : XVal :=
  let v := epsMix ((index % 2 ^ 32) ^^^ (seed % 2 ^ 32))
  let h := epsMix (v ^^^ ((m % 2 ^ 32) * 0x9E3779B1) % 2 ^ 32)
  let j := bits h 30 26
  let t := epsTable.getD j 0
  let mag := t + ((epsTable.getD (j + 1) 0 - t) * bits h 25 10) >>> 16
  if mag = 0 then .fin false 0 0 else .fin (bit h 31) mag (-20)

/-- The activation table's value at x (R69); `seg` gives a_i and c_i of segment i. DESIGN CHOICE (log 48): an infinite x under a slope
that is NaN gives an infinity with the sign of x. -/
def activate (acc : Fmt) (lo hi : XVal) (seg : Nat → XVal × XVal) (x : XVal) : Nat × Flags :=
  let s := acc.shape
  match x with
  | .nan => (s.nan, 0)
  | .inf neg =>
    let (a, c) := seg (if neg then 0 else 63)
    if a.isZero then ((ovf acc 0 c).1, 0) else (s.infCode (if a.isNaN then neg else a.sign != neg), 0)
  | v =>
    let f := fun (y : XVal) => y.fix (-1280)
    let i := max 0 (min 63 (64 * (f v - f lo) / (f hi - f lo)))
    let (a, c) := seg i.toNat
    let (r, g) := XVal.fma 0 a v c
    let (q, h) := ovf acc 0 r
    (q, g ||| h)

end Sys2Proof
end

