-- ==== Sys2Proof/Machine/Functions.lean ====
section
/-! DEFINITION. The functions of R63-R68: exact results for sources of 16 bits or fewer (through fixed-point values far
more precise than any rounding needs, with a sticky bit), the FP32 methods step by step, the special operands. -/
namespace Sys2Proof

/-- Fixed-point precision of the exact functions, in bits. -/
def fxBits : Nat := 512
/-- Σ from k = 1 up to n of 2^fxBits / (k × 2^k): ln 2. -/
def ln2Sum : Nat → Nat
  | 0 => 0
  | n + 1 => ln2Sum n + (2 ^ fxBits) / ((n + 1) * 2 ^ (n + 1))
/-- ln 2 in fixed point. -/
def ln2Fx : Nat := ln2Sum fxBits
/-- Σ of t^k / k! from the term `term` (number k) on: n more terms. -/
def expSeries (t : Nat) : Nat → Nat → Nat → Nat
  | 0, _, _ => 0
  | n + 1, k, term => term + expSeries t n (k + 1) ((term * t) >>> fxBits / (k + 1))
/-- 2^f for a fixed-point f in [0, 1), in fixed point. -/
def exp2Frac (f : Nat) : Nat := expSeries ((f * ln2Fx) >>> fxBits) 110 0 (2 ^ fxBits)
/-- Σ of z^(2k+1) / (2k+1), n terms: artanh. -/
def artanhSeries (z2 : Nat) : Nat → Nat → Nat → Nat
  | 0, _, _ => 0
  | n + 1, k, pow => pow / (2 * k + 1) + artanhSeries z2 n (k + 1) ((pow * z2) >>> fxBits)
/-- log2 of a rational f = a / b in [1, 2), in fixed point. -/
def log2Fx (a b : Nat) : Nat :=
  let z := ((a - b) <<< fxBits) / (a + b)
  ((2 * artanhSeries ((z * z) >>> fxBits) 170 0 z) <<< fxBits) / ln2Fx
/-- A fixed-point value that is not exact: a sticky bit stands below its last bit. -/
def stickyFx (neg : Bool) (x : Nat) (e : Int) : XVal := .fin neg (2 * x + 1) (e - 1)

/-- 2^x exactly, of a finite x (R63, R65); far out of every range a power of two stands for it. -/
def exactExp2 (neg : Bool) (m : Nat) (e : Int) : XVal :=
  if m = 0 then .fin false 1 0
  else if 17 < ((Nat.log2 m : Nat) : Int) + e then .fin false 1 (if neg then -70000 else 70000)
  else
    let x : Int := XVal.fix (-(fxBits : Int)) (.fin neg m (max e (-(fxBits : Int))))
    let n := x / (2 ^ fxBits : Nat)
    let f := (x % (2 ^ fxBits : Nat)).toNat
    if f = 0 then .fin false 1 n else stickyFx false (exp2Frac f) (n - (fxBits : Int))
/-- log2 of m × 2^e > 0 (R63, R65). -/
def exactLog2 (m : Nat) (e : Int) : XVal :=
  let k := Nat.log2 m
  let i : Int := (k : Int) + e
  if m = 2 ^ k then XVal.ofInt i
  else
    let x : Int := i * (2 ^ fxBits : Nat) + (log2Fx m (2 ^ k) : Nat)
    if 0 ≤ x then stickyFx false x.toNat (-(fxBits : Int)) else stickyFx true (-x - 1).toNat (-(fxBits : Int))
/-- 1/√(m × 2^e), m > 0 (R63, R66). -/
def exactRsqrt (m : Nat) (e : Int) : XVal :=
  let (m, e) := if e % 2 = 0 then (m, e) else (2 * m, e - 1)
  let k := 260 + Nat.log2 m
  let t := isqrt (2 ^ (2 * k) / m)
  if t * t * m = 2 ^ (2 * k) then .fin false t (-(e / 2) - (k : Int)) else stickyFx false t (-(e / 2) - (k : Int))
/-- tanh of a finite non-zero magnitude (R63, R67). -/
def exactTanh (neg : Bool) (m : Nat) (e : Int) : XVal :=
  let g := ((Nat.log2 m : Nat) : Int) + e
  if g < -64 then .fin neg (m <<< 200 - 1) (e - 200)
  else if 9 < g then .fin neg (2 ^ 300 - 1) (-300)
  else
    let x := (XVal.fix (-(fxBits : Int)) (.fin false m (max e (-(fxBits : Int))))).toNat
    let y := (2 * x) <<< fxBits / ln2Fx
    let w := exp2Frac (y % 2 ^ fxBits) <<< (y >>> fxBits)
    stickyFx neg (((w - 2 ^ fxBits) <<< fxBits) / (w + 2 ^ fxBits)) (-(fxBits : Int))

/-- FP32 value of a coefficient (R68). -/
def coef (c : Nat) : XVal := Fmt.fp32.value c
/-- One Horner step RN_FP32(h × r + c). -/
def horner (r h : XVal) (c : Nat) : XVal := rn32 (XVal.fma 0 h r (coef c)).1
/-- E[j] of R65. -/
def tabE (j : Nat) : XVal := rn32 (exactExp2 false j (-6))
/-- G[j] of R65. -/
def tabG (j : Nat) : XVal := rn32 (ratVal false 64 (64 + j) 0)
/-- L[j] of R65. -/
def tabL (j : Nat) : XVal := rn32 (exactLog2 (64 + j) (-6))
/-- H[j] of R66. -/
def tabH (j : Nat) : XVal := rn32 (ratVal false 32 (32 + j) 0)
/-- Q[j] of R66. -/
def tabQ (j : Nat) : XVal := rn32 (exactRsqrt (32 + j) (-5))

/-- VEX2 of FP32 (R65): code and flags. -/
def exp2Method (mode : Nat) (neg : Bool) (m : Nat) (e : Int) : Nat × Flags :=
  let x := XVal.fin neg m e
  if !neg && !(x.lt (.fin false 128 0)) then ovf .fp32 mode (.fin false 1 1000)
  else if x.lt (.fin true 151 0) then ovf .fp32 mode (.fin false 1 (-200))
  else
    let (q, _) := XVal.toInteger 0 neg m (e + 6)
    let n : Int := if neg then -(q : Int) else q
    let j := n % 64
    let r := (x.add 0 (XVal.fin (decide (0 < n)) n.natAbs (-6))).1
    let h := horner r (coef 0x3C1D955B) 0x3D635847
    let h := horner r h 0x3E75FDF0
    let h := horner r h 0x3F317218
    let h := rn32 (h.mul r).1
    let t := tabE j.toNat
    let v := (XVal.fma 0 t h t).1
    ovf .fp32 mode (v.scale ((n - j) / 64))
/-- m and f of R65: |x| = 2^m × f with f in [1, 2), f as an exact value. -/
def normal (m : Nat) (e : Int) : Int × XVal :=
  let k : Int := (Nat.log2 m : Nat)
  (k + e, .fin false m (-k))
/-- floor((f − 1) × 2^s). -/
def segment (f : XVal) (s : Int) : Nat :=
  ((f.fix (-200) - (2 ^ 200 : Nat)) / (2 ^ (200 - s).toNat : Nat)).toNat
/-- RN_FP32(f × g − 1), fused. -/
def fusedM1 (f g : XVal) : XVal := rn32 (XVal.fma 0 f g (.fin true 1 0)).1
/-- VLG2 of positive FP32 (R65). -/
def log2Method (mode : Nat) (m : Nat) (e : Int) : Nat × Flags :=
  let (k, f) := normal m e
  let j := segment f 6
  let r := fusedM1 f (tabG j)
  let h := horner r (coef 0xBEB8AA3B) 0x3EF6384F
  let h := horner r h 0xBF38AA3B
  let h := horner r h 0x3FB8AA3B
  let s := ((XVal.ofInt k).add 0 (tabL j)).1
  let v := (XVal.fma 0 h r s).1
  ovf .fp32 mode (if v.isZero then .fin false 0 0 else v)
/-- VRCP of FP32 (R66). -/
def rcpMethod (mode : Nat) (neg : Bool) (m : Nat) (e : Int) : Nat × Flags :=
  let (k, f) := normal m e
  let j := segment f 6
  let r := fusedM1 f (tabG j)
  let h := horner r (coef 0x3F800000) 0xBF800000
  let h := horner r h 0x3F800000
  let h := horner r h 0xBF800000
  let h := horner r h 0x3F800000
  let v := ((tabG j).mul h).1.scale (-k)
  ovf .fp32 mode (if neg then v.neg else v)
/-- VRSQ of positive FP32 (R66). -/
def rsqMethod (mode : Nat) (m : Nat) (e : Int) : Nat × Flags :=
  let (k, f) := normal m e
  let (k, f) := if k % 2 = 1 then (k - 1, f.scale 1) else (k, f)
  let j := segment f 5
  let r := fusedM1 f (tabH j)
  let h := [0x3E8C0000, 0xBEA00000, 0x3EC00000, 0xBF000000, 0x3F800000].foldl (horner r) (coef 0xBE7C0000)
  ovf .fp32 mode (((tabQ j).mul h).1.scale (-(k / 2)))
/-- VTNH of FP32 (R67). -/
def tanhMethod (mode : Nat) (neg : Bool) (m : Nat) (e : Int) : Nat × Flags :=
  let x := XVal.fin neg m e
  let z := x.abs
  if z.lt (.fin false 1 (-12)) then ((ovf .fp32 0 x).1, fNX)
  else if !(z.lt (.fin false 10 0)) then ((ovf .fp32 0 (.fin neg 1 0)).1, fNX)
  else if z.lt (.fin false 1 (-2)) then
    let s := rn32 (x.mul x).1
    let h := horner s (coef 0x3CB327A4) 0xBD5D0DD1
    let h := horner s h 0x3E088889
    let h := horner s h 0xBEAAAAAB
    let u := rn32 (x.mul s).1
    ovf .fp32 mode (XVal.fma 0 u h x).1
  else
    let u := rn32 (z.mul (coef 0x4038AA3B)).1
    let w := match u with
      | .fin s a b => Fmt.fp32.value (exp2Method 0 s a b).1
      | v => v
    let q := rn32 ((XVal.fin false 2 0).div (rn32 (w.add 0 (.fin false 1 0)).1)).1
    let v := ((XVal.fin false 1 0).add 0 q.neg).1
    ovf .fp32 mode (if neg then v.neg else v)

/-- The functions of one operand that R63 and R64 define. -/
inductive Fun where | ex2 | lg2 | rcp | rsq | tnh | sqrt
  deriving DecidableEq, Repr

/-- The exact or FP32 value before the final delivery of R63, with the flags raised so far. `src32` tells the FP32
methods from the exact ones. -/
def Fun.eval (f : Fun) (src32 : Bool) (mode : Nat) (x : XVal) : XVal × Flags :=
  let back := fun (r : Nat × Flags) => (Fmt.fp32.value r.1, r.2)
  match f, x with
  | _, .nan => (.nan, 0)
  | .ex2, .inf s => (if s then .fin false 0 0 else .inf false, 0)
  | .ex2, .fin s m e => if m = 0 then (.fin false 1 0, 0) else if src32 then back (exp2Method mode s m e) else (exactExp2 s m e, 0)
  | .lg2, .inf s => if s then (.nan, fNV) else (.inf false, 0)
  | .lg2, .fin s m e =>
    if m = 0 then (.inf true, fDZ) else if s then (.nan, fNV)
    else if src32 then back (log2Method mode m e) else (exactLog2 m e, 0)
  | .rcp, .inf s => (.fin s 0 0, 0)
  | .rcp, .fin s m e =>
    if m = 0 then (.inf s, fDZ) else if src32 then back (rcpMethod mode s m e) else (ratVal s 1 m (-e), 0)
  | .rsq, .inf s => if s then (.nan, fNV) else (.fin false 0 0, 0)
  | .rsq, .fin s m e =>
    if m = 0 then (.inf s, fDZ) else if s then (.nan, fNV)
    else if src32 then back (rsqMethod mode m e) else (exactRsqrt m e, 0)
  | .tnh, .inf s => (.fin s 1 0, 0)
  | .tnh, .fin s m e => if m = 0 then (x, 0) else if src32 then back (tanhMethod mode s m e) else (exactTanh s m e, 0)
  | .sqrt, .inf s => if s then (.nan, fNV) else (.inf false, 0)
  | .sqrt, .fin s m e => if m = 0 then (x, 0) else if s then (.nan, fNV) else (sqrtVal m e, 0)

/-- σ of R49 from the ρ code of a pair; computing it raises no flag. -/
def sigmaOf (f : Fmt) (rho : Nat) : XVal :=
  match f.value rho with
  | .nan => .nan
  | .inf s => if s then .fin false 0 0 else .inf false
  | .fin s m e => rn32 (exactExp2 s m e)
/-- w of R72: μ + σ × ε rounded once to the array format, or μ alone. -/
def pairWeight (b : Fmt) (mu sigma : XVal) (eps : Option XVal) : Nat × Flags :=
  match eps with
  | none => satF b 0 mu
  | some v =>
    if v.isZero then satF b 0 mu
    else if mu.isNaN || sigma.isNaN then (b.shape.nan, 0)
    else
      let (r, g) := XVal.fma 0 sigma v mu
      let (c, h) := satF b 0 r
      (c, g ||| h)

end Sys2Proof
end

