-- ==== Sys2Proof/Syntax.lean ====
section
/-! DEFINITION. Abstract syntax: the operation word's formats (R84-R94) and the one inductive of everything the
opcode table lists: 160 operations of the six slots and 88 events of the part's other agents. -/
namespace Sys2Proof

/-- The six slots, in the order of R73. -/
inductive Slot where | s | v0 | v1 | m | c0 | c1
  deriving DecidableEq, Repr
/-- What every operation word begins with (R84): guard clock and stage predicate; and the slot it stands in. -/
structure Head where
  slot : Slot
  gk : BitVec 5
  gs : BitVec 3
  deriving DecidableEq, Repr
/-- How a register write forms its new value: CSRW, CSRS, CSRC (R129). -/
inductive CsrOp where | write | set | clear
  deriving DecidableEq, Repr
/-- The remote memory accesses of a host or peer (R315, R389). -/
inductive RmaOp where | read (n : Nat) | write | compareSwap (expect desired : Word)
  deriving DecidableEq, Repr
/-- R87. -/
structure SR where
  sd : BitVec 6
  sa : BitVec 6
  sb : BitVec 6
  sc : BitVec 6
  fn : BitVec 8
  lo : BitVec 16
  deriving DecidableEq, Repr
/-- R88. -/
structure SI where
  sd : BitVec 6
  sa : BitVec 6
  fn : BitVec 4
  imm : BitVec 32
  deriving DecidableEq, Repr
/-- R89. -/
structure BR where
  sa : BitVec 6
  cc : BitVec 3
  ex : BitVec 7
  imm : BitVec 32
  deriving DecidableEq, Repr
/-- R90, layout V2. -/
structure V2 where
  vd : BitVec 12
  va : BitVec 12
  vb : BitVec 12
  fp : BitVec 2
  ha : BitVec 1
  hb : BitVec 1
  rm : BitVec 3
  fn : BitVec 5
  deriving DecidableEq, Repr
/-- R90, layout V3. -/
structure V3 where
  vd : BitVec 12
  va : BitVec 12
  vb : BitVec 12
  fp : BitVec 2
  ha : BitVec 1
  vc : BitVec 9
  deriving DecidableEq, Repr
/-- R90, layout VI. -/
structure VI where
  vd : BitVec 12
  imm : BitVec 32
  fp : BitVec 2
  lo : BitVec 2
  deriving DecidableEq, Repr
/-- R91. -/
structure MF where
  ri : BitVec 8
  acc : BitVec 1
  pert : BitVec 1
  trb : BitVec 1
  bias : BitVec 1
  act : BitVec 1
  atab : BitVec 2
  rq : BitVec 1
  rr : BitVec 12
  sa : BitVec 6
  sb : BitVec 6
  lo : BitVec 8
  deriving DecidableEq, Repr
/-- R92. -/
structure CF where
  rr : BitVec 12
  sa : BitVec 6
  sb : BitVec 6
  sc : BitVec 6
  sd : BitVec 6
  hr : BitVec 1
  sco : BitVec 3
  sz : BitVec 4
  bypass : BitVec 1
  noAlloc : BitVec 1
  lo : BitVec 2
  deriving DecidableEq, Repr
/-- R93. -/
structure WF where
  st : BitVec 6
  dl : BitVec 8
  esc : BitVec 1
  sa : BitVec 6
  sb : BitVec 6
  imm : BitVec 21
  deriving DecidableEq, Repr
/-- R94. -/
structure XF where
  sd : BitVec 6
  sa : BitVec 6
  csr : BitVec 12
  imm : BitVec 24
  deriving DecidableEq, Repr

/-- Every row of the opcode table. The operations of R95 come first, each with the fields of its format; then the
events: steps of an engine, the supervisor, the dispatcher, the host or the board, each with what names it (a core, a
cluster, a queue, an entry's number, the data that come from outside). -/
inductive Instr where
  /-- NOP, 0x00 (R119); bits 55:0 are res-i. -/
  | nop (x : Slot) (rest : BitVec 56)
  /-- ADD, 0x01 (R114). -/
  | add (h : Head) (f : SR)
  /-- SUB, 0x02 (R114). -/
  | sub (h : Head) (f : SR)
  /-- MUL, 0x03 (R114). -/
  | mul (h : Head) (f : SR)
  /-- MULH, 0x04 (R114). -/
  | mulh (h : Head) (f : SR)
  /-- MULHN, 0x05 (R114). -/
  | mulhn (h : Head) (f : SR)
  /-- DIV, 0x06 (R114). -/
  | div (h : Head) (f : SR)
  /-- DIVN, 0x07 (R114). -/
  | divn (h : Head) (f : SR)
  /-- REM, 0x08 (R114). -/
  | rem (h : Head) (f : SR)
  /-- REMN, 0x09 (R114). -/
  | remn (h : Head) (f : SR)
  /-- AND, 0x0A (R114). -/
  | and (h : Head) (f : SR)
  /-- OR, 0x0B (R114). -/
  | or (h : Head) (f : SR)
  /-- XOR, 0x0C (R114). -/
  | xor (h : Head) (f : SR)
  /-- ANDN, 0x0D (R114). -/
  | andn (h : Head) (f : SR)
  /-- SHL, 0x0E (R114). -/
  | shl (h : Head) (f : SR)
  /-- SHR, 0x0F (R114). -/
  | shr (h : Head) (f : SR)
  /-- SRA, 0x10 (R114). -/
  | sra (h : Head) (f : SR)
  /-- MIN, 0x11 (R114). -/
  | min (h : Head) (f : SR)
  /-- MAX, 0x12 (R114). -/
  | max (h : Head) (f : SR)
  /-- MINN, 0x13 (R114). -/
  | minn (h : Head) (f : SR)
  /-- MAXN, 0x14 (R114). -/
  | maxn (h : Head) (f : SR)
  /-- SEQ, 0x15 (R114). -/
  | seq (h : Head) (f : SR)
  /-- SNE, 0x16 (R114). -/
  | sne (h : Head) (f : SR)
  /-- SLT, 0x17 (R114). -/
  | slt (h : Head) (f : SR)
  /-- SLTN, 0x18 (R114). -/
  | sltn (h : Head) (f : SR)
  /-- SEL, 0x19 (R114). -/
  | sel (h : Head) (f : SR)
  /-- CLZ, 0x1A (R114). -/
  | clz (h : Head) (f : SR)
  /-- POPC, 0x1B (R114). -/
  | popc (h : Head) (f : SR)
  /-- ADDI, 0x20 (R115). -/
  | addi (h : Head) (f : SI)
  /-- ANDI, 0x21 (R115). -/
  | andi (h : Head) (f : SI)
  /-- ORI, 0x22 (R115). -/
  | ori (h : Head) (f : SI)
  /-- XORI, 0x23 (R115). -/
  | xori (h : Head) (f : SI)
  /-- SHLI, 0x24 (R115). -/
  | shli (h : Head) (f : SI)
  /-- SHRI, 0x25 (R115). -/
  | shri (h : Head) (f : SI)
  /-- SRAI, 0x26 (R115). -/
  | srai (h : Head) (f : SI)
  /-- SLTI, 0x27 (R115). -/
  | slti (h : Head) (f : SI)
  /-- SLTNI, 0x28 (R115). -/
  | sltni (h : Head) (f : SI)
  /-- LI, 0x29 (R115). -/
  | li (h : Head) (f : SI)
  /-- LIH, 0x2A (R115). -/
  | lih (h : Head) (f : SI)
  /-- ADDX, 0x2C (R115). -/
  | addx (h : Head) (f : SI)
  /-- LDS, 0x2D (R116). -/
  | lds (h : Head) (f : SI)
  /-- STS, 0x2E (R116). -/
  | sts (h : Head) (f : SI)
  /-- MPW, 0x2F (R118). -/
  | mpw (h : Head) (f : SR)
  /-- BR, 0x30 (R121). -/
  | br (h : Head) (f : BR)
  /-- JMP, 0x31 (R121). -/
  | jmp (h : Head) (f : BR)
  /-- JMPR, 0x32 (R121). -/
  | jmpr (h : Head) (f : BR)
  /-- CALL, 0x33 (R121). -/
  | call (h : Head) (f : BR)
  /-- CALLR, 0x34 (R121). -/
  | callr (h : Head) (f : BR)
  /-- RET, 0x35 (R121). -/
  | ret (h : Head) (f : BR)
  /-- LOOP, 0x36 (R124). -/
  | loop (h : Head) (f : BR)
  /-- LPSET, 0x37 (R123). -/
  | lpset (h : Head) (f : BR)
  /-- YLD, 0x38 (R126). -/
  | yld (h : Head) (f : BR)
  /-- END, 0x39 (R127). -/
  | endOp (h : Head) (f : BR)
  /-- CSRR, 0x40 (R129). -/
  | csrr (h : Head) (f : XF)
  /-- CSRW, 0x41 (R129). -/
  | csrw (h : Head) (f : XF)
  /-- CSRS, 0x42 (R129). -/
  | csrs (h : Head) (f : XF)
  /-- CSRC, 0x43 (R129). -/
  | csrc (h : Head) (f : XF)
  /-- TRAP, 0x44 (R130). -/
  | trap (h : Head) (f : XF)
  /-- ERET, 0x45 (R131). -/
  | eret (h : Head) (f : XF)
  /-- CHK, 0x46 (R132). -/
  | chk (h : Head) (f : SR)
  /-- TBR, 0x47 (R133). -/
  | tbr (h : Head) (f : XF)
  /-- CLKD, 0x50 (R187). -/
  | clkd (h : Head) (f : XF)
  /-- CLKE, 0x51 (R188). -/
  | clke (h : Head) (f : XF)
  /-- WHEN, 0x52 (R189). -/
  | when (h : Head) (f : V2)
  /-- MRG, 0x53 (R190). -/
  | mrg (h : Head) (f : V3)
  /-- PMRG, 0x54 (R191). -/
  | pmrg (h : Head) (f : V2)
  /-- DLYR, 0x55 (R194). -/
  | dlyr (h : Head) (f : SR)
  /-- DLYW, 0x56 (R193). -/
  | dlyw (h : Head) (f : SR)
  /-- INST, 0x57 (R195). -/
  | inst (h : Head) (f : XF)
  /-- CHRD, 0x58 (R199). -/
  | chrd (h : Head) (f : WF)
  /-- CHRDY, 0x59 (R199). -/
  | chrdy (h : Head) (f : WF)
  /-- CHWR, 0x5A (R197). -/
  | chwr (h : Head) (f : WF)
  /-- ABSN, 0x5B (R198). -/
  | absn (h : Head) (f : XF)
  /-- BARA, 0x60 (R201). -/
  | bara (h : Head) (f : WF)
  /-- BARW, 0x61 (R202). -/
  | barw (h : Head) (f : WF)
  /-- BAR, 0x62 (R202). -/
  | bar (h : Head) (f : WF)
  /-- BARX, 0x63 (R203). -/
  | barx (h : Head) (f : WF)
  /-- LTAR, 0x64 (R204). -/
  | ltar (h : Head) (f : WF)
  /-- LTIN, 0x65 (R204). -/
  | ltin (h : Head) (f : WF)
  /-- LTWT, 0x66 (R204). -/
  | ltwt (h : Head) (f : WF)
  /-- DRN, 0x67 (R205). -/
  | drn (h : Head) (f : WF)
  /-- WAITC, 0x68 (R206). -/
  | waitc (h : Head) (f : WF)
  /-- SLEEP, 0x69 (R207). -/
  | sleep (h : Head) (f : WF)
  /-- PWRA, 0x6A (R208). -/
  | pwra (h : Head) (f : WF)
  /-- PWRR, 0x6B (R208). -/
  | pwrr (h : Head) (f : WF)
  /-- CPOST, 0x6C (R209). -/
  | cpost (h : Head) (f : WF)
  /-- AADD, 0x70 (R210). -/
  | aadd (h : Head) (f : SR)
  /-- AMIN, 0x71 (R210). -/
  | amin (h : Head) (f : SR)
  /-- AMAX, 0x72 (R210). -/
  | amax (h : Head) (f : SR)
  /-- AAND, 0x73 (R210). -/
  | aand (h : Head) (f : SR)
  /-- AOR, 0x74 (R210). -/
  | aor (h : Head) (f : SR)
  /-- AXOR, 0x75 (R210). -/
  | axor (h : Head) (f : SR)
  /-- AADDR, 0x76 (R210). -/
  | aaddr (h : Head) (f : SR)
  /-- AXCH, 0x77 (R210). -/
  | axch (h : Head) (f : SR)
  /-- ACAS, 0x78 (R210). -/
  | acas (h : Head) (f : SR)
  /-- VADD, 0x80 (R141). -/
  | vadd (h : Head) (f : V2)
  /-- VSUB, 0x81 (R141). -/
  | vsub (h : Head) (f : V2)
  /-- VMUL, 0x82 (R141). -/
  | vmul (h : Head) (f : V2)
  /-- VFMA, 0x83 (R141). -/
  | vfma (h : Head) (f : V3)
  /-- VFMS, 0x84 (R141). -/
  | vfms (h : Head) (f : V3)
  /-- VMIN, 0x85 (R141). -/
  | vmin (h : Head) (f : V2)
  /-- VMAX, 0x86 (R141). -/
  | vmax (h : Head) (f : V2)
  /-- VABS, 0x87 (R141). -/
  | vabs (h : Head) (f : V2)
  /-- VNEG, 0x88 (R141). -/
  | vneg (h : Head) (f : V2)
  /-- VCMP, 0x89 (R146). -/
  | vcmp (h : Head) (f : V2)
  /-- VSEL, 0x8A (R147). -/
  | vsel (h : Head) (f : V3)
  /-- VCVT, 0x8B (R145). -/
  | vcvt (h : Head) (f : V2)
  /-- VRND, 0x8C (R141). -/
  | vrnd (h : Head) (f : V2)
  /-- VDIV, 0x8D (R141). -/
  | vdiv (h : Head) (f : V2)
  /-- VSQRT, 0x8E (R142). -/
  | vsqrt (h : Head) (f : V2)
  /-- VRCP, 0x8F (R142). -/
  | vrcp (h : Head) (f : V2)
  /-- VRSQ, 0x90 (R142). -/
  | vrsq (h : Head) (f : V2)
  /-- VEX2, 0x91 (R142). -/
  | vex2 (h : Head) (f : V2)
  /-- VLG2, 0x92 (R142). -/
  | vlg2 (h : Head) (f : V2)
  /-- VTNH, 0x93 (R142). -/
  | vtnh (h : Head) (f : V2)
  /-- VIADD, 0x94 (R143). -/
  | viadd (h : Head) (f : V2)
  /-- VISUB, 0x95 (R143). -/
  | visub (h : Head) (f : V2)
  /-- VIMUL, 0x96 (R143). -/
  | vimul (h : Head) (f : V2)
  /-- VAND, 0x97 (R144). -/
  | vand (h : Head) (f : V2)
  /-- VOR, 0x98 (R144). -/
  | vor (h : Head) (f : V2)
  /-- VXOR, 0x99 (R144). -/
  | vxor (h : Head) (f : V2)
  /-- VSHL, 0x9A (R144). -/
  | vshl (h : Head) (f : V2)
  /-- VSHR, 0x9B (R144). -/
  | vshr (h : Head) (f : V2)
  /-- VSRA, 0x9C (R144). -/
  | vsra (h : Head) (f : V2)
  /-- VIMIN, 0x9D (R143). -/
  | vimin (h : Head) (f : V2)
  /-- VIMAX, 0x9E (R143). -/
  | vimax (h : Head) (f : V2)
  /-- VCLZ, 0x9F (R143). -/
  | vclz (h : Head) (f : V2)
  /-- VPOPC, 0xA0 (R143). -/
  | vpopc (h : Head) (f : V2)
  /-- VCLMP, 0xA1 (R141). -/
  | vclmp (h : Head) (f : V3)
  /-- VBCST, 0xA2 (R147). -/
  | vbcst (h : Head) (f : V2)
  /-- VPERM, 0xA3 (R148). -/
  | vperm (h : Head) (f : V2)
  /-- VSHF, 0xA4 (R148). -/
  | vshf (h : Head) (f : V2)
  /-- VRSUM, 0xA5 (R149). -/
  | vrsum (h : Head) (f : V2)
  /-- VRMAX, 0xA6 (R149). -/
  | vrmax (h : Head) (f : V2)
  /-- VSCAN, 0xA7 (R149). -/
  | vscan (h : Head) (f : V2)
  /-- VQNT, 0xA8 (R150). -/
  | vqnt (h : Head) (f : V2)
  /-- VDQNT, 0xA9 (R151). -/
  | vdqnt (h : Head) (f : V2)
  /-- VEPS, 0xAA (R152). -/
  | veps (h : Head) (f : V3)
  /-- VMOV, 0xAB (R147). -/
  | vmov (h : Head) (f : V2)
  /-- VLI, 0xAC (R147). -/
  | vli (h : Head) (f : VI)
  /-- VCFG, 0xAD (R139). -/
  | vcfg (h : Head) (f : VI)
  /-- VCHK, 0xAE (R153). -/
  | vchk (h : Head) (f : V2)
  /-- MCALL, 0xB0 (R159). -/
  | mcall (h : Head) (f : MF)
  /-- MCFG, 0xB1 (R156). -/
  | mcfg (h : Head) (f : MF)
  /-- MZRO, 0xB2 (R160). -/
  | mzro (h : Head) (f : MF)
  /-- MACT, 0xB3 (R166). -/
  | mact (h : Head) (f : MF)
  /-- MSTP, 0xB4 (R166). -/
  | mstp (h : Head) (f : MF)
  /-- MRTN, 0xB5 (R166). -/
  | mrtn (h : Head) (f : MF)
  /-- TLD, 0xC0 (R170). -/
  | tld (h : Head) (f : CF)
  /-- TST, 0xC1 (R170). -/
  | tst (h : Head) (f : CF)
  /-- TLDW, 0xC2 (R171). -/
  | tldw (h : Head) (f : CF)
  /-- CPY, 0xC3 (R174). -/
  | cpy (h : Head) (f : CF)
  /-- CPYQ, 0xC4 (R177). -/
  | cpyq (h : Head) (f : CF)
  /-- GATH, 0xC5 (R172). -/
  | gath (h : Head) (f : CF)
  /-- SCAT, 0xC6 (R172). -/
  | scat (h : Head) (f : CF)
  /-- MCST, 0xC7 (R173). -/
  | mcst (h : Head) (f : CF)
  /-- RPKT, 0xC8 (R179). -/
  | rpkt (h : Head) (f : CF)
  /-- RRCV, 0xC9 (R180). -/
  | rrcv (h : Head) (f : WF)
  /-- PFCH, 0xCA (R178). -/
  | pfch (h : Head) (f : CF)
  /-- FLSH, 0xCB (R178). -/
  | flsh (h : Head) (f : CF)
  /-- STICKY_REISSUE (R77): A native slot re-issues its sticky word stepped by its stride register. -/
  | stickyReissue (x : Slot)
  /-- VWL_PRESET_LOAD (R223): A write of a view preset copies it into its target view register. -/
  | vwlPresetLoad (c : Nat) (i : BitVec 5)
  /-- VIEW_REGISTER_WRITE (R217): A write of a view register is checked and takes effect at commit. -/
  | viewRegisterWrite (c : Nat) (k : CsrOp) (n : BitVec 3) (x : Word)
  /-- TSTAT_WRITE (R231): A write of TSTAT can only set TXP. -/
  | tstatWrite (c : Nat) (k : CsrOp) (x : Word)
  /-- PRD_WRITE (R222): A write of PRD sets the stage predicates. -/
  | prdWrite (c : Nat) (k : CsrOp) (x : Word)
  /-- PMEV_WRITE (R361): A write of PMEV selects counter events, refusing codes above 14. -/
  | pmevWrite (c : Nat) (k : CsrOp) (x : Word)
  /-- PMC_WRITE (R362): A write of a performance counter, with that cycle's events added after it. -/
  | pmcWrite (c : Nat) (k : CsrOp) (n : BitVec 2) (x : Word)
  /-- REGISTER_WRITE (R129): A write of a register that has no row of its own. -/
  | registerWrite (c : Nat) (k : CsrOp) (n : BitVec 12) (x : Word)
  /-- CPR_REQUEST (R369): A supervisor write of CPR with GO = 1 requests an operating-point change. -/
  | cprRequest (cl : Nat) (x : Word)
  /-- HELD_REQUEST_START (R370): A held operating-point request starts in the tick after the current change completes. -/
  | heldRequestStart (cl : Nat)
  /-- VOLTAGE_STEP (R369): VNOW steps by 5 mV after 200 ticks of a change. -/
  | voltageStep (cl : Nat)
  /-- FREQUENCY_STEP (R369): FNOW steps by 25 MHz after 100 ticks of a change. -/
  | frequencyStep (cl : Nat)
  /-- TTH_WRITE (R377): A supervisor write of sensor thresholds, discarded whole when invalid. -/
  | tthWrite (n : Nat) (x : Word)
  /-- CAL_WRITE (R375): The supervisor sets a cluster's activity allowance. -/
  | calWrite (cl : Nat) (x : Word)
  /-- GRANT_STEP (R375): Each cycle the cluster grants queued activity requests that fit the allowance. -/
  | grantStep (cl : Nat)
  /-- WAIT_RESOLVE (R183): A waiting bundle's condition comes to hold and the bundle commits. -/
  | waitResolve (c : Nat)
  /-- DEADLINE_EXPIRY (R182): A wait's deadline expires and it resolves with its timeout outcome. -/
  | deadlineExpiry (c : Nat)
  /-- MARKER_DEADLINE_EXPIRY (R198): An ABSN marker deadline passes: no commit, TXP set and ESCAL raised. -/
  | markerDeadlineExpiry (c : Nat)
  /-- PROMISE (R176): The time base reaches an incomplete copy's promise and the next issue traps. -/
  | promise (c : Nat)
  /-- COPY_COMPLETION (R174): A copy's last byte performs; its count falls and CPWM advances. -/
  | copyCompletion (c : Nat) (id : Nat)
  /-- COPY_FAULT (R175): A copy stops at a failing granule and the core takes XLATE or PERM at its next issue. -/
  | copyFault (c : Nat) (id : Nat)
  /-- LOAD_DATA_ARRIVAL (R170): Data of a TLD, GATH or remote load arrive and are written with the guard tag. -/
  | loadDataArrival (c : Nat) (k : Nat)
  /-- STORE_PERFORM (R268): A remote store or write-back performs at its scope and its count falls. -/
  | storePerform (c : Nat) (k : Nat)
  /-- TLDW_BLOCK_WRITE (R171): A held TLDW write lands in the weight buffer once the block's mark clears. -/
  | tldwBlockWrite (c : Nat) (k : Nat)
  /-- VECTOR_RESULT_WRITE (R138): A vector result is written and its flags ORed after its class latency. -/
  | vectorResultWrite (c : Nat)
  /-- ROUTINE_START (R159): A queued MCALL or MZRO entry starts when its conditions hold. -/
  | routineStart (c : Nat)
  /-- SEQUENCER_STEP (R162): The matrix sequencer executes one microprogram step word. -/
  | sequencerStep (c : Nat)
  /-- ROUTINE_END (R159): A routine's END retags windows, ORs flags and clears marks. -/
  | routineEnd (c : Nat)
  /-- MZRO_WRITE (R160): A queued MZRO zeroes its element when its turn comes. -/
  | mzroWrite (c : Nat)
  /-- BARRIER_COMPLETION (R201): A barrier phase completes when every member's arrival counts. -/
  | barrierCompletion (o : Nat)
  /-- MEMBER_RESUME (R26): A barrier member resumes at its tiered release time. -/
  | memberResume (c : Nat)
  /-- STALE_RECLAIM (R280): Slices reclaim a team's stale conflict entries in the background. -/
  | staleReclaim (sl : Nat)
  /-- LATCH_ARRIVAL (R204): An LTIN arrival counts once the core's handoff stores have performed. -/
  | latchArrival (c : Nat) (k : Nat)
  /-- CELL_STAMP (R197): A channel cell's stamp and presence are set after its data perform at the consumer. -/
  | cellStamp (c : Nat) (k : Nat)
  /-- CHANNEL_ENTRY_MOVE (R306): The supervisor moves a channel's home entry when its consumer moves cluster. -/
  | channelEntryMove (g : Nat) (ch : Nat) (cl : Nat)
  /-- CONFLICT_ENTRY_CONFIRM (R275): A tentative conflict entry is confirmed or withdrawn at its bundle's outcome. -/
  | conflictEntryConfirm (c : Nat) (ok : Bool)
  /-- CONFLICT_SPILL (R281): The supervisor spills conflict entries and resumes the core. -/
  | conflictSpill (sl : Nat) (n : Nat)
  /-- SUPERVISOR_RESUME (R239): The supervisor resumes a stopped core from its record. -/
  | supervisorResume (c : Nat)
  /-- END_TEAM (R235): The supervisor ends a team with a cause. -/
  | endTeam (t : Nat) (cause : Nat)
  /-- COLDTXT_SERVICE (R266): The supervisor's read of a cold piece completes and it is mapped. -/
  | coldtxtService (c : Nat) (frame : Nat) (ok : Bool)
  /-- MEMUE (R246): An engine finds an uncorrectable error and the core takes MEMUE at its next issue. -/
  | memue (c : Nat) (mem : BitVec 2) (a : Nat)
  /-- FRAME_RETIRE (R246): The memory manager retires a failing HBM frame and remaps its page. -/
  | frameRetire (a : Nat) (frame : Nat) (clean : Bool)
  /-- YIELD_REQUEST (R241): The supervisor posts a yield request with a wall deadline. -/
  | yieldRequest (t : Nat) (dl : Nat)
  /-- YIELD_DEADLINE_EXPIRY (R126): The yield deadline passes first and the pre-emption is forced. -/
  | yieldDeadlineExpiry (t : Nat)
  /-- PRE_EMPTION (R242): Stops the team, completes engines, saves the image and releases resources. -/
  | preEmption (t : Nat)
  /-- SWAP_IN (R242): Restores a team image, rebinds its barrier and re-queues saved entries. -/
  | swapIn (t : Nat)
  /-- RESIDENCY (R295): A waiting team becomes resident when a slot frees. -/
  | residency (t : Nat)
  /-- QUANTUM_EXPIRY (R297): A team's resident ticks reach the quantum and it receives a yield request. -/
  | quantumExpiry (t : Nat)
  /-- PARK_RECLAIM (R297): A parked team is pre-empted at once while teams wait. -/
  | parkReclaim (t : Nat)
  /-- TEAM_COMPLETION (R127): A team completes when every core ended and every operation performed. -/
  | teamCompletion (t : Nat)
  /-- INSTANT_CLOSE (R300): An instant of a grid closes and its continuation records create teams. -/
  | instantClose (g : Nat)
  /-- KERNEL_BOUNDARY (R273): Writes back caches, discards conflict entries and resets latches between launches. -/
  | kernelBoundary (g : Nat)
  /-- COMMAND_ARRIVAL (R390): A 128-byte command message arrives on a queue's ROD stream. -/
  | commandArrival (q : Nat) (ws : List Word)
  /-- LAUNCH (R287): Creates a grid of teams and runs it to completion. -/
  | launch (q : Nat)
  /-- COPY (R286): Copies bytes through a package copy engine. -/
  | copy (q : Nat)
  /-- SIGNAL (R286): Writes a value at system scope and may clear HALT. -/
  | signal (q : Nat)
  /-- WAIT (R286): Completes when a memory word reaches a value or a deadline passes. -/
  | wait (q : Nat)
  /-- LOAD_FOLIO (R352): Checks and loads a folio into a context. -/
  | loadFolio (q : Nat)
  /-- UNLOAD_FOLIO (R354): Unmaps a folio, withdraws its routines and copy queues. -/
  | unloadFolio (q : Nat)
  /-- POWER_CAP (R379): Sets the host power cap. -/
  | powerCap (q : Nat)
  /-- QUERY_IDENTITY (R385): Reads a challenge and writes the signed identity record. -/
  | queryIdentity (q : Nat)
  /-- QUERY_QUEUE_STATE (R286): Writes QS0 and QS1 of a queue. -/
  | queryQueueState (q : Nat)
  /-- QUERY_COUNTS (R286): Writes COUNT of all 4,096 queues. -/
  | queryCounts (q : Nat)
  /-- COMMAND_COMPLETION (R289): A command ends with one completion record and COUNT rises. -/
  | commandCompletion (q : Nat)
  /-- COPY_QUEUE_SERVE (R316): A cluster engine serves one packet of a user-mode copy queue. -/
  | copyQueueServe (k : Nat)
  /-- NODE_OPERAND_ARRIVAL (R322): A reduction operand reaches a node and is held or combined. -/
  | nodeOperandArrival (k : Nat)
  /-- ROOT_DELIVERY (R325): The root multicasts a complete round's result to the receivers. -/
  | rootDelivery (inst : Nat) (round : Nat)
  /-- CANCEL_REQUEST (R324): A cancel request reaches the root and the round is cancelled and swept. -/
  | cancelRequest (inst : Nat) (round : Nat)
  /-- COLLECTIVE_PACKET (R332): A collective packet of an upper tree arrives from another member. -/
  | collectivePacket (ws : List Word) (v : Line)
  /-- WINDOW_SAMPLE (R363): At each 10,000-tick window end the cluster shifts in a stall-ratio sample. -/
  | windowSample (cl : Nat)
  /-- HOST_WRITE_COMPLETION (R259): A host-memory write completion returns and the store performs at system scope. -/
  | hostWriteCompletion (c : Nat) (k : Nat)
  /-- PAGE_INVALIDATION (R338): The supervisor changes a page table entry and invalidates the page. -/
  | pageInvalidation (ctx : Nat) (va : Nat) (lvl : Nat) (pte : Word)
  /-- REGION_INSTALL (R341): The supervisor installs a region control block node. -/
  | regionInstall (a : Nat) (ws : List Word)
  /-- FORMAT_REGION_WRITE (R343): The supervisor writes a format region between kernels. -/
  | formatRegionWrite (mc : Nat) (n : Nat) (ws : List Word)
  /-- SIDEBAND_READ (R391): The board controller writes a register offset and reads the sideband registers. -/
  | sidebandRead (off : Nat) (n : Nat)
  /-- UET_RMA_ACCESS (R315): A host or peer device reaches device memory by a UET RMA read, write or compare-and-swap, such as the claim of a copy-queue slot on WIDX or the host's writing of a collective descriptor. -/
  | uetRmaAccess (ctx : Nat) (k : RmaOp) (va : Nat) (data : List Byte)
  /-- PORT_DOWN (R388): An Ethernet port goes down and is left out of packet spraying. -/
  | portDown (p : Nat)
  /-- PORT_UP (R388): A port that was down comes up again and rejoins spraying. -/
  | portUp (p : Nat)
  /-- QUEUE_CONFIGURATION (R282): When the host configures a queue, the supervisor writes QS0.PRIO, the context and QS1 of the work queue, and records the host's endpoint (R390). `en` is that endpoint where the queue is enabled, and none where V is 0. -/
  | queueConfiguration (q : Nat) (prio : BitVec 3) (ctx : BitVec 8) (rcb : BitVec 56) (en : Option (BitVec 64))
  /-- CONTEXT_DESCRIPTOR_WRITE (R335): The supervisor writes a context's descriptor word: V and the frame of its level-0 table. -/
  | contextDescriptorWrite (ctx : Nat) (x : Word)
  /-- COPY_RESUMPTION (R175): After mapping the page, the supervisor resumes a stopped bulk copy from its bytes done, and the copy's promise moves later. -/
  | copyResumption (c : Nat) (id : Nat)
  /-- SUPERVISOR_TRAP_ENTRY (R235): The supervisor delivers a trap it did not resolve by entering the in-core handler on the core's behalf. -/
  | supervisorTrapEntry (c : Nat)
  /-- ATOMIC_PERFORM (R211): An atomic's effect performs at its scope, its class at count falls, and any old value is returned. -/
  | atomicPerform (c : Nat) (k : Nat)
  /-- ILLEGAL_OPCODE (R96): A bundle that holds a reserved opcode, or an opcode of a profile the part lacks, issues and faults with ILLOP. -/
  | illegalOpcode (h : Head) (w : Word)
  /-- SENSOR_POLL (R377): Every 100,000 ticks each sensor is read and its state updated. -/
  | sensorPoll
  /-- DISPATCH_STEP (R292): Every 64 ticks the dispatcher starts at most one ready command. -/
  | dispatchStep
  /-- COLD_START (R381): At power-up or after trip the module runs every start step. -/
  | coldStart
  /-- WARM_START (R380): A reset request with power applied runs the warm start steps. -/
  | warmStart
  deriving DecidableEq, Repr

end Sys2Proof
end

