-- ==== Sys2Proof/WellFormed.lean ====
section
/-! DEFINITION. Well-formedness of an operation word: every res-z field is zero and every field holds a value that
its opcode admits (R86-R96 and the instruction chapters); a breach is ILLOP. And the slots an opcode is legal in (R95);
a breach is ILLSLOT. -/
namespace Sys2Proof

/-- A deadline field (R86): an immediate exponent is not 63. -/
def dlOk (dl : BitVec 8) : Bool := bit dl.toNat 6 || bits dl.toNat 5 0 != 63
/-- In an operation that does not wait, st, dl and ESC are zero (R93). -/
def noWait (f : WF) : Bool := f.st == 0 && f.dl == 0 && f.esc == 0
/-- A barrier operand (R200). -/
def barOk (imm : Nat) : Bool :=
  bits imm 20 8 == 0 && (bit imm 7 || bits imm 6 5 == 0 || bits imm 6 5 == 3 || decide (bits imm 4 0 < 16))
/-- The fn of an atomic (R210): scope below 5, the row's type, size 2 or 3. -/
def atomOk (f : SR) (ty : Nat) : Bool :=
  decide (bits f.fn.toNat 7 5 < 5) && bits f.fn.toNat 4 2 == ty && decide (2 ≤ bits f.fn.toNat 1 0) && f.lo == 0
/-- The modifier bits of the M format outside MCALL (R91). -/
def mPlain (f : MF) : Bool :=
  f.acc == 0 && f.pert == 0 && f.trb == 0 && f.bias == 0 && f.act == 0 && f.atab == 0 && f.rq == 0 && f.lo == 0
/-- The tile shape of TLD and TST (R170). -/
def tileOk (f : CF) : Bool := f.sz == 1 || (f.sz == 0 && f.sb == 0 && f.sc == 0)
/-- A format code that the part supports (R135, R230: every binary8 code). -/
def fmtSupported (c : Nat) : Bool := decide (c ≤ 0x0B) || (decide (0x20 ≤ c) && decide (c ≤ 0x3B))
/-- The clock definition of CLKD (R187). -/
def clkdOk (sa : BitVec 6) (imm : Nat) : Bool :=
  let k := bits imm 21 17
  decide (1 ≤ k && k ≤ 30) &&
  match bits imm 23 22 with
  | 0 => sa == 0 && bits imm 16 9 != 0 && decide (bits imm 8 1 < bits imm 16 9) && !(bit imm 0)
  | 1 => decide (bits imm 16 12 < k) && bits imm 10 0 == 0
  | 2 => sa == 0 && decide (bits imm 16 12 < k) && decide (bits imm 11 7 < k) && bits imm 6 0 == 0
  | _ => false
/-- The csr numbers that name a register (R227, R357). -/
def csrNamed (n : Nat) : Bool :=
  let within := fun (l h : Nat) => decide (l ≤ n && n ≤ h)
  within 0x000 0x004 || within 0x008 0x009 || within 0x010 0x014 || within 0x018 0x024 ||
  within 0x030 0x033 || within 0x040 0x041 || within 0x048 0x057 || within 0x060 0x067 || within 0x080 0x09F ||
  within 0x0A0 0x0A1 || n == 0x0A8 || within 0x0B0 0x0B5 || within 0x0C0 0x0C1 || within 0x100 0x102 ||
  within 0x108 0x10C || within 0x110 0x113 || n == 0x118 || within 0x120 0x128

/-- The fields of the word are well-formed (R96: a breach is ILLOP at the decode step). -/
def Instr.formOk : Instr → Bool
  | .nop _ _ => true
  | .add _ f => f.sc == 0 && f.fn == 0 && f.lo == 0
  | .sub _ f => f.sc == 0 && f.fn == 0 && f.lo == 0
  | .mul _ f => f.sc == 0 && f.fn == 0 && f.lo == 0
  | .mulh _ f => f.sc == 0 && f.fn == 0 && f.lo == 0
  | .mulhn _ f => f.sc == 0 && f.fn == 0 && f.lo == 0
  | .div _ f => f.sc == 0 && f.fn == 0 && f.lo == 0
  | .divn _ f => f.sc == 0 && f.fn == 0 && f.lo == 0
  | .rem _ f => f.sc == 0 && f.fn == 0 && f.lo == 0
  | .remn _ f => f.sc == 0 && f.fn == 0 && f.lo == 0
  | .and _ f => f.sc == 0 && f.fn == 0 && f.lo == 0
  | .or _ f => f.sc == 0 && f.fn == 0 && f.lo == 0
  | .xor _ f => f.sc == 0 && f.fn == 0 && f.lo == 0
  | .andn _ f => f.sc == 0 && f.fn == 0 && f.lo == 0
  | .shl _ f => f.sc == 0 && f.fn == 0 && f.lo == 0
  | .shr _ f => f.sc == 0 && f.fn == 0 && f.lo == 0
  | .sra _ f => f.sc == 0 && f.fn == 0 && f.lo == 0
  | .min _ f => f.sc == 0 && f.fn == 0 && f.lo == 0
  | .max _ f => f.sc == 0 && f.fn == 0 && f.lo == 0
  | .minn _ f => f.sc == 0 && f.fn == 0 && f.lo == 0
  | .maxn _ f => f.sc == 0 && f.fn == 0 && f.lo == 0
  | .seq _ f => f.sc == 0 && f.fn == 0 && f.lo == 0
  | .sne _ f => f.sc == 0 && f.fn == 0 && f.lo == 0
  | .slt _ f => f.sc == 0 && f.fn == 0 && f.lo == 0
  | .sltn _ f => f.sc == 0 && f.fn == 0 && f.lo == 0
  | .sel _ f => f.fn == 0 && f.lo == 0
  | .clz _ f => f.sb == 0 && f.sc == 0 && f.fn == 0 && f.lo == 0
  | .popc _ f => f.sb == 0 && f.sc == 0 && f.fn == 0 && f.lo == 0
  | .addi _ f => f.fn == 0
  | .andi _ f => f.fn == 0
  | .ori _ f => f.fn == 0
  | .xori _ f => f.fn == 0
  | .shli _ f => f.fn == 0 && decide (f.imm.toNat < 64)
  | .shri _ f => f.fn == 0 && decide (f.imm.toNat < 64)
  | .srai _ f => f.fn == 0 && decide (f.imm.toNat < 64)
  | .slti _ f => f.fn == 0
  | .sltni _ f => f.fn == 0
  | .li _ f => f.fn == 0 && f.sa == 0
  | .lih _ f => f.fn == 0
  | .addx _ f => f.fn == 0
  | .lds _ f => !(bit f.fn.toNat 0) && !(bit f.fn.toNat 1 && bits f.fn.toNat 3 2 == 3)
  | .sts _ f => !(bit f.fn.toNat 0) && !(bit f.fn.toNat 1)
  | .mpw _ f => decide (f.sd.toNat < 8) && f.sb == 0 && f.sc == 0 && f.fn == 0 && f.lo == 0
  | .br _ f => decide (f.cc.toNat < 6) && f.ex == 0
  | .jmp _ f => f.sa == 0 && f.cc == 0 && f.ex == 0
  | .jmpr _ f => f.cc == 0 && f.ex == 0 && f.imm == 0
  | .call _ _ => true
  | .callr _ f => f.cc == 0 && f.ex == 0
  | .ret _ f => f.sa == 0 && f.cc == 0 && f.ex == 0 && f.imm == 0
  | .loop _ f => f.sa == 0 && f.cc == 0 && f.ex == 0
  | .lpset _ f => f.cc == 0 && f.imm == 0 && decide (1 ≤ f.ex.toNat && f.ex.toNat ≤ 7)
  | .yld _ f => f.sa == 0 && f.cc == 0 && f.ex == 0 && f.imm == 0
  | .endOp _ f => f.sa == 0 && f.cc == 0 && f.ex == 0 && f.imm == 0
  | .csrr _ f => f.sa == 0 && f.imm == 0 && csrNamed f.csr.toNat
  | .csrw _ f => f.sd == 0 && f.imm == 0 && csrNamed f.csr.toNat
  | .csrs _ f => f.sd == 0 && f.imm == 0 && csrNamed f.csr.toNat
  | .csrc _ f => f.sd == 0 && f.imm == 0 && csrNamed f.csr.toNat
  | .trap _ f => f.sd == 0 && f.sa == 0 && f.csr == 0
  | .eret _ f => f.sd == 0 && f.sa == 0 && f.csr == 0 && f.imm == 0
  | .chk _ f => f.sd == 0 && f.sc == 0 && f.fn == 0 && f.lo == 0
  | .tbr _ f => f.sa == 0 && f.csr == 0 && f.imm == 0
  | .clkd _ f => f.sd == 0 && f.csr == 0 && clkdOk f.sa f.imm.toNat
  | .clke _ f => f.sd == 0 && f.sa == 0 && f.csr == 0 && decide (f.imm.toNat < 32)
  | .when _ f => f.vb == 0 && f.hb == 0 && f.rm == 0 && f.fn == 0
  | .mrg _ f => bits f.vc.toNat 8 6 == 0
  | .pmrg _ f => f.fp == 0 && f.rm == 0 && f.fn == 0
  | .dlyr _ f => f.sb == 0 && f.sc == 0 && f.fn == 0 && f.lo == 0
  | .dlyw _ f => f.sd == 0 && f.sc == 0 && f.fn == 0 && f.lo == 0
  | .inst _ f => f.sd == 0 && f.sa == 0 && f.csr == 0 && f.imm == 0
  | .chrd _ f => dlOk f.dl && f.sa == 0 && f.sb == 0 && !(bit f.imm.toNat 20)
  | .chrdy _ f => dlOk f.dl && f.sa == 0 && f.sb == 0 && !(bit f.imm.toNat 20) && bits f.imm.toNat 11 0 == 0
  | .chwr _ f => dlOk f.dl && f.sa == 0 && f.sb == 0 && !(bit f.imm.toNat 20)
  | .absn _ f => f.sd == 0 && f.sa == 0 && f.csr == 0 && decide (f.imm.toNat < 256)
  | .bara _ f => noWait f && f.sb == 0 && barOk f.imm.toNat
  | .barw _ f => dlOk f.dl && f.sb == 0 && barOk f.imm.toNat
  | .bar _ f => dlOk f.dl && f.sb == 0 && barOk f.imm.toNat
  | .barx _ f => noWait f && f.sb == 0 && barOk f.imm.toNat
  | .ltar _ f => noWait f && f.sa == 0 && f.sb == 0 && bits f.imm.toNat 20 15 == 0 && decide (1 ≤ bits f.imm.toNat 14 8 && bits f.imm.toNat 14 8 ≤ 64)
  | .ltin _ f => noWait f && f.sa == 0 && f.sb == 0 && bits f.imm.toNat 20 8 == 0
  | .ltwt _ f => dlOk f.dl && f.sa == 0 && f.sb == 0 && bits f.imm.toNat 20 8 == 0
  | .drn _ f => dlOk f.dl && f.sa == 0 && f.sb == 0 && bits f.imm.toNat 20 7 == 0 && decide (bits f.imm.toNat 2 0 < 5) && bits f.imm.toNat 6 3 != 0
  | .waitc _ f => dlOk f.dl && f.sa == 0 && f.sb == 0 && !(bit f.imm.toNat 20)
  | .sleep _ f => noWait f && f.sb == 0 && f.imm == 0
  | .pwra _ f => dlOk f.dl && f.sa == 0 && f.sb == 0 && bits f.imm.toNat 20 3 == 0
  | .pwrr _ f => noWait f && f.sa == 0 && f.sb == 0 && f.imm == 0
  | .cpost _ f => dlOk f.dl && bits f.imm.toNat 20 12 == 0
  | .aadd _ f => atomOk f 0 && f.sd == 0 && f.sc == 0
  | .amin _ f => atomOk f 1 && f.sd == 0 && f.sc == 0
  | .amax _ f => atomOk f 1 && f.sd == 0 && f.sc == 0
  | .aand _ f => atomOk f 0 && f.sd == 0 && f.sc == 0
  | .aor _ f => atomOk f 0 && f.sd == 0 && f.sc == 0
  | .axor _ f => atomOk f 0 && f.sd == 0 && f.sc == 0
  | .aaddr _ f => atomOk f 0 && f.sc == 0
  | .axch _ f => atomOk f 0 && f.sc == 0
  | .acas _ f => atomOk f 0
  | .vadd _ f => decide (f.rm.toNat < 5) && bits f.fn.toNat 3 0 == 0
  | .vsub _ f => decide (f.rm.toNat < 5) && bits f.fn.toNat 3 0 == 0
  | .vmul _ f => decide (f.rm.toNat < 5) && bits f.fn.toNat 3 0 == 0
  | .vfma _ _ => true
  | .vfms _ _ => true
  | .vmin _ f => decide (f.rm.toNat < 5) && bits f.fn.toNat 3 0 == 0
  | .vmax _ f => decide (f.rm.toNat < 5) && bits f.fn.toNat 3 0 == 0
  | .vabs _ f => f.vb == 0 && f.hb == 0 && decide (f.rm.toNat < 5) && bits f.fn.toNat 3 0 == 0
  | .vneg _ f => f.vb == 0 && f.hb == 0 && decide (f.rm.toNat < 5) && bits f.fn.toNat 3 0 == 0
  | .vcmp _ f => f.rm == 0 && decide (f.fn.toNat < 7)
  | .vsel _ _ => true
  | .vcvt _ f => f.vb == 0 && f.hb == 0 && decide (f.rm.toNat < 5) && bits f.fn.toNat 3 0 == 0
  | .vrnd _ f => f.vb == 0 && f.hb == 0 && decide (f.rm.toNat < 5) && bits f.fn.toNat 3 0 == 0
  | .vdiv _ f => decide (f.rm.toNat < 5) && bits f.fn.toNat 3 0 == 0
  | .vsqrt _ f => f.vb == 0 && f.hb == 0 && decide (f.rm.toNat < 5) && bits f.fn.toNat 3 0 == 0
  | .vrcp _ f => f.vb == 0 && f.hb == 0 && decide (f.rm.toNat < 5) && bits f.fn.toNat 3 0 == 0
  | .vrsq _ f => f.vb == 0 && f.hb == 0 && decide (f.rm.toNat < 5) && bits f.fn.toNat 3 0 == 0
  | .vex2 _ f => f.vb == 0 && f.hb == 0 && decide (f.rm.toNat < 5) && bits f.fn.toNat 3 0 == 0
  | .vlg2 _ f => f.vb == 0 && f.hb == 0 && decide (f.rm.toNat < 5) && bits f.fn.toNat 3 0 == 0
  | .vtnh _ f => f.vb == 0 && f.hb == 0 && decide (f.rm.toNat < 5) && bits f.fn.toNat 3 0 == 0
  | .viadd _ f => f.rm == 0 && bits f.fn.toNat 3 0 == 0
  | .visub _ f => f.rm == 0 && bits f.fn.toNat 3 0 == 0
  | .vimul _ f => f.rm == 0 && bits f.fn.toNat 3 0 == 0
  | .vand _ f => f.fp == 0 && f.rm == 0 && f.fn == 0
  | .vor _ f => f.fp == 0 && f.rm == 0 && f.fn == 0
  | .vxor _ f => f.fp == 0 && f.rm == 0 && f.fn == 0
  | .vshl _ f => f.rm == 0 && f.fn == 0
  | .vshr _ f => f.rm == 0 && f.fn == 0
  | .vsra _ f => f.rm == 0 && f.fn == 0
  | .vimin _ f => f.rm == 0 && bits f.fn.toNat 3 0 == 0
  | .vimax _ f => f.rm == 0 && bits f.fn.toNat 3 0 == 0
  | .vclz _ f => f.vb == 0 && f.hb == 0 && f.rm == 0 && bits f.fn.toNat 3 0 == 0
  | .vpopc _ f => f.vb == 0 && f.hb == 0 && f.rm == 0 && bits f.fn.toNat 3 0 == 0
  | .vclmp _ _ => true
  | .vbcst _ f => f.ha == 0 && f.vb == 0 && f.hb == 0 && f.rm == 0 && f.fn == 0 && bits f.va.toNat 11 6 == 0
  | .vperm _ f => f.rm == 0 && f.fn == 0
  | .vshf _ f => f.rm == 0 && decide (f.fn.toNat < 4)
  | .vrsum _ f => f.vb == 0 && f.hb == 0 && f.fn == 0 && decide (f.rm.toNat < 5)
  | .vrmax _ f => f.vb == 0 && f.hb == 0 && f.fn == 0 && decide (f.rm.toNat < 5)
  | .vscan _ f => f.vb == 0 && f.hb == 0 && f.fn == 0 && decide (f.rm.toNat < 5)
  | .vqnt _ f => f.vb == 0 && f.hb == 0 && f.fn == 0 && f.rm == 0
  | .vdqnt _ f => f.vb == 0 && f.hb == 0 && f.fn == 0 && decide (f.rm.toNat < 5)
  | .veps _ f => bits f.va.toNat 11 6 == 0 && bits f.vb.toNat 11 6 == 0 && bits f.vc.toNat 8 6 == 0 && f.fp == 0 && f.ha == 0
  | .vmov _ f => f.fp == 0 && f.rm == 0 && f.fn == 0 && f.vb == 0 && f.hb == 0
  | .vli _ f => f.lo == 0
  | .vcfg _ f => f.vd == 0 && f.fp == 0 && f.lo == 0 && bits f.imm.toNat 14 0 == 0 && fmtSupported (bits f.imm.toNat 29 24) && fmtSupported (bits f.imm.toNat 23 18)
  | .vchk _ f => f.vd == 0 && f.fp == 0 && f.rm == 0 && f.fn == 0
  | .mcall _ f => f.rr == 0 && f.sa == 0 && f.sb == 0 && f.lo == 0 && (f.act == 1 || f.atab == 0)
  | .mcfg _ f => f.ri == 0 && mPlain f && f.rr == 0 && f.sb == 0
  | .mzro _ f => f.ri == 0 && mPlain f && f.sa == 0 && f.sb == 0
  | .mact _ f => decide (f.ri.toNat < 4) && mPlain f && f.sa == 0 && f.sb == 0
  | .mstp _ f => mPlain f && f.sa == 0 && f.sb == 0
  | .mrtn _ f => mPlain f && f.rr == 0 && f.sb == 0
  | .tld _ f => f.lo == 0 && f.sco == 0 && f.hr == 0 && f.sd == 0 && tileOk f
  | .tst _ f => f.lo == 0 && f.sco == 0 && f.sd == 0 && tileOk f
  | .tldw _ f => f.lo == 0 && f.sco == 0 && f.rr == 0 && f.sd == 0 && f.hr == 0 && f.sz == 0
  | .cpy _ f => f.lo == 0 && f.sco == 0 && f.hr == 0 && f.sz == 0 && bits f.rr.toNat 11 6 == 0
  | .cpyq _ f => f.lo == 0 && f.sco == 0 && f.sb == 0 && f.sc == 0 && f.hr == 0 && f.sz == 0
  | .gath _ f => f.lo == 0 && f.sco == 0 && f.hr == 0 && f.sb == 0 && f.sc == 0 && f.sd == 0 && decide (f.sz.toNat < 2)
  | .scat _ f => f.lo == 0 && f.sco == 0 && f.sb == 0 && f.sc == 0 && f.sd == 0 && decide (f.sz.toNat < 2)
  | .mcst _ f => f.lo == 0 && f.sco == 0 && f.sb == 0 && f.sc == 0 && f.sd == 0 && f.sz == 0
  | .rpkt _ f => f.lo == 0 && f.sco == 0 && f.sb == 0 && f.sc == 0 && f.sd == 0 && f.sz == 0
  | .rrcv _ f => dlOk f.dl && f.sb == 0 && bits f.imm.toNat 20 12 == 0
  | .pfch _ f => f.lo == 0 && decide (f.sco.toNat < 2) && f.rr == 0 && f.sb == 0 && f.sc == 0 && f.sd == 0 && f.hr == 0 && f.sz == 0
  | .flsh _ f => f.lo == 0 && decide (f.sco.toNat < 2) && f.rr == 0 && f.sb == 0 && f.sd == 0 && f.hr == 0 && f.sz == 0
  | .stickyReissue _ => true
  | .vwlPresetLoad _ _ => true
  | .viewRegisterWrite _ _ _ _ => true
  | .tstatWrite _ _ _ => true
  | .prdWrite _ _ _ => true
  | .pmevWrite _ _ _ => true
  | .pmcWrite _ _ _ _ => true
  | .registerWrite _ _ _ _ => true
  | .cprRequest _ _ => true
  | .heldRequestStart _ => true
  | .voltageStep _ => true
  | .frequencyStep _ => true
  | .tthWrite _ _ => true
  | .calWrite _ _ => true
  | .grantStep _ => true
  | .waitResolve _ => true
  | .deadlineExpiry _ => true
  | .markerDeadlineExpiry _ => true
  | .promise _ => true
  | .copyCompletion _ _ => true
  | .copyFault _ _ => true
  | .loadDataArrival _ _ => true
  | .storePerform _ _ => true
  | .tldwBlockWrite _ _ => true
  | .vectorResultWrite _ => true
  | .routineStart _ => true
  | .sequencerStep _ => true
  | .routineEnd _ => true
  | .mzroWrite _ => true
  | .barrierCompletion _ => true
  | .memberResume _ => true
  | .staleReclaim _ => true
  | .latchArrival _ _ => true
  | .cellStamp _ _ => true
  | .channelEntryMove _ _ _ => true
  | .conflictEntryConfirm _ _ => true
  | .conflictSpill _ _ => true
  | .supervisorResume _ => true
  | .endTeam _ _ => true
  | .coldtxtService _ _ _ => true
  | .memue _ _ _ => true
  | .frameRetire _ _ _ => true
  | .yieldRequest _ _ => true
  | .yieldDeadlineExpiry _ => true
  | .preEmption _ => true
  | .swapIn _ => true
  | .residency _ => true
  | .quantumExpiry _ => true
  | .parkReclaim _ => true
  | .teamCompletion _ => true
  | .instantClose _ => true
  | .kernelBoundary _ => true
  | .commandArrival _ _ => true
  | .launch _ => true
  | .copy _ => true
  | .signal _ => true
  | .wait _ => true
  | .loadFolio _ => true
  | .unloadFolio _ => true
  | .powerCap _ => true
  | .queryIdentity _ => true
  | .queryQueueState _ => true
  | .queryCounts _ => true
  | .commandCompletion _ => true
  | .copyQueueServe _ => true
  | .nodeOperandArrival _ => true
  | .rootDelivery _ _ => true
  | .cancelRequest _ _ => true
  | .collectivePacket _ _ => true
  | .windowSample _ => true
  | .hostWriteCompletion _ _ => true
  | .pageInvalidation _ _ _ _ => true
  | .regionInstall _ _ => true
  | .formatRegionWrite _ _ _ => true
  | .sidebandRead _ _ => true
  | .uetRmaAccess _ _ _ _ => true
  | .portDown _ => true
  | .portUp _ => true
  | .queueConfiguration _ _ _ _ _ => true
  | .contextDescriptorWrite _ _ => true
  | .copyResumption _ _ => true
  | .supervisorTrapEntry _ => true
  | .atomicPerform _ _ => true
  | .illegalOpcode _ _ => false
  | .sensorPoll => true
  | .dispatchStep => true
  | .coldStart => true
  | .warmStart => true

/-- The classes of slots of R95. -/
inductive SlotClass where | any | scalar | vector | matrix | copy | event
  deriving DecidableEq, Repr
/-- Whether a slot belongs to a class. -/
def SlotClass.has : SlotClass → Slot → Bool
  | .any, _ => true
  | .scalar, x => x == .s
  | .vector, x => x == .v0 || x == .v1
  | .matrix, x => x == .m
  | .copy, x => x == .c0 || x == .c1
  | .event, _ => false
/-- The first slot of a class, in slot order. -/
def SlotClass.first : SlotClass → Slot
  | .vector => .v0
  | .matrix => .m
  | .copy => .c0
  | _ => .s
/-- Opcode, slot class and stickiness of the range an opcode lies in (R95); `none` for a reserved opcode (R96). -/
def opcodeClass (o : Nat) : Option (SlotClass × Bool) :=
  let within := fun (l h : Nat) => decide (l ≤ o && o ≤ h)
  if o = 0 then some (.any, true)
  else if within 0x01 0x1B || within 0x20 0x2A || within 0x2C 0x2E then some (.scalar, true)
  else if o = 0x2F || within 0x30 0x39 || within 0x40 0x47 then some (.scalar, false)
  else if within 0x52 0x54 then some (.vector, true)
  else if within 0x50 0x57 || o = 0x5B then some (.scalar, false)
  else if within 0x58 0x5A || o = 0xC9 then some (.copy, false)
  else if within 0x60 0x6C || within 0x70 0x78 then some (.scalar, false)
  else if o = 0xAD then some (.vector, false)
  else if within 0x80 0xAE then some (.vector, true)
  else if o = 0xB0 || o = 0xB2 then some (.matrix, true)
  else if within 0xB0 0xB5 then some (.matrix, false)
  else if within 0xC0 0xC2 || o = 0xC5 || o = 0xC6 || o = 0xCA then some (.copy, true)
  else if within 0xC0 0xCB then some (.copy, false)
  else none

end Sys2Proof
end

