-- ==== Sys2Proof/Decode.lean ====
section
/-! DEFINITION. Decoding of operation words and bundle headers (R73, R74, R84-R96), total and rejecting by name, and the
encoder written from the same tables. -/
namespace Sys2Proof

/-- The SR fields of an operation word (R87-R94). -/
def SR.ofWord (w : Word) : SR where
  sd := w.extractLsb' 42 6
  sa := w.extractLsb' 36 6
  sb := w.extractLsb' 30 6
  sc := w.extractLsb' 24 6
  fn := w.extractLsb' 16 8
  lo := w.extractLsb' 0 16
/-- Bits 47:0 of a word of the SR format. -/
def SR.pack (f : SR) : BitVec 48 := f.sd ++ f.sa ++ f.sb ++ f.sc ++ f.fn ++ f.lo

/-- The SI fields of an operation word (R87-R94). -/
def SI.ofWord (w : Word) : SI where
  sd := w.extractLsb' 42 6
  sa := w.extractLsb' 36 6
  fn := w.extractLsb' 32 4
  imm := w.extractLsb' 0 32
/-- Bits 47:0 of a word of the SI format. -/
def SI.pack (f : SI) : BitVec 48 := f.sd ++ f.sa ++ f.fn ++ f.imm

/-- The BR fields of an operation word (R87-R94). -/
def BR.ofWord (w : Word) : BR where
  sa := w.extractLsb' 42 6
  cc := w.extractLsb' 39 3
  ex := w.extractLsb' 32 7
  imm := w.extractLsb' 0 32
/-- Bits 47:0 of a word of the BR format. -/
def BR.pack (f : BR) : BitVec 48 := f.sa ++ f.cc ++ f.ex ++ f.imm

/-- The V2 fields of an operation word (R87-R94). -/
def V2.ofWord (w : Word) : V2 where
  vd := w.extractLsb' 36 12
  va := w.extractLsb' 24 12
  vb := w.extractLsb' 12 12
  fp := w.extractLsb' 10 2
  ha := w.extractLsb' 9 1
  hb := w.extractLsb' 8 1
  rm := w.extractLsb' 5 3
  fn := w.extractLsb' 0 5
/-- Bits 47:0 of a word of the V2 format. -/
def V2.pack (f : V2) : BitVec 48 := f.vd ++ f.va ++ f.vb ++ f.fp ++ f.ha ++ f.hb ++ f.rm ++ f.fn

/-- The V3 fields of an operation word (R87-R94). -/
def V3.ofWord (w : Word) : V3 where
  vd := w.extractLsb' 36 12
  va := w.extractLsb' 24 12
  vb := w.extractLsb' 12 12
  fp := w.extractLsb' 10 2
  ha := w.extractLsb' 9 1
  vc := w.extractLsb' 0 9
/-- Bits 47:0 of a word of the V3 format. -/
def V3.pack (f : V3) : BitVec 48 := f.vd ++ f.va ++ f.vb ++ f.fp ++ f.ha ++ f.vc

/-- The VI fields of an operation word (R87-R94). -/
def VI.ofWord (w : Word) : VI where
  vd := w.extractLsb' 36 12
  imm := w.extractLsb' 4 32
  fp := w.extractLsb' 2 2
  lo := w.extractLsb' 0 2
/-- Bits 47:0 of a word of the VI format. -/
def VI.pack (f : VI) : BitVec 48 := f.vd ++ f.imm ++ f.fp ++ f.lo

/-- The M fields of an operation word (R87-R94). -/
def MF.ofWord (w : Word) : MF where
  ri := w.extractLsb' 40 8
  acc := w.extractLsb' 39 1
  pert := w.extractLsb' 38 1
  trb := w.extractLsb' 37 1
  bias := w.extractLsb' 36 1
  act := w.extractLsb' 35 1
  atab := w.extractLsb' 33 2
  rq := w.extractLsb' 32 1
  rr := w.extractLsb' 20 12
  sa := w.extractLsb' 14 6
  sb := w.extractLsb' 8 6
  lo := w.extractLsb' 0 8
/-- Bits 47:0 of a word of the M format. -/
def MF.pack (f : MF) : BitVec 48 := f.ri ++ f.acc ++ f.pert ++ f.trb ++ f.bias ++ f.act ++ f.atab ++ f.rq ++ f.rr ++ f.sa ++ f.sb ++ f.lo

/-- The C fields of an operation word (R87-R94). -/
def CF.ofWord (w : Word) : CF where
  rr := w.extractLsb' 36 12
  sa := w.extractLsb' 30 6
  sb := w.extractLsb' 24 6
  sc := w.extractLsb' 18 6
  sd := w.extractLsb' 12 6
  hr := w.extractLsb' 11 1
  sco := w.extractLsb' 8 3
  sz := w.extractLsb' 4 4
  bypass := w.extractLsb' 3 1
  noAlloc := w.extractLsb' 2 1
  lo := w.extractLsb' 0 2
/-- Bits 47:0 of a word of the C format. -/
def CF.pack (f : CF) : BitVec 48 := f.rr ++ f.sa ++ f.sb ++ f.sc ++ f.sd ++ f.hr ++ f.sco ++ f.sz ++ f.bypass ++ f.noAlloc ++ f.lo

/-- The W fields of an operation word (R87-R94). -/
def WF.ofWord (w : Word) : WF where
  st := w.extractLsb' 42 6
  dl := w.extractLsb' 34 8
  esc := w.extractLsb' 33 1
  sa := w.extractLsb' 27 6
  sb := w.extractLsb' 21 6
  imm := w.extractLsb' 0 21
/-- Bits 47:0 of a word of the W format. -/
def WF.pack (f : WF) : BitVec 48 := f.st ++ f.dl ++ f.esc ++ f.sa ++ f.sb ++ f.imm

/-- The X fields of an operation word (R87-R94). -/
def XF.ofWord (w : Word) : XF where
  sd := w.extractLsb' 42 6
  sa := w.extractLsb' 36 6
  csr := w.extractLsb' 24 12
  imm := w.extractLsb' 0 24
/-- Bits 47:0 of a word of the X format. -/
def XF.pack (f : XF) : BitVec 48 := f.sd ++ f.sa ++ f.csr ++ f.imm

/-- Bits 63:48 of an operation word: opcode, guard clock, stage predicate (R84). -/
def Head.pack (h : Head) (o : BitVec 8) : BitVec 16 := o ++ h.gk ++ h.gs

/-- The operation that an opcode names, with the fields of its word (R95). A reserved opcode names `illegalOpcode`. -/
def readOp (o : Nat) (h : Head) (w : Word) : Option Instr :=
  match o with
  | 0x00 => some (.nop h.slot (w.extractLsb' 0 56))
  | 0x01 => some (.add h (.ofWord w))
  | 0x02 => some (.sub h (.ofWord w))
  | 0x03 => some (.mul h (.ofWord w))
  | 0x04 => some (.mulh h (.ofWord w))
  | 0x05 => some (.mulhn h (.ofWord w))
  | 0x06 => some (.div h (.ofWord w))
  | 0x07 => some (.divn h (.ofWord w))
  | 0x08 => some (.rem h (.ofWord w))
  | 0x09 => some (.remn h (.ofWord w))
  | 0x0A => some (.and h (.ofWord w))
  | 0x0B => some (.or h (.ofWord w))
  | 0x0C => some (.xor h (.ofWord w))
  | 0x0D => some (.andn h (.ofWord w))
  | 0x0E => some (.shl h (.ofWord w))
  | 0x0F => some (.shr h (.ofWord w))
  | 0x10 => some (.sra h (.ofWord w))
  | 0x11 => some (.min h (.ofWord w))
  | 0x12 => some (.max h (.ofWord w))
  | 0x13 => some (.minn h (.ofWord w))
  | 0x14 => some (.maxn h (.ofWord w))
  | 0x15 => some (.seq h (.ofWord w))
  | 0x16 => some (.sne h (.ofWord w))
  | 0x17 => some (.slt h (.ofWord w))
  | 0x18 => some (.sltn h (.ofWord w))
  | 0x19 => some (.sel h (.ofWord w))
  | 0x1A => some (.clz h (.ofWord w))
  | 0x1B => some (.popc h (.ofWord w))
  | 0x20 => some (.addi h (.ofWord w))
  | 0x21 => some (.andi h (.ofWord w))
  | 0x22 => some (.ori h (.ofWord w))
  | 0x23 => some (.xori h (.ofWord w))
  | 0x24 => some (.shli h (.ofWord w))
  | 0x25 => some (.shri h (.ofWord w))
  | 0x26 => some (.srai h (.ofWord w))
  | 0x27 => some (.slti h (.ofWord w))
  | 0x28 => some (.sltni h (.ofWord w))
  | 0x29 => some (.li h (.ofWord w))
  | 0x2A => some (.lih h (.ofWord w))
  | 0x2C => some (.addx h (.ofWord w))
  | 0x2D => some (.lds h (.ofWord w))
  | 0x2E => some (.sts h (.ofWord w))
  | 0x2F => some (.mpw h (.ofWord w))
  | 0x30 => some (.br h (.ofWord w))
  | 0x31 => some (.jmp h (.ofWord w))
  | 0x32 => some (.jmpr h (.ofWord w))
  | 0x33 => some (.call h (.ofWord w))
  | 0x34 => some (.callr h (.ofWord w))
  | 0x35 => some (.ret h (.ofWord w))
  | 0x36 => some (.loop h (.ofWord w))
  | 0x37 => some (.lpset h (.ofWord w))
  | 0x38 => some (.yld h (.ofWord w))
  | 0x39 => some (.endOp h (.ofWord w))
  | 0x40 => some (.csrr h (.ofWord w))
  | 0x41 => some (.csrw h (.ofWord w))
  | 0x42 => some (.csrs h (.ofWord w))
  | 0x43 => some (.csrc h (.ofWord w))
  | 0x44 => some (.trap h (.ofWord w))
  | 0x45 => some (.eret h (.ofWord w))
  | 0x46 => some (.chk h (.ofWord w))
  | 0x47 => some (.tbr h (.ofWord w))
  | 0x50 => some (.clkd h (.ofWord w))
  | 0x51 => some (.clke h (.ofWord w))
  | 0x52 => some (.when h (.ofWord w))
  | 0x53 => some (.mrg h (.ofWord w))
  | 0x54 => some (.pmrg h (.ofWord w))
  | 0x55 => some (.dlyr h (.ofWord w))
  | 0x56 => some (.dlyw h (.ofWord w))
  | 0x57 => some (.inst h (.ofWord w))
  | 0x58 => some (.chrd h (.ofWord w))
  | 0x59 => some (.chrdy h (.ofWord w))
  | 0x5A => some (.chwr h (.ofWord w))
  | 0x5B => some (.absn h (.ofWord w))
  | 0x60 => some (.bara h (.ofWord w))
  | 0x61 => some (.barw h (.ofWord w))
  | 0x62 => some (.bar h (.ofWord w))
  | 0x63 => some (.barx h (.ofWord w))
  | 0x64 => some (.ltar h (.ofWord w))
  | 0x65 => some (.ltin h (.ofWord w))
  | 0x66 => some (.ltwt h (.ofWord w))
  | 0x67 => some (.drn h (.ofWord w))
  | 0x68 => some (.waitc h (.ofWord w))
  | 0x69 => some (.sleep h (.ofWord w))
  | 0x6A => some (.pwra h (.ofWord w))
  | 0x6B => some (.pwrr h (.ofWord w))
  | 0x6C => some (.cpost h (.ofWord w))
  | 0x70 => some (.aadd h (.ofWord w))
  | 0x71 => some (.amin h (.ofWord w))
  | 0x72 => some (.amax h (.ofWord w))
  | 0x73 => some (.aand h (.ofWord w))
  | 0x74 => some (.aor h (.ofWord w))
  | 0x75 => some (.axor h (.ofWord w))
  | 0x76 => some (.aaddr h (.ofWord w))
  | 0x77 => some (.axch h (.ofWord w))
  | 0x78 => some (.acas h (.ofWord w))
  | 0x80 => some (.vadd h (.ofWord w))
  | 0x81 => some (.vsub h (.ofWord w))
  | 0x82 => some (.vmul h (.ofWord w))
  | 0x83 => some (.vfma h (.ofWord w))
  | 0x84 => some (.vfms h (.ofWord w))
  | 0x85 => some (.vmin h (.ofWord w))
  | 0x86 => some (.vmax h (.ofWord w))
  | 0x87 => some (.vabs h (.ofWord w))
  | 0x88 => some (.vneg h (.ofWord w))
  | 0x89 => some (.vcmp h (.ofWord w))
  | 0x8A => some (.vsel h (.ofWord w))
  | 0x8B => some (.vcvt h (.ofWord w))
  | 0x8C => some (.vrnd h (.ofWord w))
  | 0x8D => some (.vdiv h (.ofWord w))
  | 0x8E => some (.vsqrt h (.ofWord w))
  | 0x8F => some (.vrcp h (.ofWord w))
  | 0x90 => some (.vrsq h (.ofWord w))
  | 0x91 => some (.vex2 h (.ofWord w))
  | 0x92 => some (.vlg2 h (.ofWord w))
  | 0x93 => some (.vtnh h (.ofWord w))
  | 0x94 => some (.viadd h (.ofWord w))
  | 0x95 => some (.visub h (.ofWord w))
  | 0x96 => some (.vimul h (.ofWord w))
  | 0x97 => some (.vand h (.ofWord w))
  | 0x98 => some (.vor h (.ofWord w))
  | 0x99 => some (.vxor h (.ofWord w))
  | 0x9A => some (.vshl h (.ofWord w))
  | 0x9B => some (.vshr h (.ofWord w))
  | 0x9C => some (.vsra h (.ofWord w))
  | 0x9D => some (.vimin h (.ofWord w))
  | 0x9E => some (.vimax h (.ofWord w))
  | 0x9F => some (.vclz h (.ofWord w))
  | 0xA0 => some (.vpopc h (.ofWord w))
  | 0xA1 => some (.vclmp h (.ofWord w))
  | 0xA2 => some (.vbcst h (.ofWord w))
  | 0xA3 => some (.vperm h (.ofWord w))
  | 0xA4 => some (.vshf h (.ofWord w))
  | 0xA5 => some (.vrsum h (.ofWord w))
  | 0xA6 => some (.vrmax h (.ofWord w))
  | 0xA7 => some (.vscan h (.ofWord w))
  | 0xA8 => some (.vqnt h (.ofWord w))
  | 0xA9 => some (.vdqnt h (.ofWord w))
  | 0xAA => some (.veps h (.ofWord w))
  | 0xAB => some (.vmov h (.ofWord w))
  | 0xAC => some (.vli h (.ofWord w))
  | 0xAD => some (.vcfg h (.ofWord w))
  | 0xAE => some (.vchk h (.ofWord w))
  | 0xB0 => some (.mcall h (.ofWord w))
  | 0xB1 => some (.mcfg h (.ofWord w))
  | 0xB2 => some (.mzro h (.ofWord w))
  | 0xB3 => some (.mact h (.ofWord w))
  | 0xB4 => some (.mstp h (.ofWord w))
  | 0xB5 => some (.mrtn h (.ofWord w))
  | 0xC0 => some (.tld h (.ofWord w))
  | 0xC1 => some (.tst h (.ofWord w))
  | 0xC2 => some (.tldw h (.ofWord w))
  | 0xC3 => some (.cpy h (.ofWord w))
  | 0xC4 => some (.cpyq h (.ofWord w))
  | 0xC5 => some (.gath h (.ofWord w))
  | 0xC6 => some (.scat h (.ofWord w))
  | 0xC7 => some (.mcst h (.ofWord w))
  | 0xC8 => some (.rpkt h (.ofWord w))
  | 0xC9 => some (.rrcv h (.ofWord w))
  | 0xCA => some (.pfch h (.ofWord w))
  | 0xCB => some (.flsh h (.ofWord w))
  | o => if o < 0xF0 then some (.illegalOpcode h w) else none
/-- The operation a word names in slot `x`, before any check of its fields (R95); `none` where bits 63:60 are 0xF, which
is a framing error (R74). -/
def readWord (x : Slot) (w : Word) : Option Instr :=
  readOp (w.extractLsb' 56 8).toNat { slot := x, gk := w.extractLsb' 51 5, gs := w.extractLsb' 48 3 } w

/-- Why a word is rejected at the decode step of R97, ILLOP before ILLSLOT, or as a framing error. -/
inductive DecodeError where | illop | illslot | illbun
  deriving DecidableEq, Repr

/-- Decode one operation word in slot `x` (R95, R96). -/
def decodeSlot (x : Slot) (w : Word) : Except DecodeError Instr :=
  match readWord x w with
  | none => .error .illbun
  | some i =>
    match opcodeClass (w.extractLsb' 56 8).toNat with
    | none => .error .illop
    | some (c, _) => if !i.formOk then .error .illop else if !c.has x then .error .illslot else .ok i

/-- A word is sticky: its slot re-issues it (R77, R95). -/
def stickyWord (w : Word) : Bool :=
  match opcodeClass (w.extractLsb' 56 8).toNat with
  | some (_, b) => b
  | none => false

/-- The fields of a bundle header (R73). -/
structure Header where
  kind : Nat
  mask : Nat
  rep : Nat
  sig : Nat
  deriving DecidableEq, Repr

/-- The slots in the order of R73. -/
def slots : List Slot := [.s, .v0, .v1, .m, .c0, .c1]
/-- The number of a slot in that order. -/
def Slot.ix : Slot → Nat
  | .s => 0 | .v0 => 1 | .v1 => 2 | .m => 3 | .c0 => 4 | .c1 => 5
/-- The bit of a slot in MASK, FMASK and DMASK (R73, R233). -/
def Slot.maskBit (x : Slot) : Nat := 5 - x.ix
/-- Slot `x` is present in a mask. -/
def inMask (m : Nat) (x : Slot) : Bool := bit m x.maskBit

/-- Read a native header; `none` is ILLBUN (R73). -/
def decodeHeader (w : Word) : Option Header :=
  let n := w.toNat
  let k := bits n 59 56
  if bits n 63 60 = 0xF && k ≤ 5 && !(bit n 43) && bits n 42 32 = 0 && (k = 2 || bits n 31 0 = 0) then
    some { kind := k, mask := bits n 55 50, rep := bits n 49 44, sig := bits n 31 0 }
  else none
/-- The word of a native header (R73). -/
def Header.word (h : Header) : Word :=
  BitVec.ofNat 64 (0xF <<< 60 + h.kind <<< 56 + h.mask <<< 50 + h.rep <<< 44 + h.sig)
/-- The number of operation words that a mask announces (R74). -/
def maskCount (m : Nat) : Nat := (slots.filter (inMask m)).length

/-- The encoder: slot and operation word of an operation; `none` for an event, which no word encodes. -/
def encode : Instr → Option (Slot × Word)
  | .nop x r => some (x, (0 : BitVec 8) ++ r)
  | .add h f => some (h.slot, h.pack 0x01 ++ f.pack)
  | .sub h f => some (h.slot, h.pack 0x02 ++ f.pack)
  | .mul h f => some (h.slot, h.pack 0x03 ++ f.pack)
  | .mulh h f => some (h.slot, h.pack 0x04 ++ f.pack)
  | .mulhn h f => some (h.slot, h.pack 0x05 ++ f.pack)
  | .div h f => some (h.slot, h.pack 0x06 ++ f.pack)
  | .divn h f => some (h.slot, h.pack 0x07 ++ f.pack)
  | .rem h f => some (h.slot, h.pack 0x08 ++ f.pack)
  | .remn h f => some (h.slot, h.pack 0x09 ++ f.pack)
  | .and h f => some (h.slot, h.pack 0x0A ++ f.pack)
  | .or h f => some (h.slot, h.pack 0x0B ++ f.pack)
  | .xor h f => some (h.slot, h.pack 0x0C ++ f.pack)
  | .andn h f => some (h.slot, h.pack 0x0D ++ f.pack)
  | .shl h f => some (h.slot, h.pack 0x0E ++ f.pack)
  | .shr h f => some (h.slot, h.pack 0x0F ++ f.pack)
  | .sra h f => some (h.slot, h.pack 0x10 ++ f.pack)
  | .min h f => some (h.slot, h.pack 0x11 ++ f.pack)
  | .max h f => some (h.slot, h.pack 0x12 ++ f.pack)
  | .minn h f => some (h.slot, h.pack 0x13 ++ f.pack)
  | .maxn h f => some (h.slot, h.pack 0x14 ++ f.pack)
  | .seq h f => some (h.slot, h.pack 0x15 ++ f.pack)
  | .sne h f => some (h.slot, h.pack 0x16 ++ f.pack)
  | .slt h f => some (h.slot, h.pack 0x17 ++ f.pack)
  | .sltn h f => some (h.slot, h.pack 0x18 ++ f.pack)
  | .sel h f => some (h.slot, h.pack 0x19 ++ f.pack)
  | .clz h f => some (h.slot, h.pack 0x1A ++ f.pack)
  | .popc h f => some (h.slot, h.pack 0x1B ++ f.pack)
  | .addi h f => some (h.slot, h.pack 0x20 ++ f.pack)
  | .andi h f => some (h.slot, h.pack 0x21 ++ f.pack)
  | .ori h f => some (h.slot, h.pack 0x22 ++ f.pack)
  | .xori h f => some (h.slot, h.pack 0x23 ++ f.pack)
  | .shli h f => some (h.slot, h.pack 0x24 ++ f.pack)
  | .shri h f => some (h.slot, h.pack 0x25 ++ f.pack)
  | .srai h f => some (h.slot, h.pack 0x26 ++ f.pack)
  | .slti h f => some (h.slot, h.pack 0x27 ++ f.pack)
  | .sltni h f => some (h.slot, h.pack 0x28 ++ f.pack)
  | .li h f => some (h.slot, h.pack 0x29 ++ f.pack)
  | .lih h f => some (h.slot, h.pack 0x2A ++ f.pack)
  | .addx h f => some (h.slot, h.pack 0x2C ++ f.pack)
  | .lds h f => some (h.slot, h.pack 0x2D ++ f.pack)
  | .sts h f => some (h.slot, h.pack 0x2E ++ f.pack)
  | .mpw h f => some (h.slot, h.pack 0x2F ++ f.pack)
  | .br h f => some (h.slot, h.pack 0x30 ++ f.pack)
  | .jmp h f => some (h.slot, h.pack 0x31 ++ f.pack)
  | .jmpr h f => some (h.slot, h.pack 0x32 ++ f.pack)
  | .call h f => some (h.slot, h.pack 0x33 ++ f.pack)
  | .callr h f => some (h.slot, h.pack 0x34 ++ f.pack)
  | .ret h f => some (h.slot, h.pack 0x35 ++ f.pack)
  | .loop h f => some (h.slot, h.pack 0x36 ++ f.pack)
  | .lpset h f => some (h.slot, h.pack 0x37 ++ f.pack)
  | .yld h f => some (h.slot, h.pack 0x38 ++ f.pack)
  | .endOp h f => some (h.slot, h.pack 0x39 ++ f.pack)
  | .csrr h f => some (h.slot, h.pack 0x40 ++ f.pack)
  | .csrw h f => some (h.slot, h.pack 0x41 ++ f.pack)
  | .csrs h f => some (h.slot, h.pack 0x42 ++ f.pack)
  | .csrc h f => some (h.slot, h.pack 0x43 ++ f.pack)
  | .trap h f => some (h.slot, h.pack 0x44 ++ f.pack)
  | .eret h f => some (h.slot, h.pack 0x45 ++ f.pack)
  | .chk h f => some (h.slot, h.pack 0x46 ++ f.pack)
  | .tbr h f => some (h.slot, h.pack 0x47 ++ f.pack)
  | .clkd h f => some (h.slot, h.pack 0x50 ++ f.pack)
  | .clke h f => some (h.slot, h.pack 0x51 ++ f.pack)
  | .when h f => some (h.slot, h.pack 0x52 ++ f.pack)
  | .mrg h f => some (h.slot, h.pack 0x53 ++ f.pack)
  | .pmrg h f => some (h.slot, h.pack 0x54 ++ f.pack)
  | .dlyr h f => some (h.slot, h.pack 0x55 ++ f.pack)
  | .dlyw h f => some (h.slot, h.pack 0x56 ++ f.pack)
  | .inst h f => some (h.slot, h.pack 0x57 ++ f.pack)
  | .chrd h f => some (h.slot, h.pack 0x58 ++ f.pack)
  | .chrdy h f => some (h.slot, h.pack 0x59 ++ f.pack)
  | .chwr h f => some (h.slot, h.pack 0x5A ++ f.pack)
  | .absn h f => some (h.slot, h.pack 0x5B ++ f.pack)
  | .bara h f => some (h.slot, h.pack 0x60 ++ f.pack)
  | .barw h f => some (h.slot, h.pack 0x61 ++ f.pack)
  | .bar h f => some (h.slot, h.pack 0x62 ++ f.pack)
  | .barx h f => some (h.slot, h.pack 0x63 ++ f.pack)
  | .ltar h f => some (h.slot, h.pack 0x64 ++ f.pack)
  | .ltin h f => some (h.slot, h.pack 0x65 ++ f.pack)
  | .ltwt h f => some (h.slot, h.pack 0x66 ++ f.pack)
  | .drn h f => some (h.slot, h.pack 0x67 ++ f.pack)
  | .waitc h f => some (h.slot, h.pack 0x68 ++ f.pack)
  | .sleep h f => some (h.slot, h.pack 0x69 ++ f.pack)
  | .pwra h f => some (h.slot, h.pack 0x6A ++ f.pack)
  | .pwrr h f => some (h.slot, h.pack 0x6B ++ f.pack)
  | .cpost h f => some (h.slot, h.pack 0x6C ++ f.pack)
  | .aadd h f => some (h.slot, h.pack 0x70 ++ f.pack)
  | .amin h f => some (h.slot, h.pack 0x71 ++ f.pack)
  | .amax h f => some (h.slot, h.pack 0x72 ++ f.pack)
  | .aand h f => some (h.slot, h.pack 0x73 ++ f.pack)
  | .aor h f => some (h.slot, h.pack 0x74 ++ f.pack)
  | .axor h f => some (h.slot, h.pack 0x75 ++ f.pack)
  | .aaddr h f => some (h.slot, h.pack 0x76 ++ f.pack)
  | .axch h f => some (h.slot, h.pack 0x77 ++ f.pack)
  | .acas h f => some (h.slot, h.pack 0x78 ++ f.pack)
  | .vadd h f => some (h.slot, h.pack 0x80 ++ f.pack)
  | .vsub h f => some (h.slot, h.pack 0x81 ++ f.pack)
  | .vmul h f => some (h.slot, h.pack 0x82 ++ f.pack)
  | .vfma h f => some (h.slot, h.pack 0x83 ++ f.pack)
  | .vfms h f => some (h.slot, h.pack 0x84 ++ f.pack)
  | .vmin h f => some (h.slot, h.pack 0x85 ++ f.pack)
  | .vmax h f => some (h.slot, h.pack 0x86 ++ f.pack)
  | .vabs h f => some (h.slot, h.pack 0x87 ++ f.pack)
  | .vneg h f => some (h.slot, h.pack 0x88 ++ f.pack)
  | .vcmp h f => some (h.slot, h.pack 0x89 ++ f.pack)
  | .vsel h f => some (h.slot, h.pack 0x8A ++ f.pack)
  | .vcvt h f => some (h.slot, h.pack 0x8B ++ f.pack)
  | .vrnd h f => some (h.slot, h.pack 0x8C ++ f.pack)
  | .vdiv h f => some (h.slot, h.pack 0x8D ++ f.pack)
  | .vsqrt h f => some (h.slot, h.pack 0x8E ++ f.pack)
  | .vrcp h f => some (h.slot, h.pack 0x8F ++ f.pack)
  | .vrsq h f => some (h.slot, h.pack 0x90 ++ f.pack)
  | .vex2 h f => some (h.slot, h.pack 0x91 ++ f.pack)
  | .vlg2 h f => some (h.slot, h.pack 0x92 ++ f.pack)
  | .vtnh h f => some (h.slot, h.pack 0x93 ++ f.pack)
  | .viadd h f => some (h.slot, h.pack 0x94 ++ f.pack)
  | .visub h f => some (h.slot, h.pack 0x95 ++ f.pack)
  | .vimul h f => some (h.slot, h.pack 0x96 ++ f.pack)
  | .vand h f => some (h.slot, h.pack 0x97 ++ f.pack)
  | .vor h f => some (h.slot, h.pack 0x98 ++ f.pack)
  | .vxor h f => some (h.slot, h.pack 0x99 ++ f.pack)
  | .vshl h f => some (h.slot, h.pack 0x9A ++ f.pack)
  | .vshr h f => some (h.slot, h.pack 0x9B ++ f.pack)
  | .vsra h f => some (h.slot, h.pack 0x9C ++ f.pack)
  | .vimin h f => some (h.slot, h.pack 0x9D ++ f.pack)
  | .vimax h f => some (h.slot, h.pack 0x9E ++ f.pack)
  | .vclz h f => some (h.slot, h.pack 0x9F ++ f.pack)
  | .vpopc h f => some (h.slot, h.pack 0xA0 ++ f.pack)
  | .vclmp h f => some (h.slot, h.pack 0xA1 ++ f.pack)
  | .vbcst h f => some (h.slot, h.pack 0xA2 ++ f.pack)
  | .vperm h f => some (h.slot, h.pack 0xA3 ++ f.pack)
  | .vshf h f => some (h.slot, h.pack 0xA4 ++ f.pack)
  | .vrsum h f => some (h.slot, h.pack 0xA5 ++ f.pack)
  | .vrmax h f => some (h.slot, h.pack 0xA6 ++ f.pack)
  | .vscan h f => some (h.slot, h.pack 0xA7 ++ f.pack)
  | .vqnt h f => some (h.slot, h.pack 0xA8 ++ f.pack)
  | .vdqnt h f => some (h.slot, h.pack 0xA9 ++ f.pack)
  | .veps h f => some (h.slot, h.pack 0xAA ++ f.pack)
  | .vmov h f => some (h.slot, h.pack 0xAB ++ f.pack)
  | .vli h f => some (h.slot, h.pack 0xAC ++ f.pack)
  | .vcfg h f => some (h.slot, h.pack 0xAD ++ f.pack)
  | .vchk h f => some (h.slot, h.pack 0xAE ++ f.pack)
  | .mcall h f => some (h.slot, h.pack 0xB0 ++ f.pack)
  | .mcfg h f => some (h.slot, h.pack 0xB1 ++ f.pack)
  | .mzro h f => some (h.slot, h.pack 0xB2 ++ f.pack)
  | .mact h f => some (h.slot, h.pack 0xB3 ++ f.pack)
  | .mstp h f => some (h.slot, h.pack 0xB4 ++ f.pack)
  | .mrtn h f => some (h.slot, h.pack 0xB5 ++ f.pack)
  | .tld h f => some (h.slot, h.pack 0xC0 ++ f.pack)
  | .tst h f => some (h.slot, h.pack 0xC1 ++ f.pack)
  | .tldw h f => some (h.slot, h.pack 0xC2 ++ f.pack)
  | .cpy h f => some (h.slot, h.pack 0xC3 ++ f.pack)
  | .cpyq h f => some (h.slot, h.pack 0xC4 ++ f.pack)
  | .gath h f => some (h.slot, h.pack 0xC5 ++ f.pack)
  | .scat h f => some (h.slot, h.pack 0xC6 ++ f.pack)
  | .mcst h f => some (h.slot, h.pack 0xC7 ++ f.pack)
  | .rpkt h f => some (h.slot, h.pack 0xC8 ++ f.pack)
  | .rrcv h f => some (h.slot, h.pack 0xC9 ++ f.pack)
  | .pfch h f => some (h.slot, h.pack 0xCA ++ f.pack)
  | .flsh h f => some (h.slot, h.pack 0xCB ++ f.pack)
  | .stickyReissue _ => none
  | .vwlPresetLoad _ _ => none
  | .viewRegisterWrite _ _ _ _ => none
  | .tstatWrite _ _ _ => none
  | .prdWrite _ _ _ => none
  | .pmevWrite _ _ _ => none
  | .pmcWrite _ _ _ _ => none
  | .registerWrite _ _ _ _ => none
  | .cprRequest _ _ => none
  | .heldRequestStart _ => none
  | .voltageStep _ => none
  | .frequencyStep _ => none
  | .tthWrite _ _ => none
  | .calWrite _ _ => none
  | .grantStep _ => none
  | .waitResolve _ => none
  | .deadlineExpiry _ => none
  | .markerDeadlineExpiry _ => none
  | .promise _ => none
  | .copyCompletion _ _ => none
  | .copyFault _ _ => none
  | .loadDataArrival _ _ => none
  | .storePerform _ _ => none
  | .tldwBlockWrite _ _ => none
  | .vectorResultWrite _ => none
  | .routineStart _ => none
  | .sequencerStep _ => none
  | .routineEnd _ => none
  | .mzroWrite _ => none
  | .barrierCompletion _ => none
  | .memberResume _ => none
  | .staleReclaim _ => none
  | .latchArrival _ _ => none
  | .cellStamp _ _ => none
  | .channelEntryMove _ _ _ => none
  | .conflictEntryConfirm _ _ => none
  | .conflictSpill _ _ => none
  | .supervisorResume _ => none
  | .endTeam _ _ => none
  | .coldtxtService _ _ _ => none
  | .memue _ _ _ => none
  | .frameRetire _ _ _ => none
  | .yieldRequest _ _ => none
  | .yieldDeadlineExpiry _ => none
  | .preEmption _ => none
  | .swapIn _ => none
  | .residency _ => none
  | .quantumExpiry _ => none
  | .parkReclaim _ => none
  | .teamCompletion _ => none
  | .instantClose _ => none
  | .kernelBoundary _ => none
  | .commandArrival _ _ => none
  | .launch _ => none
  | .copy _ => none
  | .signal _ => none
  | .wait _ => none
  | .loadFolio _ => none
  | .unloadFolio _ => none
  | .powerCap _ => none
  | .queryIdentity _ => none
  | .queryQueueState _ => none
  | .queryCounts _ => none
  | .commandCompletion _ => none
  | .copyQueueServe _ => none
  | .nodeOperandArrival _ => none
  | .rootDelivery _ _ => none
  | .cancelRequest _ _ => none
  | .collectivePacket _ _ => none
  | .windowSample _ => none
  | .hostWriteCompletion _ _ => none
  | .pageInvalidation _ _ _ _ => none
  | .regionInstall _ _ => none
  | .formatRegionWrite _ _ _ => none
  | .sidebandRead _ _ => none
  | .uetRmaAccess _ _ _ _ => none
  | .portDown _ => none
  | .portUp _ => none
  | .queueConfiguration _ _ _ _ _ => none
  | .contextDescriptorWrite _ _ => none
  | .copyResumption _ _ => none
  | .supervisorTrapEntry _ => none
  | .atomicPerform _ _ => none
  | .illegalOpcode _ _ => none
  | .sensorPoll => none
  | .dispatchStep => none
  | .coldStart => none
  | .warmStart => none

/-- The opcode table's bit numbering: the table gives no row a width, so a row's instruction is its 64-bit operation
word, in the first slot its opcode is legal in (R95), bit 0 the least significant. -/
def tableSlot (w : Nat) : Slot :=
  match opcodeClass (bits w 63 56) with
  | some (c, _) => c.first
  | none => .s
/-- What the decoder reads from a table word (see `tableSlot`). -/
def decodeTableWord (nbits w : Nat) : Option Instr :=
  let w' := if nbits < 64 then w % 2 ^ nbits else w % 2 ^ 64
  match decodeSlot (tableSlot w') (BitVec.ofNat 64 w') with
  | .ok i => some i
  | .error _ => none

end Sys2Proof
end

