-- ==== Sys2Proof/Config.lean ====
section
/-! DEFINITION. What the part fixes and the free values: constants without a body, of which nothing can be proved
(guide, "What the manual leaves undefined"). Each is named in an entry of the assumption log. -/
namespace Sys2Proof.Config

/-- The n-th free value: old or new data of a racing access, the bytes that a short `CPYQ` element lacks, a draw estimate, a
launch block that cannot be read (log 18). -/
opaque freeWord : Nat → BitVec 64
/-- The part's serial number, 16 bytes (R385; log 15). -/
opaque serial : BitVec 128
/-- The folio key list of Talyth's firmware configuration, as the bytes that are measured (R387; log 15). -/
opaque folioKeys : List (BitVec 8)
/-- The UET fabric endpoint address of port p, 8 bytes (R385; log 15). -/
opaque endpoint : Nat → BitVec 64
/-- Identity public key (R384; log 15). -/
opaque identityKey : BitVec 384
/-- The attestation public key of start number n (R384; log 15). -/
opaque attestationKey : Nat → BitVec 256
/-- The signature that Talyth's manufacturing key (0), the identity key (1) or the attestation key of a start (2 + n)
gives over a message of bytes (FIPS 205; log 15). -/
opaque signature : Nat → List (BitVec 8) → Nat
/-- Whether the last bytes of a folio verify as a signature of the rest under a folio key (R387; log 15). -/
opaque verifies : List (BitVec 8) → List (BitVec 8) → Bool
/-- Talyth's firmware configuration: whether a context requires signed folios, FSIG of R387 (log 15). -/
opaque fsig : Bool
/-- The idle floor of R385 in watts. -/
def idleFloor : Nat := 350
/-- The thermal design power of R385 in watts. -/
def thermalPower : Nat := 2400
/-- The smallest W less 1 among the instances of a collective's other members (R333), by its number: what the host has set up
in other packages (log 51). -/
opaque otherWindow : Nat → Nat
/-- The ticks after a cancel request to the root member of a collective, by its number, within which the verdict comes unless that
member has failed: the fabric's latency, which the device does not fix (R324, R333; log 40). -/
opaque verdictTicks : Nat → Nat

end Sys2Proof.Config
end

