-- ==== Sys2Proof/Machine/State.lean ====
section
/-! DEFINITION. The state of the part as plain data: everything the spec gives the machine, and the model's own fields
(agenda, turn, free-value counter), each named in INVENTORY.md. -/
namespace Sys2Proof.Machine

/-- A delay cell (R192); `clock` is the bound clock. -/
structure Cell where
  committed : Word := 0
  pending : Word := 0
  written : Bool := false
  clock : Option Nat := none
  deriving DecidableEq, Repr
/-- An input latch (R80). -/
structure Latch where
  val : Line := 0
  tag : Nat := 31
  deriving DecidableEq, Repr

/-- What a core is doing. -/
inductive Mode where
  | idle | run | stopped | yielded | ended
  deriving DecidableEq, Repr

/-- Where a result goes: a scalar register or bytes of the register space. -/
inductive Dst where
  | none
  | sreg (d : Nat)
  | space (addr n : Nat)
  deriving DecidableEq, Repr

/-- The windows of a routine: base and size of A, accumulator, bias, Q and weight (R158). -/
structure Windows where
  a : Nat × Nat
  acc : Nat × Nat
  bias : Nat × Nat
  q : Nat × Nat
  w : Nat × Nat
  deriving DecidableEq, Repr
/-- A command-queue entry of the matrix unit: an MCALL or, with `zero`, an MZRO (R154, R159, R160). -/
structure MxEntry where
  word : Word
  wc : List Word
  win : Windows
  guard : Nat
  zero : Option (Nat × Nat) := none
  before : Nat               -- operations with a lower number issued earlier
  skip : List (Nat × Nat) := []  -- ranges that later writes have taken from it (R81)
  deriving DecidableEq, Repr
/-- The state of the running routine (R154, R161, R165). -/
structure Routine where
  entry : MxEntry
  step : Nat
  wc : List Word
  lc : List Nat
  nr : Nat := 0
  nc : Nat := 0
  ka : Nat := 0
  kb : Nat := 0
  stA : Table Nat := []      -- staging of A, element r × 8192 + k, as codes of AF
  stB : Table (Nat × Int × Nat) := []  -- staging of B: sign and class, exponent, significand (see Matrix.lean)
  loadedA : Nat := 0
  loadedB : Nat := 0
  part : Table Nat := []     -- partial sums, element r × 96 + c
  flags : Nat := 0
  bndy : Bool := false                 -- the last step was BNDY (R165)
  ended : Bool := false
  deriving DecidableEq, Repr
/-- The matrix unit (R154). -/
structure Mx where
  queue : List MxEntry := []
  run : Option Routine := none
  routines : Table Word := []
  store : Table Word := []
  act : Table Nat := []
  deriving DecidableEq, Repr

/-- A first-level line (R253): dirty bytes as a mask, the EVP of its page, and the latch of a handoff page (R271). -/
structure L1Line where
  pa : Nat
  data : Line
  dirty : Nat
  evp : Nat
  latch : Option Nat := none
  deriving DecidableEq, Repr

/-- A bulk copy (R174-R176, R277, R311). -/
structure Copy where
  id : Nat
  dst : Nat
  src : Nat
  len : Nat
  data : List Byte           -- the source as read (R174)
  issued : Nat
  cost : Nat
  promise : Nat
  done : Nat := 0
  complete : Bool := false
  stopped : Option Nat := none
  fault : Option (Nat × Nat × Nat) := none   -- cause, address, access of R234
  late : Bool := false       -- incomplete when the time base reached its promise (R176)
  taken : Bool := false      -- PROMISE taken (R176)
  established : Bool := false
  team : Nat
  joined : Bool := false     -- a view-join bundle has issued since: its writes are never cross-view (R252)
  seq : Nat := 0             -- its place in the core's issue order
  skip : List (Nat × Nat) := []  -- ranges of the destination that later accesses of the core have written (R117), or that the copy has (R270)
  todo : List (Nat × Nat × Bool) := []  -- pieces that no page held at the issue, and so are still to be checked: address, bytes, destination (R274)
  deriving DecidableEq, Repr

/-- What an in-flight operation still owes. -/
inductive Flying where
  | sres (d : Nat) (x : Word) (due : Nat)
  | vres (addr : Nat) (x : Line) (mask : Nat) (flags : Nat) (due : Nat) (u : Nat)
  | load (dst : Dst) (data : Nat)
  | store (lines : List Nat) (host : Bool) (latches : List Nat) (far : Bool)
  | tldw (off : Nat) (data : List Byte)
  | atomic (dst : Dst) (x : Word) (scope : Nat)
  | cell (ch : Nat) (ring : Nat) (data : List Byte) (stamp : Nat) (pres : Bool)
  | ltin (l : Nat)
  deriving DecidableEq, Repr
/-- An operation in flight, with its number in the core's issue order and the guard that its result takes as tag. -/
structure Flight where
  id : Nat
  guard : Nat
  what : Flying
  live : Bool := true        -- a later write has not replaced its scalar result (R81)
  skip : List (Nat × Nat) := []  -- ranges of the register space that later writes have taken (R81), or of the weight buffer that are written (R171)
  src : List (Nat × Nat × Nat) := []  -- what a load read: physical address, bytes, offset in its data (R246)
  deriving DecidableEq, Repr

/-- A continuation record (R209, R299). -/
structure Post where
  payload : List Byte
  addr : Nat
  bucket : Nat
  entry : Nat
  instant : Nat
  core : Nat
  seq : Nat
  deriving DecidableEq, Repr

/-- A record (R279, R344): the teams that have accessed its granules and those that have written them. RT is none, the one
team or MANY, and RW says whether there is a writer. `tent`: teams that it is to have once some bundles, each of a core
and issued in a cycle, have all committed (R275), and whether as writers. -/
structure Record where
  teams : List Nat := []
  writers : List Nat := []
  tent : List (List (Nat × Nat) × List Nat × Bool) := []
  spilled : Bool := false
  deriving DecidableEq, Repr
/-- Conflict entries (R275, R276, R278, R279, R344). -/
inductive Live where
  | rd (cores : List Nat)
  | own (core : Nat)
  | red (opc ty sz : Nat)
  deriving DecidableEq, Repr
/-- A granule entry (R276, R344). -/
structure Granule where
  live : Live
  team : Nat
  par : Nat := 0                    -- completions of the team's barrier at entry: PAR is its parity (R280)
  cp : Option (Nat × Nat) := none   -- core and copy id
  base : Option (Live × Nat × Nat) := none  -- while a claim is tentative: what is confirmed, with its team and parity
  tent : List (Nat × Nat × Live × Nat × Nat) := []  -- tentative claims: core, cycle, claim, team, parity (R275)
  spilled : Bool := false
  deriving DecidableEq, Repr
/-- What a bundle does at its commit: gathered at issue, applied in slot order (R77, R186). -/
inductive Eff where
  | sreg (d : Nat) (x : Word) (lat : Nat)
  | status (st : Nat) (x : Word)
  | vres (addr : Nat) (x : Line) (lat : Nat) (flags : Nat) (u : Nat)
  | space (addr n x : Nat)
  | csr (k : CsrOp) (n : Nat) (x : Word)
  | raw (n : Nat) (x : Word)
  | latch (i : Nat) (l : Latch)
  | load (dst : Dst) (x : Nat) (src : List (Nat × Nat × Nat))
  | store (cells : List (Nat × Byte)) (mode : Nat) (evp : Nat) (latch : Option Nat)
  | sent (lines : List Nat) (host : Bool) (latches : List Nat) (far : Bool)  -- a store in flight: class sd until it has performed; `far`: to another die's replica
  | tldw (off : Nat) (data : List Byte) (src : List (Nat × Nat × Nat))
  | atomic (op pa w : Nat) (b cmp : Word) (dst : Dst) (scope : Nat) (remote : Bool)
  | over (a n : Nat)              -- a write of the core: its unfinished copies leave these bytes alone (R117)
  | cpy (c : Copy)
  | cpyq (desc d : Nat) (data : List Byte)
  | count (cls : Nat)
  | prefetch (pa evp : Nat) (latch : Option Nat) (sl : Bool)
  | flush (sl : Bool) (pas : List Nat)
  | mx (e : MxEntry)
  | act (t : Nat) (x : Nat)
  | mstp (blk : Nat) (ws : List Word)
  | mrtn (i : Nat) (x : Word)
  | clkd (k : Nat) (x : Nat)
  | clke (k : Nat) (v : Bool)
  | dlyw (n : Nat) (x : Word)
  | inst
  | endOp
  | yld
  | trap (code : Nat)
  | eret
  | bara (o : Nat)
  | barx (o : Nat)
  | resumed                       -- the core's resumption from a barrier: its clean lines go (R272)
  | forget (o : Nat)              -- the core has waited for its release
  | ltar (l n : Nat)
  | ltin (l : Nat)
  | cellOut (ch ring : Nat) (data : List Byte) (stamp : Nat) (pres : Bool)  -- the data and stamp of a claimed cell leave (R197)
  | consume (ch rs : Nat)         -- the cell of sequence number rs, where it is still the head (R199)
  | level (n : Nat)
  | cpost (p : Post)
  | rpkt (key j : Nat) (x : Line)
  | rrcv (key i : Nat)
  | flags (f : Nat)
  | txp
  | drained (mask scope : Nat)
  | established
  | slept (t : Nat)
  | acquire (l : Nat)
  deriving DecidableEq, Repr

/-- The condition of a waiting operation (R181, R184). -/
inductive WaitKind where
  | chwr (ch : Nat) (data : List Byte)
  | absn (ch : Nat)
  | chrd (ch : Nat) (dst : Option Nat)
  | bar (o : Nat)
  | ltwt (l : Nat)
  | drn (scope mask before : Nat)
  | waitc (ld sd cp mx : Nat)
  | sleep (t : Nat)
  | pwra (n : Nat)
  | cpost (p : Post)
  | rrcv (inst addr : Nat)
  deriving DecidableEq, Repr
/-- One waiting operation of a bundle: its status register, deadline and outcome so far (R182-R186). -/
structure Wait where
  slot : Nat
  kind : WaitKind
  st : Nat
  wall : Bool
  dl : Nat
  esc : Bool
  word : Word
  guard : Nat
  stale : Nat := 0
  claim : Option (Nat × Nat × Int) := none   -- the channel claimed with its ws and LW before (R197, R198)
  out : Option (Nat × Nat × Nat) := none     -- code, detail, mask
  effs : List Eff := []
  deriving DecidableEq, Repr
/-- A trap to be taken: cause and step of R97, failing slots, FRS words (R233, R234). `behind`: it follows a bundle that has
committed and whose escalation came first: that bundle's address, and whether the core was in its handler (R130, R185). -/
structure Trap where
  cause : Nat
  step : Nat
  fmask : Nat := 0
  frs : List Word := []
  behind : Option (Nat × Bool) := none
  deriving DecidableEq, Repr
/-- A bundle that waits for its conditions before it commits (R186). -/
structure Waiting where
  t0 : Nat
  cyc : Nat                                   -- the cycle of its issue
  rt0 : Nat
  waits : List Wait
  effs : List (Nat × Nat × List Eff)         -- slot, guard and effects, in slot order
  fra : Nat                                   -- this bundle
  next : Nat                                  -- the bundle that issues next, and its repetition index
  rep : Nat
  taken : Bool                                -- a transfer is taken
  steps : List (Nat × Word × Nat)             -- re-issue words and counts after this issue, per slot
  weight : Nat
  nullified : Nat
  undo : List (Nat × Option Granule)          -- granules claimed tentatively, as they stood before
  undoRec : List Nat := []                    -- records that the issue has changed (R275)
  views : List (Nat × Nat × Nat) × List (Nat × Nat × Nat) := ([], [])  -- the core's records of R252 before the issue
  deriving DecidableEq, Repr

/-- Registers that programs name, and the register space. -/
structure Regs where
  s : Table Word := []
  stag : Table Nat := []
  rs : Table Line := []
  gtag : Table Nat := []
  cells : Table Cell := []
  clocks : Table Nat := []
  csr : Table Word := []
  latch : Table Latch := []
  rw : Table Word := []
  rc : Table Nat := []
  deriving DecidableEq, Repr
/-- A wait taken back by a pre-emption (R186, R242): its bundle and repetition, t0, resident ticks and waits. -/
structure Back where
  pc : Nat
  rep : Nat
  t0 : Nat
  rt0 : Nat
  waits : List Wait
  deriving DecidableEq, Repr
/-- The shadow of a handler (R236), the core's place in its gang's stream (R237), and a wait that goes on behind the
handler (R186). -/
structure Shadow where
  rw : Table Word
  rc : Table Nat
  latch : Table Latch
  issued : Nat := 0
  back : Option Back := none
  later : Mode := .run       -- what the core is to be behind the handler (R126, R127)
  deriving DecidableEq, Repr
/-- Control of a core. -/
structure Ctl where
  mode : Mode := .idle
  team : Nat := 0
  pos : Nat := 0
  gpos : Nat := 0
  pc : Nat := 0
  rep : Nat := 0
  dmask : Nat := 0
  wait : Option Waiting := none
  back : Option Back := none
  owed : List Trap := []            -- traps taken before the next issue (R175, R246)
  supervisor : Option Trap := none  -- why the core stands stopped (R236)
  shadow : Option Shadow := none
  nested : Option (Trap × Nat) := none
  later : Mode := .run              -- what the core is to be once its trap is over: it had yielded or ended (R126, R127)
  owesReturn : Bool := false        -- an ERET whose bundle escalated: the resumption is still to come (R131)
  seq : Nat := 0                    -- number of the next operation
  posts : Nat := 0                  -- continuation sequence number (R209)
  level : Nat := 0
  window : List (Nat × Nat) := []   -- cycle and weight of recent issues (R373)
  issued : Nat := 0                 -- bundle issues so far (R19)
  glog : List (Nat × Nat × Nat) := []  -- position 0: issue, gang clock less the leader's offset, outcome of a transfer (R19, R125)
  gclock : Nat := 128               -- position 0: the gang's clock, which stands while a member stalls (R19, R186)
  gsave : Nat := 128                -- position 0: the clock at which the gang entered its handler (R20, R237)
  stall : Nat := 0                  -- cycles still to pass without an issue (R120)
  ltins : List Nat := []            -- latches on which the issue in hand has issued LTIN (R278)
  did : Nat := 0                    -- this cycle: 0 nothing, 1 issued, 2 scoreboard, 3 wait, 4 full queue, 5 gang, 6 interlock, 7 held, 8 wait on barriers, 9 trap entry, 10 limit of a count
  events : Table Nat := []          -- what this cycle adds to the counters that select an event (R361, R362)
  pmev : Nat := 0                   -- PMEV as this cycle began (R362)
  dest : Option Bool := none        -- while the trap of another member of its gang is taken: whether that goes to the handler (R237)
  lastInst : Option Nat := none     -- IC from which the last INST moved (R291)
  writtenLin : List (Nat × Nat × Nat) := []  -- R252: granules written through the linear view: bytes before, and a bit for each element written since
  writtenSwz : List (Nat × Nat × Nat) := []
  deriving DecidableEq, Repr
/-- A core. -/
structure Core where
  ctl : Ctl := {}
  regs : Regs := {}
  mx : Mx := {}
  l1 : List L1Line := []
  wbuf : Table Line := []
  flights : List Flight := []
  copies : List Copy := []
  engq : List (Nat × Nat × Nat) := []  -- entries of the copy engines' queues: engine, and the numbers of its operations (R301)
  engBusy : Table Nat := []            -- cycles for which an engine takes no entry: an input (log 47)
  rcb : Option Nat := none          -- the region of the team that last held the core (R263)
  deriving DecidableEq, Repr

/-- A barrier object (R200-R203, R347). -/
structure Barrier where
  members : List (Nat × Nat) := []   -- core and tier
  spacing : Nat := 0
  inTicks : Bool := false
  phase : Nat := 0
  arrivals : List (Nat × Nat) := []  -- core, and the number below which its operations must have performed
  release : List (Nat × Nat × Nat) := []  -- core, tick and cycle of its resumption; completed, not yet waited for
  lastDone : Nat := 0
  reclaim : Nat := 0                 -- cycle before which the next phase of a team barrier does not complete (R365)
  owner : Nat := 0                   -- a team barrier: its team's number plus 1 (R21)
  holder : Nat := 0                  -- a die or package barrier: its grid's number plus 1 (R347)
  deriving DecidableEq, Repr
/-- A latch (R204) with who has arrived and waited in this arming (R278). -/
structure LatchObj where
  n : Nat := 0
  a : Nat := 0
  passed : Bool := false
  ins : List Nat := []
  waited : List Nat := []
  deriving DecidableEq, Repr
/-- A channel: the home entry of R346 with its state; `home` is the cluster that keeps the entry. -/
structure Channel where
  valid : Bool := false
  grid : Nat := 0
  pteam : Nat := 0
  ppos : Nat := 0
  cteam : Nat := 0
  cpos : Nat := 0
  depth : Nat := 0
  cell : Nat := 0
  mdl : Nat := 0
  head : Nat := 0
  ring : Nat := 0
  ws : Nat := 0
  lw : Int := -1
  rs : Nat := 0
  fresh : List Nat := []     -- ring places freed in this cycle of the consumer's cluster (R307)
  home : Nat := 0
  moving : Bool := false     -- the supervisor is moving the entry (R306)
  early : List (Nat × List Byte × Nat × Bool) := []  -- cells written before the consumer's first residency: ring place, data, stamp, presence
  deriving DecidableEq, Repr
/-- An entry of a cluster's channel table (R346): the grid that it serves, FWD with HOMEC, and the cores. The home's state is
in `Channel`. -/
structure ChanEntry where
  valid : Bool := false
  grid : Nat := 0
  fwd : Bool := false
  homec : Nat := 0
  pcore : Nat := 0
  ccore : Nat := 0
  deriving DecidableEq, Repr
/-- A node entry of a router (R348): instance, place of the node in its tree, side of the parent, ROOT, UP, and the parent's
entry. Its operand slots are in `Round`. -/
structure NodeEntry where
  valid : Bool := false
  inst : Nat := 0
  place : Nat := 0
  side : Nat := 0
  root : Bool := false
  up : Bool := false
  parent : Nat := 0
  deriving DecidableEq, Repr

/-- A cluster's own state (R6, R357, R363, R364, R368, R370, R375): its cycles so far, and the part of the running tick that
they have taken, in thousandths of a cycle per MHz (log 1). -/
structure Cluster where
  cycle : Nat := 0
  frac : Nat := 0
  cal : Nat := 786432
  freq : Nat := 2250
  volt : Nat := 715
  code : Nat := 0
  detail : Nat := 0
  cprFreq : Nat := 2250                       -- FREQ and VOLT of CPR as last written (R368)
  cprVolt : Nat := 715
  change : Option (Nat × Nat × Nat) := none   -- target voltage, target frequency, tick of the next step
  held : Option Word := none
  changed : Nat := 0                          -- the tick in which the last change completed
  srh : List Word := []
  issuing : Nat := 0
  stalled : Nat := 0
  idle : Nat := 0
  drpk : Nat := 0
  grants : List (Nat × Nat × Nat) := []       -- waiting PWRA: core, level and cycle of issue (R375)
  deriving DecidableEq, Repr

/-- The saved part of a team that is out (R242, R243). -/
structure Image where
  cores : List Core
  barrier : Barrier
  deriving DecidableEq, Repr
/-- Where a team stands. -/
inductive TeamMode where
  | none | waiting | resident | out | done | ended (cause : Nat)
  deriving DecidableEq, Repr
/-- A team (R21). -/
structure Team where
  mode : TeamMode := .none
  grid : Nat := 0
  index : Nat := 0
  size : Nat := 1
  gang : Nat := 1
  skew : Nat := 0
  entry : Nat := 0
  ic0 : Nat := 0
  period : Nat := 1
  block : List Byte := []
  args : Nat := 0            -- where an initial team's launch block stands, or 0 (R288)
  cluster : Nat := 0
  base : Nat := 0
  bn : Nat := 0
  ready : Bool := true
  since : Nat := 0           -- resident ticks since the last swap-in
  residentTicks : Nat := 0
  yreq : Option Nat := none
  leaving : Bool := false    -- its pre-emption has begun (R242)
  parked : Bool := false     -- it went out parked (R297)
  die : Option Nat := none   -- a die-level barrier record names it (R347)
  home : Nat := 0            -- its first base, from which its scratchpads' addresses count (R249)
  slot : Option Nat := none
  image : Option Image := none
  parity : Nat := 0          -- completions of its team barrier (R280)
  txp : Bool := false
  tail : Bool := false       -- a continuation or a returning team: its place in the residency queue is where it joined (R296)
  deriving DecidableEq, Repr
/-- A grid (R22, R299, R300). -/
structure Grid where
  alive : Bool := false
  queue : Nat := 0
  ctx : Nat := 0
  folio : Nat := 0
  strict : Bool := false
  rcb : Nat := 0
  created : Nat := 0
  closed : Nat := 0          -- instants closed so far
  posts : List Post := []
  badRecord : Bool := false
  result : Nat := 0
  rlen : Nat := 0
  ended : Nat := 0           -- teams that committed END in every core
  txp : Bool := false
  fteam : Option (Nat × Nat) := none
  start : Nat := 0
  order : Nat := 0           -- of its launch's start (R296)
  finished : Bool := false   -- its launch has completed and a kernel boundary may still follow (R273)
  count : Nat := 0           -- COUNT of its queue at that completion
  stood : List Nat := []     -- clusters in which teams of it have stood (R273)
  deriving DecidableEq, Repr

/-- A work queue (R282, R292, R293): the running command and its outcome so far. -/
structure Running where
  words : List Word
  start : Nat
  value : Nat := 0
  status : Nat := 0
  detail : Nat := 0
  fin : Bool := false
  grid : Option Nat := none
  since : Nat := 0
  order : Nat := 0           -- of its start (R296, R353)
  acted : Bool := false      -- a power cap has set its points, and waits for their changes (R379)
  deriving DecidableEq, Repr
structure Queue where
  valid : Bool := false
  prio : Nat := 0
  elev : Nat := 0
  halt : Bool := false
  ctx : Nat := 0
  count : Nat := 0
  rcb : Nat := 0
  host : Word := 0           -- the host's endpoint, recorded at configuration (R390)
  cur : Int := 0
  since : Nat := 0
  wasReady : Bool := false
  headAt : Option Nat := none
  cmds : List (List Word) := []
  run : Option Running := none
  deriving DecidableEq, Repr

/-- A symbol of a loaded folio (R351). -/
structure Symbol where
  name : List Byte
  kind : Nat
  va : Nat
  body : List Byte
  deriving DecidableEq, Repr
/-- A loaded folio (R350-R354). -/
structure Folio where
  ctx : Nat
  strict : Bool
  cov : Nat
  symbols : List Symbol
  routines : List (Nat × Word × List Word)   -- index, relocated entry, steps
  first : Nat                                 -- its range of the store
  steps : Nat
  views : List Word
  launch : List Byte
  pages : List (Nat × Nat)                    -- virtual page and count
  cold : List (Nat × List Byte)               -- cold pieces in host memory: virtual address, bytes
  queues : List (Nat × Nat)                   -- registered copy queues: cluster, descriptor
  amap : List (Nat × Nat)                     -- native and portable bundle addresses (R83, R351)
  rcb : Nat := 0                              -- the region whose memory quota it counts in (R266)
  since : Option Nat := none                  -- commands started when its load completed (R353)
  deriving DecidableEq, Repr

/-- A handoff entry (R278, R344). -/
structure Handoff where
  latch : Nat
  clu : Nat
  writer : Option Nat := none
  conf : Bool := true               -- a confirmed access holds it
  wconf : Bool := true              -- its writer is confirmed
  tent : List (Nat × Nat) := []     -- tentative accesses: core, cycle (R275)
  spilled : Bool := false
  deriving DecidableEq, Repr

/-- A reduction instance (R317-R325, R330). -/
structure Round where
  contrib : List (Nat × Line) := []      -- accepted contributions, by contributor
  held : List (Nat × Line × Nat) := []   -- operands at nodes: node position × 2 + side, value, flags
  result : Option (Line × Nat) := none
  cancelled : Option Nat := none         -- receiver whose deadline cancelled it, or a number of none
  delivered : Bool := false
  told : List (Nat × Nat) := []          -- receivers whose cancel request has gone to the root member, and when (R333)
  asking : List Nat := []                -- receivers whose deadline has passed and who await the root's answer
  lflags : Nat := 0
  got : List Nat := []
  deriving DecidableEq, Repr
structure Reduction where
  grid : Nat
  op : Nat
  fmt : Nat
  chain : Bool
  win : Nat
  contributors : List (Nat × Nat)        -- team and position
  receivers : List (Nat × Nat)
  sys : Option (Nat × Nat × Nat × Bool × Nat) := none  -- COLLN, NMEM, SELF, upper CHAIN, descriptor
  endpoints : List Word := []            -- EP of each member of the collective (R330)
  security : Nat := 0                    -- SA: the security association of the collective's packets (R330)
  sent : Table Nat := []
  asked : Table Nat := []
  rounds : Table Round := []
  upper : List (Nat × Nat × Nat × Line × Nat) := []    -- round, level, side, value, flags held at this member
  base : Nat := 0
  deriving DecidableEq, Repr

/-- A sensor (R377). -/
structure Sensor where
  temp : Int := 0
  state : Nat := 0
  hyst : Nat := 5
  trip : Nat := 120
  thr : Nat := 105
  notice : Nat := 95
  deriving DecidableEq, Repr

/-- A firmware image in the module's flash (R383): its bytes, its security version, and whether its signature verifies under the
firmware's public key, since the algorithm of FIPS 205 is not the spec's (log 15, log 54). -/
structure Firmware where
  bytes : List Byte := []
  version : Nat := 0
  signed : Bool := true
  deriving DecidableEq, Repr
/-- What is fused at manufacture (R383): the SHA-256 of the firmware's public key, here of no bytes (log 54), and the lowest
security version. -/
structure Fuses where
  keyHash : List Byte := [0xe3, 0xb0, 0xc4, 0x42, 0x98, 0xfc, 0x1c, 0x14, 0x9a, 0xfb, 0xf4, 0xc8, 0x99, 0x6f, 0xb9, 0x24,
    0x27, 0xae, 0x41, 0xe4, 0x64, 0x9b, 0x93, 0x4c, 0xa4, 0x95, 0x99, 0x1b, 0x78, 0x52, 0xb8, 0x55]
  minimum : Nat := 0
  deriving DecidableEq, Repr
/-- Where a message that leaves the module goes: the host's endpoint on a queue's stream (R390), a member of a collective at its fabric
endpoint address, under the collective's security association (R330, R332),
the requester of a fabric read (R389), or the board controller (R391). -/
inductive Dest where
  | host (endpoint : Word) (queue : Nat)
  | member (colln m : Nat) (endpoint : Word) (security : Nat)
  | requester
  | board
  deriving DecidableEq, Repr
/-- A message that has left the module. -/
structure Sent where
  dest : Dest
  words : List Word
  deriving DecidableEq, Repr

/-- What comes next in the model's schedule (log 2). -/
inductive Act where
  | issue (c : Nat)                 -- core c issues next
  | event (i : Instr)               -- this event happens
  | tick (n : Nat)                  -- n ticks pass
  | cycle (cl : Nat)                -- a cycle of cluster cl ends
  | engineBusy (c e n : Nat)        -- copy engine e of core c takes no entry of its queue for n cycles (R301)
  | hostWrite (a : Nat) (bs : List Byte)   -- the host writes host memory (R259)
  | pin (sl n : Nat)                -- the supervisor pins n units of 64 KiB of slice sl (R255)
  | sliceEvict (line : Nat)         -- a slice lets a line of host memory go (R255)
  | dataAttr (chk : Bool)           -- CHK of the page attributes that the loader is given for data (R351)
  | coldEvict (ctx va : Nat)        -- the quota forces a cold piece out (R266)
  | readings (l : List Int)         -- the temperatures the sensors will read
  | startInput (fail : Nat) (trained : Bool)  -- the step at which the next start fails (0 none), the HBM check
  | flash (key : List Byte) (l : List Firmware)   -- flash is written, from outside the command protocol (R383)
  | corrected (c src a bt syn : Nat)  -- a corrected soft error: memory, byte offset, bit and syndrome (R245)
  | parityError (c tbl i : Nat)     -- entry i of core c's store (0), routine table (1) or activation tables (2) fails its parity (R245)
  | badAccess (c mem a slots : Nat)   -- an issue whose access finds an uncorrectable error: memory, address, slots (R246)
  deriving DecidableEq, Repr

/-- Reasons a step stops. The spec gives every trap an entry, so the machine goes on through each of them and no
meaning raises a fault: the one reason is safe and is raised by nothing. -/
inductive Fault where
  /-- Raised by nothing: every trap of R12 is taken as a next state. Safe. -/
  | unreachable
  deriving DecidableEq, Repr
/-- Reasons a step is refused. -/
inductive Refusal where
  /-- No meaning is given to the mnemonic. Raised by a refused arm of `exec` only. Safe. -/
  | notModelled (mnemonic : String)
  deriving DecidableEq, Repr

/-- The machine. -/
structure State where
  agenda : List Act := []
  turn : Nat := 0
  now : Nat := 0
  polled : Option Nat := none
  stepped : Option Nat := none
  freeCtr : Nat := 0
  mem : List Host.Cell := []
  cores : Table Core := []
  teams : Table Team := []
  grids : Table Grid := []
  residency : List Nat := []
  clusters : Table Cluster := []
  barriers : Table Barrier := []
  latches : Table LatchObj := []
  channels : Table Channel := []
  chantab : Table ChanEntry := []
  routers : Table NodeEntry := []
  granules : List (Nat × Granule) := []
  handoffs : List (Nat × Handoff) := []
  records : Table Record := []
  hostLines : List (Nat × Line) := []
  pins : Table Nat := []
  queues : Table Queue := []
  contexts : Table Word := []
  folios : List (Nat × Folio) := []
  installs : Table Nat := []
  dataChk : Bool := true
  regions : List (Nat × List Word) := []
  formats : Table (List Word) := []
  copyqs : List (Nat × Nat × Nat) := []
  reductions : List (Nat × Reduction) := []
  packets : List (Nat × Nat × Nat × Line × Nat) := []
  sensors : Table Sensor := []
  readings : List Int := []
  tripped : Bool := false
  cap : Nat := 2400
  ports : List Nat := []
  warm : Bool := false
  starts : Nat := 1
  failStep : Nat := 0
  ready : Bool := true
  startFail : Nat := 0
  trained : Bool := true
  flash : List Firmware := [{}, {}, {}, {}]
  booted : List Firmware := [{}, {}, {}, {}]         -- the images as the last start measured them (R381, R385)
  firmwareKey : List Byte := []
  fuses : Fuses := {}
  power : List (Nat × Nat) := []
  outbox : List Sent := []
  sideband : List Byte := []
  interrupts : Nat := 0
  frames : Nat := 0
  retired : List Nat := []
  order : Nat := 0
  deriving DecidableEq, Repr

/-- The machine right after a cold start (R381): no team, no queue, no context, device memory zero. -/
def State.reset : State :=
  { sideband := [0x00, 0x80, 0x01, 0x00, 0x00, 0x00, 0x00, 0x00] ++ List.replicate 146 0 ++ [0x60, 0x09] }

end Sys2Proof.Machine
end

