-- ==== Sys2Proof/Machine/Access.lean ====
section
/-! DEFINITION. Accessors: every read and write of a core, a register, the register space, a team or a cluster goes
through these (R113, R212-R223, R227-R231). -/
namespace Sys2Proof.Machine

/-- Core `c`; a core that no team has held is as `{}` says. -/
def State.core (s : State) (c : Nat) : Core := s.cores.get {} c
def State.setCore (s : State) (c : Nat) (k : Core) : State := { s with cores := s.cores.put {} c k }
def State.onCore (s : State) (c : Nat) (f : Core → Core) : State := s.setCore c (f (s.core c))
def State.team (s : State) (t : Nat) : Team := s.teams.get {} t
def State.setTeam (s : State) (t : Nat) (x : Team) : State := { s with teams := s.teams.put {} t x }
def State.onTeam (s : State) (t : Nat) (f : Team → Team) : State := s.setTeam t (f (s.team t))
def State.grid (s : State) (g : Nat) : Grid := s.grids.get {} g
def State.onGrid (s : State) (g : Nat) (f : Grid → Grid) : State :=
  { s with grids := s.grids.put {} g (f (s.grid g)) }
def State.cluster (s : State) (cl : Nat) : Cluster := s.clusters.get {} cl
def State.onCluster (s : State) (cl : Nat) (f : Cluster → Cluster) : State :=
  { s with clusters := s.clusters.put {} cl (f (s.cluster cl)) }
def State.queue (s : State) (q : Nat) : Queue := s.queues.get {} q
def State.onQueue (s : State) (q : Nat) (f : Queue → Queue) : State :=
  { s with queues := s.queues.put {} q (f (s.queue q)) }
def State.barrier (s : State) (o : Nat) : Barrier := s.barriers.get {} o
def State.onBarrier (s : State) (o : Nat) (f : Barrier → Barrier) : State :=
  { s with barriers := s.barriers.put {} o (f (s.barrier o)) }
def State.latch (s : State) (l : Nat) : LatchObj := s.latches.get {} l
def State.onLatch (s : State) (l : Nat) (f : LatchObj → LatchObj) : State :=
  { s with latches := s.latches.put {} l (f (s.latch l)) }
def State.channel (s : State) (ch : Nat) : Channel := s.channels.get {} ch
def State.onChannel (s : State) (ch : Nat) (f : Channel → Channel) : State :=
  { s with channels := s.channels.put {} ch (f (s.channel ch)) }
/-- Look up a numbered entry of a plain list. -/
def assoc {α : Type} (l : List (Nat × α)) (k : Nat) : Option α := (l.find? fun p => p.1 == k).map Prod.snd
/-- Replace or add a numbered entry of a plain list. -/
def assocSet {α : Type} (l : List (Nat × α)) (k : Nat) (v : α) : List (Nat × α) :=
  if l.any (fun p => p.1 == k) then l.map fun p => if p.1 == k then (k, v) else p else l ++ [(k, v)]
/-- Take a numbered entry off a plain list. -/
def assocDel {α : Type} (l : List (Nat × α)) (k : Nat) : List (Nat × α) := l.filter fun p => p.1 != k

/-- Numbers of R11. -/
def clusterOf (c : Nat) : Nat := c / 64
def dieOfCore (c : Nat) : Nat := c / 256
/-- The cores of a team, in order of position (R19, R295). -/
def Team.coreAt (t : Team) (k : Nat) : Nat := t.cluster * 64 + t.base + k
def Team.cores (t : Team) : List Nat := (List.range t.size).map t.coreAt
/-- The cycles so far of the cluster of core `c` (R6). -/
def State.cycleOf (s : State) (c : Nat) : Nat := (s.cluster (clusterOf c)).cycle
/-- A team holds its cores. -/
def Team.isResident (t : Team) : Bool := t.mode == .resident
/-- The team that holds core `c`, and whether it is resident. -/
def State.teamOf (s : State) (c : Nat) : Team := s.team (s.core c).ctl.team
def State.resident (s : State) (c : Nat) : Bool := (s.core c).ctl.mode != .idle
/-- The cores of the gang of core `c` (R19), lead first. -/
def State.gangOf (s : State) (c : Nat) : List Nat :=
  let t := s.teamOf c
  let g0 := c - (s.core c).ctl.gpos
  (List.range t.gang).map (g0 + ·)

/-- Scalar registers (R113, R220): s0 reads zero with tag k31, and a write to it is discarded. -/
def Core.sreg (k : Core) (n : Nat) : Word := if n = 0 then 0 else k.regs.s.get 0 n
def Core.stag (k : Core) (n : Nat) : Nat := if n = 0 then 31 else k.regs.stag.get 31 n
def Core.setS (k : Core) (n : Nat) (x : Word) (tag : Nat) : Core :=
  if n = 0 then k
  else { k with regs := { k.regs with s := k.regs.s.put 0 n x, stag := k.regs.stag.put 31 n tag } }

/-- Bytes of a store of lines: n bytes at an address as a number, little-endian. -/
def linesRead (t : Table Line) (a n : Nat) : Nat :=
  let v := (List.range ((a % 128 + n + 127) / 128)).foldl (fun v i => v + ((t.get 0 (a / 128 + i)).toNat <<< (1024 * i))) 0
  (v >>> (8 * (a % 128))) % 2 ^ (8 * n)
/-- Write n bytes at an address of a store of lines. -/
def linesWrite (t : Table Line) (a n x : Nat) : Table Line :=
  if n = 0 then t
  else (List.range ((a % 128 + n + 127) / 128)).foldl (fun t i =>
    let g := a / 128 + i
    let lo := max a (g * 128)
    let hi := min (a + n) ((g + 1) * 128)
    let part := (x >>> (8 * (lo - a))) % 2 ^ (8 * (hi - lo))
    t.put 0 g (BitVec.ofNat 1024 (setBits (t.get 0 g).toNat (8 * (hi - g * 128) - 1) (8 * (lo - g * 128)) part))) t
/-- The register space (R212). -/
def Core.space (k : Core) (a n : Nat) : Nat := linesRead k.regs.rs a n
/-- The granules that n bytes at an address touch (R220). -/
def granulesOf (a n : Nat) : List Nat := if n = 0 then [] else (List.range ((a % 128 + n + 127) / 128)).map (a / 128 + ·)
def Core.gtag (k : Core) (g : Nat) : Nat := k.regs.gtag.get 31 g
def Core.retag (k : Core) (gs : List Nat) (tag : Nat) : Core :=
  { k with regs := { k.regs with gtag := gs.foldl (fun t g => t.put 31 g tag) k.regs.gtag } }
/-- Write bytes of the register space and retag every granule touched (R220). -/
def Core.setSpace (k : Core) (a n x tag : Nat) : Core :=
  ({ k with regs := { k.regs with rs := linesWrite k.regs.rs a n x } }).retag (granulesOf a n) tag
/-- Reset values of the control registers that are not zero (R215, R228-R230, R155). -/
def csrInit (n : Nat) : Word :=
  match n with
  | 0x001 => 0x60
  | 0x030 => 0x7231
  | 0x031 => 0x0FFFFFFF
  | 0x032 => 0x0060018000804010
  | 0x0A8 => 0x2C082
  | _ => 0
/-- The view registers at a launch (R216). -/
def launchViews : List (Nat × Word) :=
  [(0x060, 0x0000020002001000), (0x061, 0x0000001880005000), (0x062, 0x00000010C0011000), (0x067, 0x0000001002000E00)]
/-- Control register n as the core holds it. -/
def Core.csr (k : Core) (n : Nat) : Word := k.regs.csr.get (csrInit n) n
def Core.setCsr (k : Core) (n : Nat) (x : Word) : Core :=
  { k with regs := { k.regs with csr := k.regs.csr.put (csrInit n) n x } }
/-- Control registers by name (R227). -/
def csrTEAM : Nat := 0x001
def csrGPOS : Nat := 0x002
def csrGSIZE : Nat := 0x003
def csrIC : Nat := 0x004
def csrTSTAT : Nat := 0x008
def csrYDL : Nat := 0x009
def csrTVEC : Nat := 0x010
def csrTCAUSE : Nat := 0x011
def csrTEPC : Nat := 0x012
def csrFRA : Nat := 0x013
def csrFRM : Nat := 0x014
def csrFRS : Nat := 0x018
def csrFPST : Nat := 0x020
def csrESCN : Nat := 0x021
def csrECM : Nat := 0x022
def csrLC : Nat := 0x040
def csrPRD : Nat := 0x041
def csrB : Nat := 0x048
def csrMP : Nat := 0x050
def csrVW : Nat := 0x060
def csrVWL : Nat := 0x080
def csrVCF : Nat := 0x0A0
def csrMCF : Nat := 0x0A8
def csrSDS : Nat := 0x0B0
def csrCPWM : Nat := 0x0C0
def csrNEXTID : Nat := 0x0C1
def csrCYC : Nat := 0x101
def csrSTL : Nat := 0x102
def csrOUT : Nat := 0x108
def csrPMC : Nat := 0x110
def csrPMEV : Nat := 0x118
/-- The value that CSRR reads (R129): CID, TEAM.NUM, TB, and the cluster's samples and drops are read where they live. -/
def State.readCsr (s : State) (c n : Nat) : Word :=
  let k := s.core c
  if n = 0 then wordN c
  else if n = 0x100 then wordN s.now
  else if 0x120 ≤ n ∧ n ≤ 0x127 then (s.cluster (clusterOf c)).srh.getD (n - 0x120) 0
  else if n = 0x128 then wordN (s.cluster (clusterOf c)).drpk
  else k.csr n
/-- Bits of a 64-bit register. -/
def Core.csrBits (k : Core) (n h l : Nat) : Nat := bits (k.csr n).toNat h l
def Core.ic (k : Core) : Nat := (k.csr csrIC).toNat
def Core.handler (k : Core) : Bool := bit (k.csr csrTSTAT).toNat 1
def Core.txp (k : Core) : Bool := bit (k.csr csrTSTAT).toNat 0
/-- Set TXP (R36). -/
def Core.setTxp (k : Core) : Core := k.setCsr csrTSTAT (k.csr csrTSTAT ||| 1)
def Core.setHandler (k : Core) (b : Bool) : Core :=
  k.setCsr csrTSTAT (wordN (setBits (k.csr csrTSTAT).toNat 1 1 (if b then 1 else 0)))
def Core.setYield (k : Core) (dl : Option Nat) : Core :=
  (k.setCsr csrTSTAT (wordN (setBits (k.csr csrTSTAT).toNat 2 2 (if dl.isSome then 1 else 0)))).setCsr csrYDL (wordN (dl.getD 0))
/-- OR flags into FPST (R55). -/
def Core.orFlags (k : Core) (f : Nat) : Core := k.setCsr csrFPST (k.csr csrFPST ||| wordN (f % 64))
/-- Rotating base b_i, stage predicate p_i, matrix parameter mp_i (R222). -/
def Core.base (k : Core) (i : Nat) : Nat := (k.csr (csrB + i)).toNat % 512
def Core.pred (k : Core) (i : Nat) : Bool := i = 0 || bit (k.csr csrPRD).toNat i
def Core.mp (k : Core) (i : Nat) : Word := k.csr (csrMP + i)
/-- Class counts (R360): 0 ld, 1 sd, 2 cp, 3 at, 4 mx. -/
def Core.out (k : Core) (cls : Nat) : Nat := (k.csr (csrOUT + cls)).toNat
def Core.addOut (k : Core) (cls : Nat) (d : Int) : Core :=
  k.setCsr (csrOUT + cls) (wordN ((k.out cls : Int) + d).toNat)
/-- The limits of R360. -/
def outLimit : Nat → Nat
  | 0 => 256 | 1 => 256 | 2 => 1024 | 3 => 64 | _ => 5
/-- Events of this cycle: they are added to the counters as the cycle ends (R361, R362). -/
def Core.perf (k : Core) (ev n : Nat) : Core :=
  if n = 0 then k
  else { k with ctl := { k.ctl with events := k.ctl.events.put 0 ev (k.ctl.events.get 0 ev + n) } }
/-- The cycle's events are added to the counters that selected them as it began; a change of PMEV applies from the next
cycle (R362). -/
def Core.addEvents (k : Core) : Core :=
  let add := fun (k : Core) (i : Nat) =>
    let ev := bits k.ctl.pmev (8 * i + 7) (8 * i)
    if ev = 0 then k else k.setCsr (csrPMC + i) (k.csr (csrPMC + i) + wordN (k.ctl.events.get 0 ev))
  let k := (List.range 4).foldl add k
  { k with ctl := { k.ctl with events := [], pmev := (k.csr csrPMEV).toNat } }

/-- Clock table entries (R334): KIND, KN, VAL, N, PH, PA, SREG, POL, PB of a 32-bit word. -/
def Core.clock (k : Core) (i : Nat) : Nat := k.regs.clocks.get 0 i
def Core.setClock (k : Core) (i x : Nat) : Core := { k with regs := { k.regs with clocks := k.regs.clocks.put 0 i x } }
/-- `clock_present(k, i)` (R15): `none` is CLKUNK. Parents have lower numbers (R14), so 32 levels suffice. -/
def clockPresent (k : Core) (ic : Nat) : Nat → Nat → Option Bool
  | 0, _ => some false
  | fuel + 1, i =>
    if i = 0 || i = 31 then some true
    else
      let w := k.clock i
      match bits w 31 30 with
      | 1 => some (ic % bits w 27 20 = bits w 19 12)
      | 2 => if bit w 29 then some (bit w 28) else none
      | 3 =>
        match clockPresent k ic fuel (bits w 27 23), clockPresent k ic fuel (bits w 22 18) with
        | some a, some b => some (a || b)
        | _, _ => none
      | _ => some false
def Core.present (k : Core) (i : Nat) : Option Bool := clockPresent k k.ic 32 i
/-- g is a sub-clock of c ("Sampling and merging", R189). -/
def subClock (k : Core) : Nat → Nat → Nat → Bool
  | 0, _, _ => false
  | fuel + 1, g, c =>
    g = c || c = 0 || c = 31 ||
    (g != 0 && g != 31 &&
      let w := k.clock g
      match bits w 31 30 with
      | 2 => subClock k fuel (bits w 27 23) c
      | 1 => let v := k.clock c
        bits v 31 30 = 1 && bits w 27 20 % bits v 27 20 = 0 && bits w 19 12 % bits v 27 20 = bits v 19 12
      | 3 => subClock k fuel (bits w 27 23) c && subClock k fuel (bits w 22 18) c
      | _ => false)
/-- Delay cells (R192). -/
def Core.cell (k : Core) (n : Nat) : Cell := k.regs.cells.get {} n
def Core.setCell (k : Core) (n : Nat) (x : Cell) : Core := { k with regs := { k.regs with cells := k.regs.cells.put {} n x } }
/-- Input latch of a slot's source position (R80). -/
def latchIx (slot pos : Nat) : Nat := slot * 4 + pos
def Core.latchAt (k : Core) (slot pos : Nat) : Latch := k.regs.latch.get {} (latchIx slot pos)
/-- Re-issue word and step count of a slot (R77). -/
def Core.word (k : Core) (x : Nat) : Word := k.regs.rw.get 0 x
def Core.count (k : Core) (x : Nat) : Nat := k.regs.rc.get 0 x
def Core.setWord (k : Core) (x : Nat) (w : Word) (n : Nat) : Core :=
  { k with regs := { k.regs with rw := k.regs.rw.put 0 x w, rc := k.regs.rc.put 0 x n } }
/-- All six slots re-issue NOP again (R76). -/
def Core.clearReissue (k : Core) : Core := { k with regs := { k.regs with rw := [], rc := [] } }

/-- A field of a region control block with its inheritance (R24, R340); 8 levels at most (R341). -/
def regionWord (s : State) : Nat → Nat → Nat → Nat → Nat
  | 0, _, _, _ => 0
  | fuel + 1, a, inh, w =>
    match assoc s.regions a with
    | none => 0
    | some ws =>
      if bit (ws.getD 1 0).toNat (52 + inh) && bits (ws.getD 0 0).toNat 55 0 != 0 then
        regionWord s fuel (bits (ws.getD 0 0).toNat 55 0) inh w
      else (ws.getD w 0).toNat
def State.region (s : State) (a inh w : Nat) : Nat := regionWord s 9 a inh w
/-- A region and the regions above it (R24, R341). -/
def regionPath (s : State) : Nat → Nat → List Nat
  | 0, _ => []
  | fuel + 1, a =>
    match assoc s.regions a with
    | none => [a]
    | some ws => let p := bits (ws.getD 0 0).toNat 55 0; a :: if p = 0 then [] else regionPath s fuel p
def State.above (s : State) (a : Nat) : List Nat := regionPath s 9 a
/-- A region lies in the tree below another, or is it. -/
def State.within (s : State) (a b : Nat) : Bool := (s.above a).contains b
/-- The region of a team. -/
def State.rcbOf (s : State) (t : Team) : Nat := (s.grid t.grid).rcb
def regionClusters (s : State) (a : Nat) : List Nat :=
  let m := bits (s.region a 0 1) 31 16
  (List.range 16).filter fun cl => bit m cl
def regionCores (s : State) (a : Nat) : Nat := bits (s.region a 1 1) 6 0

/-- Free values (log 18): the next one, and the counter advanced. -/
def State.takeFree (s : State) : Word × State := (Config.freeWord s.freeCtr, { s with freeCtr := s.freeCtr + 1 })

end Sys2Proof.Machine
end

