-- ==== Sys2Proof/Machine/Memory.lean ====
section
/-! DEFINITION. Memory: the physical map and home slices (R248-R259), page walks (R335-R338), format regions
(R260-R262), the first-level cache (R253, R254), and the one load and the one store of a core. -/
namespace Sys2Proof.Machine

/-- Memory is in canonical form: addresses strictly rising and no entry equal to what an unlisted address reads as. -/
def Memory.wf (m : List Host.Cell) : Bool :=
  (m.map Prod.fst).Pairwise (· < ·) && m.all fun c => c.2 != 0
/-- One byte. An address that nothing has written reads 0: R381 writes device memory as zero at a cold start; of host
memory it is the model's choice (log 6). -/
def Memory.byte (m : List Host.Cell) (a : Nat) : Byte := Table.get 0 m a
def Memory.setByte (m : List Host.Cell) (a : Nat) (b : Byte) : List Host.Cell := Table.put 0 m a b
/-- n bytes from `a`, little-endian (R4). DESIGN CHOICE (log 48): bits that a map of memory calls res-i or leaves to a party that writes it,
as those of R305 and R314, read as they were stored. -/
def Memory.read (m : List Host.Cell) (a : Nat) : Nat → Nat
  | 0 => 0
  | n + 1 => Memory.read m a n + (Memory.byte m (a + n)).toNat <<< (8 * n)
/-- Write bytes at addresses, one after another. -/
def Memory.writeCells (m : List Host.Cell) (cs : List (Nat × Byte)) : List Host.Cell :=
  cs.foldl (fun m c => Memory.setByte m c.1 c.2) m
/-- The n low bytes of `x` as cells from address `a`. -/
def cellsOf (a n x : Nat) : List (Nat × Byte) := (List.range n).map fun i => (a + i, byteOf x i)

/-- What a physical address names (R248). -/
inductive Place where
  | hbm | aperture | spad (core : Nat) (swz : Bool) | pinned | host
  deriving DecidableEq, Repr
def dieBytes : Nat := 0x1800000000
def spadBase (c : Nat) : Nat := 0x700000000000 + c * 0x80000
/-- Offset of a swizzled scratchpad address in the linear view (R250). -/
def unswizzle (o : Nat) : Nat :=
  let g := o / 16
  let r := g / 48
  (r * 48 + (g % 48 + 5 * (r % 48)) % 48) * 16 + o % 16
/-- Offset of a linear scratchpad address in the swizzled view (R250). -/
def swizzle (o : Nat) : Nat :=
  let g := o / 16
  let r := g / 48
  (r * 48 + (g % 48 + 240 - 5 * (r % 48)) % 48) * 16 + o % 16
/-- The place of a physical address, and the address of its storage cell: the swizzled view names cells of the linear
one. `none`: outside the map, or an unused part (R248). -/
def placeOf (pa : Nat) : Option (Place × Nat) :=
  if pa < 4 * dieBytes then some (.hbm, pa)
  else if 0x400000000000 ≤ pa ∧ pa < 0x600000000000 then some (.aperture, pa)
  else if 0x700000000000 ≤ pa ∧ pa < 0x700040000000 then
    let swz := decide (0x700020000000 ≤ pa)
    let x := (pa - 0x700000000000) % 0x20000000
    let o := x % 0x80000
    if o < 0x60000 then some (.spad (x / 0x80000) swz, spadBase (x / 0x80000) + if swz then unswizzle o else o) else none
  else if 0x700040000000 ≤ pa ∧ pa < 0x700050000000 then some (.pinned, pa)
  else if 0x800000000000 ≤ pa ∧ pa < 0x1000000000000 then some (.host, pa)
  else none

/-- Home slice of an HBM address (R256). -/
def hbmSlice (pa : Nat) : Nat :=
  pa / dieBytes * 16 + (bits pa 10 7 ^^^ bits pa 14 11 ^^^ bits pa 18 15 ^^^ bits pa 22 19)
/-- An enabled format region: controller and four words (R343). -/
structure FormatRegion where
  base : Nat
  pres : Fmt
  packed : Fmt
  block : Nat
  count : Nat
  kbase : Nat
  sbase : Nat
  deriving DecidableEq, Repr
def formatRegion (ws : List Word) : Option FormatRegion :=
  let f := fun i => (ws.getD i 0).toNat
  if bit (f 0) 63 then
    some { base := bits (f 0) 47 0, pres := match bits (f 1) 63 62 with | 0 => .fp32 | 1 => .bf16 | _ => .fp16,
           packed := fmtOf (bits (f 1) 61 56), block := 16 * 2 ^ bits (f 1) 55 54, count := bits (f 1) 39 0,
           kbase := bits (f 2) 47 0, sbase := bits (f 3) 47 0 }
  else none
/-- The bytes that a region presents (R260). -/
def FormatRegion.size (r : FormatRegion) : Nat := r.count * r.pres.wid
/-- The enabled region that holds a presented address (R260). -/
def State.formatAt (s : State) (pa : Nat) : Option FormatRegion :=
  s.formats.findSome? fun p =>
    match formatRegion p.2 with
    | some r => if r.base ≤ pa && pa < r.base + r.size then some r else none
    | none => none
/-- Home slice (R256). The entries of a scratchpad whose team is out stay in the slice where they were; their addresses, of no
storage, name the team and the offset (R22, R365). DESIGN CHOICE (log 48): an address of the presented aperture in no enabled region
has slice 0. -/
def State.homeSlice (s : State) (pa : Nat) : Nat :=
  match placeOf pa with
  | some (.hbm, a) => hbmSlice a
  | some (.aperture, a) =>
    match s.formatAt a with
    | some r => hbmSlice (r.kbase + (a - r.base) / r.pres.wid)
    | none => 0
  | some (.host, a) => bits a 12 7 ^^^ bits a 18 13 ^^^ bits a 24 19
  | some (.spad c _, _) => c / 256 * 16 + (c / 64) % 4 * 4 + (c % 64) / 16
  | some (.pinned, a) => (a - 0x700040000000) / 0x400000
  | none =>
    if 2 ^ 60 ≤ pa then
      let c := (s.team ((pa - 2 ^ 60) / 0x2000000)).coreAt (pa % 0x2000000 / 0x80000)
      c / 256 * 16 + (c / 64) % 4 * 4 + (c % 64) / 16
    else 0

/-- Element e of a presented region, decoded (R261). -/
def FormatRegion.elem (r : FormatRegion) (m : List Host.Cell) (e : Nat) : Nat :=
  (blkDec (Memory.byte m (r.kbase + e)).toNat (Memory.byte m (r.sbase + e / r.block)).toNat r.packed r.pres 0).1
/-- n presented bytes from `a` (R261). -/
def FormatRegion.read (r : FormatRegion) (m : List Host.Cell) (a n : Nat) : Nat :=
  let w := r.pres.wid
  let e0 := (a - r.base) / w
  let cnt := ((a - r.base) % w + n + w - 1) / w
  let v := (List.range cnt).foldl (fun v i =>
    v + (if e0 + i < r.count then r.elem m (e0 + i) else 0) <<< (8 * w * i)) 0
  (v >>> (8 * ((a - r.base) % w))) % 2 ^ (8 * n)
/-- Re-quantise block b of a region with new bytes written over its decoded values (R262). DESIGN CHOICE (log 48): where COUNT
is no multiple of B the last block is quantised over the elements that it has, and no code is written past COUNT. -/
def FormatRegion.writeBlock (r : FormatRegion) (m : List Host.Cell) (cs : List (Nat × Byte)) (b : Nat) : List Host.Cell :=
  let w := r.pres.wid
  let a0 := r.base + b * r.block * w
  let n := min r.block (r.count - b * r.block)
  let old := r.read m a0 (n * w)
  let new := cs.foldl (fun v c =>
    if a0 ≤ c.1 && c.1 < a0 + n * w then setBits v (8 * (c.1 - a0) + 7) (8 * (c.1 - a0)) c.2.toNat else v) old
  let (sc, q, _) := quantise r.packed ((List.range n).map fun i => r.pres.value ((new >>> (8 * w * i)) % 2 ^ (8 * w)))
  let m := (List.range n).foldl (fun m i => Memory.setByte m (r.kbase + b * r.block + i) (BitVec.ofNat 8 (q.getD i 0))) m
  Memory.setByte m (r.sbase + b) (BitVec.ofNat 8 sc)
/-- A store into the presented aperture: each block that it meets is re-quantised once (R262). -/
def State.apertureWrite (s : State) (cs : List (Nat × Byte)) : State :=
  let regions := (cs.filterMap fun c => s.formatAt c.1).eraseDups
  regions.foldl (fun s r =>
    let bs := (cs.filterMap fun c => if r.base ≤ c.1 && c.1 < r.base + r.size then
      some ((c.1 - r.base) / r.pres.wid / r.block) else none).eraseDups
    { s with mem := bs.foldl (fun m b => r.writeBlock m cs b) s.mem }) s

/-- n presented bytes from `a`, through every region that they meet (R260, R261). -/
def State.apertureRead (s : State) (a n : Nat) : Nat → Nat
  | 0 => 0
  | fuel + 1 =>
    match s.formatAt a with
    | none => 0
    | some r =>
      let m := min n (r.base + r.size - a)
      r.read s.mem a m + if n ≤ m then 0 else s.apertureRead (a + m) (n - m) fuel <<< (8 * m)
/-- n bytes at the home of a physical address (R255, R259, R261). A presented byte is decoded afresh at every read past the
first level, also where a slice holds its line: a later direct store to its packed or scale bytes is seen (log 48). -/
def State.homeRead (s : State) (pa n : Nat) : Nat :=
  match placeOf pa with
  | some (.aperture, a) => s.apertureRead a n 8
  | some (.host, a) =>
    (List.range n).foldl (fun v i =>
      let b := match assoc s.hostLines ((a + i) / 128) with
        | some l => (l.toNat >>> (8 * ((a + i) % 128))) % 256
        | none => (Memory.byte s.mem (a + i)).toNat
      v + b <<< (8 * i)) 0
  | some (.spad c true, _) =>
    (List.range n).foldl (fun v i =>
      v + (match placeOf (pa + i) with | some (_, b) => (Memory.byte s.mem b).toNat | none => 0) <<< (8 * i)) 0 + 0 * c
  | some (_, a) => Memory.read s.mem a n
  | none => 0
/-- Sets of 16 lines that a slice has left beside its pinned storage (R255). -/
def State.sliceSets (s : State) (sl : Nat) : Nat := 32 * (64 - s.pins.get 0 sl)
/-- The slice and the set of a line of host memory (R255, R256; log 49). -/
def State.setOf (s : State) (g : Nat) : Nat × Nat :=
  let sl := s.homeSlice (g * 128)
  (sl, g / 64 % max 1 (s.sliceSets sl))
/-- Bring a line of host memory into its home slice: a full set lets its oldest line go (R255; log 49). -/
def State.hostFill (s : State) (pa : Nat) : State :=
  match placeOf pa with
  | some (.host, a) =>
    let g := a / 128
    if (assoc s.hostLines g).isSome || s.sliceSets (s.homeSlice a) = 0 then s
    else
      let set := s.hostLines.filter fun l => s.setOf l.1 == s.setOf g
      let kept := if set.length < 16 then s.hostLines
        else match set.getLast? with | some l => assocDel s.hostLines l.1 | none => s.hostLines
      { s with hostLines := (g, BitVec.ofNat 1024 (Memory.read s.mem (g * 128) 128)) :: kept }
  | _ => s
/-- The supervisor pins n units of 64 KiB of a slice, from offset 0 up: lines of host memory that have no place any more go
(R255). -/
def State.pinSlice (s : State) (sl n : Nat) : State :=
  if 64 ≤ sl ∨ 64 < n then s
  else { s with pins := s.pins.put 0 sl n, hostLines := s.hostLines.filter fun l => s.homeSlice (l.1 * 128) != sl }
/-- The host writes host memory: lines that a first level or a slice holds stay as they are (R259). -/
def State.hostStore (s : State) (a : Nat) (bs : List Byte) : State :=
  if 0x800000000000 ≤ a ∧ a + bs.length ≤ 0x1000000000000 then
    { s with mem := Memory.writeCells s.mem (bs.zipIdx.map fun x => (a + x.2, x.1)) }
  else s
/-- Write cells, by storage address, at their home; a slice line of host memory is written too. -/
def State.homeWrite (s : State) (cs : List (Nat × Byte)) : State :=
  match cs with
  | [] => s
  | c :: _ =>
    match placeOf c.1 with
    | some (.aperture, _) => s.apertureWrite cs
    | some (.host, _) =>
      let hl := s.hostLines.map fun (g, l) => (g, BitVec.ofNat 1024 (cs.foldl (fun v c =>
        if c.1 / 128 = g then setBits v (8 * (c.1 % 128) + 7) (8 * (c.1 % 128)) c.2.toNat else v) l.toNat))
      { s with mem := Memory.writeCells s.mem cs, hostLines := hl }
    | _ => { s with mem := Memory.writeCells s.mem cs }

/-- Write cells at their homes: one re-quantisation for each block of the presented aperture (R262). -/
def State.homeWriteAll (s : State) (cs : List (Nat × Byte)) : State :=
  let kind := fun (q : Nat × Byte) => match placeOf q.1 with | some (.aperture, _) => 0 | some (.host, _) => 1 | _ => 2
  let s := s.apertureWrite (cs.filter fun q => kind q == 0)
  let s := s.homeWrite (cs.filter fun q => kind q == 1)
  s.homeWrite ((cs.filter fun q => kind q == 2).filterMap fun q => (placeOf q.1).map fun p => (p.2, q.2))

/-- What a page-table entry gives (R337). -/
structure Page where
  pa : Nat
  size : Nat
  home : Nat
  alloc : Nat
  wt : Bool
  evp : Nat
  chk : Bool
  latch : Option Nat
  repl : Nat
  rd : Bool
  wr : Bool
  ex : Bool
  deriving DecidableEq, Repr
/-- Kinds of access, by the code of FRS1 (R234). -/
inductive AccessKind where | fetch | read | write | atomic | copySrc | copyDst
  deriving DecidableEq, Repr
def AccessKind.code : AccessKind → Nat
  | .fetch => 0 | .read => 1 | .write => 2 | .atomic => 3 | .copySrc => 4 | .copyDst => 5
/-- Trap causes (R12). -/
def cILLOP : Nat := 0x01
def cILLSLOT : Nat := 0x02
def cCLKMIS : Nat := 0x03
def cCLKUNK : Nat := 0x04
def cCFI : Nat := 0x05
def cXLATE : Nat := 0x06
def cPERM : Nat := 0x07
def cALIGN : Nat := 0x08
def cCONFLICT : Nat := 0x09
def cCTFULL : Nat := 0x0A
def cQEMPTY : Nat := 0x0B
def cDUPMIS : Nat := 0x0D
def cPWROVR : Nat := 0x0E
def cPROMISE : Nat := 0x0F
def cESCAL : Nat := 0x10
def cHFETCH : Nat := 0x11
def cMEMUE : Nat := 0x12
def cCOLDTXT : Nat := 0x13
def cSWTRAP : Nat := 0x14
def cGANGDIV : Nat := 0x15
def cILLBUN : Nat := 0x16
def cLATCHOVR : Nat := 0x17

/-- The walk of R336 from level `lvl` on, with the table at `base`; a leaf that is marked COLD is absent, whatever its V (R337). -/
def walk (s : State) (va : Nat) (fetch : Bool) : Nat → Nat → Nat → Except Nat Page
  | 0, _, _ => .error cXLATE
  | fuel + 1, lvl, base =>
    let e := Memory.read s.mem (base + 8 * bits va (55 - 10 * lvl) (46 - 10 * lvl)) 8
    if bit e 62 && bit e 36 && lvl != 0 then .error (if fetch then cCOLDTXT else cXLATE)
    else if !bit e 63 then .error cXLATE
    else if bit e 62 then
      if lvl = 0 then .error cXLATE
      else
        .ok { pa := bits e 31 0 <<< 16 + va % 2 ^ (46 - 10 * lvl), size := 2 ^ (46 - 10 * lvl), home := bits e 61 60, alloc := bits e 59 58,
              wt := bit e 57, evp := bits e 55 54, chk := bit e 53,
              latch := if bit e 52 then some (bits e 51 44) else none,
              repl := bits e 43 40, rd := bit e 39, wr := bit e 38, ex := bit e 37 }
    else if lvl = 3 then .error cXLATE
    else walk s va fetch fuel (lvl + 1) (bits e 31 0 <<< 16)
/-- Slice storage is there only where it is pinned (R248, R255). -/
def State.isPinned (s : State) (pa : Nat) : Bool :=
  let o := pa - 0x700040000000
  decide (o % 0x400000 / 65536 < s.pins.get 0 (o / 0x400000))
/-- The page that a virtual address names, whatever it permits (R336). -/
def State.walkPage (s : State) (ctx va : Nat) : Option Page :=
  let d := (s.contexts.get 0 ctx).toNat
  if 2 ^ 56 ≤ va || !bit d 63 then none
  else match walk s va false 4 0 (bits d 47 16 <<< 16) with | .ok p => some p | .error _ => none
/-- Translation of a 56-bit virtual address in a context (R335-R337): the page with the translated address. -/
def State.translate (s : State) (ctx va : Nat) (k : AccessKind) : Except Nat Page :=
  let d := (s.contexts.get 0 ctx).toNat
  if 2 ^ 56 ≤ va || !bit d 63 then .error cXLATE
  else
    match walk s va (k == .fetch) 4 0 (bits d 47 16 <<< 16) with
    | .error e => .error e
    | .ok p =>
      match placeOf p.pa with
      | none => .error cXLATE
      | some (pl, _) =>
        if pl == .pinned && !s.isPinned p.pa then .error cXLATE
        else
        let ok := match k with
          | .fetch => p.ex | .read => p.rd | .write => p.wr | .atomic => p.rd && p.wr | .copySrc => p.rd | .copyDst => p.wr
        let apert := pl == .aperture && ((s.formatAt p.pa).isNone || k == .atomic || k == .copySrc)
        if !ok || apert then .error cPERM else .ok p
/-- The context in which a core translates (R335): that of its team's grid. -/
def State.ctxOf (s : State) (c : Nat) : Nat := (s.grid (s.teamOf c).grid).ctx
/-- The frame that a page's entry names (R337): its bits below the page's size are zero. -/
def Page.frame (p : Page) : Nat := p.pa / p.size * p.size
/-- The die of the frame that a page's entry names: `d0` of R258. -/
def Page.frameDie (p : Page) : Nat := p.frame / dieBytes
/-- The replica that serves a core (R258). -/
def servedPa (c : Nat) (p : Page) : Nat :=
  let d0 := p.frameDie
  let n := (List.range 4).filter fun d => bit p.repl d
  if n.length ≤ 1 then p.pa
  else
    let d := if bit p.repl (dieOfCore c) then dieOfCore c else n.headD d0
    p.pa - d0 * dieBytes + d * dieBytes
/-- Every replica that MCST stores to (R173). -/
def replicaPas (p : Page) : List Nat :=
  let d0 := p.frameDie
  let n := (List.range 4).filter fun d => bit p.repl d
  if n.length ≤ 1 then [p.pa] else n.map fun d => p.pa - d0 * dieBytes + d * dieBytes
/-- Split n bytes from `a` at 64 KiB page boundaries. -/
def pieces : Nat → Nat → Nat → List (Nat × Nat)
  | 0, _, _ => []
  | fuel + 1, a, n =>
    if n = 0 then []
    else
      let k := min n (65536 - a % 65536)
      (a, k) :: pieces fuel (a + k) (n - k)
def piecesOf (a n : Nat) : List (Nat × Nat) := pieces (n / 65536 + 2) a n
/-- A piece within one page: in the presented aperture every byte of it lies in an enabled region (R260). -/
def State.translatePiece (s : State) (ctx va n : Nat) (k : AccessKind) : Except Nat Page :=
  match s.translate ctx va k with
  | .error e => .error e
  | .ok p =>
    match placeOf p.pa with
    | some (.aperture, _) => if (List.range n).all fun i => (s.formatAt (p.pa + i)).isSome then .ok p else .error cPERM
    | _ => .ok p
/-- An access, translated piece by piece. A page that does not translate comes before one that lacks the permission,
and the lower address before the higher (R97, R169). -/
def State.translatePieces (s : State) (ctx : Nat) (ps : List (Nat × Nat)) (k : AccessKind) :
    Except (Nat × Nat) (List (Nat × Nat × Page)) :=
  ps.foldr (fun (b, m) acc =>
    match s.translatePiece ctx b m k, acc with
    | .error e, .error (d, a) => if e = cPERM ∧ d ≠ cPERM then .error (d, a) else .error (e, b)
    | .error e, _ => .error (e, b)
    | .ok p, .ok l => .ok ((b, m, p) :: l)
    | _, e => e) (.ok [])
/-- The first byte of a range that an access cannot reach, or the start of its 16-byte granule (R175), and the cause. -/
def State.firstBad (s : State) (ctx a n : Nat) (k : AccessKind) : Option (Nat × Nat) :=
  (piecesOf a n).findSome? fun q =>
    match s.translate ctx q.1 k, s.translatePiece ctx q.1 q.2 k with
    | .error e, _ => some (q.1, e)
    | .ok p, .error e => some ((q.1 + ((List.range q.2).takeWhile fun i => (s.formatAt (p.pa + i)).isSome).length) / 16 * 16, e)
    | .ok _, .ok _ => none
def State.translateAll (s : State) (ctx a n : Nat) (k : AccessKind) : Except (Nat × Nat) (List (Nat × Nat × Page)) :=
  s.translatePieces ctx (piecesOf a n) k
/-- A page's bytes are the core's local memory: its own scratchpad (R117, R249). -/
def isLocal (c : Nat) (pa : Nat) : Bool :=
  match placeOf pa with
  | some (.spad d _, _) => d == c
  | _ => false

/-- The first-level cache. Lines stand in order of use, the latest first. -/
def l1Find (l : List L1Line) (g : Nat) : Option L1Line := l.find? fun x => x.pa / 128 == g
def l1Touch (l : List L1Line) (x : L1Line) : List L1Line := x :: l.filter fun y => y.pa / 128 != x.pa / 128
/-- Cells of a line's dirty bytes. -/
def L1Line.dirtyCells (x : L1Line) : List (Nat × Byte) :=
  ((List.range 128).filter fun i => bit x.dirty i).map fun i => (x.pa + i, byteOf x.data.toNat i)
/-- Write a line's dirty bytes back to its home (R253, R254). -/
def State.writeBack (s : State) (x : L1Line) : State := s.homeWrite x.dirtyCells
/-- Make room in a line's set: of four, one of the lowest EVP and least recently used goes (R253). -/
def State.l1Evict (s : State) (c g : Nat) : State :=
  let k := s.core c
  let set := k.l1.filter fun x => x.pa / 128 % 128 == g % 128
  if set.length < 4 then s
  else
    let low := set.foldl (fun e x => min e x.evp) 3
    match (set.filter fun x => x.evp == low).getLast? with
    | none => s
    | some v => (s.writeBack v).setCore c { k with l1 := k.l1.filter fun y => y.pa != v.pa }
/-- Fill a line from its home (R253, R261). -/
def State.l1Fill (s : State) (c pa evp : Nat) (latch : Option Nat) : State :=
  let g := pa / 128
  if (l1Find (s.core c).l1 g).isSome then s
  else
    let s := (s.hostFill pa).l1Evict c g
    let x : L1Line := { pa := g * 128, data := BitVec.ofNat 1024 (s.homeRead (g * 128) 128), dirty := 0, evp := evp, latch := latch }
    s.onCore c fun k => { k with l1 := x :: k.l1 }
/-- Invalidate lines of a core: those that `f` selects; dirty bytes are written back first when `wb`. -/
def State.l1Drop (s : State) (c : Nat) (wb : Bool) (f : L1Line → Bool) : State :=
  let k := s.core c
  let s := if wb then (k.l1.filter f).foldl State.writeBack s else s
  s.setCore c { k with l1 := k.l1.filter fun x => !f x }
/-- Write back lines and keep them, clean. -/
def State.l1Clean (s : State) (c : Nat) (f : L1Line → Bool) : State :=
  let k := s.core c
  let s := (k.l1.filter fun x => f x && x.dirty != 0).foldl State.writeBack s
  s.setCore c { k with l1 := k.l1.map fun x => if f x then { x with dirty := 0 } else x }
/-- A line whose bytes that are not dirty are as its home holds them. -/
def L1Line.refreshed (home : Nat) (x : L1Line) : L1Line :=
  { x with data := BitVec.ofNat 1024 (x.dirtyCells.foldl (fun v q => setBits v (8 * (q.1 % 128) + 7) (8 * (q.1 % 128)) q.2.toNat) home) }
/-- Invalidate clean lines (R254: a load drain); of a line that holds a store still to perform the other bytes are taken anew
from its home, so that no later load reads one that is older (R393). -/
def State.l1DropClean (s : State) (c : Nat) (f : L1Line → Bool) : State :=
  let k := s.core c
  let kept := k.l1.filter fun x => !(x.dirty == 0 && f x)
  s.setCore c { k with l1 := kept.map fun x => if f x then x.refreshed (s.homeRead x.pa 128) else x }

/-- An access misses the first level (R361). -/
def State.l1Miss (s : State) (c : Nat) : State := s.onCore c fun k => k.perf 7 1
/-- The page allocates in the first level (R253, R337). -/
def Page.cached (p : Page) : Bool := p.home == 0 && p.alloc == 2
/-- n bytes of a line. -/
def L1Line.bytes (x : L1Line) (pa n : Nat) : Nat := (x.data.toNat >>> (8 * (pa % 128))) % 2 ^ (8 * n)
/-- Read n bytes past the first level, through a page that does not allocate there. A line of the same bytes that another page has
made dirty serves the access with a hint (R169); without one its stored bytes are seen, which are the core's own earlier stores
(R117), and the rest is read at the home. -/
def State.pastRead (s : State) (c : Nat) (p : Page) (hint : Bool) (pa n : Nat) : Nat × State :=
  match l1Find (s.core c).l1 (pa / 128) with
  | some x =>
    if x.dirty = 0 then (s.homeRead pa n, if p.home = 0 && p.alloc = 1 && !hint then s.hostFill pa else s)
    else if hint then (x.bytes pa n, s.onCore c fun k => { k with l1 := l1Touch k.l1 x })
    else ((x.refreshed (s.homeRead x.pa 128)).bytes pa n, s)
  | none => (s.homeRead pa n, if p.home = 0 && p.alloc = 1 && !hint then s.hostFill pa else s)
/-- Read n bytes within one line through the first-level cache of a core (R253, R169). DESIGN CHOICE (log 49): a load with a hint,
and a store that misses, allocate no slice line of host memory; R255 does not say whether they do. -/
def State.lineRead (s : State) (c : Nat) (p : Page) (by_ na : Bool) (pa n : Nat) : Nat × State :=
  if !p.cached then s.pastRead c p (by_ || na) pa n
  else
    match l1Find (s.core c).l1 (pa / 128) with
    | some x =>
      if by_ && x.dirty = 0 then (s.homeRead pa n, s)
      else (x.bytes pa n, s.onCore c fun k => { k with l1 := l1Touch k.l1 x })
    | none =>
      let s := s.l1Miss c
      if by_ || na then (s.homeRead pa n, s)
      else
        let s := s.l1Fill c pa p.evp p.latch
        (s.homeRead pa n, s)
/-- Bytes before the next line boundary. -/
def linePieces : Nat → Nat → Nat → List (Nat × Nat)
  | 0, _, _ => []
  | fuel + 1, a, n =>
    if n = 0 then [] else let k := min n (128 - a % 128); (a, k) :: linePieces fuel (a + k) (n - k)
/-- Per aligned 8-byte element, the old or the new value as a free value chooses (R169, R252, R394). -/
def mix8 (free : Word) (a n old new : Nat) : Nat :=
  (List.range n).foldl (fun v i =>
    let e := (a + i) / 8 - a / 8
    let src := if bit free.toNat (e % 64) then new else old
    v + ((src >>> (8 * i)) % 256) <<< (8 * i)) 0
/-- Group cells by line. -/
def byLine : List (Nat × Byte) → List (List (Nat × Byte))
  | [] => []
  | c :: r =>
    match byLine r with
    | [] => [[c]]
    | g :: gs => if (g.headD c).1 / 128 = c.1 / 128 then (c :: g) :: gs else [c] :: g :: gs
/-- An element's byte `b` has been written since a record of R252 began. -/
def viewWrote (r : List (Nat × Nat × Nat)) (b : Nat) : Bool :=
  match assoc r (b / 64) with
  | some (_, m) => bit m (b / 8 % 8)
  | none => false
/-- A record takes granules in, with the bytes that stand there. -/
def viewAdd (m : List Host.Cell) (r : List (Nat × Nat × Nat)) (gs : List Nat) : List (Nat × Nat × Nat) :=
  gs.foldl (fun r g => if (assoc r g).isSome then r else r ++ [(g, Memory.read m (g * 64) 64, 0)]) r
/-- A write of the 8-byte element of number `e` begins: a record holds what stands there before the first. -/
def viewMark (m : List Host.Cell) (r : List (Nat × Nat × Nat)) (e : Nat) : List (Nat × Nat × Nat) :=
  match assoc r (e / 8) with
  | some (old, w) =>
    if bit w (e % 8) then r
    else assocSet r (e / 8) (setBits old (64 * (e % 8) + 63) (64 * (e % 8)) (Memory.read m (8 * e) 8), w + 2 ^ (e % 8))
  | none => r ++ [(e / 8, Memory.read m (e / 8 * 64) 64, 2 ^ (e % 8))]
/-- The core's records of R252 change. -/
def State.onView (s : State) (c : Nat) (swz : Bool) (f : List (Nat × Nat × Nat) → List (Nat × Nat × Nat)) : State :=
  s.onCore c fun k => { k with ctl := if swz then { k.ctl with writtenSwz := f k.ctl.writtenSwz }
                                      else { k.ctl with writtenLin := f k.ctl.writtenLin } }
/-- Record a core's access for writing of granules through a scratchpad view (R252). -/
def State.noteGranules (s : State) (c : Nat) (swz : Bool) (gs : List Nat) : State := s.onView c swz fun r => viewAdd s.mem r gs
/-- Record a core's write of cells through a scratchpad view, as it begins (R252). -/
def State.noteView (s : State) (c : Nat) (swz : Bool) (cs : List (Nat × Byte)) : State :=
  s.onView c swz fun r => (cs.map fun q => q.1 / 8).eraseDups.foldl (viewMark s.mem) r
/-- The record of the other view (R252). -/
def Core.otherView (k : Core) (swz : Bool) : List (Nat × Nat × Nat) := if swz then k.ctl.writtenLin else k.ctl.writtenSwz
/-- Two cross-view writes of an 8-byte element leave it holding one of the two values (R252): the cells that a write keeps. -/
def State.crossWrite (s : State) (c : Nat) (swz : Bool) (cs : List (Nat × Byte)) : List (Nat × Byte) × State :=
  let r := (s.core c).otherView swz
  if cs.any fun q => viewWrote r q.1 then
    let (f, s) := s.takeFree
    (cs.filter fun q => !viewWrote r q.1 || bit f.toNat (q.1 / 8 % 64), s)
  else (cs, s)
/-- Cells of a scratchpad, by storage address, are written through a view by core `c` (R252). -/
def State.viewWrite (s : State) (c : Nat) (swz : Bool) (st : List (Nat × Byte)) : State :=
  let (st', s) := s.crossWrite c swz st
  (s.noteView c swz st).homeWrite st'
/-- Read n bytes of a scratchpad through a view: where the core has written them through the other view, each 8-byte
element reads as before or after (R252). -/
def State.spadRead (s : State) (c : Nat) (swz : Bool) (pa n : Nat) : Nat × State :=
  let v := s.homeRead pa n
  let r := (s.core c).otherView swz
  let cellsAt := (List.range n).map fun i => match placeOf (pa + i) with | some (_, b) => b | none => 0
  if !r.isEmpty && cellsAt.any (viewWrote r) then
    let old := (List.range n).foldl (fun o i =>
      let b := cellsAt.getD i 0
      let x := match viewWrote r b, assoc r (b / 64) with
        | true, some (d, _) => (d >>> (8 * (b % 64))) % 256
        | _, _ => (Memory.byte s.mem b).toNat
      o + x <<< (8 * i)) 0
    let (f, s) := s.takeFree
    (mix8 f pa n old v, s)
  else (v, s)
/-- Read a page's bytes as core `c` sees them: the replica that serves it, its first-level cache, its own earlier
writes through the other scratchpad view (R252, R253, R258). -/
def State.pageRead (s : State) (c : Nat) (p : Page) (by_ na : Bool) (n : Nat) : Nat × State :=
  let pa := servedPa c p
  match placeOf pa with
  | some (.spad _ swz, _) => s.spadRead c swz pa n
  | _ =>
    (linePieces (n / 128 + 2) pa n).foldl (fun (v, s) (b, m) =>
      let (x, s) := s.lineRead c p by_ na b m
      (v + x <<< (8 * (b - pa)), s)) (0, s)
/-- A copy still writes a byte of its destination: no later access of its core has (R117, R174). -/
def Copy.writes (cp : Copy) (a : Nat) : Bool :=
  decide (cp.dst ≤ a ∧ a < cp.dst + cp.len) && !(cp.skip.any fun r => decide (r.1 ≤ a ∧ a < r.1 + r.2))
/-- The block of an enabled format region that holds a physical address (R260). -/
def State.blockAt (s : State) (pa : Nat) : Option (Nat × Nat) :=
  (s.formatAt pa).map fun r => (r.base, (pa - r.base) / r.pres.wid / r.block)
/-- The presented bytes of the block that holds a physical address (R260, R262). -/
def State.blockRange (s : State) (pa : Nat) : Option (Nat × Nat) :=
  (s.formatAt pa).map fun r => (r.base + (pa - r.base) / r.pres.wid / r.block * (r.block * r.pres.wid), r.block * r.pres.wid)
/-- Where byte `i` of a copy goes, if its core reaches that: the physical address, and whether its page is checked. -/
def State.copySpot (s : State) (d : Nat) (cp : Copy) (i : Nat) : Option (Nat × Bool) :=
  match s.translatePiece (s.ctxOf d) (cp.dst + i) 1 .copyDst with
  | .ok p => some (servedPa d p, p.chk)
  | .error _ => none
/-- The bytes of a copy that go to a block of a format region, of those about byte `i`. -/
def State.copyBlock (s : State) (d : Nat) (cp : Copy) (i : Nat) (b : Nat × Nat) : List Nat :=
  ((List.range 1024).map (i + ·)).filterMap fun x =>
    let j := x - 512
    if 512 ≤ x ∧ j < cp.len ∧ ((s.copySpot d cp j).bind fun q => s.blockAt q.1) = some b then some j else none
/-- The bytes that go with byte `i` of a copy: in the presented aperture those of its block, which is re-quantised once, with all
of them, so that none goes as long as one of them cannot (R262). -/
def State.copyUnit (s : State) (d : Nat) (cp : Copy) (i : Nat) : List Nat :=
  match (s.copySpot d cp i).bind fun q => s.blockAt q.1 with
  | none => [i]
  | some b => let l := s.copyBlock d cp i b; if l.all fun j => decide (j < cp.data.length) then l else []
/-- Cells that a core's copy writes, through the views of the scratchpads among them; one that was issued before the core's latest
view-join bundle is in no record of a view (R252). -/
def State.landCells (s : State) (c : Nat) (joined : Bool) (cs : List (Nat × Byte)) : State :=
  if joined then s.homeWriteAll cs
  else
  let view := fun (q : Nat × Byte) => match placeOf q.1 with | some (.spad _ swz, _) => some swz | _ => none
  let s := s.homeWriteAll (cs.filter fun q => (view q).isNone)
  [false, true].foldl (fun s swz =>
    (byLine ((cs.filter fun q => view q == some swz).filterMap fun q => (placeOf q.1).map fun p => (p.2, q.2))).foldl
      (fun s g => s.viewWrite c swz g) s) s
/-- Ascending addresses as ranges. -/
def runs : List Nat → List (Nat × Nat)
  | [] => []
  | a :: l =>
    match runs l with
    | (b, n) :: r => if b = a + 1 then (a, n + 1) :: r else (a, 1) :: (b, n) :: r
    | [] => [(a, 1)]
/-- Bytes of copy `id` have reached their destination: earlier copies of the core that are still to write them leave them alone, since
theirs come first at each address (R117, R174). -/
def Core.coverCopies (id : Nat) (vas : List Nat) (k : Core) : Core :=
  { k with copies := k.copies.map fun y =>
      if decide (y.id < id) && !y.complete then
        { y with skip := y.skip ++ runs (vas.filter fun a => decide (y.dst ≤ a ∧ a < y.dst + y.len)) }
      else y }
/-- An outstanding copy of a core reaches some of the 8-byte elements of [va, va + n), as a free value chooses: they are in its
destination from then on, for every later read of the home (R169, R270, R394). -/
def State.copySome (s : State) (d va n : Nat) (cp : Copy) : State :=
  let lo := max va cp.dst
  let hi := min (va + n) (cp.dst + min cp.len cp.data.length)
  if cp.complete || decide (hi ≤ lo) then s
  else
    let (f, s) := s.takeFree
    let pick := fun (i : Nat) => match (s.copySpot d cp i).bind fun q => s.blockAt q.1 with
      | some b => bit f.toNat (b.2 % 64)
      | none => bit f.toNat ((cp.dst + i) / 8 % 64)
    let now := ((((List.range (hi - lo)).map (lo - cp.dst + ·)).filter pick).flatMap (s.copyUnit d cp)).eraseDups.filter fun i => cp.writes (cp.dst + i)
    let cells := now.filterMap fun i =>
      match s.copySpot d cp i with
      | some (pa, false) => some (cp.dst + i, pa, cp.data.getD i 0)
      | _ => none
    let s := (s.landCells d cp.joined (cells.map fun x => (x.2.1, x.2.2))).onCore d (Core.coverCopies cp.id (cells.map fun x => x.1))
    s.onCore d fun k => { k with copies := k.copies.map fun x =>
      if x.id == cp.id then { x with skip := x.skip ++ cells.map fun y => (y.1, 1) } else x }
/-- Before an unchecked access every outstanding copy whose destination meets its bytes may go on (R169). -/
def State.copyMix (s : State) (c va n : Nat) : State :=
  let ctx := s.ctxOf c
  s.cores.foldl (fun s e => if s.ctxOf e.1 = ctx then e.2.copies.foldl (fun s cp => s.copySome e.1 va n cp) s else s) s
/-- The value a core loads: n bytes at a virtual address, translated pieces given. -/
def State.loadValue (s : State) (c va n : Nat) (ps : List (Nat × Nat × Page)) (by_ na : Bool) : Nat × State :=
  let s := if ps.any fun q => q.2.2.chk then s else s.copyMix c va n
  ps.foldl (fun (v, s) (b, m, p) =>
    let (x, s) := s.pageRead c p by_ na m
    (v + x <<< (8 * (b - va)), s)) (0, s)

/-- How a store reaches memory: 0 at its home, 1 write-back, 2 write-through, 3 bypass, 4 no-allocate, 5 at its home with a hint
(R169, R253). -/
def storeMode (p : Page) (by_ na : Bool) : Nat :=
  match placeOf p.pa with
  | some (.aperture, _) => 0
  | _ => if !p.cached then (if by_ || na then 5 else 0) else if by_ then 3 else if p.wt then 2 else if na then 4 else 1
/-- Write cells within one line through the first-level cache (R169, R253). A line that another page has made dirty keeps its other
dirty bytes where a store goes past it to the home. -/
def State.lineWrite (s : State) (c mode evp : Nat) (lt : Option Nat) (cs : List (Nat × Byte)) : State :=
  match cs with
  | [] => s
  | (a, _) :: _ =>
    let put := fun (x : L1Line) (d : Bool) =>
      { x with data := BitVec.ofNat 1024 (cs.foldl (fun v q => setBits v (8 * (q.1 % 128) + 7) (8 * (q.1 % 128)) q.2.toNat) x.data.toNat),
               dirty := if d then cs.foldl (fun v q => v ||| 2 ^ (q.1 % 128)) x.dirty else x.dirty }
    let hit := l1Find (s.core c).l1 (a / 128)
    let into := fun (s : State) (x : L1Line) (d : Bool) => s.onCore c fun k => { k with l1 := l1Touch k.l1 (put x d) }
    match mode, hit with
    | 0, some x =>
      if x.dirty = 0 then (s.l1Drop c false fun y => y.pa == x.pa).homeWrite cs
      else
        let y := put x false
        (s.onCore c fun k => { k with l1 := l1Touch k.l1 { y with dirty := y.dirty &&& (y.dirty ^^^ cs.foldl (fun v q => v ||| 2 ^ (q.1 % 128)) 0) } }).homeWrite cs
    | 5, some x => if x.dirty = 0 then (s.l1Drop c false fun y => y.pa == x.pa).homeWrite cs else into s x true
    | 0, none => s.homeWrite cs
    | 5, none => s.homeWrite cs
    | 2, some x => (into s x false).homeWrite cs
    | 3, some x => if x.dirty != 0 then into s x true else (into s x false).homeWrite cs
    | 1, some x => into s x true
    | 4, some x => into s x true
    | 1, none =>
      let s := (s.l1Miss c).l1Fill c a evp lt
      match l1Find (s.core c).l1 (a / 128) with
      | some x => into s x true
      | none => s.homeWrite cs
    | _, none => (s.l1Miss c).homeWrite cs
    | _, some x => into s x true
/-- The store of a core at its commit: cells by physical address, in ascending order of virtual address. -/
def State.storeCells (s : State) (c mode evp : Nat) (lt : Option Nat) (cs : List (Nat × Byte)) : State :=
  match cs with
  | [] => s
  | (a, _) :: _ =>
    match placeOf a with
    | some (.spad _ swz, _) =>
      s.viewWrite c swz (cs.filterMap fun q => (placeOf q.1).map fun x => (x.2, q.2))
    | some (.aperture, _) => ((s.l1Drop c false fun x => cs.any fun q => q.1 / 128 == x.pa / 128)).homeWriteAll cs
    | _ => (byLine cs).foldl (fun s g => s.lineWrite c mode evp lt g) s

/-- A kernel boundary's part on caches: every first-level line written back and invalidated, every slice line of host
memory invalidated (R254, R255, R273). -/
def State.cacheBoundary (s : State) : State :=
  let s := (s.cores.map Prod.fst).foldl (fun s c => s.l1Drop c true fun _ => true) s
  { s with hostLines := [] }

end Sys2Proof.Machine
end

