-- ==== Sys2Proof/Machine/Conflict.lean ====
section
/-! DEFINITION. The conflict checker (R274-R281): one check per access, its entries, folds, spills and tentative claims. -/
namespace Sys2Proof.Machine

/-- Kinds of checked access (R276). -/
inductive Acc where
  | read
  | write
  | red (opc ty sz : Nat)
  | cwrite (id : Nat)
  deriving DecidableEq, Repr
/-- Why an access does not pass: it faults, it finds its slice full, or it waits for a tentative entry (R275, R281). -/
inductive Refuse where
  | conflict
  | full (slice : Nat)
  | wait
  deriving DecidableEq, Repr

/-- Entries of a slice: those in its table, or those that it has spilled. -/
def State.entriesOf (s : State) (sl : Nat) (out : Bool) : Nat :=
  (s.granules.filter fun e => e.2.spilled == out && s.homeSlice (e.1 * 64) == sl).length +
  (s.handoffs.filter fun e => e.2.spilled == out && s.homeSlice (e.1 * 64) == sl).length +
  (s.records.filter fun e => e.2.spilled == out && e.1 % 64 == sl).length
/-- Entries that a slice's table holds now (CTOCC of R365). -/
def State.ctocc (s : State) (sl : Nat) : Nat := s.entriesOf sl false
/-- Entries that a slice has spilled (CTSPL of R365). -/
def State.ctspl (s : State) (sl : Nat) : Nat := s.entriesOf sl true
/-- A slice's table takes no further entry (R281). -/
def State.tableFull (s : State) (sl : Nat) : Bool := decide (32768 ≤ s.ctocc sl)
/-- The record of a granule: its 64 KiB page and home slice (R279). -/
def State.recordKey (s : State) (g : Nat) : Nat := g * 64 / 65536 * 64 + s.homeSlice (g * 64)
def State.record (s : State) (g : Nat) : Record := s.records.get {} (s.recordKey g)
def State.setRecord (s : State) (g : Nat) (r : Record) : State := { s with records := s.records.put {} (s.recordKey g) r }
/-- A number joins a list. -/
def joined (x : Nat) (l : List Nat) : List Nat := if l.contains x then l else l ++ [x]
/-- Numbers join a list. -/
def joinAll (xs l : List Nat) : List Nat := xs.foldl (fun l x => joined x l) l
/-- The teams of a record, with those that are tentative. -/
def Record.all (r : Record) : List Nat := r.tent.foldl (fun l x => joinAll x.2.1 l) r.teams
/-- Its writers, with those that are tentative. -/
def Record.allWriters (r : Record) : List Nat := r.tent.foldl (fun l x => if x.2.2 then joinAll x.2.1 l else l) r.writers
/-- RT ∉ {none, T} (R279). -/
def Record.foreign (r : Record) (t : Nat) : Bool := r.all.any (· != t)
/-- A record with nothing tentative but what core `c` alone has entered (R275). -/
def Record.confirmed (c : Nat) (r : Record) : Record := { r with tent := r.tent.filter fun x => x.1.all fun y => y.1 == c }
/-- Teams enter a record, as writers with `wr`, once the bundles of some cores have all committed: with no core, at once (R275). -/
def Record.enter (cs : List (Nat × Nat)) (ts : List Nat) (wr : Bool) (r : Record) : Record :=
  if cs.isEmpty then { r with teams := joinAll ts r.teams, writers := if wr then joinAll ts r.writers else r.writers }
  else if (ts.all fun t => r.teams.contains t && (!wr || r.writers.contains t)) ||
      r.tent.any fun x => (x.1.all cs.contains) && (ts.all fun t => x.2.1.contains t) && (!wr || x.2.2) then r
  else { r with tent := r.tent ++ [(cs, ts, wr)] }
/-- The bundle of core `c` commits, or is withdrawn. -/
def Record.confirm (c : Nat) (r : Record) : Record :=
  let tent := r.tent.map fun x => (x.1.filter fun y => y.1 != c, x.2)
  (tent.filter fun x => x.1.isEmpty).foldl (fun r x => r.enter [] x.2.1 x.2.2) { r with tent := tent.filter fun x => !x.1.isEmpty }
def Record.withdraw (c : Nat) (r : Record) : Record := { r with tent := r.tent.filter fun x => !(x.1.any fun y => y.1 == c) }
/-- Records, by key, change. -/
def State.onRecords (s : State) (keys : List Nat) (f : Record → Record) : State :=
  keys.foldl (fun s k => { s with records := s.records.put {} k (f (s.records.get {} k)) }) s
/-- An entry of an earlier interval of its team is stale, for good (R280). -/
def State.staleEntry (s : State) (e : Granule) : Bool := e.par != (s.team e.team).parity
/-- A live state in which a granule has been written: OWN or RED (R280). -/
def Live.writes : Live → Bool
  | .rd _ => false
  | _ => true
/-- What a folded entry gives its record: teams, whether they have written, and the bundles, each of a core and issued in a cycle, that
have still to commit (R275, R280). -/
def Granule.folds (e : Granule) : List (List (Nat × Nat) × Nat × Bool) :=
  if e.tent.isEmpty then [([], e.team, e.live.writes)]
  else (e.base.map fun b => (([] : List (Nat × Nat)), b.2.1, b.1.writes)).toList ++
    e.tent.map fun x => ([(x.1, x.2.1)], x.2.2.2.1, x.2.2.1.writes)
/-- Fold an entry into its record and free it (R280); a claim that is tentative is tentative there too (R275). -/
def State.fold (s : State) (g : Nat) (e : Granule) : State :=
  let r := e.folds.foldl (fun r q => Record.enter q.1 [q.2.1] q.2.2 r) (s.record g)
  { s with granules := assocDel s.granules g }.setRecord g r
/-- A record moves back into the table, if its slice has room; a new one needs room too (R281). -/
def State.bringRecord (s : State) (g : Nat) : Except Refuse State :=
  let r := s.record g
  if r.spilled then
    if s.tableFull (s.homeSlice (g * 64)) then .error (.full (s.homeSlice (g * 64))) else .ok (s.setRecord g { r with spilled := false })
  else .ok s
/-- A team of the kernel that has begun and not ended. -/
def Team.lives (t : Team) : Bool := match t.mode with | .waiting => true | .resident => true | .out => true | _ => false
/-- Spilled entries that lie in the memory quota of a region: those of its teams, and the handoff entries, which name no team, where one
of its teams lives (R281, R344; log 14). -/
def State.spilledIn (s : State) (a : Nat) : Nat :=
  let mine := fun (t : Nat) => s.within (s.rcbOf (s.team t)) a
  (s.granules.filter fun e => e.2.spilled && mine e.2.team).length +
  (if s.teams.any fun e => e.2.lives && mine e.1 then (s.handoffs.filter fun e => e.2.spilled).length else 0) +
  (s.records.filter fun e => e.2.spilled && e.2.all.any mine).length
/-- Pages that the folios of a region and of those below it hold, cold pieces while they are mapped, and the spill area with n
more entries of 32 bytes (R24, R266, R345, R352). -/
def State.pagesWith (s : State) (a n : Nat) : Nat :=
  (s.folios.map fun f =>
    if s.within f.2.rcb a then
      (f.2.pages.map Prod.snd).sum - (f.2.cold.filter fun p => (s.walkPage f.2.ctx p.1).isNone).length
    else 0).sum + (32 * (s.spilledIn a + n) + 65535) / 65536
def State.regionPages (s : State) (a : Nat) : Nat := s.pagesWith a 0
/-- The memory quotas of a region and of those above it hold n more spilled entries (R281, R345; log 14). -/
def State.spillRoom (s : State) (a n : Nat) : Bool := (s.above a).all fun b => decide (s.pagesWith b n ≤ bits (s.region b 2 2) 47 0)
/-- The spill areas in which an entry of some teams lies have room for it. -/
def State.roomFor (s : State) (ts : List Nat) : Bool := ts.all fun t => s.spillRoom (s.rcbOf (s.team t)) 1
/-- The first entry of a list that a test selects is changed. -/
def changeFirst {α : Type} (p : α → Bool) (f : α → α) : List α → Option (List α)
  | [] => none
  | e :: l => if p e then some (f e :: l) else (changeFirst p f l).map (e :: ·)
/-- One entry of a slice's table, the first for which its spill areas have room, moves there: a granule, else a handoff entry, else a
record (R281, R345; log 14). -/
def State.spillOne (s : State) (sl : Nat) : Option State :=
  let g := changeFirst (fun (e : Nat × Granule) => !e.2.spilled && s.homeSlice (e.1 * 64) == sl && s.roomFor [e.2.team])
    (fun e => (e.1, { e.2 with spilled := true })) s.granules
  let h := changeFirst (fun (e : Nat × Handoff) => !e.2.spilled && s.homeSlice (e.1 * 64) == sl &&
      s.roomFor ((s.teams.filter fun t => t.2.lives).map Prod.fst)) (fun e => (e.1, { e.2 with spilled := true })) s.handoffs
  let r := changeFirst (fun (e : Nat × Record) => !e.2.spilled && e.1 % 64 == sl && s.roomFor e.2.all)
    (fun e => (e.1, { e.2 with spilled := true })) s.records
  match g, h, r with
  | some l, _, _ => some { s with granules := l }
  | none, some l, _ => some { s with handoffs := l }
  | none, none, some l => some { s with records := l }
  | none, none, none => none
/-- Up to n entries of a slice's table move to the spill area (R281). -/
def State.spillEntries (s : State) (sl : Nat) : Nat → State
  | 0 => s
  | n + 1 => match s.spillOne sl with | some t => t.spillEntries sl n | none => s
/-- Entries that a slice's table cannot hold are spilled, as far as the quotas have room; the others stay, and the table takes no further
one (R281, R345; log 14). -/
def State.fitSlice (s : State) (sl : Nat) : State := if s.ctocc sl ≤ 32768 then s else s.spillEntries sl (s.ctocc sl - 32768)
/-- Look an entry up: a stale one is folded first, a spilled one moves back into the table (R280, R281). -/
def State.lookupGranule (s : State) (g : Nat) : Except Refuse (Option Granule × State) :=
  let sl := s.homeSlice (g * 64)
  match assoc s.granules g with
  | none => .ok (none, s)
  | some e =>
    if s.staleEntry e then
      if e.spilled && s.record g == {} && s.tableFull sl then .error (.full sl) else .ok (none, s.fold g e)
    else if e.spilled then
      if s.tableFull sl then .error (.full sl)
      else
        let e := { e with spilled := false }
        .ok (some e, { s with granules := assocSet s.granules g e })
    else .ok (some e, s)

/-- The claims that an entry joins, each with its team: one that is confirmed, and those that bundles of cores have still to commit
(R275). -/
def Granule.claims (e : Granule) : List (List (Nat × Nat) × Nat) :=
  if e.tent.isEmpty then [([], e.team)]
  else (e.base.map fun b => (([] : List (Nat × Nat)), b.2.1)).toList ++ e.tent.map fun x => ([(x.1, x.2.1)], x.2.2.2.1)
/-- `across_teams` of R279; what it enters in the record is tentative until the bundle commits, and with it that of the other team's
claim which it meets (R275). -/
def State.acrossTeams (s : State) (c g t : Nat) (read : Bool) (e : Option Granule) : Except Refuse State :=
  let r := s.record g
  let other := match e with
    | some e => e.team != t
    | none => false
  let both := match e with
    | some { live := .rd _, .. } => read
    | _ => false
  if other && !both then .error .conflict
  else
    let r' := if both then (((e.map Granule.claims).getD []).filter fun q => q.2 != t).foldl
      (fun r q => r.enter ((c, s.cycleOf c) :: q.1.filter fun y => y.1 != c) [q.2, t] false) r else r
    if r'.foreign t && (!r'.allWriters.isEmpty || !read) then .error .conflict
    else if r == {} && r' != {} && s.tableFull (s.homeSlice (g * 64)) then .error (.full (s.homeSlice (g * 64)))
    else .ok (s.setRecord g r')

/-- A copy of core `c` that is not yet established, be it one that the same issue makes (R275, R277). -/
def State.copyOpen (s : State) (c : Nat) (cp : Option (Nat × Nat)) : Bool :=
  match cp with
  | some (d, id) =>
    d == c && (decide (((s.core c).csr csrNEXTID).toNat ≤ id) || (s.core c).copies.any fun x => x.id == id && !x.established)
  | none => false
/-- The new live state of R276, or CONFLICT. -/
def State.nextLive (s : State) (c : Nat) (kind : Acc) (e : Option Granule) : Except Refuse Live :=
  match e with
  | none =>
    match kind with
    | .read => .ok (.rd [c])
    | .write => .ok (.own c)
    | .cwrite _ => .ok (.own c)
    | .red o t z => .ok (.red o t z)
  | some e =>
    match e.live, kind with
    | .rd cs, .read => .ok (.rd (joined c cs))
    | .rd cs, .write => if cs == [c] then .ok (.own c) else .error .conflict
    | .rd cs, .cwrite _ => if cs == [c] then .ok (.own c) else .error .conflict
    | .rd _, .red _ _ _ => .error .conflict
    | .own d, k =>
      if d ≠ c then .error .conflict
      else
        match k with
        | .red _ _ _ => .error .conflict
        | .read => if s.copyOpen c e.cp then .error .conflict else .ok (.own d)
        | _ => .ok (.own d)
    | .red o t z, .red o' t' z' => if o = o' ∧ t = t' ∧ z = z' then .ok (.red o t z) else .error .conflict
    | .red _ _ _, _ => .error .conflict
/-- The checks of R276 and R279 against an entry. -/
def State.admits (s : State) (c g : Nat) (kind : Acc) (e : Option Granule) : Except Refuse (Live × State) :=
  match s.acrossTeams c g (s.core c).ctl.team (kind == .read) e with
  | .error r => .error r
  | .ok s =>
    match s.nextLive c kind e with
    | .error r => .error r
    | .ok l => .ok (l, s)
/-- An entry without its tentative claims (R275). -/
def Granule.confirmed (e : Granule) : Option Granule :=
  if e.tent.isEmpty then some e else e.base.map fun b => { e with live := b.1, team := b.2.1, par := b.2.2, base := none, tent := [] }
/-- A claim of a lower core that was entered in this very cycle is no reason to wait: the later access is the offending one
(R275). DESIGN CHOICE (log 48): the spec does not say whether accesses of cores of two clusters, whose cycles are not the same, reach a
slice in the same cycle; they never do here. -/
def State.sameCycle (s : State) (c : Nat) (tent : List (Nat × Nat)) : Bool :=
  tent.any fun x => decide (x.1 < c) && clusterOf x.1 == clusterOf c && x.2 == s.cycleOf c
/-- A claim joins what stands (R276). -/
def joinLive (a : Option Live) (b : Live) : Live :=
  match a, b with
  | some (.rd cs), .rd ds => .rd (ds.foldl (fun l d => joined d l) cs)
  | some (.own c), .rd _ => .own c
  | _, b => b
/-- The part of a live state that is core `c`'s own. -/
def Live.part (c : Nat) : Live → Live
  | .rd _ => .rd [c]
  | l => l

/-- `interval_check` of R276 with the tentative rule of R275 and the capacity rule of R281. -/
def State.intervalCheck (s : State) (c g : Nat) (kind : Acc) : Except Refuse State :=
  let t := (s.core c).ctl.team
  let sl := s.homeSlice (g * 64)
  match s.bringRecord g with
  | .error r => .error r
  | .ok s =>
    match s.lookupGranule g with
    | .error r => .error r
    | .ok (e, s) =>
      match s.admits c g kind e with
      | .error .conflict =>
        let tent := ((e.map fun x => x.tent).getD []).map (fun y => (y.1, y.2.1)) ++
          ((s.record g).tent.flatMap fun y => y.1).filter fun y => y.1 != c
        if tent.isEmpty then .error .conflict
        else
          match (s.setRecord g ((s.record g).confirmed c)).admits c g kind (e.bind Granule.confirmed) with
          | .error r => .error r
          | .ok _ => .error (if s.sameCycle c tent then .conflict else .wait)
      | .error r => .error r
      | .ok (l, s) =>
        if e.isNone && s.tableFull sl then .error (.full sl)
        else
          let e' : Granule := match e with
            | some e =>
              { e with live := l, base := if e.tent.isEmpty then none
                  else some (joinLive (e.base.map Prod.fst) (l.part c), (e.base.map Prod.snd).getD (t, (s.team t).parity)) }
            | none => { live := l, team := t, par := (s.team t).parity }
          let e' := match kind with
            | .cwrite id => { e' with cp := some (c, id) }
            | _ => e'
          .ok { s with granules := assocSet s.granules g e' }

/-- A granule of storage has cells in the page of n bytes at a physical address: in the swizzled view of a scratchpad each of its 16-byte
blocks lies elsewhere (R250, R275). -/
def inPage (b n g : Nat) : Bool :=
  match placeOf b with
  | some (.spad c true, _) =>
    decide (spadBase c ≤ g * 64) && (List.range 4).any fun i =>
      let a := spadBase c + 0x20000000 + swizzle (g * 64 + 16 * i - spadBase c)
      decide (b ≤ a ∧ a < b + n)
  | _ => decide (b ≤ g * 64 ∧ g * 64 < b + n)
/-- The entries of a handoff page of `n` bytes whose replicas stand at `bases` (R258, R278). -/
def State.handoffsOf (s : State) (bases : List Nat) (n : Nat) : List (Nat × Handoff) :=
  s.handoffs.filter fun e => bases.any fun b => inPage b n e.1
/-- Why a handoff access does not pass: `none` it does, `some w` it does not, `w` being whether what it meets is tentative
(R275, R278). -/
def State.handoffBad (s : State) (c l : Nat) (clu : Nat) (fixed : Bool) (e : Handoff) (write : Bool) : Option Bool :=
  let lt := s.latch l
  if clu ≠ clusterOf c then some (!fixed)
  else if write then
    if lt.passed || lt.ins.contains c || (s.core c).ctl.ltins.contains l then some false
    else match e.writer with | some d => if d = c then none else some (!e.wconf) | none => none
  else if e.writer = some c then none
  else if !lt.waited.contains c then some false
  else match e.writer with | some d => if lt.ins.contains d then none else some (!e.wconf) | none => none
/-- `handoff_check` of R278 on a granule of a page of `n` bytes, its replicas at `bases`, that names latch number `num`: the cluster that
governs is the page's. -/
def State.handoffCheck (s : State) (c g num : Nat) (bases : List Nat) (n : Nat) (write : Bool) : Except Refuse State :=
  let page := s.handoffsOf bases n
  let clu := (page.head?.map fun e => e.2.clu).getD (clusterOf c)
  let e := (assoc s.handoffs g).getD { latch := num, clu := clu }
  let sl := s.homeSlice (g * 64)
  match s.handoffBad c (clu * 256 + num) clu (page.any fun e => e.2.conf) e write with
  | some false => .error .conflict
  | some true => .error (if s.sameCycle c e.tent then .conflict else .wait)
  | none =>
    if ((assoc s.handoffs g).isNone || e.spilled) && s.tableFull sl then .error (.full sl)
    else
      let w := if write then some c else e.writer
      .ok { s with handoffs := assocSet s.handoffs g { e with writer := w, conf := true, wconf := e.wconf || w != e.writer, spilled := false } }

/-- The ring bytes in a core's scratchpad: the checker does not see them (R274, R305). -/
def State.ringsOf (s : State) (d : Nat) : List (Nat × Nat) :=
  s.channels.filterMap fun e =>
    let t := s.team e.2.cteam
    if e.2.valid && t.isResident && t.coreAt e.2.cpos == d then some (spadBase d + e.2.ring, e.2.depth * (e.2.cell + 16)) else none
/-- The 64-byte granules of an access, by storage cell (R274, R275). -/
def granules64 (pa n : Nat) : List Nat :=
  if n = 0 then []
  else
    match placeOf pa with
    | some (.spad _ true, _) =>
      ((List.range n).filterMap fun i => (placeOf (pa + i)).map fun x => x.2 / 64).eraseDups
    | _ => (List.range ((pa + n - 1) / 64 - pa / 64 + 1)).map (pa / 64 + ·)
/-- The granules of an access that the checker sees (R274, R305). -/
def State.seenGranules (s : State) (pa n : Nat) : List Nat :=
  match placeOf pa with
  | some (.spad d _, _) =>
    let rings := s.ringsOf d
    if rings.isEmpty then granules64 pa n
    else
      ((List.range n).filterMap fun i =>
        (placeOf (pa + i)).bind fun x =>
          if rings.any fun r => decide (r.1 ≤ x.2 ∧ x.2 < r.1 + r.2) then none else some (x.2 / 64)).eraseDups
  | _ => granules64 pa n
/-- `conflict_check` of R276 on n bytes at a physical address of a page. -/
def State.conflictCheck (s : State) (c : Nat) (p : Page) (pa n : Nat) (kind : Acc) : Except Refuse State :=
  if !p.chk then .ok s
  else
    let handoff := p.latch.isSome
    let special := match kind with
      | .red _ _ _ => true
      | .cwrite _ => true
      | _ => false
    if handoff && special then .error .conflict
    else
      (s.seenGranules pa n).foldl (fun r g =>
        match r with
        | .error e => .error e
        | .ok s =>
          match p.latch with
          | some l => s.handoffCheck c g l ((replicaPas p).map fun a => a - p.pa % p.size) p.size (kind == .write)
          | none => s.intervalCheck c g kind) (.ok s)

/-- Granule entries that an issue has changed, as they stood before it (R275). -/
def changedGranules (old new : List (Nat × Granule)) : List (Nat × Option Granule) :=
  if new = old then [] else new.filterMap fun e => if assoc old e.1 = some e.2 then none else some (e.1, assoc old e.1)
/-- Records that an issue has changed. -/
def changedRecords (old new : Table Record) : List Nat :=
  if new = old then [] else new.filterMap fun e => if old.get {} e.1 = e.2 then none else some e.1
/-- What a copy of core `c` has entered in records since they were `old` is confirmed at once. -/
def State.settleRecords (s : State) (old : Table Record) (c : Nat) : State :=
  (changedRecords old s.records).foldl (fun s k =>
    let r := s.records.get {} k
    let was := (old.get {} k).tent
    let new := Record.confirm c { r with tent := r.tent.filter fun x => !was.contains x }
    { s with records := s.records.put {} k { new with tent := was ++ new.tent } }) s
/-- A granule claim of core `c`, of a team with a parity, becomes tentative: `o` is the entry before it. -/
def Granule.tentative (c cyc t par : Nat) (o : Option Granule) (e : Granule) : Granule :=
  let before := (o.filter fun x => x.team == e.team && x.par == e.par).bind Granule.confirmed
  if (before.map fun x => x.live) = some e.live ∧ (before.map fun x => x.cp) = some e.cp then e
  else
    { e with base := before.map fun x => (x.live, x.team, x.par),
             tent := (e.tent.filter fun x => x.1 != c) ++ [(c, cyc, e.live.part c, t, par)] }
/-- A handoff access of core `c` becomes tentative. -/
def Handoff.tentative (c cyc : Nat) (o : Option Handoff) (e : Handoff) : Handoff :=
  { e with conf := (o.map fun x => x.conf).getD false,
           wconf := match o with | some x => if x.writer = e.writer then x.wconf else false | none => e.writer.isNone,
           tent := (e.tent.filter fun x => x.1 != c) ++ [(c, cyc)] }
/-- Mark the claims of a waiting bundle tentative: granules in `undo`, and the handoff entries that differ from the earlier
ones (R275). -/
def State.makeTentative (s : State) (c : Nat) (undo : List (Nat × Option Granule)) (old : List (Nat × Handoff)) : State :=
  let cyc := s.cycleOf c
  let t := (s.core c).ctl.team
  let s := undo.foldl (fun s u =>
    match assoc s.granules u.1 with
    | none => s
    | some e => { s with granules := assocSet s.granules u.1 (e.tentative c cyc t (s.team t).parity u.2) }) s
  { s with handoffs := s.handoffs.map fun h => if assoc old h.1 = some h.2 then h else (h.1, h.2.tentative c cyc (assoc old h.1)) }
/-- The claim of a core on a granule entry is confirmed. -/
def Granule.confirm (c : Nat) (e : Granule) : Granule :=
  let rest := e.tent.filter fun x => x.1 != c
  if rest.isEmpty then { e with base := none, tent := [] }
  else
    { e with tent := rest, base := match e.tent.find? fun x => x.1 == c with
        | some x => some (joinLive (e.base.map Prod.fst) x.2.2.1, (e.base.map Prod.snd).getD x.2.2.2)
        | none => e.base }
/-- The claims of a core on a handoff entry are confirmed. -/
def Handoff.confirm (c : Nat) (e : Handoff) : Handoff :=
  if e.tent.any fun x => x.1 == c then
    { e with conf := true, wconf := e.wconf || e.writer == some c, tent := e.tent.filter fun x => x.1 != c }
  else e
/-- Confirm the tentative claims of a core, and what they have a part in of the records (R275). -/
def State.confirmClaims (s : State) (c : Nat) (undo : List (Nat × Option Granule)) : State :=
  let s := undo.foldl (fun s u =>
    match assoc s.granules u.1 with
    | none => s
    | some e => if e.tent.any fun x => x.1 == c then { s with granules := assocSet s.granules u.1 (e.confirm c) } else s) s
  { s.onRecords (s.records.map Prod.fst) (Record.confirm c) with handoffs := s.handoffs.map fun h => (h.1, h.2.confirm c) }
/-- A granule entry without the tentative claim of a core; `none` where nothing is left of it. Its team is one that still claims it. -/
def Granule.withdraw (c : Nat) (o : Option Granule) (e : Granule) : Option Granule :=
  let rest := e.tent.filter fun x => x.1 != c
  let cp := match e.cp, o with
    | some (d, i), some x => if d = c then x.cp else some (d, i)
    | some (d, i), none => if d = c then none else some (d, i)
    | none, _ => none
  let teams := (e.base.map Prod.snd).toList ++ rest.map fun x => x.2.2.2
  let t := if teams.contains (e.team, e.par) then (e.team, e.par) else teams.headD (e.team, e.par)
  match rest, e.base with
  | [], none => none
  | [], some b => some { e with live := b.1, team := t.1, par := t.2, base := none, tent := [], cp := cp }
  | _, b =>
    some { e with live := (rest.foldl (fun l x => some (joinLive l x.2.2.1)) (b.map Prod.fst)).getD e.live, team := t.1, par := t.2,
                  tent := rest, cp := cp }
/-- A handoff entry without the tentative claims of a core. -/
def Handoff.withdraw (c : Nat) (e : Handoff) : Option Handoff :=
  let rest := e.tent.filter fun x => x.1 != c
  if !(e.tent.any fun x => x.1 == c) then some e
  else if !e.conf && rest.isEmpty then none
  else if !e.wconf && e.writer == some c then some { e with writer := none, wconf := true, tent := rest }
  else some { e with tent := rest }
/-- Withdraw the tentative claims of a core, and what they have a part in of the records (R275). -/
def State.withdrawClaims (s : State) (c : Nat) (w : Waiting) : State :=
  let s := w.undo.foldl (fun s u =>
    match assoc s.granules u.1 with
    | none => s
    | some e =>
      if !(e.tent.any fun x => x.1 == c) then s
      else
        match e.withdraw c (u.2.filter fun x => x.team == e.team && x.par == e.par) with
        | some x => { s with granules := assocSet s.granules u.1 x }
        | none => { s with granules := assocDel s.granules u.1 }) s
  let s := s.onRecords (s.records.map Prod.fst) (Record.withdraw c)
  { s with handoffs := s.handoffs.filterMap fun h => (h.2.withdraw c).map fun x => (h.1, x) }

end Sys2Proof.Machine
end

