-- ==== Sys2Proof/Machine/Ops.lean ====
section
/-! DEFINITION. Named operations over the machine: fetching a header, taking a trap and returning from it (R235-R239),
results that land (R81, R112), the scoreboard (R225), and barriers (R200-R203, R272). -/
namespace Sys2Proof.Machine

/-- Fetch 8 bytes of text at a bundle address (R74). -/
def State.fetchWord (s : State) (c va : Nat) : Except Nat Word :=
  match s.translate (s.ctxOf c) va .fetch with
  | .error e => .error e
  | .ok p => .ok (wordN (s.homeRead (servedPa c p) 8))
/-- The fault-record words of a failing memory access (R234): address, access code, size code. -/
def accessFrs (cause a : Nat) (k : AccessKind) (size : Nat) : List Word :=
  if cause = cCOLDTXT then [wordN a] else [wordN a, wordN (k.code + size * 256)]
/-- A trap of the execution step. -/
def trap6 (cause : Nat) (frs : List Word) : Trap := { cause := cause, step := 6, frs := frs }

/-- A field of the region of a core's team. -/
def State.teamRegion (s : State) (c inh w : Nat) : Nat := s.region (s.rcbOf (s.teamOf c)) inh w
/-- Causes that go first, or always, to the supervisor (R235). -/
def supervisorCause (cause : Nat) : Bool :=
  cause == cXLATE || cause == cCOLDTXT || cause == cCTFULL || cause == cMEMUE || cause == cESCAL || cause == cHFETCH
/-- The fault domain selects the in-core handler (its bits 0, 12, 16 and 17 are res-i, R340), one is installed, and the core
is not in it (R235). -/
def State.handlerTakes (s : State) (c cause : Nat) : Bool :=
  !([0, 12, 16, 17].contains cause) && bit (s.teamRegion c 6 4) cause && bit ((s.core c).csr csrTVEC).toNat 0 && !(s.core c).handler
/-- R235; a member that fails together with another of its gang has that one's destination (R237). -/
def State.goesToHandler (s : State) (c cause : Nat) : Bool :=
  ((s.core c).ctl.dest).getD (!supervisorCause cause && s.handlerTakes c cause)
/-- FRM of R233. -/
def frmWord (fmask dmask step rep : Nat) : Word :=
  wordN ((fmask % 64) <<< 21 + (dmask % 64) <<< 15 + (step % 8) <<< 12 + (rep % 64) <<< 6)
/-- Bits 55:3 of a bundle address (R232). -/
def bundleAddr (a : Nat) : Nat := bits a 55 3 * 8
/-- Write the fault record (R232-R234, R236). -/
def Core.writeRecord (k : Core) (t : Trap) (fra tepc rep dmask : Nat) : Core :=
  let k := (((k.setCsr csrFRA (wordN (bundleAddr fra))).setCsr csrFRM (frmWord t.fmask dmask t.step rep)).setCsr
    csrTCAUSE (wordN t.cause)).setCsr csrTEPC (wordN (bundleAddr tepc))
  (List.range 8).foldl (fun k i => k.setCsr (csrFRS + i) (t.frs.getD i 0)) k
/-- Stop a core for the supervisor (R236). -/
def Core.stop (k : Core) (t : Trap) : Core := { k with ctl := { k.ctl with mode := .stopped, supervisor := some t } }
/-- The number of a handler's first bundle in its gang's stream: behind every other (R237). -/
def handlerIssue : Nat := 2 ^ 64
/-- Enter the in-core handler: shadow, HS, and the pad at TVEC, of which only mark and kind are looked at; `hfetch` of
R238 where its fetch or kind fails. -/
def State.enterHandler (s : State) (c : Nat) (t : Trap) : State :=
  let k := s.core c
  let tv := (k.csr csrTVEC).toNat
  let fail := fun (why : Nat) =>
    let k := ((k.setCsr csrTCAUSE (wordN (cHFETCH + t.cause * 256))).setCsr csrFRS (wordN tv)).setCsr (csrFRS + 1) (wordN why)
    s.setCore c (k.stop { cause := cHFETCH, step := t.step })
  match s.fetchWord c (bundleAddr tv) with
  | .error e => fail e
  | .ok w =>
    if bits w.toNat 63 60 = 0xF ∧ bits w.toNat 59 56 = 5 then
      let sh : Shadow := { rw := k.regs.rw, rc := k.regs.rc, latch := k.regs.latch, issued := k.ctl.issued, back := k.ctl.back,
                           later := k.ctl.later }
      s.setCore c ({ k with ctl := { k.ctl with
        shadow := some sh, pc := bundleAddr tv, rep := 0, dmask := 0, issued := handlerIssue, back := none, supervisor := none,
        mode := .run, later := .run } }.setHandler true)
    else fail 0
/-- `trap_entry` of R236 in one core: `fra` is the trapped bundle, `tepc` the bundle that issues next. -/
def State.trapEntry (s : State) (c : Nat) (t : Trap) (fra tepc rep dmask : Nat) (handler : Bool) : State :=
  let k := (s.core c).perf 13 1
  let k := { k with ctl := { k.ctl with
    later := match k.ctl.mode with | .yielded => .yielded | .ended => .ended | _ => .run,
    did := if k.ctl.did = 0 then 9 else k.ctl.did } }
  if k.handler then
    s.setCore c ({ k with ctl := { k.ctl with nested := some (t, fra) } }.stop t)
  else
    let s := s.setCore c (k.writeRecord t fra (if t.step ≠ 0 then fra else tepc) rep dmask)
    if handler then s.enterHandler c t else s.onCore c fun k => k.stop t
/-- Slots of a waiting bundle whose `BAR` has arrived; a `BARW` arrives at nothing (R186, R233). -/
def Waiting.arrived (w : Waiting) : Nat :=
  w.waits.foldl (fun m x => match x.kind with
    | .bar _ => if bits x.word.toNat 63 56 = 0x62 then m ||| 2 ^ (5 - x.slot) else m
    | _ => m) 0
/-- The entry of core `c` for an issue in its gang's log (R19). -/
def State.gangEntry (s : State) (c n : Nat) : Option (Nat × Nat × Nat) :=
  (s.core (c - (s.core c).ctl.gpos)).ctl.glog.find? fun e => e.1 == n
/-- Two entries of a gang's log are of one stream: both the handler's, or neither. -/
def sameStream (a b : Nat) : Bool := decide (handlerIssue ≤ a) == decide (handlerIssue ≤ b)
/-- A member's bundle is taken back: that of position 0 is no longer in the log; another member issues its bundle again at the
value at which the gang's clock then stands, which is one before the next bundle is due (R19, R20). -/
def State.rewindGang (s : State) (c : Nat) : State :=
  let k := s.core c
  let off := k.ctl.gpos * (s.teamOf c).skew
  match s.gangEntry c (k.ctl.issued - 1) with
  | none => s
  | some e =>
    s.onCore (c - k.ctl.gpos) fun l =>
      if k.ctl.gpos = 0 then { l with ctl := { l.ctl with glog := l.ctl.glog.filter fun x => x.1 != e.1 } }
      else if l.ctl.gclock ≤ e.2.1 + off then l
      else
        let later := (l.ctl.glog.filter fun x => decide (e.1 < x.1) && sameStream x.1 e.1).map fun x => x.2.1 + off
        let at_ := later.foldl (fun g x => min g (x - 1)) l.ctl.gclock
        { l with ctl := { l.ctl with gclock := at_, glog := l.ctl.glog.map fun x => if x.1 = e.1 then (x.1, at_ - off, x.2.2) else x } }
/-- The claims that waits have made are given up: a claimed cell is free again (R197, R198). -/
def State.unclaimAll (s : State) (ws : List Wait) : State :=
  ws.foldl (fun s x =>
    match x.claim with
    | some (key, ws, lw) => s.onChannel key fun ch => { ch with ws := ws, lw := lw }
    | none => s) s
/-- Take a waiting bundle back before it commits: its entries are withdrawn and its arrivals stay (R186, R275); a
pre-emption keeps the wait with its start and its claims (R242). -/
def State.takeBack (s : State) (c : Nat) (keep : Bool) : State :=
  match (s.core c).ctl.wait with
  | none => s
  | some w =>
    let s := (s.withdrawClaims c w).rewindGang c
    let s := s.onCluster (clusterOf c) fun cl => { cl with grants := cl.grants.filter fun g => g.1 != c }
    let s := if keep then s else s.unclaimAll w.waits
    s.onCore c fun k =>
      { k with ctl := { k.ctl with
          wait := none, issued := k.ctl.issued - 1, dmask := w.arrived, writtenLin := w.views.1, writtenSwz := w.views.2,
          back := if keep then some { pc := k.ctl.pc, rep := k.ctl.rep, t0 := w.t0, rt0 := w.rt0, waits := w.waits } else none } }
/-- A member of the gang of core `c` takes the entry of another's trap at the first bundle that it has not committed, if
it has not ended (R20, R237). DESIGN CHOICE (log 48): a wait that is taken back so has its deadline afresh when it issues again, and gives
up the cell that it claimed. -/
def State.joinTrap (s : State) (c m : Nat) (t : Trap) (h : Bool) : State :=
  let k := s.core m
  if (k.ctl.mode = .run ∨ k.ctl.mode = .yielded) ∧ k.ctl.team = (s.core c).ctl.team then
    let s := s.takeBack m false
    let k := s.core m
    s.trapEntry m { t with step := 7, fmask := 0 } k.ctl.pc k.ctl.pc k.ctl.rep k.ctl.dmask h
  else s
/-- The gang of core `c` has entered its handler: its clock goes on there, and where it stood is kept (R20). -/
def State.gangEnters (s : State) (c : Nat) : State :=
  if (s.gangOf c).any fun m => (s.core m).handler then
    s.onCore (c - (s.core c).ctl.gpos) fun l => { l with ctl := { l.ctl with gsave := l.ctl.gclock, gclock := l.ctl.gclock + 1 } }
  else s
/-- Take a trap: in a gang every member stops and takes the same entry (R20, R237). Where several members have faulted in one cycle the
gang's clock goes on once, behind the last of them. -/
def State.takeTrap (s : State) (c : Nat) (t : Trap) (fra tepc rep dmask : Nat) : State :=
  let h := s.goesToHandler c t.cause
  let inside := (s.core c).ctl.dest.isSome || (s.gangOf c).any fun m => (s.core m).handler
  let s := (s.gangOf c).foldl (fun s m =>
    if m = c then s.trapEntry c t fra tepc rep dmask h else s.joinTrap c m t h) s
  if inside then s else s.gangEnters c
/-- A trap taken before the next issue begins: with step 7, or, behind the escalation of its bundle, as `TRAP` takes it (R130,
R236). -/
def State.takeTrap7 (s : State) (c : Nat) (t : Trap) : State :=
  let k := s.core c
  match t.behind with
  | some (fra, _) => s.takeTrap c { t with behind := none } fra k.ctl.pc 0 0
  | none => s.takeTrap c { t with step := 7 } k.ctl.pc k.ctl.pc k.ctl.rep k.ctl.dmask
/-- The trap that a core takes in the place of its next issue: one that follows an escalation waits until the core is back from
that. -/
def Core.dueTrap (k : Core) : Option Trap := k.ctl.owed.find? fun t => t.behind.isNone || t.behind.any fun b => b.2 == k.handler
/-- That trap is no longer owed. -/
def Core.payTrap (k : Core) : Core :=
  match k.dueTrap with
  | some t => { k with ctl := { k.ctl with owed := k.ctl.owed.erase t } }
  | none => k

/-- `resume` of R239 from a core's own record: `ERET`, or the supervisor. -/
def Core.resume (k : Core) : Core :=
  match k.ctl.nested with
  | some _ => { k with ctl := { k.ctl with mode := k.ctl.later, later := .run, supervisor := none, nested := none } }
  | none =>
    let tepc := bundleAddr (k.csr csrTEPC).toNat
    let frm := (k.csr csrFRM).toNat
    let same := decide (tepc = bundleAddr (k.csr csrFRA).toNat ∧ bits frm 14 12 ≠ 0)
    let k := match k.ctl.shadow with
      | some sh => { k with regs := { k.regs with rw := sh.rw, rc := sh.rc, latch := sh.latch },
                            ctl := { k.ctl with issued := sh.issued, back := sh.back, later := sh.later } }
      | none => k
    { k with ctl := { k.ctl with
        shadow := none, supervisor := none, mode := k.ctl.later, later := .run, pc := tepc,
        rep := if same then bits frm 11 6 else 0, dmask := if same then bits frm 20 15 else 0 } }.setHandler false
/-- A core leaves its handler or its stop (R239): after an `ERET` whose bundle escalated the supervisor's resumption is
followed by that of the handler (R131); the last member that leaves its gang's handler restores the gang's offsets (R20). -/
def State.resumeCore (s : State) (c : Nat) : State :=
  let s := s.onCore c fun k =>
    let r := k.resume
    if k.ctl.nested.isSome && k.ctl.owesReturn then { r with ctl := { r.ctl with owesReturn := false } }.resume else r
  if (s.gangOf c).any fun m => (s.core m).handler then s
  else
    s.onCore (c - (s.core c).ctl.gpos) fun l =>
      if l.ctl.glog.any fun e => decide (handlerIssue ≤ e.1) then
        { l with ctl := { l.ctl with glog := l.ctl.glog.filter (fun e => decide (e.1 < handlerIssue)), gclock := l.ctl.gsave } }
      else l

/-- Mark earlier results of a scalar register dead: they are discarded when they land (R81). -/
def killScalar (fs : List Flight) (d id : Nat) : List Flight :=
  fs.map fun f =>
    if f.id < id then
      match f.what with
      | .sres d' _ _ => if d' = d then { f with live := false } else f
      | .load (.sreg d') _ => if d' = d then { f with live := false } else f
      | .atomic (.sreg d') _ _ => if d' = d then { f with live := false } else f
      | _ => f
    else f
/-- Write a scalar result at its commit: a write issued later than everything in flight (R81, R113). -/
def Core.writeS (k : Core) (d : Nat) (x : Word) (tag : Nat) : Core :=
  { k with flights := killScalar k.flights d k.ctl.seq }.setS d x tag
/-- Bytes of a mask of 128 that a write to [a, a + n) covers, for a destination at `b`. -/
def coverMask (b a n : Nat) : Nat :=
  (List.range 128).foldl (fun m i => if a ≤ b + i && b + i < a + n then m + 2 ^ i else m) 0
/-- Two byte ranges meet. -/
def meets (a n b m : Nat) : Bool := decide (a < b + m ∧ b < a + n ∧ 0 < n ∧ 0 < m)
/-- The granules of two ranges meet (R225). -/
def granulesMeet (a n b m : Nat) : Bool :=
  decide (0 < n ∧ 0 < m) && meets (a / 128 * 128) ((a % 128 + n + 127) / 128 * 128) (b / 128 * 128) ((b % 128 + m + 127) / 128 * 128)
/-- Earlier results of the register space lose the bytes that a later write has taken, and the tags of the granules that it has touched
(R81, R220, R225). -/
def killSpace (fs : List Flight) (a n id : Nat) : List Flight :=
  fs.map fun f =>
    if f.id < id then
      match f.what with
      | .vres b x m fl due u =>
        if granulesMeet a n b 128 then { f with what := .vres b x (m &&& (m ^^^ (m &&& coverMask b a n))) fl due u, skip := f.skip ++ [(a, n)] }
        else f
      | .load (.space b m) _ => if granulesMeet a n b m then { f with skip := f.skip ++ [(a, n)] } else f
      | _ => f
    else f
/-- The bytes of `x` under a mask over old bytes. -/
def mergeMask (old x mask : Nat) : Nat :=
  if mask = 2 ^ 128 - 1 then x
  else (List.range 128).foldl (fun v i => if bit mask i then setBits v (8 * i + 7) (8 * i) (x >>> (8 * i)) else v) old
/-- A window of the register space as ranges, its addresses modulo 131,072 (R158). -/
def wrapRange (w : Nat × Nat) : List (Nat × Nat) :=
  if w.1 + w.2 ≤ 131072 then [w] else [(w.1, 131072 - w.1), (0, w.1 + w.2 - 131072)]
/-- The ranges that a matrix entry has marked pending-read and pending-write (R158, R160). -/
def MxEntry.reads (e : MxEntry) : List (Nat × Nat) :=
  match e.zero with
  | some _ => []
  | none => [e.win.a, e.win.acc, e.win.bias].flatMap wrapRange
def MxEntry.writes (e : MxEntry) : List (Nat × Nat) :=
  match e.zero with
  | some z => [z]
  | none => [e.win.acc, e.win.q].flatMap wrapRange
/-- An entry of the matrix unit loses them too: what a zeroing or a routine writes there goes (R81). -/
def MxEntry.kill (a n id : Nat) (e : MxEntry) : MxEntry :=
  if e.before < id && e.writes.any fun z => granulesMeet a n z.1 z.2 then { e with skip := e.skip ++ [(a, n)] } else e
def Mx.kill (a n id : Nat) (m : Mx) : Mx :=
  { m with queue := m.queue.map (MxEntry.kill a n id), run := m.run.map fun r => { r with entry := r.entry.kill a n id } }
/-- A granule that one of some ranges touches. -/
def touched (rs : List (Nat × Nat)) (g : Nat) : Bool := rs.any fun r => (granulesOf r.1 r.2).contains g
/-- Write bytes of the register space at a commit or arrival of operation `id` (R81, R220). -/
def Core.writeSpace (k : Core) (a n x tag id : Nat) : Core :=
  { k with flights := killSpace k.flights a n id, mx := k.mx.kill a n id }.setSpace a n x tag
/-- A result that lands after later writes have taken ranges of its destination leaves those as they are, and the tags of the
granules that they touch (R81, R220). -/
def Core.writeAround (k : Core) (a n x tag id : Nat) (skip : List (Nat × Nat)) : Core :=
  if skip.isEmpty then k.writeSpace a n x tag id
  else
    let taken := fun (b : Nat) => skip.any fun r => decide (r.1 ≤ b ∧ b < r.1 + r.2)
    let old := k.space a n
    let v := (List.range n).foldl (fun v i => if taken (a + i) then v else setBits v (8 * i + 7) (8 * i) (x >>> (8 * i))) old
    let k := { k with flights := killSpace k.flights a n id, mx := k.mx.kill a n id }
    { k with regs := { k.regs with rs := linesWrite k.regs.rs a n v } }.retag ((granulesOf a n).filter fun g => !touched skip g) tag
/-- A vector result is written and its flags ORed; a granule that a write issued later has touched keeps the tag which that gave it
(R55, R81, R112, R138, R225). -/
def Core.landV (k : Core) (f : Flight) (a : Nat) (x : Line) (mask fl : Nat) : Core :=
  let k := { k with flights := k.flights.filter fun g => g.id != f.id }
  let k := k.orFlags fl
  let v := mergeMask (k.space a 128) x.toNat mask
  if mask = 0 then k
  else if f.skip.isEmpty then k.writeSpace a 128 v f.guard f.id
  else
    let k := { k with flights := killSpace k.flights a 128 f.id, mx := k.mx.kill a 128 f.id }
    { k with regs := { k.regs with rs := linesWrite k.regs.rs a 128 v } }.retag ((granulesOf a 128).filter fun g => !touched f.skip g) f.guard
/-- A scalar result of an exposed latency is written (R81, R112). -/
def Core.landS (k : Core) (f : Flight) (d : Nat) (x : Word) : Core :=
  let k := { k with flights := killScalar (k.flights.filter fun g => g.id != f.id) d f.id }
  if f.live then k.setS d x f.guard else k
/-- The results of a core that are due at a cycle land, in issue order. -/
def Core.landDue (k : Core) (cycle : Nat) (vector : Bool) : Core :=
  k.flights.foldl (fun k f =>
    match k.flights.find? fun g => g.id == f.id with
    | none => k
    | some f =>
      match f.what with
      | .sres d x due => if due ≤ cycle && !vector then k.landS f d x else k
      | .vres a x m fl due _ => if due ≤ cycle && vector then k.landV f a x m fl else k
      | _ => k) k
/-- Everything that a core has due now. -/
def State.landNow (s : State) (c : Nat) : State :=
  let k := s.core c
  if k.flights.isEmpty then s else s.setCore c ((k.landDue (s.cycleOf c) false).landDue (s.cycleOf c) true)
/-- Operations of a C slot that are in flight from number `lo` on take an entry of engine `e`'s queue (R301). -/
def Core.enqueue (e lo : Nat) (k : Core) : Core :=
  if k.ctl.seq = lo then k else { k with engq := k.engq ++ [(e, lo, k.ctl.seq)] }
/-- An entry's operation has yet to perform. -/
def Core.occupies (k : Core) (q : Nat × Nat × Nat) : Bool :=
  (k.flights.any fun f => decide (q.2.1 ≤ f.id ∧ f.id < q.2.2)) || k.copies.any fun x => !x.complete && decide (q.2.1 ≤ x.seq ∧ x.seq < q.2.2)
/-- Entries of engine `e`'s queue (R301). -/
def Core.queued (k : Core) (e : Nat) : Nat := (k.engq.filter fun q => q.1 == e && k.occupies q).length
/-- Number an operation that stays in flight, with what it has read. -/
def Core.launch (k : Core) (guard : Nat) (w : Flying) (src : List (Nat × Nat × Nat) := []) : Core :=
  { k with flights := k.flights ++ [{ id := k.ctl.seq, guard := guard, what := w, src := src }],
           ctl := { k.ctl with seq := k.ctl.seq + 1 } }
def Core.endFlight (k : Core) (id : Nat) : Core := { k with flights := k.flights.filter fun f => f.id != id }

/-- Entries waiting in the matrix queue or running. -/
def Mx.entries (m : Mx) : List MxEntry := (match m.run with | some r => [r.entry] | none => []) ++ m.queue
/-- A scalar register has its pending bit set (R225). -/
def Core.pendingS (k : Core) (n : Nat) : Bool :=
  n != 0 && k.flights.any fun f =>
    match f.what with
    | .load (.sreg d) _ => d == n
    | .atomic (.sreg d) _ _ => d == n
    | _ => false
/-- A pending-write mark of a V-slot result stands on the granules of a range. -/
def Core.pendingV (k : Core) (a n : Nat) : Bool :=
  k.flights.any fun f =>
    match f.what with
    | .vres b _ _ _ _ _ => granulesMeet a n b 128
    | _ => false
/-- A pending-write mark of another maker stands on the granules of a range (R225). -/
def Core.pendingW (k : Core) (a n : Nat) : Bool :=
  (k.flights.any fun f =>
    match f.what with
    | .load (.space b m) _ => granulesMeet a n b m
    | _ => false) ||
  k.mx.entries.any fun e => e.writes.any fun w => granulesMeet a n w.1 w.2
/-- A pending-read mark stands on the granules of a range (R225). -/
def Core.pendingR (k : Core) (a n : Nat) : Bool := k.mx.entries.any fun e => e.reads.any fun w => granulesMeet a n w.1 w.2

/-- Barrier objects by number: 512 of clusters, 64 of dies, 16 of the package (R200). -/
def barrierId (c lvl num : Nat) : Nat :=
  if lvl = 0 then clusterOf c * 32 + num else if lvl = 1 then 512 + dieOfCore c * 16 + num else 576 + num
/-- The operand of a barrier operation, from its field or from a register: `none` is ILLOP (R200). -/
def State.barrierOf (s : State) (c x : Nat) : Option Nat :=
  let lvl := bits x 6 5
  let num := bits x 4 0
  if lvl = 3 then some (clusterOf c * 32 + (s.teamOf c).bn)
  else if lvl ≠ 0 ∧ 16 ≤ num then none
  else some (barrierId c lvl num)
/-- Scope of an object: cluster, die or package (R272). -/
def barrierScope (o : Nat) : Nat := if o < 512 then 1 else if o < 576 then 2 else 3
def State.isMember (s : State) (c o : Nat) : Bool := (s.barrier o).members.any fun m => m.1 == c
/-- Add a core's arrival to the current phase (R201); a completed phase that it has not waited for is no longer the one
in which it has arrived (R202; log 27). -/
def State.arrive (s : State) (c o : Nat) : State :=
  s.onBarrier o fun b =>
    if b.arrivals.any fun a => a.1 == c then b
    else { b with arrivals := b.arrivals ++ [(c, (s.core c).ctl.seq)], release := b.release.filter fun r => r.1 != c }
/-- Withdraw a core's arrival from the current phase (R202, R203). -/
def State.withdraw (s : State) (c o : Nat) : State :=
  s.onBarrier o fun b => { b with arrivals := b.arrivals.filter fun a => a.1 != c }
/-- An operation in flight still has to perform at a scope: 0 core, 1 cluster, 2 die, 3 package, 4 system (R205, R268):
a multicast's store to another die's replica owes nothing below package scope. Class 0 ld, 1 sd, 2 cp, 3 at. -/
def Flight.owes (f : Flight) (cls scope : Nat) : Bool :=
  match f.what with
  | .load _ _ => cls == 0
  | .tldw _ _ => cls == 0
  | .store _ _ _ far => cls == 1 && decide ((if far then 3 else 1) ≤ scope) && (f.live || scope == 4)
  | .cell _ _ _ _ pres => cls == 1 && pres && scope != 0
  | .atomic _ _ _ => cls == 3
  | _ => false
/-- Every operation of a class that the core issued before `before` has performed at a scope. -/
def Core.drained (k : Core) (cls scope before : Nat) : Bool :=
  if cls = 2 then !(k.copies.any fun x => !x.complete && decide (x.seq < before))
  else !(k.flights.any fun f => decide (f.id < before) && f.owes cls scope)
/-- A core of a team that is not on it: a number of no core of the part. -/
def outId (t k : Nat) : Nat := 1048576 + t * 64 + k
/-- A core by its number, be it that of a team that is out: then as its image holds it (R242). -/
def State.coreOrImage (s : State) (c : Nat) : Core :=
  if c < outId 0 0 then s.core c
  else ((s.team ((c - outId 0 0) / 64)).image.bind fun im => im.cores[(c - outId 0 0) % 64]?).getD {}
/-- An arrival counts once the core's earlier accesses have performed at the object's scope (R272), also those that a team which is out
has left behind: a copy that stands stopped (R175, R242). -/
def State.arrivalCounts (s : State) (o : Nat) (a : Nat × Nat) : Bool :=
  let k := s.coreOrImage a.1
  let sc := barrierScope o
  k.drained 0 sc a.2 && k.drained 1 sc a.2 && k.drained 3 sc a.2 && k.drained 2 sc a.2
/-- Every member has an arrival that counts, and a team's earlier interval is reclaimed (R201, R272, R280). -/
def State.phaseComplete (s : State) (o : Nat) : Bool :=
  let b := s.barrier o
  !b.members.isEmpty &&
  (b.members.all fun m =>
    match b.arrivals.find? fun a => a.1 == m.1 with
    | some a => s.arrivalCounts o a
    | none => false) &&
  (b.owner = 0 || (!(s.granules.any fun e => e.2.team + 1 == b.owner && s.staleEntry e.2 && !e.2.spilled) &&
    decide (b.reclaim ≤ (s.cluster (o / 32)).cycle)))
/-- When a member resumes: tick and cycle (R26). DESIGN CHOICE (log 48): the spec does not give the offset of a member that is out as
the phase of its die or package object completes; the tick term counts from then, and no g × skew is added. -/
def State.releaseAt (s : State) (b : Barrier) (m : Nat × Nat) : Nat × Nat × Nat :=
  let k := s.core m.1
  let skew := k.ctl.gpos * (s.teamOf m.1).skew
  if b.inTicks then (m.1, s.now + m.2 * b.spacing, s.cycleOf m.1 + skew)
  else (m.1, s.now, s.cycleOf m.1 + m.2 * b.spacing + skew)
/-- The nominal remainder of a copy at a tick (R311). -/
def Copy.remainder (x : Copy) (now : Nat) : Nat := x.len - 16 * ((now - x.issued) / max x.cost 1)
/-- Establish a core's copies (R277); one that is complete stays known as long as it has a nominal remainder. -/
def Core.establish (now : Nat) (k : Core) : Core :=
  { k with copies := (k.copies.map fun x => { x with established := true }).filter fun x => !x.complete || (x.late && !x.taken) || x.remainder now != 0 }
/-- A wake at `t` establishes the copies whose promise lies no later, where no PROMISE is taken (R176, R277). -/
def Core.establishSlept (now t : Nat) (k : Core) : Core :=
  { k with copies := (k.copies.map fun x =>
      if x.complete && !x.taken && !x.late && decide (x.promise ≤ t) then { x with established := true } else x).filter fun x =>
        !(x.complete && x.established && !x.late && x.remainder now == 0) }
/-- Parity of a team flips, and its copies are established (R277, R280). -/
def State.flipParity (s : State) (t : Nat) : State :=
  let s := s.onTeam t fun t => { t with parity := t.parity + 1 }
  (s.team t).cores.foldl (fun s c => s.onCore c (Core.establish s.now)) s
/-- Cycles that the reclamation of a team's stale entries takes: four in each cycle of each slice (R280, R365). -/
def State.reclaimTime (s : State) (t : Nat) : Nat :=
  let sl := (s.granules.filter fun e => e.2.team == t && s.staleEntry e.2 && !e.2.spilled).map fun e => s.homeSlice (e.1 * 64)
  sl.foldl (fun m x => max m (((sl.filter (· == x)).length + 3) / 4)) 0
/-- A phase completes (R26, R201, R272, R280): dirty lines of the members are written back, the next phase opens and
each member's release time is set. `owner` of a team barrier is its team's number plus 1. -/
def State.completePhase (s : State) (o : Nat) : State :=
  let b := s.barrier o
  let s := b.members.foldl (fun s m => s.l1Clean m.1 fun _ => true) s
  let rel := b.members.map fun m => s.releaseAt b m
  let s := s.onBarrier o fun b =>
    { b with phase := b.phase + 1, arrivals := [], lastDone := (s.cluster (o / 32)).cycle,
             release := (b.release.filter fun r => !(rel.any fun q => q.1 == r.1)) ++ rel }
  if b.owner = 0 then s
  else
    let s := s.flipParity (b.owner - 1)
    s.onBarrier o fun b => { b with reclaim := b.lastDone + s.reclaimTime (b.owner - 1) }

end Sys2Proof.Machine
end

