-- ==== Sys2Proof/Machine/Reduction.lean ====
section
/-! DEFINITION. Reduction instances: trees, nodes, rounds and cancels, and the upper trees across packages (R317-R333). -/
namespace Sys2Proof.Machine

/-- `node(l, r)` of R320: the value and the flags it raises. -/
def nodeOp (op : Nat) (f : Fmt) (l r : Line) : Line × Flags :=
  let w := f.wid
  let lanes := (List.range (128 / w)).map fun i =>
    let a := lane l w i
    let b := lane r w i
    match f with
    | .int sg w =>
      if op = 0 then ((a + b) % 2 ^ (8 * w), 0)
      else (if readInt sg w a < readInt sg w b then b else a, 0)
    | f =>
      if op = 0 then
        let (x, g) := (f.value a).add 0 (f.value b)
        let (c, h) := ovf f 0 x
        (c, g ||| h)
      else ((ovf f 0 ((f.value a).maxv (f.value b))).1, 0)
  (BitVec.ofNat 1024 (ofLanes w (lanes.map Prod.fst)), lanes.foldl (fun v x => v ||| x.2) 0)

/-- Where the value at a place of a tree goes: a node and a side, or nowhere when it is the result (R321). A place is
level × K + index; under CHAIN, K + j is the running value after node j. -/
def treeDest (chain : Bool) (n K : Nat) : Nat → Nat → Option (Nat × Nat)
  | 0, _ => none
  | fuel + 1, place =>
    if chain then
      if n ≤ 1 then none
      else if place = 0 then some (K + 1, 0)
      else if place < K then some (K + place, 1)
      else if place - K = n - 1 then none
      else some (place + 1, 0)
    else
      let l := place / K
      let i := place % K
      let w := (n + 2 ^ l - 1) / 2 ^ l
      if w ≤ 1 then none
      else if i = w - 1 ∧ w % 2 = 1 then treeDest chain n K fuel ((l + 1) * K + i / 2)
      else some ((l + 1) * K + i / 2, i % 2)

/-- The nodes of a tree by their places, in the order in which the leaves reach them (R319, R321); an instance of one
contributor has one, at the place of its leaf (R317). -/
def treePath (chain : Bool) (n : Nat) : Nat → Nat → List Nat
  | 0, _ => []
  | fuel + 1, place =>
    match treeDest chain n 64 8 place with
    | none => []
    | some (node, _) => node :: treePath chain n fuel node
def treeNodes (chain : Bool) (n : Nat) : List Nat :=
  let l := ((List.range n).flatMap fun i => treePath chain n 64 i).eraseDups
  if l.isEmpty then [0] else l
/-- The number of the router entry that holds a node of an instance: cluster × 1,024 + mesh position × 16 + slot (R348). -/
def State.nodeAt (s : State) (key place : Nat) : Option Nat :=
  (s.routers.find? fun e => e.2.valid && e.2.inst == key && e.2.place == place).map Prod.fst
/-- Node entries of a cluster's routers that nothing holds (R317). -/
def State.freeNodes (s : State) (cls : List Nat) : List Nat :=
  (cls.flatMap fun cl => (List.range 1024).map (cl * 1024 + ·)).filter fun e => !(s.routers.get {} e).valid
/-- The supervisor writes the node entries of an instance, in the lowest free entries of the granted clusters (R317, R319,
R348; log 50). -/
def State.placeNodes (s : State) (cls : List Nat) (key : Nat) (r : Reduction) : State :=
  let n := r.contributors.length
  let at_ := (treeNodes r.chain n).zip (s.freeNodes cls)
  at_.foldl (fun (s : State) x =>
    let up := treeDest r.chain n 64 8 x.1
    let e : NodeEntry := { valid := true, inst := key, place := x.1, side := (up.map Prod.snd).getD 0, root := up.isNone,
                           up := up.isNone && r.sys.isSome,
                           parent := (up.bind fun u => (at_.find? fun y => y.1 == u.1).map Prod.snd).getD 0 }
    { s with routers := s.routers.put {} x.2 e }) s
def State.onReduction (s : State) (key : Nat) (f : Reduction → Reduction) : State :=
  match assoc s.reductions key with
  | some r => { s with reductions := assocSet s.reductions key (f r) }
  | none => s
def Reduction.round (r : Reduction) (n : Nat) : Round := r.rounds.get {} n
def Reduction.onRound (r : Reduction) (n : Nat) (f : Round → Round) : Reduction :=
  { r with rounds := r.rounds.put {} n (f (r.round n)) }
/-- The instance that bits 15:0 of an operand name, in the grid of a core. -/
def State.instanceOf (s : State) (c : Nat) (x : Word) : Nat := (s.teamOf c).grid * 65536 + x.toNat % 65536
/-- A core as a member of a list of teams and positions. -/
def State.memberIx (s : State) (c : Nat) (l : List (Nat × Nat)) : Option Nat :=
  let i := l.findIdx fun m => m.1 == (s.core c).ctl.team && m.2 == (s.core c).ctl.pos
  if i < l.length then some i else none
/-- Rounds resolve in order: the oldest open round moves on past resolved ones (R323). -/
def advanceBase (r : Reduction) : Nat → Reduction
  | 0 => r
  | fuel + 1 =>
    let d := r.round r.base
    if d.cancelled.isSome || (d.delivered && d.got.length == r.receivers.length) then
      advanceBase { r with base := r.base + 1 } fuel
    else r
/-- The round window: across packages it is the smallest among the members' (R323, R333). -/
def Reduction.window (r : Reduction) : Nat :=
  match r.sys with
  | some (colln, _) => min r.win (Config.otherWindow colln + 1)
  | none => r.win
/-- The round is one of the open rounds and not cancelled (R323). -/
def Reduction.accepts (r : Reduction) (n : Nat) : Bool :=
  decide (r.base ≤ n ∧ n < r.base + r.window) && (r.round n).cancelled.isNone
/-- A dropped packet is counted, saturating, in a cluster (R364). -/
def State.countDrop (s : State) (cl : Nat) : State :=
  s.onCluster cl fun c => { c with drpk := min (c.drpk + 1) (2 ^ 48 - 1) }
/-- A packet for a node of an instance is dropped: it counts in the cluster whose router holds the node (R323, R364). -/
def State.dropAt (s : State) (key place : Nat) : State :=
  match s.nodeAt key place with
  | some e => s.countDrop (e / 1024)
  | none => s
/-- The common-field hash (R332). -/
def collectiveHash (colln nmem : Nat) (chain : Bool) (op fmtCode : Nat) : Nat :=
  ofBytes ((Sha256.digest (bytesOf colln 2 ++ bytesOf nmem 2 ++
    [if chain then 1 else 0, BitVec.ofNat 8 op, BitVec.ofNat 8 fmtCode, 0])).take 4)
/-- Send a collective packet to another member: it leaves through the outbox, to that member's endpoint and under the collective's
security association (R330-R332). -/
def State.sendCollective (s : State) (r : Reduction) (kind dst level side round : Nat) (v : Line) (fl : Nat) : State :=
  match r.sys with
  | none => s
  | some (colln, nmem, self, chain, _) =>
    let h0 := colln <<< 48 + kind <<< 45 + self <<< 34 + dst <<< 23 + level <<< 19 + side <<< 18 + (fl % 32) <<< 13
    let h1 := collectiveHash colln nmem chain r.op r.fmt <<< 32 + round % 2 ^ 32
    let body := if kind < 2 then (List.range 16).map fun i => wordN (lane v 8 i) else []
    { s with outbox := s.outbox ++ [⟨.member colln dst (r.endpoints.getD dst 0) r.security, wordN h0 :: wordN h1 :: body⟩] }
/-- The member that decides a round: 0 under PAIR, the last under CHAIN (R331). -/
def rootMember (nmem : Nat) (chain : Bool) : Nat := if chain then nmem - 1 else 0
/-- A round is complete: its result is held, and sent to the other members where this one is the root (R324, R331). -/
def State.rootComplete (s : State) (key round : Nat) (v : Line) (fl : Nat) : State :=
  match assoc s.reductions key with
  | none => s
  | some r =>
    let s := s.onReduction key fun r => r.onRound round fun d => { d with result := some (v, fl ||| d.lflags) }
    match r.sys with
    | none => s
    | some (_, nmem, self, _, _) =>
      ((List.range nmem).filter (· != self)).foldl (fun s m => s.sendCollective r 1 m 0 0 round v fl) s
/-- An operand reaches a place of the upper tree that this member computes (R331, R333). -/
def State.upperOperand (s : State) (key round : Nat) : Nat → Nat → Line → Nat → State
  | 0, _, _, _ => s
  | fuel + 1, place, v, fl =>
    match assoc s.reductions key with
    | none => s
    | some r =>
      match r.sys with
      | none => s
      | some (_, nmem, self, chain, _) =>
        match treeDest chain nmem 1024 12 place with
        | none => s.rootComplete key round v fl
        | some (node, side) =>
          let m := if chain then node - 1024 else (node % 1024) * 2 ^ (node / 1024)
          if m ≠ self then s.sendCollective r 0 m (if chain then 0 else node / 1024) side round v fl
          else
            match r.upper.find? fun u => u.1 == round && u.2.1 == node && u.2.2.1 == 1 - side with
            | none => s.onReduction key fun r => { r with upper := r.upper ++ [(round, node, side, v, fl)] }
            | some (_, _, _, w, gl) =>
              let s := s.onReduction key fun r =>
                { r with upper := r.upper.filter fun u => !(u.1 == round && u.2.1 == node) }
              let (z, hl) := if side = 0 then nodeOp r.op (fmtOf r.fmt) v w else nodeOp r.op (fmtOf r.fmt) w v
              s.upperOperand key round fuel node z (fl ||| gl ||| hl)
/-- The local tree has its value: the result, or a leaf of the upper tree (R325, R330). -/
def State.localRoot (s : State) (key round : Nat) (v : Line) (fl : Nat) : State :=
  match assoc s.reductions key with
  | none => s
  | some r =>
    match r.sys with
    | none => s.rootComplete key round v fl
    | some (_, _, self, _, _) =>
      let s := s.onReduction key fun r => r.onRound round fun d => { d with lflags := fl }
      s.upperOperand key round 12 self v fl
/-- `RPKT`: contributor j sends its next round (R179, R323). -/
def State.sendPacket (s : State) (key j : Nat) (v : Line) : State :=
  match assoc s.reductions key with
  | none => s
  | some r =>
    let n := r.sent.get 0 j
    let s := s.onReduction key fun r => { r with sent := r.sent.put 0 j (n + 1) }
    { s with packets := s.packets ++ [(key, n, j, v, 0)] }
/-- An operand arrives at the node of its place: it is held, or combined with the one held there (R322, R323). -/
def State.operandArrives (s : State) (key round place : Nat) (v : Line) (fl : Nat) : State :=
  match assoc s.reductions key with
  | none => s
  | some r =>
    let leaf := decide (place < 64)
    if !r.accepts round then
      if leaf then s.dropAt key (((treeDest r.chain r.contributors.length 64 8 place).map Prod.fst).getD 0) else s
    else
      let s := if leaf then s.onReduction key fun r => r.onRound round fun d => { d with contrib := d.contrib ++ [(place, v)] }
        else s
      match treeDest r.chain r.contributors.length 64 8 place with
      | none => s.localRoot key round v fl
      | some (node, side) =>
        let d := r.round round
        match assoc d.held (node * 2 + (1 - side)) with
        | none =>
          s.onReduction key fun r => r.onRound round fun d => { d with held := d.held ++ [(node * 2 + side, v, fl)] }
        | some (w, gl) =>
          let s := s.onReduction key fun r => r.onRound round fun d =>
            { d with held := assocDel d.held (node * 2 + (1 - side)) }
          let (z, hl) := if side = 0 then nodeOp r.op (fmtOf r.fmt) v w else nodeOp r.op (fmtOf r.fmt) w v
          { s with packets := s.packets ++ [(key, round, node, z, fl ||| gl ||| hl)] }
/-- The arrived mask of a round: its accepted contributions (R180, R324). -/
def Round.arrived (d : Round) : Nat := d.contrib.foldl (fun m c => m ||| 2 ^ c.1) 0
/-- A number of no receiver: the first cancel came from elsewhere. -/
def noReceiver : Nat := 64
/-- The mark of a round whose root member has failed: its receivers time out, each at its own deadline (R333; log 40). -/
def everyReceiver : Nat := 65
/-- The round is cancelled by receiver `i`, and swept (R324). -/
def State.cancelRound (s : State) (key round i : Nat) : State :=
  let s := { s with packets := s.packets.filter fun p => !(p.1 == key && p.2.1 == round && decide (64 ≤ p.2.2.1)) }
  s.onReduction key fun r =>
    let r := r.onRound round fun d => { d with cancelled := some i, held := [], asking := [] }
    advanceBase { r with upper := r.upper.filter fun u => u.1 != round } (r.rounds.length + 1)
/-- `RRCV` commits: the receiver has had its round (R323). -/
def State.retireRound (s : State) (key i : Nat) : State :=
  s.onReduction key fun r =>
    let n := r.asked.get 0 i
    let r := r.onRound n fun d => { d with got := d.got ++ [i] }
    advanceBase { r with asked := r.asked.put 0 i (n + 1) } (r.rounds.length + 1)

end Sys2Proof.Machine
end

