-- ==== Sys2Proof/Machine/Channels.lean ====
section
/-! DEFINITION. Stream channels: rings and cells in scratchpads, claims, consumption and heads (R27-R29, R196-R199,
R303-R310). -/
namespace Sys2Proof.Machine

/-- The entry that a core's channel number names: its grid's (R196, R303). -/
def State.channelKey (s : State) (c ch : Nat) : Nat := (s.teamOf c).grid * 256 + ch
/-- Storage address of byte `o` of a team's scratchpad k: on its core, or in the team image while the team is out (R243,
R305). `none`: the team is not there, before its first residency or after its end. -/
def State.spadPlace (s : State) (t : Team) (k o : Nat) : Option Nat :=
  match t.mode with
  | .resident => some (spadBase (t.coreAt k) + o)
  | .out => t.slot.map fun sl => bits (s.region (s.rcbOf t) 10 7) 47 0 + sl * 0x8100000 + k * 0x200000 + 0x20000 + o
  | _ => none
/-- Write a channel's entries in the tables of granted clusters (R303, R306, R346). -/
def State.writeEntries (s : State) (cls : List Nat) (key : Nat) : State :=
  let ch := s.channel key
  cls.foldl (fun (s : State) cl =>
    let e : ChanEntry := { valid := ch.valid, grid := ch.grid, fwd := cl != ch.home, homec := ch.home,
                           pcore := (s.team ch.pteam).coreAt ch.ppos, ccore := (s.team ch.cteam).coreAt ch.cpos }
    { s with chantab := s.chantab.put {} (cl * 256 + key % 256) e }) s
def State.writeMem (s : State) (cs : List (Nat × Byte)) : State := { s with mem := Memory.writeCells s.mem cs }
/-- Storage address of cell j of a channel's ring (R305). -/
def State.cellPlace (s : State) (ch : Channel) (j : Nat) : Option Nat :=
  s.spadPlace (s.team ch.cteam) ch.cpos (ch.ring + (j % max ch.depth 1) * (ch.cell + 16))
/-- Data and header of a cell are written: stamp, full, present (R197, R305). -/
def State.placeCell (s : State) (key ring : Nat) (data : List Byte) (stamp : Nat) (pres : Bool) : State :=
  match s.cellPlace (s.channel key) ring with
  | none => s
  | some a =>
    let body := (data.take (s.channel key).cell).zipIdx.map fun (b, i) => (a + 16 + i, b)
    let flags := (Memory.byte s.mem (a + 8)).toNat
    s.writeMem (body ++ cellsOf a 8 stamp ++ [(a + 8, BitVec.ofNat 8 (setBits flags 1 0 (if pres then 3 else 2)))])
/-- The cells of a channel that were written before its consumer's first residency stand in its ring (log 28). -/
def State.placeEarly (s : State) (key : Nat) : State :=
  if (s.channel key).early.isEmpty then s
  else ((s.channel key).early.foldl (fun s e => s.placeCell key e.1 e.2.1 e.2.2.1 e.2.2.2) s).onChannel key fun ch => { ch with early := [] }
/-- A team has become resident: the entries of its channels stand where it does (R306, R346). -/
def State.rehome (s : State) (t : Nat) : State :=
  let x := s.team t
  let mine := (s.channels.filter fun e => e.2.valid && (e.2.cteam == t || e.2.pteam == t)).map Prod.fst
  mine.foldl (fun s key =>
    ((s.onChannel key fun ch => if ch.cteam = t then { ch with home := x.cluster, moving := false } else ch).placeEarly key).writeEntries
      (regionClusters s (s.rcbOf x)) key) s
/-- The entry that a core's cluster holds for a channel number is valid, and its grid's (R196, R346). -/
def State.entryValid (s : State) (c ch : Nat) : Bool :=
  let e := s.chantab.get {} (clusterOf c * 256 + ch % 256)
  e.valid && e.grid == (s.teamOf c).grid
/-- Header and data of a cell: stamp, full, present (R305). -/
def State.cellStamp (s : State) (a : Nat) : Nat := Memory.read s.mem a 8
def State.cellFull (s : State) (a : Nat) : Bool := bit (Memory.byte s.mem (a + 8)).toNat 1
def State.cellPres (s : State) (a : Nat) : Bool := bit (Memory.byte s.mem (a + 8)).toNat 0
/-- A claim of a cell that is still to be written: its data are in flight, or its bundle has not committed (R29, R197). -/
def Core.claims (k : Core) (key ring depth : Nat) : Bool :=
  (k.flights.any fun f =>
    match f.what with
    | .cell q r _ _ _ => q == key && r == ring
    | _ => false) ||
  ((match k.ctl.wait with | some w => w.waits | none => match k.ctl.back with | some b => b.waits | none => []).any fun x =>
    match x.claim with
    | some (q, ws, _) => q == key && ws % max depth 1 == ring
    | none => false)
/-- Cell ws mod D is free: its header says so (R305), it was not freed in this very cycle (R307), and no claim of it is
still to be written (R29); a moving entry is waited for (R306). Where the consumer's team has not been resident yet, or is gone for
good, there is no ring: the headers are free as at the configuration, and the cell is one of the D that no unconsumed value has
taken (R306, R309; log 28). -/
def State.cellFree (s : State) (key : Nat) : Bool :=
  let ch := s.channel key
  let ring := ch.ws % max ch.depth 1
  (match s.cellPlace ch ch.ws with
   | some a => !s.cellFull a && !ch.fresh.contains ring
   | none => decide (ch.ws < ch.rs + ch.depth)) &&
  !ch.moving && !(s.cores.any fun k => k.2.claims key ring ch.depth)
/-- A claim: the sequence number and last stamp move on (R197, R198, R307). -/
def State.claimCell (s : State) (c key : Nat) : State :=
  s.onChannel key fun ch => { ch with ws := ch.ws + 1, lw := (s.core c).ic }
/-- The effect by which a claimed cell's data and stamp leave at the commit (R197, R247). -/
def State.cellEff (s : State) (c key : Nat) (pres : Bool) (data : List Byte) : Eff :=
  let ch := s.channel key
  .cellOut key (ch.ws % max ch.depth 1) data (s.core c).ic pres
/-- The head cell of a channel. -/
def State.headCell (s : State) (key : Nat) : Option Nat := s.cellPlace (s.channel key) (s.channel key).rs
/-- Consume the head cell: FULL := 0 and rs rises (R199, R306). -/
def State.consumeCell (s : State) (key : Nat) : State :=
  match s.headCell key with
  | none => s
  | some a =>
    let b := (Memory.byte s.mem (a + 8)).toNat
    (s.writeMem [(a + 8, BitVec.ofNat 8 (setBits b 1 1 0))]).onChannel key fun ch =>
      { ch with rs := ch.rs + 1, fresh := ch.fresh ++ [ch.rs % max ch.depth 1] }
/-- The cell of sequence number `rs` is consumed, if nothing has consumed it yet (R199, R224). -/
def State.consumeAt (s : State) (key rs : Nat) : State := if (s.channel key).rs = rs then s.consumeCell key else s
/-- Discard cells stamped below an instant (R199, R310): how many, and the state. -/
def State.discardStale (s : State) (key ic : Nat) : Nat → Nat × State
  | 0 => (0, s)
  | fuel + 1 =>
    match s.headCell key with
    | none => (0, s)
    | some a =>
      if s.cellFull a && decide (s.cellStamp a < ic) then
        let (n, s) := (s.consumeCell key).discardStale key ic fuel
        (n + 1, s)
      else (0, s)
/-- Cells occupied (R184). -/
def State.occupied (s : State) (key : Nat) : Nat := (s.channel key).ws - (s.channel key).rs
/-- The channel bound to a head of a core (R304, R310). -/
def State.headChannel (s : State) (c q : Nat) : Option Nat :=
  let t := s.teamOf c
  ((s.channels.find? fun e =>
    e.2.valid && e.2.head == q + 1 && e.2.grid == t.grid && e.2.cteam == (s.core c).ctl.team && e.2.cpos == (s.core c).ctl.pos)).map Prod.fst
/-- Data of a cell. -/
def State.cellData (s : State) (key : Nat) : Nat :=
  match s.headCell key with
  | some a => Memory.read s.mem (a + 16) (s.channel key).cell
  | none => 0
/-- A head presents a value: the cell at the head is stamped with this instant and present (R310). -/
def State.headReady (s : State) (key ic : Nat) : Bool :=
  match s.headCell key with
  | some a => s.cellFull a && s.cellStamp a == ic && s.cellPres a
  | none => false
/-- A core is the producer, or the consumer, of a channel (R196). -/
def State.isProducer (s : State) (c : Nat) (ch : Channel) : Bool :=
  ch.valid && ch.pteam == (s.core c).ctl.team && ch.ppos == (s.core c).ctl.pos
def State.isConsumer (s : State) (c : Nat) (ch : Channel) : Bool :=
  ch.valid && ch.cteam == (s.core c).ctl.team && ch.cpos == (s.core c).ctl.pos

end Sys2Proof.Machine
end

