-- ==== Sys2Proof/Machine/Registers.lean ====
section
/-! DEFINITION. Writes of control registers: classes, masks of res-z bits, refused values and side effects (R7, R128, R129,
R217, R223, R231, R361). -/
namespace Sys2Proof.Machine

/-- Access classes of R128. -/
inductive CsrClass where | rw | ro | ho
  deriving DecidableEq, Repr
/-- The class of a register number (R227, R357). -/
def csrClass (n : Nat) : CsrClass :=
  if (0x011 ≤ n ∧ n ≤ 0x014) ∨ (0x018 ≤ n ∧ n ≤ 0x01F) then .ho
  else if n = 0x008 ∨ n = 0x010 ∨ n = 0x020 ∨ n = 0x021 ∨ n = 0x040 ∨ n = 0x041 ∨ (0x048 ≤ n ∧ n ≤ 0x04F) ∨
    (0x060 ≤ n ∧ n ≤ 0x067) ∨ (0x080 ≤ n ∧ n ≤ 0x09F) ∨ (0x0B0 ≤ n ∧ n ≤ 0x0B5) ∨ (0x110 ≤ n ∧ n ≤ 0x113) ∨ n = 0x118 then .rw
  else .ro
/-- The bits of a register that are not res-z. -/
def csrMask (n : Nat) : Word :=
  if n = 0x010 then 0x00FFFFFFFFFFFFF9
  else if n = 0x011 then 0xFFFF
  else if n = 0x012 ∨ n = 0x013 then 0x00FFFFFFFFFFFFF8
  else if n = 0x014 then 0x07FFFFC0
  else if n = 0x020 then 0x3F
  else if n = 0x021 then 0xFFFF
  else if n = 0x041 then 0xFE
  else if 0x048 ≤ n ∧ n ≤ 0x04F then 0x1FF
  else if 0x060 ≤ n ∧ n ≤ 0x067 then 0x00000FFFFFC1FFFF
  else if n = 0x118 then 0xFFFFFFFF
  else 0xFFFFFFFFFFFFFFFF
/-- The value that a register access forms (R129). -/
def newCsr (k : CsrOp) (old x : Word) : Word :=
  match k with
  | .write => x
  | .set => old ||| x
  | .clear => old &&& ~~~x
/-- Fields of a view register (R215). -/
def viewBase (w : Word) : Nat := bits w.toNat 16 0
def viewEsz (w : Word) : Nat := bits w.toNat 33 22
def viewCount (w : Word) : Nat := bits w.toNat 42 34
def viewWrap (w : Word) : Bool := bit w.toNat 43
/-- A value that a view register may hold (R217). -/
def viewOk (w : Word) : Bool :=
  let n := viewCount w
  let lo := viewBase w
  let hi := lo + n * viewEsz w * 16
  decide (n ≤ 504) && decide (lo % 16 = 0) &&
  (n == 0 || (viewEsz w != 0 && (decide (0x1000 ≤ lo ∧ hi ≤ 0x20000) || decide (0xE00 ≤ lo ∧ hi ≤ 0x1000))))
/-- The cause with which a write of a register is refused (R128, R217, R223, R361). -/
def Core.csrRefused (k : Core) (op : CsrOp) (n : Nat) (x : Word) : Option Nat :=
  match csrClass n with
  | .ro => some cPERM
  | .ho => if k.handler then none else some cPERM
  | .rw =>
    if 0x060 ≤ n ∧ n ≤ 0x067 then
      if viewOk (newCsr op (k.csr n) x &&& csrMask n) then none else some cILLOP
    else if 0x080 ≤ n ∧ n ≤ 0x09F then
      if bit (k.csr n).toNat 63 && viewOk (k.csr n &&& csrMask 0x060) then none else some cILLOP
    else if n = 0x118 then
      let v := (newCsr op (k.csr n) x &&& csrMask n).toNat
      if [0, 1, 2, 3].all fun i => decide (bits v (8 * i + 7) (8 * i) ≤ 14) then none else some cILLOP
    else none
/-- A register write takes effect (R129): TSTAT can only set TXP, a preset loads its view, and the rest keep no res-z bit. -/
def Core.csrApply (k : Core) (op : CsrOp) (n : Nat) (x : Word) : Core :=
  if n = 0x008 then (if op ≠ .clear ∧ bit x.toNat 0 then k.setTxp else k)
  else if 0x080 ≤ n ∧ n ≤ 0x09F then
    k.setCsr (csrVW + bits (k.csr n).toNat 46 44) (k.csr n &&& csrMask 0x060)
  else k.setCsr n (newCsr op (k.csr n) x &&& csrMask n)

end Sys2Proof.Machine
end

