-- ==== Sys2Proof/Machine/Effects.lean ====
section
/-! DEFINITION. What a bundle does at its commit: one operation per kind of effect (R77, R81, R113, R117, R186, R225, R360). -/
namespace Sys2Proof.Machine

/-- The new value of an atomic (R210): `old` and `b` of w bytes, the compare value of `ACAS`. -/
def atomicValue (op w old b cmp : Nat) : Nat :=
  let m := 2 ^ (8 * w)
  let b := b % m
  match op with
  | 0x70 => (old + b) % m
  | 0x71 => if sextN old (8 * w) ≤ sextN b (8 * w) then old else b
  | 0x72 => if sextN old (8 * w) ≤ sextN b (8 * w) then b else old
  | 0x73 => old &&& b
  | 0x74 => old ||| b
  | 0x75 => old ^^^ b
  | 0x76 => (old + b) % m
  | 0x77 => b
  | _ => if old = cmp % m then b else old
/-- A page of host memory. -/
def isHost (pa : Nat) : Bool := match placeOf pa with | some (.host, _) => true | _ => false
/-- Lines of the first-level cache that a copy's ranges meet: all that lie in the pages it translated to. -/
def inRanges (rs : List (Nat × Nat)) (x : L1Line) : Bool := rs.any fun r => meets x.pa 128 r.1 r.2
/-- The physical ranges of n bytes from a virtual address, as far as pages translate. -/
def State.rangesOf (s : State) (c va n : Nat) (k : AccessKind) : List (Nat × Nat) :=
  (piecesOf va n).filterMap fun (a, m) =>
    match s.translate (s.ctxOf c) a k with
    | .ok p => some (servedPa c p, m)
    | .error _ => none
/-- CPWM: the lowest ID that is not complete (R174). -/
def Core.watermark (k : Core) : Word :=
  wordN ((k.copies.filter fun x => !x.complete).foldl (fun m x => min m x.id) (k.csr csrNEXTID).toNat)
def Core.setWatermark (k : Core) : Core := k.setCsr csrCPWM k.watermark
/-- A core writes n bytes from `a`: its unfinished copies leave them alone (R117, R174). -/
def Core.overCopies (a n : Nat) (k : Core) : Core :=
  { k with copies := k.copies.map fun x =>
      if !x.complete && decide (a < x.dst + x.len ∧ x.dst < a + n) then { x with skip := x.skip ++ [(a, n)] } else x }
/-- A cell at the end of an instant: a value written in it under a clock that is present becomes the committed one (R195). -/
def Cell.moved (present : Nat → Bool) (d : Cell) : Cell :=
  match d.clock with
  | none => d
  | some ck => { d with committed := if d.written && present ck then d.pending else d.committed, written := false }
/-- A clock word at the end of an instant: an ON clock is no longer known, and nothing else changes (R195, R334). -/
def clockForgotten (w : Nat) : Nat := if bits w 31 30 = 2 then setBits w 29 29 0 else w
/-- INST (R195): cells move on, ON clocks become unknown, and the instant counter advances by the team's period. -/
def Core.endInstant (k : Core) (period : Nat) : Core :=
  let cells := k.regs.cells.map fun (e : Nat × Cell) => (e.1, e.2.moved fun ck => (k.present ck).getD false)
  let clocks := k.regs.clocks.map fun (e : Nat × Nat) => (e.1, clockForgotten e.2)
  let k := { k with regs := { k.regs with cells := cells, clocks := clocks }, ctl := { k.ctl with lastInst := some k.ic } }
  k.setCsr csrIC (wordN (k.ic + period))
/-- DLYW at commit (R193). -/
def Core.delayWrite (k : Core) (n : Nat) (x : Word) (g : Nat) : Core :=
  let d := k.cell n
  if d.clock.isNone && g = 31 then k.setCell n { d with committed := x }
  else k.setCell n { d with clock := some g, pending := x, written := true }
/-- The destination of a copy counts as written through its view from the copy's issue on; its bytes, as they land (R252). -/
def State.copyView (s : State) (c : Nat) (cp : Copy) : State :=
  (s.rangesOf c cp.dst cp.len .copyDst).foldl (fun s r =>
    match placeOf r.1 with
    | some (.spad _ swz, _) => s.noteGranules c swz (((List.range r.2).filterMap fun i => (placeOf (r.1 + i)).map fun p => p.2 / 64).eraseDups)
    | _ => s) s
/-- Bytes before offset `m` of a copy that stands at `m` and have not reached their destination: those of a block of the presented
aperture in which it goes on, which is re-quantised once, with all of them (R262). -/
def State.copyHeld (s : State) (c : Nat) (x : Copy) (m : Nat) : List Nat :=
  if m = 0 ∨ x.len ≤ m then []
  else
    match s.copySpot c x (m - 1) with
    | none => []
    | some (pa, _) =>
      match s.blockAt pa with
      | none => []
      | some b => if s.blockAt (pa + 1) = some b then (s.copyBlock c x (m - 1) b).filter (· < m) else []
/-- Storage of scratchpads that physical addresses name. -/
def spadCells (pas : List Nat) : List Nat := pas.filterMap fun pa => match placeOf pa with | some (.spad _ _, b) => some b | _ => none
/-- Core `k` writes storage `bs` of a scratchpad: a copy of a number below `id` that was issued before the core's latest view-join bundle,
and is still to write there through either view, leaves it alone (R117, R252). -/
def State.overCells (s : State) (c id : Nat) (bs : List Nat) (k : Core) : Core :=
  if bs.isEmpty then k
  else
    { k with copies := k.copies.map fun x =>
        if x.joined && !x.complete && decide (x.id < id) then
          { x with skip := x.skip ++ runs (((List.range x.len).filter fun i =>
              (spadCells ((s.copySpot c x i).map Prod.fst).toList).any bs.contains).map (x.dst + ·)) }
        else x }
/-- Bytes of a copy reach its destination, but for those that later accesses of its core have written; earlier copies of the core write
these no more (R117, R174). -/
def State.copyLand (s : State) (c : Nat) (x : Copy) (offs : List Nat) : State :=
  let cells := offs.filterMap fun i =>
    if x.writes (x.dst + i) then (s.copySpot c x i).map fun q => (x.dst + i, q.1, x.data.getD i 0) else none
  (s.landCells c x.joined (cells.map fun y => y.2)).onCore c fun k =>
    s.overCells c x.id (if k.copies.any fun y => y.joined then spadCells (cells.map fun y => y.2.1) else [])
      (k.coverCopies x.id (cells.map fun y => y.1))
/-- A copy that stood at offset `a` goes on to `b`. -/
def State.copyOut (s : State) (c : Nat) (x : Copy) (a b : Nat) : State :=
  let held := s.copyHeld c x b
  s.copyLand c x ((s.copyHeld c x a ++ (List.range (b - a)).map (a + ·)).filter fun i => !held.contains i)
/-- A copy that stands stopped goes no further: what it has held back of a block is written (R175, R262). -/
def State.copyEnds (s : State) (c : Nat) (x : Copy) : State :=
  if x.stopped.isNone then s else s.copyLand c x (s.copyHeld c x x.done)
/-- Store bytes of a core at their home, past its own first-level line (an atomic, a queue packet). -/
def State.homeStore (s : State) (c : Nat) (cs : List (Nat × Byte)) : State :=
  let lines := (cs.map fun q => q.1 / 128).eraseDups
  let st := cs.filterMap fun q => (placeOf q.1).map fun p => (p.2, q.2)
  let s := s.l1Drop c true fun x => lines.contains (x.pa / 128)
  match cs.head?.bind fun q => placeOf q.1 with
  | some (.spad _ swz, _) => s.viewWrite c swz st
  | _ => s.homeWrite st
/-- The atomic's read and write of its word, indivisible (R211, R252): the old value. -/
def State.atomicDo (s : State) (c op pa w : Nat) (b cmp : Word) : Nat × State :=
  let s := s.l1Drop c true fun x => x.pa / 128 == pa / 128
  let (old, s) := match placeOf pa with
    | some (.spad _ swz, _) => s.spadRead c swz pa w
    | _ => (s.homeRead pa w, s)
  (old, s.homeStore c (cellsOf pa w (atomicValue op w old b.toNat cmp.toNat)))
/-- What a `CPYQ` that finds a slot writes: the queue's write index and the slot (R177, R315). -/
def State.queueCells (s : State) (c desc : Nat) : List (Nat × Nat) :=
  match s.translate (s.ctxOf c) desc .read with
  | .error _ => []
  | .ok p =>
    let pa := servedPa c p
    let q := fun i => s.homeRead (pa + 8 * i) 8
    let n := 2 ^ bits (q 1) 4 0
    if n ≤ (q 2 + 2 ^ 64 - q 3) % 2 ^ 64 then []
    else
      match s.translate (s.ctxOf c) (bits (q 0) 55 0 + (q 2 % n) * 64) .write with
      | .error _ => [(pa + 16, 8)]
      | .ok p => [(pa + 16, 8), (servedPa c p, 64)]
/-- `CPYQ`: the claim of a slot and the packet (R177, R315): the answer for s[sd]. DESIGN CHOICE (log 48): where the
slot's page fails as the packet is appended, WIDX is raised and the index returned, and no packet is written. -/
def State.queueAppend (s : State) (c desc : Nat) (data : List Byte) : Word × State :=
  match s.translate (s.ctxOf c) desc .read with
  | .error _ => (BitVec.allOnes 64, s)
  | .ok p =>
    let pa := servedPa c p
    let s := s.l1Drop c true fun x => x.pa / 128 == pa / 128
    let q := fun i => s.homeRead (pa + 8 * i) 8
    let n := 2 ^ bits (q 1) 4 0
    if n ≤ (q 2 + 2 ^ 64 - q 3) % 2 ^ 64 then (BitVec.allOnes 64, s)
    else
      let ix := q 2
      let slot := bits (q 0) 55 0 + (ix % n) * 64
      let body := data.take 40 ++ bytesOf ix 8 ++ data.drop 48
      let s := s.homeStore c (cellsOf (pa + 16) 8 (ix + 1))
      match s.translate (s.ctxOf c) slot .write with
      | .error _ => (wordN ix, s)
      | .ok p => (wordN ix, s.homeStore c ((List.range 64).map fun i => (servedPa c p + i, body.getD i 0)))
/-- Post a continuation record into its grid (R209, R299). -/
def State.postRecord (s : State) (c : Nat) (p : Post) : State :=
  let s := s.onGrid (s.teamOf c).grid fun g => { g with posts := g.posts ++ [p] }
  s.onCore c fun k => { k with ctl := { k.ctl with posts := k.ctl.posts + 1 } }
/-- LTAR (R204, R278): a new arming discards the handoff granules of the latch. -/
def State.armLatch (s : State) (l n : Nat) : State :=
  let s := s.onLatch l fun _ => { n := n }
  { s with handoffs := s.handoffs.filter fun e => !(e.2.latch == l % 256 && e.2.clu == l / 256) }
/-- FLSH (R178): dirty lines written back and the first-level copies invalidated; or the slice lines written back. -/
def State.flushLines (s : State) (c : Nat) (sl : Bool) (lines : List Nat) : State :=
  if sl then s else s.l1Drop c true fun x => lines.contains (x.pa / 128)

/-- One effect takes place in core `c`, under guard clock `g`; `cyc` is the cycle in which the bundle issued. -/
def Eff.apply (c g cyc : Nat) (e : Eff) (s : State) : State :=
  match e with
  | .sreg d x lat =>
    s.onCore c fun k =>
      if lat ≤ 1 then k.writeS d x g else k.launch g (.sres d x (cyc + lat))
  | .status st x => s.onCore c fun k => k.writeS st x g
  | .vres a x lat fl u => s.onCore c fun k => k.launch g (.vres a x (2 ^ 128 - 1) fl (cyc + lat) u)
  | .space a n x => s.onCore c fun k => k.writeSpace a n x g k.ctl.seq
  | .csr op n x => s.onCore c fun k => k.csrApply op n x
  | .raw n x => s.onCore c fun k => k.setCsr n x
  | .latch i l => s.onCore c fun k => { k with regs := { k.regs with latch := k.regs.latch.put {} i l } }
  | .load dst x src => s.onCore c fun k => (k.launch g (.load dst x) src).addOut 0 1
  | .store cs mode evp lt => s.storeCells c mode evp lt cs
  | .sent ls host lt far => s.onCore c fun k => (k.launch g (.store ls host lt far)).addOut 1 1
  | .tldw off data src => s.onCore c fun k => (k.launch g (.tldw off data) src).addOut 0 1
  | .atomic op pa w b cmp dst scope remote =>
    let (old, s) := s.atomicDo c op pa w b cmp
    if remote then s.onCore c fun k => (k.launch g (.atomic dst (wordN old) scope)).addOut 3 1
    else
      match dst with
      | .sreg d => s.onCore c fun k => k.writeS d (wordN old) g
      | _ => s
  | .over a n => s.onCore c fun k =>
    s.overCells c (k.csr csrNEXTID).toNat (if k.copies.any fun y => y.joined then
      spadCells ((s.rangesOf c a n .write).flatMap fun r => (List.range r.2).map (r.1 + ·)) else []) (k.overCopies a n)
  | .cpy cp =>
    let s := s.copyView c cp
    let dst := s.rangesOf c cp.dst cp.len .copyDst
    let s := s.l1Drop c true (inRanges dst)
    s.onCore c fun k =>
      let id := (k.csr csrNEXTID).toNat
      let cp := { cp with id := id, seq := k.ctl.seq, complete := cp.len == 0 }
      let k := { k with copies := k.copies ++ [cp], ctl := { k.ctl with seq := k.ctl.seq + 1 } }.setCsr csrNEXTID (wordN (id + 1))
      (k.addOut 2 (if cp.len = 0 then 0 else 1)).setWatermark
  | .cpyq desc d data =>
    let (x, s) := s.queueAppend c desc data
    let s := s.onCore c fun k => k.writeS d x g
    if x = BitVec.allOnes 64 then s else s.onCore c fun k => (k.launch g (.store [] false [] false)).addOut 1 1
  | .count cls => s.onCore c fun k => k.addOut cls 1
  | .prefetch pa evp lt sl =>
    if sl then s.hostFill pa else if (l1Find (s.core c).l1 (pa / 128)).isSome then s else (s.l1Miss c).l1Fill c pa evp lt
  | .flush sl ls => (s.flushLines c sl ls).onCore c fun k => (k.launch g (.store [] false [] false)).addOut 1 1
  | .mx e => s.onCore c fun k =>
      { k with mx := { k.mx with queue := k.mx.queue ++ [{ e with before := k.ctl.seq, guard := g }] },
               ctl := { k.ctl with seq := k.ctl.seq + 1 } }.addOut 4 1
  | .act t x => s.onCore c fun k => { k with mx := { k.mx with act := k.mx.act.put 0 t x } }
  | .mstp blk ws => s.onCore c fun k =>
      { k with mx := { k.mx with store := (List.range 16).foldl (fun t i => t.put 0 (16 * blk + i) (ws.getD i 0)) k.mx.store } }
  | .mrtn i x => s.onCore c fun k => { k with mx := { k.mx with routines := k.mx.routines.put 0 i x } }
  | .clkd n x => s.onCore c fun k => k.setClock n x
  | .clke n v => s.onCore c fun k => k.setClock n (setBits (k.clock n) 29 28 (if v then 3 else 2))
  | .dlyw n x => s.onCore c fun k => k.delayWrite n x g
  | .inst => let p := (s.teamOf c).period; s.onCore c fun k => k.endInstant p
  | .endOp => s
  | .yld => s
  | .trap _ => s
  | .eret => s
  | .bara o => s.arrive c o
  | .barx o => s.withdraw c o
  | .resumed => s.l1DropClean c fun _ => true
  | .forget o => s.onBarrier o fun b => { b with release := b.release.filter fun r => r.1 != c }
  | .ltar l n => s.armLatch l n
  | .ltin l =>
    (s.onCore c fun k => k.launch g (.ltin l)).onLatch l fun x => { x with ins := if x.ins.contains c then x.ins else x.ins ++ [c] }
  | .cellOut key r data ic pres => s.onCore c fun k => (k.launch g (.cell key r data ic pres)).addOut 1 (if pres then 1 else 0)
  | .consume key rs => s.consumeAt key rs
  | .level n => s.onCore c fun k => { k with ctl := { k.ctl with level := n } }
  | .cpost p => s.postRecord c p
  | .rpkt key j x => s.sendPacket key j x
  | .rrcv key i => s.retireRound key i
  | .flags f => s.onCore c fun k => k.orFlags f
  | .txp => s.onCore c fun k => k.setTxp
  | .drained mask scope =>
    if scope = 0 then s
    else
      let s := if bit mask 1 then s.l1Clean c fun _ => true else s
      if bit mask 0 then s.l1DropClean c fun _ => true else s
  | .established => s.onCore c (Core.establish s.now)
  | .slept t => s.onCore c (Core.establishSlept s.now t)
  | .acquire l =>
    let s := s.onLatch l fun x => { x with waited := if x.waited.contains c then x.waited else x.waited ++ [c] }
    s.l1DropClean c fun x => x.latch == some (l % 256)

/-- The bytes that an effect leaves with values which it finds only when it takes place: the word of an atomic, what a `CPYQ` writes,
and the blocks of the presented aperture that a store re-quantises, but for their lines beside the stored bytes that the first level
holds, which stay there and keep serving loads (R177, R211, R262, R269). -/
def State.settles (s : State) (c : Nat) (e : Eff) : List (Nat × Nat) :=
  match e with
  | .atomic _ pa w _ _ _ _ _ => [(pa, w)]
  | .cpyq desc _ _ => s.queueCells c desc
  | .store cs _ _ _ =>
    ((cs.filterMap fun q => s.blockRange q.1).eraseDups.flatMap fun r => linePieces (r.2 / 128 + 2) r.1 r.2).filter fun p =>
      (cs.any fun q => q.1 / 128 == p.1 / 128) || (l1Find (s.core c).l1 (p.1 / 128)).isNone
  | _ => []
/-- The bytes that a piece of an access shares with a range, cut at lines. -/
def sharedPieces (a n b m : Nat) : List (Nat × Nat) :=
  let lo := max a b
  let k := min (a + n) (b + m) - lo
  linePieces (k / 128 + 2) lo k
/-- The remote bytes of a load, each source as physical address, count and offset in its data, as earlier slots of its issue leave
them where they settle bytes of it (R117). A line that stands in the first level then has come there behind what an earlier slot has
written, and serves the load (R169, R269). -/
def State.readAgain (s : State) (c : Nat) (settled : List (Nat × Nat)) (src : List (Nat × Nat × Nat)) (x : Nat) : Nat × State :=
  (src.filter fun q => !isLocal c q.1).foldl (fun r q =>
    (settled.flatMap fun w => sharedPieces q.1 q.2.1 w.1 w.2).foldl (fun (r : Nat × State) p =>
      let (v, s) := match l1Find (r.2.core c).l1 (p.1 / 128), placeOf p.1 with
        | some l, _ => (l.bytes p.1 p.2, r.2)
        | none, some (.spad _ swz, _) => r.2.spadRead c swz p.1 p.2
        | none, _ => (r.2.homeRead p.1 p.2, r.2)
      let o := q.2.2 + (p.1 - q.1)
      (setBits r.1 (8 * (o + p.2) - 1) (8 * o) v, s)) r) (x, s)
/-- A load behind an atomic, a `CPYQ` or a store to the presented aperture of an earlier slot of its issue sees what that wrote (R117,
R169, R262, R392). -/
def Eff.again (c : Nat) (settled : List (Nat × Nat)) (e : Eff) (s : State) : Eff × State :=
  match e with
  | .load dst x src => let (v, s) := s.readAgain c settled src x; (.load dst v src, s)
  | .tldw off d src => let (v, s) := s.readAgain c settled src (ofBytes d); (.tldw off (bytesOf v d.length) src, s)
  | .cpy cp =>
    let src := (piecesOf cp.src cp.data.length).filterMap fun q =>
      match s.translate (s.ctxOf c) q.1 .copySrc with | .ok p => some (servedPa c p, q.2, q.1 - cp.src) | .error _ => none
    let (v, s) := s.readAgain c settled src (ofBytes cp.data)
    (.cpy { cp with data := bytesOf v cp.data.length }, s)
  | _ => (e, s)
/-- The effects of a slot behind those that settle bytes. -/
def State.afresh (s : State) (c : Nat) (settled : List (Nat × Nat)) (es : List Eff) : List Eff × State :=
  if settled.isEmpty then (es, s) else es.foldl (fun r e => let (x, s) := e.again c settled r.2; (r.1 ++ [x], s)) ([], s)
/-- Effects in order. -/
def applyAll (c g cyc : Nat) (es : List Eff) (s : State) : State := es.foldl (fun s e => e.apply c g cyc s) s

end Sys2Proof.Machine
end

