-- ==== Sys2Proof/Machine/Waits.lean ====
section
/-! DEFINITION. Waits: conditions, deadlines, statuses and escalation, and the commit of a bundle (R77, R181-R186). -/
namespace Sys2Proof.Machine

/-- Status codes of R9. -/
def stOK : Nat := 0
def stTIMEOUT : Nat := 1
def stABSENT : Nat := 2
def stPARTIAL : Nat := 3
def stFULL : Nat := 4
def stDENIED : Nat := 5
def stCANCELLED : Nat := 6
/-- `set_status` of R9. -/
def statusWord (code detail mask : Nat) : Word := wordN ((mask % 2 ^ 48) <<< 16 + (detail % 256) <<< 8 + code % 256)
/-- The outcomes that count as timeouts (R185). -/
def isTimeout (code : Nat) : Bool := code == stTIMEOUT || code == stPARTIAL || code == stFULL
/-- `deadline_expired` of R182. -/
def State.expired (s : State) (c : Nat) (w : Waiting) (x : Wait) : Bool :=
  if x.wall then decide (w.t0 + x.dl ≤ s.now) else decide (w.rt0 + x.dl ≤ (s.teamOf c).residentTicks)
/-- The waits of a core's bundle that has issued and not committed, be it taken back or left for a handler (R186, R242). -/
def Core.openWaits (k : Core) : List Wait :=
  (match k.ctl.wait, k.ctl.back with
   | some w, _ => w.waits
   | none, some b => b.waits
   | none, none => []) ++ ((k.ctl.shadow.bind fun h => h.back).map fun b => b.waits).getD []
/-- Buckets in which a core's bundle has a place for a record that it has yet to post (R299). -/
def Core.reserved (k : Core) : List Nat :=
  k.openWaits.filterMap fun x => match x.kind, x.out with
    | .cpost p, some (0, _, _) => some p.bucket
    | _, _ => none
/-- Places for records that bundles of a grid's cores hold before they commit, also of teams that are out. -/
def State.reservedIn (s : State) (g : Nat) : List Nat :=
  (s.cores.flatMap fun k => if (s.team k.2.ctl.team).grid == g then k.2.reserved else []) ++
  s.teams.flatMap fun e => match e.2.image with
    | some im => if e.2.grid == g then im.cores.flatMap Core.reserved else []
    | none => []
/-- A bucket of a core's grid takes another record (R31, R299). -/
def State.bucketFree (s : State) (c b : Nat) : Bool :=
  let gi := (s.teamOf c).grid
  let g := s.grid gi
  let r := s.reservedIn gi
  decide ((g.posts.filter fun p => p.bucket == b).length + (r.filter (· == b)).length < 256) &&
  decide (g.created + g.posts.length + r.length < 65536)
/-- The outstanding counts of a `WAITC` status (R184). -/
def Core.countsWord (k : Core) : Nat :=
  min (k.out 0) 255 + (min (k.out 1) 255) <<< 8 + (min (k.out 2) 255) <<< 16 + (min (k.out 4) 255) <<< 24
/-- The named classes that have drained (R184, R205). -/
def Core.drainedMask (k : Core) (scope mask before : Nat) : Nat :=
  [0, 1, 2, 3].foldl (fun m i => if bit mask i && k.drained i scope before then m + 2 ^ i else m) 0
/-- Arrivals counted in the current phase (R184). -/
def State.arrivals (s : State) (o : Nat) : Nat := ((s.barrier o).arrivals.filter fun a => s.arrivalCounts o a).length
/-- Resolve a wait with an outcome and what it does at commit. -/
def Wait.done (x : Wait) (code detail mask : Nat) (effs : List Eff) : Wait := { x with out := some (code, detail, mask), effs := effs }

/-- The level that a core holds: granted, if its bundle has yet to commit (R375). -/
def Core.heldLevel (k : Core) : Nat :=
  (k.openWaits.findSome? fun x => match x.kind, x.out with | .pwra n, some (0, _, _) => some (max n k.ctl.level) | _, _ => none).getD k.ctl.level
/-- Budgets of R373. -/
def budget : Nat → Nat
  | 0 => 4096 | 1 => 6144 | 2 => 8192 | 3 => 12288 | 4 => 16384 | 5 => 24576 | 6 => 32768 | _ => 65535
/-- The sum of the budgets that a cluster's cores hold (R375). -/
def State.grantSum (s : State) (cl : Nat) : Nat :=
  ((List.range 64).map fun i =>
    let c := cl * 64 + i
    budget (if s.resident c then (s.core c).heldLevel else 0)).sum
/-- The waiting PWRA of a core for a level resolves OK. -/
def Core.granted (n : Nat) (k : Core) : Core :=
  { k with ctl := { k.ctl with wait := k.ctl.wait.map fun w =>
      { w with waits := w.waits.map fun x =>
          match x.kind with
          | .pwra m => if m == n && x.out.isNone then x.done stOK 0 n [.level n] else x
          | _ => x } } }
/-- `grant step` of R375; a request whose deadline passes in this cycle is granted first (R183). -/
def State.serveGrants (s : State) (cl : Nat) : Nat → State
  | 0 => s
  | fuel + 1 =>
    match (s.cluster cl).grants with
    | [] => s
    | (c, n, _) :: rest =>
      if s.grantSum cl + budget n ≤ (s.cluster cl).cal + budget (s.core c).heldLevel then
        ((s.onCluster cl fun x => { x with grants := rest }).onCore c (Core.granted n)).serveGrants cl fuel
      else s

/-- Test the condition of a wait (R183, R184): the wait with its outcome if it holds, and what takes effect at once. -/
def State.pollWait (s : State) (c : Nat) (x : Wait) : Wait × State :=
  if x.out.isSome then (x, s)
  else
    let k := s.core c
    match x.kind with
    | .chwr key data =>
      let ch := s.channel key
      if (k.ic : Int) ≤ ch.lw then (x.done stDENIED 0 0 [], s)
      else if s.cellFree key then
        let eff := s.cellEff c key true data
        let s := s.claimCell c key
        ({ x with claim := some (key, ch.ws, ch.lw) }.done stOK 0 (s.occupied key) [eff], s)
      else (x, s)
    | .absn key =>
      let ch := s.channel key
      if (k.ic : Int) ≤ ch.lw then (x.done stOK 0 0 [], s)
      else if s.cellFree key then
        ({ x with claim := some (key, ch.ws, ch.lw) }.done stOK 0 0 [s.cellEff c key false []], s.claimCell c key)
      else (x, s)
    | .chrd key dst =>
      let (n, s) := s.discardStale key k.ic ((s.channel key).depth + 1)
      let x := { x with stale := x.stale + n }
      match s.headCell key with
      | none => (x, s)
      | some a =>
        if !s.cellFull a then (x, s)
        else if k.ic < s.cellStamp a then (x.done stABSENT (min x.stale 255) (s.occupied key) [], s)
        else
          let take := match dst with | some _ => [Eff.consume key (s.channel key).rs] | none => []
          let left := s.occupied key - take.length
          if !s.cellPres a then (x.done stABSENT (min x.stale 255) left take, s)
          else
            let copy := match dst with
              | some d => [Eff.space d (s.channel key).cell (s.cellData key)]
              | none => []
            (x.done stOK (min x.stale 255) left (copy ++ take), s)
    | .bar o =>
      if (s.barrier o).release.any fun r => r.1 == c && decide (r.2.1 ≤ s.now) && decide (r.2.2 ≤ s.cycleOf c) then
        (x.done stOK 0 (s.barrier o).members.length [.resumed, .forget o], s)
      else (x, s)
    | .ltwt l => if (s.latch l).passed then (x.done stOK 0 (s.latch l).a [.acquire l], s) else (x, s)
    | .drn scope mask before =>
      if k.drainedMask scope mask before = mask then
        (x.done stOK 0 mask ([.drained mask scope] ++ if bit mask 2 then [.established] else []), s)
      else (x, s)
    | .waitc ld sd cp mx =>
      let ok := fun n cls => n == 31 || decide (k.out cls ≤ n)
      if ok ld 0 && ok sd 1 && ok cp 2 && ok mx 4 then
        (x.done stOK 0 k.countsWord (if cp = 0 then [.established] else []), s)
      else (x, s)
    | .sleep t => if t ≤ s.now then (x.done stOK 0 0 [.slept s.now], s) else (x, s)
    | .pwra _ =>
      let s := s.serveGrants (clusterOf c) 64
      ((((s.core c).ctl.wait.bind fun w => w.waits.find? fun y => y.slot == x.slot)).getD x, s)
    | .cpost p =>
      if s.bucketFree c p.bucket then
        (x.done stOK 0 k.ctl.posts [.cpost { p with seq := k.ctl.posts, instant := k.ic }], s)
      else (x, s)
    | .rrcv key addr =>
      match assoc s.reductions key with
      | none => (x, s)
      | some r =>
        match s.memberIx c r.receivers with
        | none => (x, s)
        | some i =>
          let d := r.round (r.asked.get 0 i)
          match d.cancelled, d.result, d.delivered with
          | some j, _, _ =>
            if j = everyReceiver ∧ !d.asking.contains i then (x, s)
            else (x.done (if j = i ∨ j = everyReceiver then stTIMEOUT else stCANCELLED) 0 d.arrived [.rrcv key i], s)
          | none, some (v, fl), true =>
            (x.done stOK 0 (2 ^ r.contributors.length - 1) [.space addr 128 v.toNat, .flags fl, .rrcv key i], s)
          | _, _, _ => (x, s)

/-- The timeout outcome of a wait whose condition does not hold (R184, R185); a reduction asks its root (R324), and a
marker has an expiry of its own (R198). -/
def State.timeoutWait (s : State) (c : Nat) (x : Wait) : Wait × State :=
  let k := s.core c
  match x.kind with
  | .chwr key _ => (x.done stTIMEOUT 0 (s.channel key).depth [], s)
  | .chrd key _ => (x.done stTIMEOUT (min x.stale 255) (s.occupied key) [], s)
  | .bar o =>
    if (s.barrier o).release.any fun r => r.1 == c then (x, s)
    else (x.done stTIMEOUT 0 (s.arrivals o) [], s.withdraw c o)
  | .ltwt l => (x.done stTIMEOUT 0 (s.latch l).a [], s)
  | .drn scope mask before =>
    let m := k.drainedMask scope mask before
    (x.done stPARTIAL 0 m [.drained m scope], s)
  | .waitc .. => (x.done stTIMEOUT 0 k.countsWord [], s)
  | .pwra _ =>
    (x.done stTIMEOUT 0 k.ctl.level [], s.onCluster (clusterOf c) fun cl => { cl with grants := cl.grants.filter fun g => g.1 != c })
  | .cpost _ => (x.done stFULL 0 0 [], s)
  | .rrcv key _ =>
    match assoc s.reductions key with
    | none => (x, s)
    | some r =>
      match s.memberIx c r.receivers with
      | none => (x, s)
      | some i =>
        (x, s.onReduction key fun r => r.onRound (r.asked.get 0 i) fun d =>
          { d with asking := if d.asking.contains i then d.asking else d.asking ++ [i] })
  | .absn _ => (x, s)
  | .sleep _ => (x, s)

/-- ESCN after an outcome, and whether it escalates (R185, R240). -/
def State.escalate (s : State) (c : Nat) (x : Wait) : Bool × State :=
  match x.kind, x.out with
  | .absn _, _ => (false, s)
  | .sleep _, _ => (false, s)
  | _, some (code, _, _) =>
    if isTimeout code then
      let n := min (((s.core c).csr csrESCN).toNat + 1) 65535
      let lim := bits (s.teamRegion c 7 5) 63 48
      let s := s.onCore c fun k => ((k.setTxp).setCsr csrESCN (wordN n)).perf 12 1
      (x.esc || (lim != 0 && decide (lim ≤ n)), s)
    else (false, s.onCore c fun k => k.setCsr csrESCN 0)
  | _, none => (false, s)
/-- The waits of one slot at commit: status, effects, ESCN; the escalation found so far. -/
def State.commitWait (s : State) (c cyc : Nat) (x : Wait) (esc : Option Trap) : Option Trap × State :=
  match x.out with
  | none => (esc, s)
  | some (code, detail, mask) =>
    let s := applyAll c x.guard cyc x.effs s
    let hasStatus := match x.kind with | .absn _ => false | .sleep _ => false | _ => true
    let st := statusWord code detail mask
    let s := if hasStatus then s.onCore c fun k => k.writeS x.st st x.guard else s
    let (e, s) := s.escalate c x
    let esc := if e && esc.isNone then
        some { cause := cESCAL, step := 0, frs := [st, (s.core c).csr csrESCN, x.word] }
      else esc
    (esc, s)
/-- The bytes with which slots before `sl` leave it to the commit what a load behind them sees; `s`: as the commit begins (R117). -/
def State.settledBefore (s : State) (c : Nat) (w : Waiting) (sl : Nat) : List (Nat × Nat) :=
  (w.effs.filter fun x => decide (x.1 < sl)).flatMap fun x => x.2.2.flatMap (s.settles c)
/-- A slot's effects, behind those that settle bytes in slots before it, then its waits; an operation of a C slot takes an entry of its
engine's queue (R301). -/
def State.commitSlot (s : State) (c : Nat) (w : Waiting) (settled : Nat → List (Nat × Nat)) (e : Nat × Nat × List Eff)
    (esc : Option Trap) : Option Trap × State :=
  let lo := (s.core c).ctl.seq
  let (es, s) := s.afresh c (settled e.1) e.2.2
  let s := applyAll c e.2.1 w.cyc es s
  let (esc, s) := (w.waits.filter fun x => x.slot == e.1).foldl (fun (esc, s) x => s.commitWait c w.cyc x esc) (esc, s)
  (esc, if 4 ≤ e.1 then s.onCore c fun k => k.enqueue (e.1 - 4) lo else s)
/-- A core after the commit of an issue: re-issue words and counts, the next bundle, and the counts of R361 (R77, R120). -/
def Core.settle (w : Waiting) (k : Core) : Core :=
  let k := w.steps.foldl (fun k x => k.setWord x.1 x.2.1 x.2.2) k
  ({ k with ctl := { k.ctl with
      wait := none, back := none, pc := w.next, rep := w.rep, dmask := 0, stall := if w.taken then 3 else 0 } }.perf 2 1).perf 3 w.nullified
/-- The code of a `TRAP` (R130). -/
def Eff.trapCode : Eff → Option Nat
  | .trap n => some n
  | _ => none
/-- The commit of an issue, all slots together (R77, R81, R186). -/
def State.commitBundle (s : State) (c : Nat) (w : Waiting) : State :=
  let s := (if w.waits.isEmpty then s else s.confirmClaims c w.undo).onRecords w.undoRec (Record.confirm c)
  let settled := s.settledBefore c w
  let (esc, s) := w.effs.foldl (fun (esc, s) e => s.commitSlot c w settled e esc) (none, s)
  let s := s.onCore c (Core.settle w)
  let has := fun (e : Eff) => w.effs.any fun x => x.2.2.contains e
  let s := if has .endOp then s.onCore c fun k => { k with ctl := { k.ctl with mode := .ended } } else s
  let s := if has .yld && bit ((s.core c).csr csrTSTAT).toNat 2 then
      s.onCore c fun k => { k with ctl := { k.ctl with mode := .yielded } }
    else s
  let soft := (w.effs.findSome? fun x => x.2.2.findSome? Eff.trapCode).map fun n => ({ cause := cSWTRAP, step := 0, frs := [wordN n] } : Trap)
  match esc with
  | some t =>
    let s := s.onCore c fun k => { k.setCsr csrESCN 0 with ctl := { k.ctl with
      owesReturn := has .eret,
      owed := k.ctl.owed ++ (soft.map fun u => { u with behind := some (w.fra, k.handler) }).toList } }
    s.takeTrap c t w.fra w.next 0 0
  | none =>
    match soft with
    | some u => s.takeTrap c u w.fra w.next 0 0
    | none => if has .eret then s.resumeCore c else s
/-- A bundle that waits on barriers alone: its gang goes on to the same bundle (R26, R186; log 46). -/
def Waiting.barsOnly (w : Waiting) : Bool := w.waits.all fun x => x.out.isSome || (match x.kind with | .bar _ => true | _ => false)
/-- How a cycle of a waiting core counts: `Ctl.did`. -/
def Waiting.code (w : Waiting) : Nat := if w.barsOnly then 8 else 3
/-- One wait of a core's bundle is replaced. -/
def Core.putWait (i : Nat) (x : Wait) (k : Core) : Core :=
  { k with ctl := { k.ctl with wait := k.ctl.wait.map fun w => { w with waits := w.waits.set i x } } }
/-- Each wait of a core's bundle is looked at in slot order; the bundle commits once all have resolved (R183, R186). -/
def State.lookBundle (s : State) (c : Nat) (look : State → Waiting → Wait → Wait × State) : State :=
  match (s.core c).ctl.wait with
  | none => s
  | some w =>
    let s := w.waits.zipIdx.foldl (fun s x =>
      let (y, s) := look s w x.1
      s.onCore c (Core.putWait x.2 y)) s
    match (s.core c).ctl.wait with
    | none => s
    | some v =>
      if v.waits.all fun x => x.out.isSome then
        (s.onCore c fun k => { k with ctl := { k.ctl with did := if k.ctl.did = 0 then w.code else k.ctl.did } }).commitBundle c v
      else s
/-- Poll every wait of a core's bundle (R183, R186). -/
def State.pollBundle (s : State) (c : Nat) : State := s.lookBundle c fun s _ x => s.pollWait c x
/-- Deadlines that have passed take their timeout outcomes, where the conditions do not hold (R183). -/
def State.expireBundle (s : State) (c : Nat) : State :=
  s.lookBundle c fun s w x =>
    let (x, s) := s.pollWait c x
    if x.out.isNone && s.expired c w x then s.timeoutWait c x else (x, s)
/-- The core's bundle waits, and its team is resident. -/
def State.isWaiting (s : State) (c : Nat) : Bool :=
  (s.core c).ctl.mode == .run && (s.core c).ctl.wait.isSome && (s.teamOf c).isResident
/-- The cause of a trap of which TCAUSE holds `x`: below an HFETCH stands that of the trap whose handler could not be entered (R238). -/
def causeOf (x : Nat) : Nat := if x % 256 = cHFETCH ∧ 256 ≤ x then x / 256 else x
/-- With what a core has trapped: it stands stopped, or is in its handler (R236). -/
def Core.trapId (k : Core) : Option (Bool × Nat) :=
  if k.ctl.mode == .stopped || k.handler then
    some (match k.ctl.nested with | some (t, _) => (true, t.cause) | none => (false, causeOf (k.csr csrTCAUSE).toNat))
  else none
/-- A core that has trapped was to enter its handler (R235, R238). -/
def Core.sentToHandler (k : Core) : Bool := k.ctl.mode != .stopped || (k.csr csrTCAUSE).toNat % 256 == cHFETCH

end Sys2Proof.Machine
end

