-- ==== Sys2Proof/Machine/Operands.lean ====
section
/-! DEFINITION. Operands: stepping (R78), views and their resolution (R85, R218), sources with their tags and latches
(R80, R113, R220, R224), and deadlines (R86, R182). -/
namespace Sys2Proof.Machine

/-- A source position of an operation. A register-space source has its operand field, its extent (0: the element's size)
and its hold bit; a plain one has no hold bit, and with `plus` it is the element after the one that its field names
(R172); an absent position reads nothing. Positions are those of the fields of a format, in the order C: rr, sa, sb, sc; W: deadline, sa, sb, element; M: rr, sa, sb. -/
inductive Src where
  | s (n : Nat)
  | v (field e : Nat) (hold : Bool)
  | cell (n : Nat)
  | plain (field e plus : Nat)
  | absent
  deriving DecidableEq, Repr
/-- What a source reads: its value, its tag (above 31: its granules disagree), and why it cannot be read. -/
structure SrcVal where
  val : Nat
  tag : Nat
  err : Option Trap := none
  addr : Nat := 0
  head : Option Nat := none
  deriving DecidableEq, Repr

/-- The view register that an operand field names. -/
def Core.view (k : Core) (field : Nat) : Word := k.csr (csrVW + bits field 11 9)
/-- Element size of the view that a field names, in bytes. -/
def Core.elemSize (k : Core) (field : Nat) : Nat := viewEsz (k.view field) * 16
/-- A register-space operand that cannot be accessed (R234). -/
def permSpace (x : Nat) (isIndex dst : Bool) (field : Nat) : Trap :=
  trap6 cPERM [wordN x, wordN ((if dst then 7 else 6) + if isIndex then 256 else 0), wordN field]
/-- `resolve` of R218; `plus` is added to the index (R172). -/
def Core.resolve (k : Core) (field e : Nat) (dst : Bool) (c plus : Nat) : Except Trap Nat :=
  let w := k.view field
  let x0 := bits field 8 0
  let x1 := (if c = 0 ∧ 504 ≤ x0 then k.base (x0 - 504) else x0) + plus
  let n := viewCount w
  if n ≤ x1 ∧ !(viewWrap w ∧ 0 < n) then
    .error (if viewWrap w then permSpace (viewBase w + x1 * viewEsz w * 16) false dst field else permSpace x1 true dst field)
  else
    let x := if n ≤ x1 then x1 % n else x1
    let a := viewBase w + x * viewEsz w * 16
    if 0x1000 ≤ a ∧ a + e ≤ 0x20000 then .ok a
    else if e = 128 ∧ !dst ∧ 0xE00 ≤ a ∧ a < 0x1000 ∧ a % 128 = 0 then .ok a
    else .error (permSpace a false dst field)
/-- The extent of an operand: 0 stands for the element's size (R218). -/
def Core.extent (k : Core) (field e : Nat) : Nat := if e = 0 then k.elemSize field else e
/-- The extent of an element of lane offsets: the whole of it (R172, R218). -/
def Core.offsetExtent (k : Core) (field : Nat) : Nat := k.elemSize field
/-- The tag of a range of the register space (R220): k31, one clock, or, where two of its granules disagree, a number
above 31 that holds both tags. -/
def Core.rangeTag (k : Core) (a n : Nat) : Nat :=
  (granulesOf a n).foldl (fun t g =>
    let x := k.gtag g
    if x = 31 ∨ t = x ∨ 31 < t then t else if t = 31 then x else (x + 1) * 32 + t) 31
/-- The tag that a CLKMIS reports (R234): one that is not the guard. -/
def offending (g t : Nat) : Nat := if 31 < t ∧ t % 32 = g then (t / 32 - 1) % 32 else t % 32
/-- Read e bytes of the register space at an operand field; a channel head where the operation may name one (R224, R310). -/
def State.readField (s : State) (c f e ix plus : Nat) (heads : Bool) : SrcVal :=
  let k := s.core c
  match k.resolve f e false ix plus with
  | .error t => { val := 0, tag := 31, err := some t }
  | .ok a =>
    if 0x1000 ≤ a then { val := k.space a e, tag := k.rangeTag a e, addr := a }
    else if !heads then { val := 0, tag := 31, err := some (permSpace a false false f) }
    else
      let q := (a - 0xE00) / 128
      match s.headChannel c q with
      | some key =>
        if s.headReady key k.ic then { val := s.cellData key, tag := 31, addr := a, head := some key }
        else { val := 0, tag := 31, err := some (trap6 cQEMPTY [wordN q]), addr := a, head := some key }
      | none => { val := 0, tag := 31, err := some (trap6 cQEMPTY [wordN q]), addr := a }
/-- Read a source position (R80, R113, R194, R220, R224). -/
def State.readSrc (s : State) (c : Nat) (slot : Slot) (ix pos : Nat) (x : Src) : SrcVal :=
  let k := s.core c
  match x with
  | .s n => { val := (k.sreg n).toNat, tag := k.stag n }
  | .cell n => { val := (k.cell n).committed.toNat, tag := (k.cell n).clock.getD 31 }
  | .absent => { val := 0, tag := 31 }
  | .plain f e plus => s.readField c f (if plus = 0 then e else k.offsetExtent f) ix plus (plus != 0)
  | .v f e hold =>
    if hold then
      let l := k.latchAt slot.ix pos
      { val := l.val.toNat % 2 ^ (8 * k.extent f e), tag := l.tag }
    else
      s.readField c f (k.extent f e) ix 0 true
/-- Discard stale cells of a head that an issue names (R310). -/
def State.freshenHead (s : State) (c ix : Nat) (x : Src) : State :=
  let k := s.core c
  let fresh := fun (r : Except Trap Nat) =>
    match r with
    | .ok a =>
      if a < 0x1000 then
        match s.headChannel c ((a - 0xE00) / 128) with
        | some key => (s.discardStale key k.ic ((s.channel key).depth + 1)).2
        | none => s
      else s
    | .error _ => s
  match x with
  | .v f e false => fresh (k.resolve f (k.extent f e) false ix 0)
  | .plain f _ (n + 1) => fresh (k.resolve f (k.offsetExtent f) false ix (n + 1))
  | _ => s
/-- A source is held back by the scoreboard (R225); `sv`: the reader is of the S or a V slot. -/
def Core.srcHeld (k : Core) (sv : Bool) (ix : Nat) (x : Src) : Bool :=
  match x with
  | .s n => k.pendingS n
  | .cell _ => false
  | .absent => false
  | .plain f e plus =>
    let n := if plus = 0 then e else k.offsetExtent f
    match k.resolve f n false ix plus with
    | .ok a => k.pendingW a n || (!sv && k.pendingV a n)
    | .error _ => false
  | .v f e hold =>
    !hold &&
    match k.resolve f (k.extent f e) false ix 0 with
    | .ok a => k.pendingW a (k.extent f e) || (!sv && k.pendingV a (k.extent f e))
    | .error _ => false
/-- A destination is held back by the scoreboard (R225). -/
def Core.dstHeld (k : Core) (vslot : Bool) (ix : Nat) (f e : Nat) : Bool :=
  match k.resolve f (k.extent f e) true ix 0 with
  | .ok a => k.pendingW a (k.extent f e) || k.pendingR a (k.extent f e) || (!vslot && k.pendingV a (k.extent f e))
  | .error _ => false

/-- Which of the fields va, vb, vc of a V-format opcode hold a scalar register index: `MRG`, `VBCST`, `VEPS` (R78, R147,
R152, R190). -/
def scalarFields (opc : Nat) : Bool × Bool × Bool :=
  match opc with
  | 0x53 => (false, false, true)
  | 0xA2 => (true, false, false)
  | 0xAA => (true, true, true)
  | _ => (false, false, false)
/-- A field of 12 bits after c steps: the index part modulo 512, or a scalar index modulo 64. -/
def stepField (x : Nat) (c : Nat) (st : Int) (sc : Bool) (b : Nat) : Nat :=
  if sc then setBits x 5 0 (((bits x 5 0 : Int) + c * st) % 64).toNat
  else
    let x0 := bits x 8 0
    let eff := if 504 ≤ x0 then b else x0
    setBits x 8 0 (((eff : Int) + c * st) % 512).toNat
/-- `step(W, c, X)` of R78. -/
def Core.stepWord (k : Core) (x : Slot) (w : Word) (c : Nat) : Word :=
  if c = 0 then w
  else
    let n := w.toNat
    let opc := bits n 63 56
    let sd := (k.csr (match x with
      | .s => csrSDS | .v0 => csrSDS + 1 | .v1 => csrSDS + 2 | .m => csrSDS + 3 | .c0 => csrSDS + 4 | .c1 => csrSDS + 5)).toNat
    let st := fun i => sextN (bits sd (8 * i + 7) (8 * i)) 8
    let rot := fun (f : Nat) => k.base (bits f 8 0 - 504)
    match x with
    | .s =>
      if opc = 0 then w
      else
        let f := fun (n : Nat) (l i : Nat) => setBits n (l + 5) l (((bits n (l + 5) l : Int) + c * st i) % 64).toNat
        let n := f (f n 42 3) 36 2
        if 0x20 ≤ opc ∧ opc ≤ 0x2E then wordN n else wordN (f (f n 30 1) 24 0)
    | .m => w
    | .c0 => if bit n 11 then w else
        let f := bits n 47 36
        wordN (setBits n 47 36 (stepField f c (st 3) false (rot f)))
    | .c1 => if bit n 11 then w else
        let f := bits n 47 36
        wordN (setBits n 47 36 (stepField f c (st 3) false (rot f)))
    | _ =>
      if opc = 0 then w
      else
        let (sA, sB, sC) := scalarFields opc
        let v3 := opc = 0x53 ∨ opc = 0x83 ∨ opc = 0x84 ∨ opc = 0x8A ∨ opc = 0xA1 ∨ opc = 0xAA
        let vi := opc = 0xAC ∨ opc = 0xAD
        let put := fun (n h l : Nat) (i : Nat) (sc : Bool) =>
          let f := bits n h l
          setBits n h l (stepField f c (st i) sc (rot f))
        if vi then w
        else
          let n := put n 47 36 3 false
          let n := if bit n 9 then n else put n 35 24 2 sA
          let n := if !v3 && bit n 8 then n else put n 23 12 1 sB
          if v3 then
            let f := bits n 8 0
            wordN (setBits n 8 0 (stepField f c (st 0) sC (rot f)))
          else wordN n
/-- The address step of a slot after c issues (R78). -/
def Core.addrStep (k : Core) (x : Slot) (c : Nat) : Int :=
  let sd := (k.csr (match x with | .s => csrSDS | .c0 => csrSDS + 4 | .c1 => csrSDS + 5 | _ => csrSDS)).toNat
  c * sextN (bits sd 63 32) 32

/-- Deadline operand of a waiting operation: a register source where REG = 1 (R86). -/
def dlSrc (f : WF) : Src := if bit f.dl.toNat 6 then .s (bits f.dl.toNat 5 0) else .absent
/-- The deadline in ticks: `last` is the value of the register (R182). -/
def dlTicks (f : WF) (reg : Nat) : Nat := if bit f.dl.toNat 6 then reg else 2 ^ bits f.dl.toNat 5 0

end Sys2Proof.Machine
end

