-- ==== Sys2Proof/Machine/Issue.lean ====
section
/-! DEFINITION. The issue of a bundle (R16, R77, R97, R225, R373): holds, the check steps in their order, execution of
the slots, and the commit or the wait that follows. -/
namespace Sys2Proof.Machine

/-- The bundle that issues: its header's address, its length in bytes, and its repetition count. -/
structure Frame where
  h : Nat
  len : Nat
  rep : Nat := 0
/-- The issue of one operation: core, slot, issue index c_X, guard clock, the bundle, the word and its address (the header's for a re-issued word), whether it issues `BARW` in place
of `BAR` (R233), and what the earlier slots of the issue do at its commit. -/
structure Ctx where
  c : Nat
  slot : Slot
  ix : Nat
  g : Nat
  fr : Frame
  word : Word
  addr : Nat := 0
  again : Bool := false
  earlier : List Eff := []
/-- The issue index with which the operand fields of a word resolve: a field that the re-issue does not step names what it
named at first, a rotating name its base (R78, R85, R160, R218). -/
def resolveIx (x : Slot) (w : Word) (ix : Nat) : Nat :=
  match x with
  | .s => ix
  | .m => 0
  | .c0 => if bit w.toNat 11 then 0 else ix
  | .c1 => if bit w.toNat 11 then 0 else ix
  | _ => if bits w.toNat 63 56 = 0xAC ∨ bits w.toNat 63 56 = 0xAD then 0 else ix
def Ctx.rx (x : Ctx) : Nat := resolveIx x.slot x.word x.ix
/-- What an operation does if the issue commits. -/
structure Out where
  effs : List Eff := []
  waits : List Wait := []
  jump : Option Nat := none
/-- The execution step of an operation. -/
inductive Res where
  | ok (s : State) (o : Out)
  | trap (t : Trap)
  | hold
/-- The order in which the execution step tests the causes of one slot (R97). -/
def causeRank (cause : Nat) : Nat :=
  if cause = cCFI then 0 else if cause = cALIGN then 1 else if cause = cXLATE then 2 else if cause = cPERM then 3
  else if cause = cCONFLICT ∨ cause = cCTFULL then 4 else if cause = cQEMPTY then 5 else 6
/-- An operation that fails with `t`, unless a check that comes earlier fails too (R97). -/
def Res.unless (t : Trap) (r : Res) : Res :=
  match r with
  | .trap u => if causeRank u.cause < causeRank t.cause then .trap u else .trap t
  | .hold => if 4 < causeRank t.cause then .hold else .trap t
  | .ok _ _ => .trap t
/-- Execute with a resolved destination; where it cannot be accessed the checks that come before still come first (R97,
R169). -/
def withDst (r : Except Trap Nat) (go : Nat → Res) : Res :=
  match r with
  | .ok a => go a
  | .error t => (go 0).unless t
/-- An operation of a slot: sources in the order of its format, register-space destinations (field, extent), what may
hold it (`pends`: the scoreboard of a register that it does not name as a source, `held`: an interlock, `full`: a full
queue), its weight, whether the core's registers make it ILLOP, its clock check where that is not R16's, what it does
before the checks of a re-issue (R78), its execution, and what it does when nullified. -/
structure Op where
  srcs : List Src := []
  dsts : List (Nat × Nat) := []
  pends : State → Nat → Bool := fun _ _ => false
  held : State → Nat → Slot → Bool := fun _ _ _ => false
  full : State → Nat → Bool := fun _ _ => false
  weight : Slot → Core → Nat := fun _ _ => 1
  illop : Slot → Core → Bool := fun _ _ => false
  clock : Option (State → Ctx → List SrcVal → Bool → Option (Nat × Nat × Nat)) := none
  pre : Core → Nat → List Eff := fun _ _ => []
  body : Ctx → List SrcVal → State → Res := fun _ _ s => .ok s {}
  nullified : Ctx → State → List Eff := fun _ _ => []
  transfer : Bool := false
  nop : Bool := false
/-- An operation as it stands in its slot: guard, the re-issue word and count, the stepped word, and the cause with
which the decode step refuses it. -/
structure SlotOp where
  slot : Slot
  gk : Nat
  gs : Nat
  base : Word
  ix : Nat
  word : Word
  op : Op
  bad : Option Nat := none
  addr : Nat := 0
/-- The cause with which the decode step refuses a slot (R97). -/
def SlotOp.cause (x : SlotOp) (k : Core) : Option Nat :=
  match x.bad with
  | some b => some b
  | none => if x.op.illop x.slot k then some cILLOP else none

def SlotOp.rx (x : SlotOp) : Nat := resolveIx x.slot x.word x.ix
/-- The context of a slot's issue. -/
def SlotOp.ctx (x : SlotOp) (s : State) (c : Nat) (fr : Frame) : Ctx :=
  { c := c, slot := x.slot, ix := x.ix, g := x.gk, fr := fr, word := x.word, addr := x.addr,
    again := bit (s.core c).ctl.dmask x.slot.maskBit }
/-- The guard is present and the stage predicate holds (R16). -/
def SlotOp.live (x : SlotOp) (k : Core) : Bool := (k.present x.gk).getD false && k.pred x.gs
def isS (x : Slot) : Bool := x == .s
def isV (x : Slot) : Bool := x == .v0 || x == .v1

/-- An operation of a C slot finds the 16 entries of its engine's queue taken (R301). -/
def SlotOp.engineFull (x : SlotOp) (k : Core) : Bool := decide (4 ≤ x.slot.ix ∧ 16 ≤ k.queued (x.slot.ix - 4)) && !x.op.nop
/-- Why a bundle is held, as `Ctl.did` counts it: 2 scoreboard, 6 interlock, 4 full queue (R97, R140, R156, R166, R225, R301). -/
def State.heldBy (s : State) (c : Nat) (ops : List SlotOp) : Nat :=
  let k := s.core c
  let good := ops.filter fun x => (x.cause k).isNone
  if good.any fun x =>
      (x.op.srcs.any fun y => k.srcHeld (isS x.slot || isV x.slot) x.rx y) ||
      (x.op.dsts.any fun d => k.dstHeld (isV x.slot) x.rx d.1 d.2) || x.op.pends s c then 2
  else if good.any fun x => x.op.held s c x.slot then 6
  else if good.any (fun x => x.live k && (x.op.full s c || x.engineFull k)) then 4
  else 0

/-- FMASK of the slots that a test selects (R233). -/
def slotMask (ops : List SlotOp) (p : SlotOp → Bool) : Nat :=
  ops.foldl (fun m x => if p x then m ||| 2 ^ x.slot.maskBit else m) 0
/-- A trap of the execution step whose detail is the operation word (R234). -/
def Ctx.illop (x : Ctx) : Trap := { cause := cILLOP, step := 6, frs := [x.word, wordN x.addr] }
/-- The sources of a slot as they read at the issue. -/
def SlotOp.vals (x : SlotOp) (s : State) (c : Nat) : List SrcVal :=
  (x.op.srcs.zipIdx).map fun p => s.readSrc c x.slot x.rx p.2 p.1
/-- Step 2 of R16: the first source whose tag is neither k31 nor the guard clock. -/
def tagCheck (g : Nat) (vs : List SrcVal) : Option (Nat × Nat × Nat) :=
  let i := vs.findIdx fun v => v.tag != 31 && v.tag != g
  match vs[i]? with
  | some v => some (cCLKMIS, i, offending g v.tag)
  | none => none
/-- The clock step of a slot (R16): cause, source position, tag. DESIGN CHOICE (log 48): where no source field offends, in a CLKUNK of the
guard and in a CLKMIS of an `MCALL`'s window granules, FRS0 holds position 0, and for the guard tag 0; R234 names none there. -/
def SlotOp.clockFail (x : SlotOp) (s : State) (c : Nat) (fr : Frame) : Option (Nat × Nat × Nat) :=
  if x.op.nop then none
  else
    match (s.core c).present x.gk with
    | none => some (cCLKUNK, 0, 0)
    | some p =>
      match x.op.clock with
      | some f => f s (x.ctx s c fr) (x.vals s c) p
      | none => tagCheck x.gk (x.vals s c)
/-- The decode step (R97): ILLOP and ILLSLOT. -/
def decodeStep (k : Core) (ops : List SlotOp) : Option Trap :=
  match ops.find? fun x => (x.cause k).isSome with
  | none => none
  | some x =>
    some { cause := (x.cause k).getD cILLOP, step := 3, fmask := slotMask ops fun y => (y.cause k).isSome,
           frs := [x.word, wordN x.addr] }
/-- The clock step (R97). -/
def State.clockStep (s : State) (c : Nat) (fr : Frame) (ops : List SlotOp) : Option Trap :=
  match ops.find? fun x => (x.clockFail s c fr).isSome with
  | none => none
  | some x =>
    match x.clockFail s c fr with
    | none => none
    | some (cause, pos, tag) =>
      some { cause := cause, step := 4, fmask := slotMask ops fun y => (y.clockFail s c fr).isSome,
             frs := [wordN (x.gk + tag <<< 8 + pos <<< 16), x.word] }
/-- The weight of an issue (R372). -/
def issueWeight (k : Core) (ops : List SlotOp) : Nat := (ops.map fun x => if x.op.nop then 0 else x.op.weight x.slot k).sum
/-- The window sum before an issue (R373). -/
def State.windowSum (s : State) (c : Nat) : Nat :=
  (((s.core c).ctl.window.filter fun e => decide (s.cycleOf c < e.1 + 256)).map Prod.snd).sum
/-- The activity step (R97, R373). DESIGN CHOICE (log 48): it weighs the issue and not a slot, and the spec marks no slot for it;
FMASK is 0. -/
def State.activityStep (s : State) (c : Nat) (ops : List SlotOp) : Option Trap :=
  let k := s.core c
  let n := s.windowSum c + issueWeight k ops
  if budget k.ctl.level < n then some { cause := cPWROVR, step := 5, frs := [wordN n, wordN k.ctl.level] } else none

/-- Input latches that a slot's sources load, whether it executes or is nullified (R80). DESIGN CHOICE (log 48): of a nullified
operation a source that cannot be read, which R226 does not name, leaves its latch as it was. -/
def latchLoads (x : SlotOp) (vs : List SrcVal) : List Eff :=
  if isS x.slot then []
  else
    (vs.zipIdx).filterMap fun (v, i) =>
      match x.op.srcs[i]? with
      | some (.v _ _ true) => none
      | some (.plain _ _ (_ + 1)) => none
      | some .absent => none
      | some _ => if v.err.isSome then none else some (.latch (latchIx x.slot.ix i) { val := BitVec.ofNat 1024 v.val, tag := v.tag % 32 })
      | none => none
/-- The channels whose heads slots of an issue name (R224, R310). -/
def headsNamed (s : State) (c : Nat) (ops : List SlotOp) : List Nat := (ops.flatMap fun x => (x.vals s c).filterMap fun v => v.head).eraseDups
/-- Those that the live slots name are consumed at the commit. -/
def headsRead (s : State) (c : Nat) (ops : List SlotOp) : List Nat := headsNamed s c (ops.filter fun x => x.live (s.core c))
/-- The channel that a `CHRD` or `CHRDY` reads. -/
def SlotOp.reads (x : SlotOp) (s : State) (c : Nat) : Option Nat :=
  let opc := bits x.word.toNat 63 56
  if opc = 0x58 ∨ opc = 0x59 then some (s.channelKey c (bits (WF.ofWord x.word).imm.toNat 19 12)) else none
/-- The channels whose heads slots name, nullified or not, and that the bundle also reads with a `CHRD` or `CHRDY` (R310). -/
def clashes (s : State) (c : Nat) (ops : List SlotOp) : List Nat :=
  (headsNamed s c (ops.filter fun y => !y.op.nop)).filter fun key => ops.any fun y => y.reads s c == some key
/-- A slot fails for such a channel: one that is not nullified reads it, or, where its readers are nullified, names its head (R16,
R310). -/
def SlotOp.clash (x : SlotOp) (s : State) (c : Nat) (ops : List SlotOp) (keys : List Nat) : Bool :=
  x.live (s.core c) && keys.any fun key =>
    x.reads s c == some key ||
    ((headsNamed s c [x]).contains key && !(ops.any fun y => y.live (s.core c) && y.reads s c == some key))

/-- The class in which an effect counts (R360): 0 ld, 1 sd, 2 cp, 3 at, 4 mx. -/
def Eff.countClass (e : Eff) : Option Nat :=
  match e with
  | .load _ _ _ => some 0
  | .tldw _ _ _ => some 0
  | .sent _ _ _ _ => some 1
  | .cellOut _ _ _ _ pres => if pres then some 1 else none
  | .cpyq _ _ _ => some 1
  | .flush _ _ => some 1
  | .cpy cp => if cp.len = 0 then none else some 2
  | .atomic _ _ _ _ _ _ _ remote => if remote then some 3 else none
  | .mx _ => some 4
  | _ => none
/-- What an operation will add to a class count at its commit. -/
def Out.rise (o : Out) (cls : Nat) : Nat :=
  (o.effs.filter fun e => e.countClass == some cls).length +
  (o.waits.filter fun w => match w.kind with | .chwr _ _ => cls == 1 && w.out.isNone | _ => false).length
/-- The commit would take a count above its limit (R360). -/
def Core.overLimit (k : Core) (outs : List Out) : Bool :=
  [0, 1, 2, 3, 4].any fun cls =>
    let n := (outs.map fun o => o.rise cls).sum
    n != 0 && decide (outLimit cls < k.out cls + n)

/-- What the slots of an issue have come to. -/
structure Done where
  s : State
  outs : List (SlotOp × Out) := []
  fails : List (SlotOp × Trap) := []
  hold : Bool := false
  nulls : Nat := 0
/-- Of several causes of one slot, the one that is tested first (R97). -/
def firstCause (ts : List Trap) : Option Trap :=
  ts.foldl (fun b t => match b with | none => some t | some u => if causeRank t.cause < causeRank u.cause then some t else some u) none
/-- One slot executes or is nullified; `clash`: it fails R310 (R16, R97). -/
def Done.slot (d : Done) (c : Nat) (fr : Frame) (clash : Bool) (x : SlotOp) : Done :=
  let vs := x.vals d.s c
  if x.op.nop then { d with outs := d.outs ++ [(x, {})] }
  else if !x.live (d.s.core c) then
    { d with outs := d.outs ++ [(x, { effs := latchLoads x vs ++ x.op.nullified (x.ctx d.s c fr) d.s })], nulls := d.nulls + 1 }
  else
    let r := x.op.body { x.ctx d.s c fr with earlier := d.outs.flatMap fun o => o.2.effs } vs d.s
    match (match firstCause ((if clash then [trap6 cPERM []] else []) ++ vs.filterMap SrcVal.err) with | some t => r.unless t | none => r) with
    | .trap t => { d with fails := d.fails ++ [(x, t)] }
    | .hold => { d with hold := true }
    | .ok s o => { d with s := s, outs := d.outs ++ [(x, { o with effs := latchLoads x vs ++ o.effs })] }
/-- The execution step of every slot, in slot order (R97, R117, R310). -/
def State.execStep (s : State) (c : Nat) (fr : Frame) (ops : List SlotOp) : Done :=
  let keys := clashes s c ops
  let d := ops.foldl (fun (d : Done) x => d.slot c fr (!keys.isEmpty && x.clash s c ops keys) x) ({ s := s } : Done)
  let take := (headsRead s c ops).map fun key => Eff.consume key (s.channel key).rs
  { d with outs := d.outs.zipIdx.map fun (o, i) =>
      if i = 0 then (o.1, { o.2 with effs := o.2.effs ++ take }) else o }

/-- The outcome of a transfer as the fault record holds it, with bit 1 for a nullified one (R125, R234). -/
def outcomeCode (live : Bool) (jump : Option Nat) : Nat :=
  match jump with
  | some t => bundleAddr t + 1
  | none => if live then 0 else 2
/-- The transfer of an issue, and its outcome. -/
def State.transferOutcome (s : State) (c : Nat) (outs : List (SlotOp × Out)) : Option Nat :=
  (outs.find? fun o => o.1.op.transfer).map fun o => outcomeCode (o.1.live (s.core c)) o.2.jump
/-- A gang member's outcome differs from its lead's for the same bundle; that of the lead itself is not in the log yet (R19,
R125). -/
def State.gangDiffers (s : State) (c : Nat) (outs : List (SlotOp × Out)) : Option (Nat × Nat) :=
  let k := s.core c
  match s.transferOutcome c outs with
  | none => none
  | some mine =>
    match s.gangEntry c k.ctl.issued with
    | some (_, _, lead) => if lead = mine then none else some (lead, mine)
    | none => none
/-- The first bundle that a core still has to commit in its gang's stream, behind a handler that it may be in: a bundle that waits
may be taken back, and is then issued again at its place in the log (R20, R186, R237). -/
def Core.behind (k : Core) : Nat :=
  match k.ctl.shadow with
  | some sh => sh.issued
  | none => k.ctl.issued - if k.ctl.wait.isSome then 1 else 0
/-- The first of its gang to issue a bundle notes it for the others, with the gang's clock as position 0 would have it;
entries that every member has passed go (R19). -/
def State.noteLead (s : State) (c : Nat) (code : Nat) : State :=
  let k := s.core c
  let t := s.teamOf c
  if t.gang ≤ 1 ∨ (s.gangEntry c k.ctl.issued).isSome then s
  else
    let low := (s.gangOf c).foldl (fun m d => min m (s.core d).behind) k.behind
    s.onCore (c - k.ctl.gpos) fun l => { l with ctl := { l.ctl with
      glog := (l.ctl.glog.filter fun e => decide (low ≤ e.1)) ++ [(k.ctl.issued, l.ctl.gclock - k.ctl.gpos * t.skew, code)] } }

/-- The record of an issue that has passed its checks. -/
def State.issueRecord (s0 : State) (c : Nat) (fr : Frame) (ops : List SlotOp) (d : Done) : Waiting :=
  let k := s0.core c
  let jump := d.outs.findSome? fun o => o.2.jump
  let more := jump.isNone && decide (k.ctl.rep < fr.rep)
  let steps := ops.map fun x =>
    if stickyWord x.base && !(x.base.toNat / 2 ^ 56 == 0) then (x.slot.ix, x.base, x.ix + 1) else (x.slot.ix, (0 : Word), 0)
  { t0 := s0.now, cyc := s0.cycleOf c, rt0 := (s0.teamOf c).residentTicks,
    waits := d.outs.flatMap fun o => o.2.waits,
    effs := d.outs.map fun o => (o.1.slot.ix, o.1.gk, o.1.op.pre k o.1.ix ++ o.2.effs),
    fra := fr.h, next := match jump with | some t => t | none => if more then fr.h else fr.h + fr.len,
    rep := if more then k.ctl.rep + 1 else 0, taken := jump.isSome,
    steps := steps, weight := issueWeight k ops, nullified := d.nulls,
    undo := changedGranules s0.granules d.s.granules, undoRec := changedRecords s0.records d.s.records,
    views := (k.ctl.writtenLin, k.ctl.writtenSwz) }
/-- What an outcome of a wait that a pre-emption took back does at the commit: the re-issue names the barrier object and the core
(R21, R200, R299). DESIGN CHOICE (log 48): the posting core of a record whose place was found before the pre-emption is the core
that commits, since the record is posted at the commit (R209); the spec does not say which of the two it is. -/
def Eff.renamed (kind : WaitKind) (e : Eff) : Eff :=
  match e, kind with
  | .forget _, .bar o => .forget o
  | .cpost p, .cpost q => .cpost { p with core := q.core }
  | _, _ => e
/-- A wait that a pre-emption took back goes on, with the outcome that it had (R186, R242). -/
def Waiting.continued (w : Waiting) (b : Option Back) : Waiting :=
  match b with
  | none => w
  | some b =>
    { w with t0 := b.t0, rt0 := b.rt0, waits := w.waits.map fun x =>
        match b.waits.find? fun y => y.slot == x.slot with
        | some y =>
          if y.out.isSome then { x with stale := y.stale, out := y.out, effs := y.effs.map (Eff.renamed x.kind), dl := y.dl, claim := y.claim }
          else { x with stale := y.stale, dl := y.dl, claim := y.claim }
        | none => x }
/-- The wait with which this issue goes on: one of the same bundle and repetition. -/
def Core.waitBack (k : Core) : Option Back := k.ctl.back.filter fun b => b.pc == k.ctl.pc && b.rep == k.ctl.rep
/-- A wait that the core does not take up again, since it stands at another bundle, gives its claims up. -/
def State.dropBack (s : State) (c : Nat) : State :=
  match (s.core c).ctl.back, (s.core c).waitBack with
  | some b, none => (s.unclaimAll b.waits).onCore c fun k => { k with ctl := { k.ctl with back := none } }
  | _, _ => s
/-- A core notes an issue of a weight in a cycle (R373). -/
def Core.noteIssue (cycle weight : Nat) (k : Core) : Core :=
  { k with ctl := { k.ctl with
    window := (k.ctl.window.filter fun e => decide (cycle < e.1 + 256)) ++ (if weight = 0 then [] else [(cycle, weight)]),
    issued := k.ctl.issued + 1, ltins := [], did := 1 } }
/-- An issue that has passed its checks: it is weighed and noted, and it commits at once or waits (R77, R186, R373). -/
def State.finishIssue (s0 : State) (c : Nat) (fr : Frame) (ops : List SlotOp) (d : Done) : State :=
  let w := (s0.issueRecord c fr ops d).continued (s0.core c).waitBack
  let s := d.s.noteLead c ((s0.transferOutcome c d.outs).getD 0)
  let s := s.onCore c (Core.noteIssue (s0.cycleOf c) w.weight)
  if w.waits.isEmpty then s.commitBundle c w
  else
    let s := s.makeTentative c w.undo s0.handoffs
    (s.onCore c fun k => { k with ctl := { k.ctl with wait := some w } }).pollBundle c
/-- The bundle is held in this cycle: it has not issued (R97). -/
def State.markHeld (s : State) (c why : Nat) : State := s.onCore c fun k => { k with ctl := { k.ctl with did := why } }
/-- A fault of the issue: nothing of it takes effect (R12, R77). -/
def State.faultIssue (s : State) (c : Nat) (fr : Frame) (t : Trap) : State :=
  s.takeTrap c t fr.h fr.h (s.core c).ctl.rep (s.core c).ctl.dmask
/-- Step 6 of R97 and the commit: a failing slot faults the bundle, a limit of a count or a hold leaves it unissued, and a gang
member that differs from its lead faults (R12, R77, R125, R360). -/
def State.runSlots (s : State) (c : Nat) (fr : Frame) (ops : List SlotOp) : State :=
  let d := s.execStep c fr ops
  if d.hold then s.markHeld c 7
  else
    match d.fails with
    | (_, t) :: _ => s.faultIssue c fr { t with fmask := slotMask (d.fails.map Prod.fst) fun _ => true }
    | [] =>
      if (s.core c).overLimit (d.outs.map Prod.snd) then s.markHeld c 10
      else match s.gangDiffers c d.outs with
      | some (lead, mine) =>
        s.faultIssue c fr { cause := cGANGDIV, step := 6, fmask := 2 ^ 5,
                            frs := [wordN (setBits lead 1 1 0), wordN (setBits mine 1 1 0)] }
      | none => s.finishIssue c fr ops d
/-- Its commit would take a count above its limit: the bundle does not issue, and its activity is not weighed (R97, R360). -/
def State.limited (s : State) (c : Nat) (fr : Frame) (ops : List SlotOp) : Bool :=
  let d := s.execStep c fr ops
  !d.hold && d.fails.isEmpty && (s.core c).overLimit (d.outs.map Prod.snd)
/-- Stale cells of the heads that the slots name are discarded (R310). DESIGN CHOICE (log 48): also where the operation that names
the head is nullified, which consumes nothing (R224, R307). -/
def State.freshenOps (s : State) (c : Nat) (ops : List SlotOp) : State :=
  (ops.filter fun x => (x.cause (s.core c)).isNone).foldl (fun s x => x.op.srcs.foldl (fun s y => s.freshenHead c x.rx y) s) s
/-- Steps 3 to 5 of R97: the trap with which one of them stops the issue. -/
def State.checkSteps (s : State) (c : Nat) (fr : Frame) (ops : List SlotOp) : Option Trap :=
  match decodeStep (s.core c) ops with
  | some t => some t
  | none =>
    match s.clockStep c fr ops with
    | some t => some t
    | none => s.activityStep c ops
/-- Steps 3 to 6 of R97, and the commit. -/
def State.issueSlots (s : State) (c : Nat) (fr : Frame) (ops : List SlotOp) : State :=
  let why := s.heldBy c ops
  if why ≠ 0 then s.markHeld c why
  else
    let s := s.freshenOps c ops
    match s.checkSteps c fr ops with
    | some t => if t.step = 5 ∧ s.limited c fr ops then s.markHeld c 10 else s.faultIssue c fr t
    | none => s.runSlots c fr ops

/-- A copy that was incomplete when the time base reached its promise, or that is when its core returns, makes the next issue
take PROMISE, once for each copy (R176). -/
def State.notePromise (s : State) (c : Nat) : State :=
  let k := s.core c
  let due := k.copies.filter fun x => (x.late || !x.complete && decide (x.promise ≤ s.now)) && !x.taken && x.stopped.isNone
  if due.isEmpty then s
  else
    let copies := k.copies.map fun x => if due.any fun d => d.id == x.id then { x with taken := true } else x
    let traps := due.map fun x => ({ cause := cPROMISE, step := 7, frs := [wordN x.id, wordN x.promise, wordN x.done] } : Trap)
    s.setCore c { k with copies := copies, ctl := { k.ctl with owed := k.ctl.owed ++ traps } }
/-- A core that stands at an issue: its team is resident and not being pre-empted, it is neither stopped nor waiting, and
no sensor has tripped (R18, R186, R242, R378). -/
def State.atIssue (s : State) (c : Nat) : Bool :=
  let k := s.core c
  k.ctl.mode == .run && k.ctl.wait.isNone && (s.teamOf c).isResident && !(s.teamOf c).leaving && !s.tripped
/-- What precedes every issue: results that are due land, a wait that is not taken up goes, and a trap that is owed is taken in
the issue's place (R112, R175, R176, R186, R246). -/
def State.beforeIssue (s : State) (c : Nat) : Option State × State :=
  let s := ((s.landNow c).notePromise c).dropBack c
  match (s.core c).dueTrap with
  | none => (none, s)
  | some t => (some ((s.onCore c Core.payTrap).takeTrap7 c t), s)

/-- The cause with which the decode step refuses an operation in its slot (R95, R96). -/
def refusedBy (i : Instr) (x : Slot) (w : Word) : Option Nat :=
  match opcodeClass (bits w.toNat 63 56) with
  | none => some cILLOP
  | some (c, _) => if !i.formOk then some cILLOP else if !c.has x then some cILLSLOT else none
/-- An operation as a slot issues it for the first time. -/
def slotOpOf (i : Instr) (x : Slot) (w : Word) (op : Op) (addr : Nat) : SlotOp :=
  { slot := x, gk := bits w.toNat 55 51, gs := bits w.toNat 50 48, base := w, ix := 0, word := w, op := op,
    bad := refusedBy i x w, addr := addr }
/-- The issue of one operation as a native bundle of its own, 16 bytes at the program counter of the core whose turn it
is, no other slot re-issuing. -/
def issueOne (i : Instr) (op : Op) (s : State) : Host.Outcome State Fault Refusal :=
  let c := s.turn
  match encode i with
  | none => .next s
  | some (x, w) =>
    if !s.atIssue c then .next s
    else
      match s.beforeIssue c with
      | (some t, _) => .next t
      | (none, s) =>
        let pc := (s.core c).ctl.pc
        .next (s.issueSlots c { h := pc, len := 16 } [slotOpOf i x w op (pc + 8)])

end Sys2Proof.Machine
end

