-- ==== Sys2Proof/Machine/Scalar.lean ====
section
/-! DEFINITION. Scalar register and immediate operations (R47, R113-R115), `NOP` (R119), `MPW` (R118) and `CHK` (R132). -/
namespace Sys2Proof.Machine

/-- The value of source position i as a scalar. -/
def val (vs : List SrcVal) (i : Nat) : Word := wordN (vs.getD i { val := 0, tag := 31 }).val
/-- A scalar register as a source. -/
def sx6 (n : BitVec 6) : Src := .s n.toNat
/-- An operation that writes one scalar result, of latency class `lat` (R112, R113). -/
def resultOp (srcs : List Src) (sd : BitVec 6) (lat : Nat) (res : List SrcVal → Word) : Op :=
  { srcs := srcs, body := fun _ vs s => .ok s { effs := [.sreg sd.toNat (res vs) lat] } }
/-- Three-register form of R114. -/
def aluOp (f : SR) (srcs : List Src) (lat : Nat) (res : Word → Word → Word → Word) : Op :=
  resultOp srcs f.sd lat fun vs => res (val vs 0) (val vs 1) (val vs 2)
/-- Immediate form of R115. -/
def immOp (f : SI) (res : Word → BitVec 32 → Word) : Op :=
  resultOp [sx6 f.sa] f.sd 1 fun vs => res (val vs 0) f.imm
/-- A 32-bit immediate, sign-extended and zero-extended. -/
def sx (x : BitVec 32) : Word := x.signExtend 64
def zx (x : BitVec 32) : Word := x.zeroExtend 64

/-- Quotients and remainders of R47. -/
def divS (a b : Word) : Word := if b = 0 then BitVec.allOnes 64 else wordI ((sgn a).tdiv (sgn b))
def remS (a b : Word) : Word := if b = 0 then a else wordI ((sgn a).tmod (sgn b))
def divU (a b : Word) : Word := if b = 0 then BitVec.allOnes 64 else a / b
def remU (a b : Word) : Word := if b = 0 then a else a % b
/-- Leading zero bits, and one bits, of the n low bits of a number. -/
def leadingZeros (n x : Nat) : Nat := if x = 0 then n else n - 1 - Nat.log2 x
def onesCount (n x : Nat) : Nat := ((List.range n).filter fun i => bit x i).length

/-- ADD (R114). -/
def opAdd (f : SR) : Op := aluOp f [sx6 f.sa, sx6 f.sb] 1 fun a b _ => a + b
def execAdd (h : Head) (f : SR) (s : State) : Host.Outcome State Fault Refusal := issueOne (.add h f) (opAdd f) s
/-- SUB (R114). -/
def opSub (f : SR) : Op := aluOp f [sx6 f.sa, sx6 f.sb] 1 fun a b _ => a - b
def execSub (h : Head) (f : SR) (s : State) : Host.Outcome State Fault Refusal := issueOne (.sub h f) (opSub f) s
/-- MUL (R114). -/
def opMul (f : SR) : Op := aluOp f [sx6 f.sa, sx6 f.sb] 3 fun a b _ => a * b
def execMul (h : Head) (f : SR) (s : State) : Host.Outcome State Fault Refusal := issueOne (.mul h f) (opMul f) s
/-- MULH (R114). -/
def opMulh (f : SR) : Op := aluOp f [sx6 f.sa, sx6 f.sb] 3 fun a b _ => wordI ((sgn a * sgn b) / (2 ^ 64 : Nat))
def execMulh (h : Head) (f : SR) (s : State) : Host.Outcome State Fault Refusal := issueOne (.mulh h f) (opMulh f) s
/-- MULHN (R114). -/
def opMulhn (f : SR) : Op := aluOp f [sx6 f.sa, sx6 f.sb] 3 fun a b _ => wordN ((a.toNat * b.toNat) / 2 ^ 64)
def execMulhn (h : Head) (f : SR) (s : State) : Host.Outcome State Fault Refusal := issueOne (.mulhn h f) (opMulhn f) s
/-- DIV (R114). -/
def opDiv (f : SR) : Op := aluOp f [sx6 f.sa, sx6 f.sb] 20 fun a b _ => divS a b
def execDiv (h : Head) (f : SR) (s : State) : Host.Outcome State Fault Refusal := issueOne (.div h f) (opDiv f) s
/-- DIVN (R114). -/
def opDivn (f : SR) : Op := aluOp f [sx6 f.sa, sx6 f.sb] 20 fun a b _ => divU a b
def execDivn (h : Head) (f : SR) (s : State) : Host.Outcome State Fault Refusal := issueOne (.divn h f) (opDivn f) s
/-- REM (R114). -/
def opRem (f : SR) : Op := aluOp f [sx6 f.sa, sx6 f.sb] 20 fun a b _ => remS a b
def execRem (h : Head) (f : SR) (s : State) : Host.Outcome State Fault Refusal := issueOne (.rem h f) (opRem f) s
/-- REMN (R114). -/
def opRemn (f : SR) : Op := aluOp f [sx6 f.sa, sx6 f.sb] 20 fun a b _ => remU a b
def execRemn (h : Head) (f : SR) (s : State) : Host.Outcome State Fault Refusal := issueOne (.remn h f) (opRemn f) s
/-- AND (R114). -/
def opAnd (f : SR) : Op := aluOp f [sx6 f.sa, sx6 f.sb] 1 fun a b _ => a &&& b
def execAnd (h : Head) (f : SR) (s : State) : Host.Outcome State Fault Refusal := issueOne (.and h f) (opAnd f) s
/-- OR (R114). -/
def opOr (f : SR) : Op := aluOp f [sx6 f.sa, sx6 f.sb] 1 fun a b _ => a ||| b
def execOr (h : Head) (f : SR) (s : State) : Host.Outcome State Fault Refusal := issueOne (.or h f) (opOr f) s
/-- XOR (R114). -/
def opXor (f : SR) : Op := aluOp f [sx6 f.sa, sx6 f.sb] 1 fun a b _ => a ^^^ b
def execXor (h : Head) (f : SR) (s : State) : Host.Outcome State Fault Refusal := issueOne (.xor h f) (opXor f) s
/-- ANDN (R114). -/
def opAndn (f : SR) : Op := aluOp f [sx6 f.sa, sx6 f.sb] 1 fun a b _ => a &&& ~~~b
def execAndn (h : Head) (f : SR) (s : State) : Host.Outcome State Fault Refusal := issueOne (.andn h f) (opAndn f) s
/-- SHL (R114). -/
def opShl (f : SR) : Op := aluOp f [sx6 f.sa, sx6 f.sb] 1 fun a b _ => a <<< bits b.toNat 5 0
def execShl (h : Head) (f : SR) (s : State) : Host.Outcome State Fault Refusal := issueOne (.shl h f) (opShl f) s
/-- SHR (R114). -/
def opShr (f : SR) : Op := aluOp f [sx6 f.sa, sx6 f.sb] 1 fun a b _ => a >>> bits b.toNat 5 0
def execShr (h : Head) (f : SR) (s : State) : Host.Outcome State Fault Refusal := issueOne (.shr h f) (opShr f) s
/-- SRA (R114). -/
def opSra (f : SR) : Op := aluOp f [sx6 f.sa, sx6 f.sb] 1 fun a b _ => a.sshiftRight (bits b.toNat 5 0)
def execSra (h : Head) (f : SR) (s : State) : Host.Outcome State Fault Refusal := issueOne (.sra h f) (opSra f) s
/-- MIN (R114). -/
def opMin (f : SR) : Op := aluOp f [sx6 f.sa, sx6 f.sb] 1 fun a b _ => if sgn a ≤ sgn b then a else b
def execMin (h : Head) (f : SR) (s : State) : Host.Outcome State Fault Refusal := issueOne (.min h f) (opMin f) s
/-- MAX (R114). -/
def opMax (f : SR) : Op := aluOp f [sx6 f.sa, sx6 f.sb] 1 fun a b _ => if sgn a ≤ sgn b then b else a
def execMax (h : Head) (f : SR) (s : State) : Host.Outcome State Fault Refusal := issueOne (.max h f) (opMax f) s
/-- MINN (R114). -/
def opMinn (f : SR) : Op := aluOp f [sx6 f.sa, sx6 f.sb] 1 fun a b _ => if a ≤ b then a else b
def execMinn (h : Head) (f : SR) (s : State) : Host.Outcome State Fault Refusal := issueOne (.minn h f) (opMinn f) s
/-- MAXN (R114). -/
def opMaxn (f : SR) : Op := aluOp f [sx6 f.sa, sx6 f.sb] 1 fun a b _ => if a ≤ b then b else a
def execMaxn (h : Head) (f : SR) (s : State) : Host.Outcome State Fault Refusal := issueOne (.maxn h f) (opMaxn f) s
/-- SEQ (R114). -/
def opSeq (f : SR) : Op := aluOp f [sx6 f.sa, sx6 f.sb] 1 fun a b _ => if a = b then 1 else 0
def execSeq (h : Head) (f : SR) (s : State) : Host.Outcome State Fault Refusal := issueOne (.seq h f) (opSeq f) s
/-- SNE (R114). -/
def opSne (f : SR) : Op := aluOp f [sx6 f.sa, sx6 f.sb] 1 fun a b _ => if a = b then 0 else 1
def execSne (h : Head) (f : SR) (s : State) : Host.Outcome State Fault Refusal := issueOne (.sne h f) (opSne f) s
/-- SLT (R114). -/
def opSlt (f : SR) : Op := aluOp f [sx6 f.sa, sx6 f.sb] 1 fun a b _ => if sgn a < sgn b then 1 else 0
def execSlt (h : Head) (f : SR) (s : State) : Host.Outcome State Fault Refusal := issueOne (.slt h f) (opSlt f) s
/-- SLTN (R114). -/
def opSltn (f : SR) : Op := aluOp f [sx6 f.sa, sx6 f.sb] 1 fun a b _ => if a < b then 1 else 0
def execSltn (h : Head) (f : SR) (s : State) : Host.Outcome State Fault Refusal := issueOne (.sltn h f) (opSltn f) s
/-- SEL (R114). -/
def opSel (f : SR) : Op := aluOp f [sx6 f.sa, sx6 f.sb, sx6 f.sc] 1 fun a b c => if a ≠ 0 then b else c
def execSel (h : Head) (f : SR) (s : State) : Host.Outcome State Fault Refusal := issueOne (.sel h f) (opSel f) s
/-- CLZ (R114). -/
def opClz (f : SR) : Op := aluOp f [sx6 f.sa] 1 fun a _ _ => wordN (leadingZeros 64 a.toNat)
def execClz (h : Head) (f : SR) (s : State) : Host.Outcome State Fault Refusal := issueOne (.clz h f) (opClz f) s
/-- POPC (R114). -/
def opPopc (f : SR) : Op := aluOp f [sx6 f.sa] 1 fun a _ _ => wordN (onesCount 64 a.toNat)
def execPopc (h : Head) (f : SR) (s : State) : Host.Outcome State Fault Refusal := issueOne (.popc h f) (opPopc f) s

/-- ADDI (R115). -/
def opAddi (f : SI) : Op := immOp f fun a x => a + sx x
def execAddi (h : Head) (f : SI) (s : State) : Host.Outcome State Fault Refusal := issueOne (.addi h f) (opAddi f) s
/-- ANDI (R115). -/
def opAndi (f : SI) : Op := immOp f fun a x => a &&& sx x
def execAndi (h : Head) (f : SI) (s : State) : Host.Outcome State Fault Refusal := issueOne (.andi h f) (opAndi f) s
/-- ORI (R115). -/
def opOri (f : SI) : Op := immOp f fun a x => a ||| zx x
def execOri (h : Head) (f : SI) (s : State) : Host.Outcome State Fault Refusal := issueOne (.ori h f) (opOri f) s
/-- XORI (R115). -/
def opXori (f : SI) : Op := immOp f fun a x => a ^^^ zx x
def execXori (h : Head) (f : SI) (s : State) : Host.Outcome State Fault Refusal := issueOne (.xori h f) (opXori f) s
/-- SHLI (R115). -/
def opShli (f : SI) : Op := immOp f fun a x => a <<< bits x.toNat 5 0
def execShli (h : Head) (f : SI) (s : State) : Host.Outcome State Fault Refusal := issueOne (.shli h f) (opShli f) s
/-- SHRI (R115). -/
def opShri (f : SI) : Op := immOp f fun a x => a >>> bits x.toNat 5 0
def execShri (h : Head) (f : SI) (s : State) : Host.Outcome State Fault Refusal := issueOne (.shri h f) (opShri f) s
/-- SRAI (R115). -/
def opSrai (f : SI) : Op := immOp f fun a x => a.sshiftRight (bits x.toNat 5 0)
def execSrai (h : Head) (f : SI) (s : State) : Host.Outcome State Fault Refusal := issueOne (.srai h f) (opSrai f) s
/-- SLTI (R115). -/
def opSlti (f : SI) : Op := immOp f fun a x => if sgn a < sgn (sx x) then 1 else 0
def execSlti (h : Head) (f : SI) (s : State) : Host.Outcome State Fault Refusal := issueOne (.slti h f) (opSlti f) s
/-- SLTNI (R115). -/
def opSltni (f : SI) : Op := immOp f fun a x => if a < zx x then 1 else 0
def execSltni (h : Head) (f : SI) (s : State) : Host.Outcome State Fault Refusal := issueOne (.sltni h f) (opSltni f) s
/-- LI (R115). -/
def opLi (f : SI) : Op := resultOp [] f.sd 1 fun _ => sx f.imm
def execLi (h : Head) (f : SI) (s : State) : Host.Outcome State Fault Refusal := issueOne (.li h f) (opLi f) s
/-- LIH (R115). -/
def opLih (f : SI) : Op := immOp f fun a x => (zx x <<< 32) ||| (a &&& 0xFFFFFFFF)
def execLih (h : Head) (f : SI) (s : State) : Host.Outcome State Fault Refusal := issueOne (.lih h f) (opLih f) s
/-- ADDX (R115). -/
def opAddx (f : SI) : Op := immOp f fun a x => (a + sx x) &&& 0x00FFFFFFFFFFFFFF
def execAddx (h : Head) (f : SI) (s : State) : Host.Outcome State Fault Refusal := issueOne (.addx h f) (opAddx f) s

/-- NOP (R84, R119): no check, no effect, no weight. -/
def opNop : Op := { nop := true, weight := fun _ _ => 0 }
def execNop (x : Slot) (r : BitVec 56) (s : State) : Host.Outcome State Fault Refusal := issueOne (.nop x r) opNop s
/-- MPW (R118): the register has no clock tag. -/
def opMpw (f : SR) : Op :=
  { srcs := [sx6 f.sa], body := fun _ vs s => .ok s { effs := [.raw (csrMP + f.sd.toNat) (val vs 0)] } }
def execMpw (h : Head) (f : SR) (s : State) : Host.Outcome State Fault Refusal := issueOne (.mpw h f) (opMpw f) s
/-- CHK (R132): DUPMIS with both values (R234). -/
def opChk (f : SR) : Op :=
  { srcs := [sx6 f.sa, sx6 f.sb],
    body := fun _ vs s => if val vs 0 = val vs 1 then .ok s {} else .trap (trap6 cDUPMIS [0, val vs 0, val vs 1]) }
def execChk (h : Head) (f : SR) (s : State) : Host.Outcome State Fault Refusal := issueOne (.chk h f) (opChk f) s

end Sys2Proof.Machine
end

