-- ==== Sys2Proof/Machine/MemOps.lean ====
section
/-! DEFINITION. Memory accesses of the S slot: the checks that every access passes (R116, R169, R252, R276), `LDS`, `STS`
and the atomics (R210, R211). -/
namespace Sys2Proof.Machine

/-- What stops an access: a trap, or, with `none`, a wait for another core's tentative entry (R275). -/
abbrev Stop := Option Trap
def Stop.res : Stop → Res
  | some t => .trap t
  | none => .hold
/-- The access meets a granule that the core has written through the other view of a scratchpad, of those that the checker sees
(R252, R274, R305). -/
def State.crossView (s : State) (c pa n : Nat) : Bool :=
  match placeOf pa with
  | some (.spad _ swz, _) =>
    let k := s.core c
    let rec_ := if swz then k.ctl.writtenLin else k.ctl.writtenSwz
    (s.seenGranules pa n).any fun g => (assoc rec_ g).isSome
  | _ => false
/-- A write counts through its view for the slots behind it in the issue too (R252, R275). -/
def State.noteAccess (s : State) (c pa n : Nat) (acc : Acc) : State :=
  match acc, placeOf pa with
  | .read, _ => s
  | _, some (.spad _ swz, _) => s.noteGranules c swz (granules64 pa n)
  | _, _ => s
/-- The checks of one translated piece: the view rule on a checked page, then `conflict_check` (R252, R276, R281);
`frs` is the detail of a CONFLICT. -/
def State.checkPiece (s : State) (c va : Nat) (p : Page) (pa n : Nat) (acc : Acc) (frs : List Word) : Except Stop State :=
  if p.chk && s.crossView c pa n then .error (some (trap6 cCONFLICT frs))
  else
    match s.conflictCheck c p pa n acc with
    | .ok s => .ok (s.noteAccess c pa n acc)
    | .error .conflict => .error (some (trap6 cCONFLICT frs))
    | .error (.full sl) => .error (some (trap6 cCTFULL [wordN va, wordN sl]))
    | .error .wait => .error none
/-- The checks of every piece, in ascending address. -/
def State.checkPieces (s : State) (c : Nat) (k : AccessKind) (size : Nat) (acc : Acc) (ps : List (Nat × Nat × Page)) :
    Except Stop State :=
  ps.foldl (fun r (b, m, p) =>
    match r with
    | .error e => .error e
    | .ok s => s.checkPiece c b p (servedPa c p) m acc (accessFrs cCONFLICT b k size)) (.ok s)
/-- A range of virtual memory translates, with the permission its access needs (R116, R169, R335). -/
def State.reachPages (s : State) (c va n : Nat) (k : AccessKind) (size : Nat) : Except Stop (List (Nat × Nat × Page)) :=
  match s.translateAll (s.ctxOf c) va n k with
  | .error (e, b) => .error (some (trap6 e (accessFrs e b k size)))
  | .ok ps => .ok ps
/-- An access of n bytes passes its checks: its pages, and the state with its conflict entries. -/
def State.reach (s : State) (c va n : Nat) (k : AccessKind) (size : Nat) (acc : Acc) :
    Except Stop (List (Nat × Nat × Page) × State) :=
  match s.reachPages c va n k size with
  | .error e => .error e
  | .ok ps =>
    match s.checkPieces c k size acc ps with
    | .error e => .error e
    | .ok s => .ok (ps, s)
/-- ALIGN at an address (R234). -/
def alignTrap (va : Nat) (k : AccessKind) (size : Nat) : Trap := trap6 cALIGN (accessFrs cALIGN va k size)
/-- Pages of an access that are not the core's local memory (R117). -/
def remotePieces (c : Nat) (ps : List (Nat × Nat × Page)) : List (Nat × Nat × Page) :=
  ps.filter fun q => !isLocal c (servedPa c q.2.2)
/-- Remote memory is accessed in program order: bytes that an earlier slot of the same issue stores replace those that
the load read (R117, R169); what an atomic, a `CPYQ` or a store to
the presented aperture of an earlier slot leaves there is seen at the commit, by `Eff.again`. -/
def overlay (c : Nat) (earlier : List Eff) (va : Nat) (ps : List (Nat × Nat × Page)) (v : Nat) : Nat :=
  (remotePieces c ps).foldl (fun v (b, m, p) =>
    let pa := servedPa c p
    earlier.foldl (fun v e =>
      match e with
      | .store cs _ _ _ => cs.foldl (fun v q =>
          if pa ≤ q.1 && q.1 < pa + m then
            let i := b - va + (q.1 - pa)
            setBits v (8 * i + 7) (8 * i) q.2.toNat
          else v) v
      | _ => v) v) v
/-- The value of a load that has passed its checks. -/
def State.loadFor (s : State) (x : Ctx) (va n : Nat) (ps : List (Nat × Nat × Page)) (by_ na : Bool) : Nat × State :=
  let (v, s) := s.loadValue x.c va n ps by_ na
  (overlay x.c x.earlier va ps v, s)
/-- The latches of its cluster to whose handoff pages an access goes (R204). -/
def latchesOf (c : Nat) (ps : List (Nat × Nat × Page)) : List Nat :=
  (ps.filterMap fun (_, _, p) => p.latch.map (clusterOf c * 256 + ·)).eraseDups
/-- The cells that an effect stores into the presented aperture. -/
def Eff.presented : Eff → List (Nat × Byte)
  | .store cs _ _ _ => match cs.head?.bind fun q => placeOf q.1 with | some (.aperture, _) => cs | _ => []
  | _ => []
/-- One store meets each block of a format region once, with all its bytes (R262). DESIGN CHOICE (log 48): so does a `SCAT`, whose lanes
perform in ascending order (R172); the spec does not say whether a block is re-quantised once with all its lanes or once for each. -/
def mergePresented (es : List Eff) : List Eff :=
  let cs := es.flatMap Eff.presented
  if cs.isEmpty then es else .store cs 0 0 none :: es.filter fun e => e.presented.isEmpty
/-- The effects of a store that has passed its checks: n bytes of `v`; a remote one is in flight (R116, R117, R169). -/
def storeEffs (c va n v : Nat) (ps : List (Nat × Nat × Page)) (by_ na : Bool) : List Eff :=
  let rem := remotePieces c ps
  mergePresented (ps.map fun (b, m, p) => Eff.store (cellsOf (servedPa c p) m (v >>> (8 * (b - va)))) (storeMode p by_ na) p.evp p.latch) ++
  (if rem.isEmpty then [] else
    [.sent ((rem.flatMap fun (_, m, p) =>
        let pa := servedPa c p
        (List.range ((pa % 128 + m + 127) / 128)).map (pa / 128 + ·)).eraseDups)
      (rem.any fun (_, _, p) => isHost p.pa) (latchesOf c rem) false]) ++ [.over va n]
/-- What an access from `ea` reads: physical address, bytes, offset in its data (R246). -/
def sourcesOf (c ea : Nat) (ps : List (Nat × Nat × Page)) : List (Nat × Nat × Nat) := ps.map fun q => (servedPa c q.2.2, q.2.1, q.1 - ea)
/-- A scalar result of a load, extended. -/
def loadEffs (c ea : Nat) (sd : BitVec 6) (v : Word) (ps : List (Nat × Nat × Page)) : List Eff :=
  if (remotePieces c ps).isEmpty then [.sreg sd.toNat v 1] else [.load (.sreg sd.toNat) v.toNat (sourcesOf c ea ps)]
/-- Effective address of `LDS` and `STS` (R116). -/
def scalarAddr (k : Core) (x : Ctx) (base : Word) (f : SI) : Nat :=
  (wordI (sgn base + sgn (sx f.imm) + k.addrStep x.slot x.ix)).toNat

/-- LDS (R116, R117). -/
def opLds (f : SI) : Op :=
  { srcs := [sx6 f.sa],
    body := fun x vs s =>
      let size := bits f.fn.toNat 3 2
      let n := 2 ^ size
      let ea := scalarAddr (s.core x.c) x (val vs 0) f
      if ea % n ≠ 0 then .trap (alignTrap ea .read size)
      else
        match s.reach x.c ea n .read size .read with
        | .error e => e.res
        | .ok (ps, s) =>
          let (v, s) := s.loadFor x ea n ps false false
          let v := if bit f.fn.toNat 1 then wordI (sextN v (8 * n)) else wordN v
          .ok s { effs := loadEffs x.c ea f.sd v ps } }
def execLds (h : Head) (f : SI) (s : State) : Host.Outcome State Fault Refusal := issueOne (.lds h f) (opLds f) s
/-- STS (R116, R117). -/
def opSts (f : SI) : Op :=
  { srcs := [sx6 f.sd, sx6 f.sa],
    body := fun x vs s =>
      let size := bits f.fn.toNat 3 2
      let n := 2 ^ size
      let ea := scalarAddr (s.core x.c) x (val vs 1) f
      if ea % n ≠ 0 then .trap (alignTrap ea .write size)
      else
        match s.reach x.c ea n .write size .write with
        | .error e => e.res
        | .ok (ps, s) => .ok s { effs := storeEffs x.c ea n ((val vs 0).toNat % 2 ^ (8 * n)) ps false false } }
def execSts (h : Head) (f : SI) (s : State) : Host.Outcome State Fault Refusal := issueOne (.sts h f) (opSts f) s

/-- An atomic (R210, R211): `red`, a reduction atomic of R276; `ret`, one that returns the old value. -/
def atomicOp (opc : Nat) (red ret : Bool) (f : SR) (srcs : List Src) : Op :=
  { srcs := srcs,
    body := fun x vs s =>
      let fn := f.fn.toNat
      let size := bits fn 1 0
      let w := 2 ^ size
      let ea := (val vs 0).toNat
      if ea % w ≠ 0 then .trap (alignTrap ea .atomic size)
      else
        match s.reach x.c ea w .atomic size (if red then .red opc (bits fn 4 2) size else .write) with
        | .error e => e.res
        | .ok (ps, s) =>
          match ps with
          | (_, _, p) :: _ =>
            let s := if p.chk then s else s.copyMix x.c ea w
            .ok s { effs := [.atomic opc (servedPa x.c p) w (val vs 1) (val vs 2) (if ret then .sreg f.sd.toNat else .none)
                (bits fn 7 5) (!isLocal x.c (servedPa x.c p)), .over ea w] ++ if ret then [.txp] else [] }
          | [] => .ok s {} }
/-- AADD (R210, R211). -/
def opAadd (f : SR) : Op := atomicOp 0x70 true false f [sx6 f.sa, sx6 f.sb]
def execAadd (h : Head) (f : SR) (s : State) : Host.Outcome State Fault Refusal := issueOne (.aadd h f) (opAadd f) s
/-- AMIN (R210, R211). -/
def opAmin (f : SR) : Op := atomicOp 0x71 true false f [sx6 f.sa, sx6 f.sb]
def execAmin (h : Head) (f : SR) (s : State) : Host.Outcome State Fault Refusal := issueOne (.amin h f) (opAmin f) s
/-- AMAX (R210, R211). -/
def opAmax (f : SR) : Op := atomicOp 0x72 true false f [sx6 f.sa, sx6 f.sb]
def execAmax (h : Head) (f : SR) (s : State) : Host.Outcome State Fault Refusal := issueOne (.amax h f) (opAmax f) s
/-- AAND (R210, R211). -/
def opAand (f : SR) : Op := atomicOp 0x73 true false f [sx6 f.sa, sx6 f.sb]
def execAand (h : Head) (f : SR) (s : State) : Host.Outcome State Fault Refusal := issueOne (.aand h f) (opAand f) s
/-- AOR (R210, R211). -/
def opAor (f : SR) : Op := atomicOp 0x74 true false f [sx6 f.sa, sx6 f.sb]
def execAor (h : Head) (f : SR) (s : State) : Host.Outcome State Fault Refusal := issueOne (.aor h f) (opAor f) s
/-- AXOR (R210, R211). -/
def opAxor (f : SR) : Op := atomicOp 0x75 true false f [sx6 f.sa, sx6 f.sb]
def execAxor (h : Head) (f : SR) (s : State) : Host.Outcome State Fault Refusal := issueOne (.axor h f) (opAxor f) s
/-- AADDR (R210, R211). -/
def opAaddr (f : SR) : Op := atomicOp 0x76 false true f [sx6 f.sa, sx6 f.sb]
def execAaddr (h : Head) (f : SR) (s : State) : Host.Outcome State Fault Refusal := issueOne (.aaddr h f) (opAaddr f) s
/-- AXCH (R210, R211). -/
def opAxch (f : SR) : Op := atomicOp 0x77 false true f [sx6 f.sa, sx6 f.sb]
def execAxch (h : Head) (f : SR) (s : State) : Host.Outcome State Fault Refusal := issueOne (.axch h f) (opAxch f) s
/-- ACAS (R210, R211). -/
def opAcas (f : SR) : Op := atomicOp 0x78 false true f [sx6 f.sa, sx6 f.sb, sx6 f.sc]
def execAcas (h : Head) (f : SR) (s : State) : Host.Outcome State Fault Refusal := issueOne (.acas h f) (opAcas f) s

end Sys2Proof.Machine
end

