-- ==== Sys2Proof/Machine/Control.lean ====
section
/-! DEFINITION. Transfers of control (R75, R89, R120, R121), the modulo loop (R122-R124), yield and end (R126, R127). -/
namespace Sys2Proof.Machine

/-- The check of R75 on a transfer's target: header mark, accepted kinds, and for a call pad its signature. -/
def State.checkTarget (s : State) (c target : Nat) (kinds : List Nat) (sig : Option Nat) : Except Trap Unit :=
  if target % 8 ≠ 0 then .error (trap6 cCFI [wordN target, 0])
  else
    match s.fetchWord c target with
    | .error e => .error (trap6 e (accessFrs e target .fetch 3))
    | .ok w =>
      let n := w.toNat
      if bits n 63 60 = 0xF ∧ bits n 59 56 ∈ kinds ∧ (sig = none ∨ sig = some (bits n 31 0)) then .ok ()
      else .error (trap6 cCFI [wordN target, w])
/-- A taken transfer with its other effects (R120). -/
def State.goTo (s : State) (c target : Nat) (kinds : List Nat) (sig : Option Nat) (effs : List Eff) : Res :=
  match s.checkTarget c target kinds sig with
  | .error t => .trap t
  | .ok _ => .ok s { effs := effs, jump := some target }
/-- Header kinds that a direct transfer accepts. -/
def anyKind : List Nat := [0, 1, 2, 3, 4, 5]
/-- H + sext(imm, 32) × 8 (R89). -/
def directTarget (fr : Frame) (f : BR) : Nat := truncI ((fr.h : Int) + sgn (sx f.imm) * 8) 64
/-- Target of a native `CALL` (R89): bits 47:32 count 64-byte units from H rounded down. -/
def callTarget (fr : Frame) (f : BR) : Nat :=
  truncI (((fr.h / 64 * 64 : Nat) : Int) + sextN (f.sa.toNat * 1024 + f.cc.toNat * 128 + f.ex.toNat) 16 * 64) 64
/-- The condition of `BR` (R89). -/
def condition (cc : BitVec 3) (a : Int) : Bool :=
  match cc.toNat with
  | 0 => decide (a = 0) | 1 => decide (a ≠ 0) | 2 => decide (a < 0) | 3 => decide (0 ≤ a) | 4 => decide (a ≤ 0) | _ => decide (0 < a)
/-- The link s63 := H + B. -/
def linkEff (fr : Frame) : Eff := .sreg 63 (wordN (fr.h + fr.len)) 1

/-- BR (R121). -/
def opBr (f : BR) : Op :=
  { srcs := [sx6 f.sa], transfer := true,
    body := fun x vs s =>
      if condition f.cc (sgn (val vs 0)) then s.goTo x.c (directTarget x.fr f) anyKind none [] else .ok s {} }
def execBr (h : Head) (f : BR) (s : State) : Host.Outcome State Fault Refusal := issueOne (.br h f) (opBr f) s
/-- JMP (R121). -/
def opJmp (f : BR) : Op :=
  { transfer := true, body := fun x _ s => s.goTo x.c (directTarget x.fr f) anyKind none [] }
def execJmp (h : Head) (f : BR) (s : State) : Host.Outcome State Fault Refusal := issueOne (.jmp h f) (opJmp f) s
/-- JMPR (R121). -/
def opJmpr (f : BR) : Op :=
  { srcs := [sx6 f.sa], transfer := true, body := fun x vs s => s.goTo x.c (val vs 0).toNat [1] none [] }
def execJmpr (h : Head) (f : BR) (s : State) : Host.Outcome State Fault Refusal := issueOne (.jmpr h f) (opJmpr f) s
/-- CALL (R121). -/
def opCall (f : BR) : Op :=
  { transfer := true,
    body := fun x _ s => s.goTo x.c (callTarget x.fr f) [2] (some f.imm.toNat) [linkEff x.fr] }
def execCall (h : Head) (f : BR) (s : State) : Host.Outcome State Fault Refusal := issueOne (.call h f) (opCall f) s
/-- CALLR (R121): the target is read before the link is written. -/
def opCallr (f : BR) : Op :=
  { srcs := [sx6 f.sa], transfer := true,
    body := fun x vs s => s.goTo x.c (val vs 0).toNat [2] (some f.imm.toNat) [linkEff x.fr] }
def execCallr (h : Head) (f : BR) (s : State) : Host.Outcome State Fault Refusal := issueOne (.callr h f) (opCallr f) s
/-- RET (R121). -/
def opRet (_ : BR) : Op :=
  { srcs := [.s 63], transfer := true, body := fun x vs s => s.goTo x.c (val vs 0).toNat [3] none [] }
def execRet (h : Head) (f : BR) (s : State) : Host.Outcome State Fault Refusal := issueOne (.ret h f) (opRet f) s

/-- `lpset(N, S)` of R123: LC, then PRD. -/
def lpset (n st : Nat) : Word × Word :=
  (wordN (st <<< 61 + if n = 0 then 0 else min (n + st - 1) (2 ^ 61 - 1)), if n = 0 then 0 else 2)
/-- LPSET (R123). -/
def opLpset (f : BR) : Op :=
  { srcs := [sx6 f.sa],
    body := fun _ vs s =>
      let r := lpset (val vs 0).toNat (bits f.ex.toNat 2 0)
      .ok s { effs := [.raw csrLC r.1, .raw csrPRD r.2] } }
def execLpset (h : Head) (f : BR) (s : State) : Host.Outcome State Fault Refusal := issueOne (.lpset h f) (opLpset f) s
/-- The rotation of `loop(target)` (R124): new LC, bases and predicates of a pass that goes round again. -/
def rotate (k : Core) : List Eff :=
  let st := k.csrBits csrLC 63 61
  let p := k.csrBits csrLC 60 0 - 1
  [.raw csrLC (wordN (st <<< 61 + p))] ++
  ((List.range 8).map fun i => Eff.raw (csrB + i) (k.csr (csrB + (i + 7) % 8))) ++
  [.raw csrPRD (wordN ((k.csr csrPRD).toNat * 2 % 256 / 4 * 4 + if st < p + 1 then 2 else 0))]
/-- LOOP (R124). -/
def opLoop (f : BR) : Op :=
  { transfer := true,
    body := fun x _ s =>
      let k := s.core x.c
      if k.csrBits csrLC 60 0 ≤ 1 then
        .ok s { effs := [.raw csrLC (wordN (k.csrBits csrLC 63 61 <<< 61)), .raw csrPRD 0] }
      else s.goTo x.c (directTarget x.fr f) anyKind none (rotate k) }
def execLoop (h : Head) (f : BR) (s : State) : Host.Outcome State Fault Refusal := issueOne (.loop h f) (opLoop f) s
/-- YLD (R126): its effect stands at the commit. -/
def opYld (_ : BR) : Op := { body := fun _ _ s => .ok s { effs := [.yld] } }
def execYld (h : Head) (f : BR) (s : State) : Host.Outcome State Fault Refusal := issueOne (.yld h f) (opYld f) s
/-- END (R127): its effect stands at the commit. -/
def opEndOp (_ : BR) : Op := { body := fun _ _ s => .ok s { effs := [.endOp] } }
def execEndOp (h : Head) (f : BR) (s : State) : Host.Outcome State Fault Refusal := issueOne (.endOp h f) (opEndOp f) s

end Sys2Proof.Machine
end

