-- ==== Sys2Proof/Machine/System.lean ====
section
/-! DEFINITION. Register access (R55, R128, R129, R358), `TRAP` (R130), `ERET` (R131) and `TBR` (R133). -/
namespace Sys2Proof.Machine

/-- The cycle counters (R358): the registers marked T, and CPWM. -/
def isCycleCounter (n : Nat) : Bool :=
  n == csrCPWM || (decide (0x100 ≤ n) && n != csrPMEV)
/-- Flags that are still to be ORed hold an access to FPST (R55). -/
def State.flagsOwed (s : State) (c : Nat) : Bool :=
  let k := s.core c
  (k.flights.any fun f => match f.what with | .vres _ _ _ _ _ _ => true | _ => false) ||
  k.mx.entries.any fun e => e.zero.isNone
/-- What holds a register access. -/
def csrHeld (f : XF) (s : State) (c : Nat) : Bool := f.csr.toNat == csrFPST && s.flagsOwed c
/-- CSRR (R129). -/
def opCsrr (f : XF) : Op :=
  { pends := csrHeld f,
    body := fun x _ s =>
      .ok s { effs := [.sreg f.sd.toNat (s.readCsr x.c f.csr.toNat) 1] ++ if isCycleCounter f.csr.toNat then [.txp] else [] } }
def execCsrr (h : Head) (f : XF) (s : State) : Host.Outcome State Fault Refusal := issueOne (.csrr h f) (opCsrr f) s
/-- A register write (R128, R129). -/
def csrWrite (k : CsrOp) (f : XF) : Op :=
  { srcs := [sx6 f.sa], pends := csrHeld f,
    body := fun x vs s =>
      match (s.core x.c).csrRefused k f.csr.toNat (val vs 0) with
      | some cause => .trap (if cause = cILLOP then x.illop else trap6 cause [])
      | none => .ok s { effs := [.csr k f.csr.toNat (val vs 0)] } }
/-- CSRW (R129). -/
def opCsrw (f : XF) : Op := csrWrite .write f
def execCsrw (h : Head) (f : XF) (s : State) : Host.Outcome State Fault Refusal := issueOne (.csrw h f) (opCsrw f) s
/-- CSRS (R129). -/
def opCsrs (f : XF) : Op := csrWrite .set f
def execCsrs (h : Head) (f : XF) (s : State) : Host.Outcome State Fault Refusal := issueOne (.csrs h f) (opCsrs f) s
/-- CSRC (R129). -/
def opCsrc (f : XF) : Op := csrWrite .clear f
def execCsrc (h : Head) (f : XF) (s : State) : Host.Outcome State Fault Refusal := issueOne (.csrc h f) (opCsrc f) s
/-- TRAP (R130): the bundle commits, and SWTRAP follows. -/
def opTrap (f : XF) : Op := { body := fun _ _ s => .ok s { effs := [.trap f.imm.toNat] } }
def execTrap (h : Head) (f : XF) (s : State) : Host.Outcome State Fault Refusal := issueOne (.trap h f) (opTrap f) s
/-- ERET (R131): PERM outside a handler; the target check of R75 on TEPC, which accepts every header kind. -/
def opEret (_ : XF) : Op :=
  { body := fun x _ s =>
      if !(s.core x.c).handler then .trap (trap6 cPERM [])
      else
        match s.checkTarget x.c (bundleAddr ((s.core x.c).csr csrTEPC).toNat) anyKind none with
        | .error t => .trap t
        | .ok _ => .ok s { effs := [.eret] } }
def execEret (h : Head) (f : XF) (s : State) : Host.Outcome State Fault Refusal := issueOne (.eret h f) (opEret f) s
/-- TBR (R133). -/
def opTbr (f : XF) : Op := { body := fun _ _ s => .ok s { effs := [.sreg f.sd.toNat (wordN s.now) 1, .txp] } }
def execTbr (h : Head) (f : XF) (s : State) : Host.Outcome State Fault Refusal := issueOne (.tbr h f) (opTbr f) s

end Sys2Proof.Machine
end

