-- ==== Sys2Proof/Machine/VecOps.lean ====
section
/-! DEFINITION. What the vector operations share: format pairs (R136, R137), `vout`, elementwise evaluation (R134, R138),
and the one operation that computes a vector and writes it. -/
namespace Sys2Proof.Machine

/-- A format pair (R136). -/
structure Pair where
  a : Fmt
  d : Fmt
  rm : Nat
  sat : Bool
  deriving DecidableEq, Repr
/-- The pair that a field fp names in a unit. -/
def Core.pair (k : Core) (x : Slot) (fp : BitVec 2) : Pair :=
  let w := bits (k.csr (csrVCF + if x = .v1 then 1 else 0)).toNat (16 * fp.toNat + 15) (16 * fp.toNat)
  { a := fmtOf (bits w 15 10), d := fmtOf (bits w 9 4), rm := bits w 3 2, sat := bit w 1 }
/-- Largest magnitude of a format, and the exponent of its smallest positive value. -/
def topOf : Fmt → XVal
  | .int sg w => XVal.ofInt (intMax sg w)
  | f => f.value f.shape.top
def quantumOf : Fmt → Int
  | .int .. => 0
  | f => f.shape.emin - (f.shape.prec - 1 : Nat)
/-- Significant bits that the values of a format may need. -/
def precisionOf : Fmt → Nat
  | .int sg w => if sg then 8 * w - 1 else 8 * w
  | f => f.shape.prec
def signedOf : Fmt → Bool
  | .int sg _ => sg
  | f => f.shape.signed
/-- D cannot represent every value of A (R56, R137). -/
def narrowing (a d : Fmt) : Bool :=
  match a, d with
  | .int sg w, .int sg' w' => decide (intMin sg w < intMin sg' w') || decide (intMax sg' w' < intMax sg w)
  | a, .int _ _ => a.isFloat
  | a, d =>
    decide (precisionOf d < precisionOf a) || decide (quantumOf a < quantumOf d) || (topOf d).lt (topOf a) || (signedOf a && !signedOf d) ||
    (a.isFloat && a.shape.inf && !d.shape.inf)
/-- The rounding mode of a V2 operation (R137). -/
def modeOf (p : Pair) (rm : BitVec 3) : Nat := if rm = 0 then p.rm else rm.toNat - 1
/-- SATON of a V2 and of a V3 operation (R137). -/
def satV2 (p : Pair) (fn : BitVec 5) : Bool := narrowing p.a p.d && bit fn.toNat 4
def satV3 (p : Pair) : Bool := narrowing p.a p.d && p.sat
/-- `vout` of a floating value (R137). -/
def voutF (d : Fmt) (sat : Bool) (mode : Nat) (x : XVal) : Nat × Flags :=
  if sat then satF d mode x else ovf d mode x
/-- `vout` of an exact integer, to either kind of format (R137). -/
def voutI (d : Fmt) (sat : Bool) (mode : Nat) (x : Int) : Nat × Flags :=
  match d with
  | .int sg w => intOut sat sg w x
  | d => voutF d sat mode (XVal.ofInt x)
/-- Class F and class I of R137. -/
def Pair.classF (p : Pair) : Bool := p.a.isFloat && p.d.isFloat
def Pair.classI (p : Pair) : Bool := !p.a.isFloat && !p.d.isFloat
/-- An integer lane, read by the signedness of its format. -/
def readAs (f : Fmt) (c : Nat) : Int := match f with | .int sg w => readInt sg w c | _ => (c : Int)

/-- Lane i, of w bytes, of a vector held as a number. -/
def laneN (v w i : Nat) : Nat := (v >>> (8 * w * i)) % 2 ^ (8 * w)
/-- A vector of n lanes of w bytes, the bytes above them zero, with the flags of all lanes (R134, R138). -/
def lanesOf (w n : Nat) (g : Nat → Nat × Flags) : Nat × Flags :=
  let r := (List.range n).map g
  (ofLanes w (r.map Prod.fst), r.foldl (fun f x => f ||| x.2) 0)
/-- Lanes of an elementwise operation (R137). -/
def Pair.count (p : Pair) : Nat := 128 / max p.a.wid p.d.wid

/-- Weights by width (R372); 16 stands for an operation that uses no format. -/
def widthWeight : Nat → Nat
  | 8 => 6 | 4 => 4 | 2 => 3 | 1 => 2 | _ => 4
def weightAD (fp : BitVec 2) (x : Slot) (k : Core) : Nat :=
  let p := k.pair x fp
  widthWeight (max p.a.wid p.d.wid)
def weightA (fp : BitVec 2) (x : Slot) (k : Core) : Nat := widthWeight (k.pair x fp).a.wid
def weightD (fp : BitVec 2) (x : Slot) (k : Core) : Nat := widthWeight (k.pair x fp).d.wid
def weight16 (_ : Slot) (_ : Core) : Nat := 4

/-- A vector source (R85, R134). -/
def vsrc (f : BitVec 12) (hold : BitVec 1) : Src := .v f.toNat 128 (hold == 1)
/-- vc of a V3 operation: an index in the view of vb (R90). -/
def vcsrc (f : V3) : Src := .v (f.vb.toNat / 512 * 512 + f.vc.toNat) 128 false
/-- A scalar source in a 12-bit position. -/
def ssrc (f : BitVec 12) : Src := .s (bits f.toNat 5 0)
/-- The value of source position i, as a number. -/
def vval (vs : List SrcVal) (i : Nat) : Nat := (vs.getD i { val := 0, tag := 31 }).val
/-- Write a vector result, readable after its class latency, its flags with it (R112, R138). -/
def writeVec (x : Ctx) (vd : BitVec 12) (lat : Nat) (r : Nat × Flags) (s : State) : Res :=
  withDst ((s.core x.c).resolve vd.toNat 128 true x.rx 0) fun a =>
    .ok s { effs := [.vres a (BitVec.ofNat 1024 r.1) lat r.2 (x.slot.ix - 1)] }
/-- An operation that computes a vector and writes it. -/
def vecOp (vd : BitVec 12) (srcs : List Src) (lat : Nat) (weight : Slot → Core → Nat) (illop : Slot → Core → Bool)
    (eval : Core → Ctx → List SrcVal → Nat × Flags) : Op :=
  { srcs := srcs, dsts := [(vd.toNat, 128)], weight := weight, illop := illop,
    body := fun x vs s => writeVec x vd lat (eval (s.core x.c) x vs) s }

end Sys2Proof.Machine
end

