-- ==== Sys2Proof/Machine/Clocks.lean ====
section
/-! DEFINITION. Clocks and streams: definition and evaluation of clocks (R187, R188), sampling and merging (R189-R191),
delay cells and the end of an instant (R192-R195). -/
namespace Sys2Proof.Machine

/-- The stage predicate of a word holds (R16). -/
def Ctx.staged (x : Ctx) (k : Core) : Bool := k.pred (bits x.word.toNat 50 48)
/-- The clock table word that `CLKD` writes (R187, R334). -/
def clkdWord (sa : BitVec 6) (imm : Nat) : Nat :=
  match bits imm 23 22 with
  | 0 => 1 <<< 30 + bits imm 16 9 <<< 20 + bits imm 8 1 <<< 12
  | 1 => 2 <<< 30 + bits imm 16 12 <<< 23 + sa.toNat <<< 17 + bits imm 11 11 <<< 16
  | _ => 3 <<< 30 + bits imm 16 12 <<< 23 + bits imm 11 7 <<< 18
/-- CLKD (R187). -/
def opClkd (f : XF) : Op :=
  { body := fun _ _ s => .ok s { effs := [.clkd (bits f.imm.toNat 21 17) (clkdWord f.sa f.imm.toNat)] } }
def execClkd (h : Head) (f : XF) (s : State) : Host.Outcome State Fault Refusal := issueOne (.clkd h f) (opClkd f) s
/-- The clock check of `CLKE` (R188): the parent is known, and the register's tag is the parent or k31. -/
def clkeClock (n : Nat) (s : State) (x : Ctx) (present : Bool) : Option (Nat × Nat × Nat) :=
  let k := s.core x.c
  let w := k.clock n
  if bits w 31 30 ≠ 2 then none
  else
    let p := bits w 27 23
    let t := k.stag (bits w 22 17)
    if present && x.staged k && (k.present p).isNone then some (cCLKUNK, 0, 0)
    else if t ≠ 31 ∧ t ≠ p then some (cCLKMIS, 0, t) else none
/-- CLKE (R188). -/
def opClke (f : XF) : Op :=
  let n := bits f.imm.toNat 4 0
  { pends := fun s c => let w := (s.core c).clock n; bits w 31 30 == 2 && (s.core c).pendingS (bits w 22 17),
    clock := some fun s x _ p => clkeClock n s x p,
    body := fun x _ s =>
      let k := s.core x.c
      let w := k.clock n
      if n = 0 ∨ n = 31 ∨ bits w 31 30 ≠ 2 then .trap x.illop
      else if bit w 29 then .ok s {}
      else
        let pol := bits w 16 16
        let v := (k.present (bits w 27 23)).getD false && decide ((k.sreg (bits w 22 17)).toNat % 2 = pol)
        .ok s { effs := [.clke n v] } }
def execClke (h : Head) (f : XF) (s : State) : Host.Outcome State Fault Refusal := issueOne (.clke h f) (opClke f) s

/-- Copy a vector source to the destination (R189-R191). -/
def moveVec (x : Ctx) (vd : BitVec 12) (v : Nat) (s : State) : Res := writeVec x vd 2 (v, 0) s
/-- WHEN (R189): the source's tag is k31, or a clock of which the guard is a sub-clock. -/
def opWhen (f : V2) : Op :=
  { srcs := [vsrc f.va f.ha], dsts := [(f.vd.toNat, 128)], weight := weight16,
    clock := some fun s x vs _ =>
      let t := (vs.getD 0 { val := 0, tag := 31 }).tag
      if t ≤ 31 ∧ subClock (s.core x.c) 32 x.g t then none else some (cCLKMIS, 0, offending x.g t),
    body := fun x vs s => moveVec x f.vd (vval vs 0) s }
def execWhen (h : Head) (f : V2) (s : State) : Host.Outcome State Fault Refusal := issueOne (.when h f) (opWhen f) s
/-- The tag of a merged source is k31, or an ON clock whose parent is the guard, of polarity `pol` (R190). -/
def mergeOk (k : Core) (g t pol : Nat) : Bool :=
  t == 31 || (decide (t < 31) && bits (k.clock t) 31 30 == 2 && bits (k.clock t) 27 23 == g && bits (k.clock t) 16 16 == pol)
/-- A tag names an ON clock that is not known. -/
def unknownOn (k : Core) (t : Nat) : Bool := decide (t < 31) && bits (k.clock t) 31 30 == 2 && !bit (k.clock t) 29
/-- MRG (R190). DESIGN CHOICE (log 48): an ON clock that is not known is CLKUNK whether the guard is present or not. -/
def opMrg (f : V3) : Op :=
  let tag := fun (vs : List SrcVal) (i : Nat) => (vs.getD i { val := 0, tag := 31 }).tag
  { srcs := [vsrc f.va f.ha, .v f.vb.toNat 128 false, .s (bits f.vc.toNat 5 0)], dsts := [(f.vd.toNat, 128)], weight := weight16,
    clock := some fun s x vs _ =>
      let k := s.core x.c
      let t := tag vs
      if unknownOn k (t 0) then some (cCLKUNK, 0, t 0)
      else if unknownOn k (t 1) then some (cCLKUNK, 1, t 1)
      else if t 2 ≠ 31 ∧ t 2 ≠ x.g then some (cCLKMIS, 2, t 2)
      else if !mergeOk k x.g (t 0) 1 then some (cCLKMIS, 0, offending x.g (t 0))
      else if !mergeOk k x.g (t 1) 0 then some (cCLKMIS, 1, offending x.g (t 1))
      else none,
    body := fun x vs s =>
      let i := if bit (vval vs 2) 0 then 0 else 1
      let t := tag vs i
      if t ≠ 31 ∧ (s.core x.c).present t ≠ some true then
        .trap (trap6 cCLKMIS [wordN (x.g + t <<< 8 + i <<< 16), x.word])
      else moveVec x f.vd (vval vs i) s }
def execMrg (h : Head) (f : V3) (s : State) : Host.Outcome State Fault Refusal := issueOne (.mrg h f) (opMrg f) s
/-- PMRG (R191): the guard is the union of both tags; where both are present va wins. -/
def opPmrg (f : V2) : Op :=
  let tag := fun (vs : List SrcVal) (i : Nat) => (vs.getD i { val := 0, tag := 31 }).tag
  { srcs := [vsrc f.va f.ha, vsrc f.vb f.hb], dsts := [(f.vd.toNat, 128)], weight := weight16,
    clock := some fun s x vs _ =>
      let w := (s.core x.c).clock x.g
      let a := bits w 27 23
      let b := bits w 22 18
      let m := fun (t u : Nat) => t == 31 || t == u
      if bits w 31 30 = 3 ∧ ((m (tag vs 0) a && m (tag vs 1) b) || (m (tag vs 0) b && m (tag vs 1) a)) then none
      else
        let i := if m (tag vs 0) a || m (tag vs 0) b then 1 else 0
        some (cCLKMIS, i, offending x.g (tag vs i)),
    body := fun x vs s =>
      let t := tag vs 0
      let i := if t = 31 ∨ (s.core x.c).present t = some true then 0 else 1
      moveVec x f.vd (vval vs i) s }
def execPmrg (h : Head) (f : V2) (s : State) : Host.Outcome State Fault Refusal := issueOne (.pmrg h f) (opPmrg f) s

/-- DLYR (R194): the cell is a source that carries its bound clock. -/
def opDlyr (f : SR) : Op := resultOp [.cell f.sa.toNat] f.sd 1 fun vs => val vs 0
def execDlyr (h : Head) (f : SR) (s : State) : Host.Outcome State Fault Refusal := issueOne (.dlyr h f) (opDlyr f) s
/-- DLYW (R193): a cell bound to another clock is CLKMIS. -/
def opDlyw (f : SR) : Op :=
  { srcs := [.absent, sx6 f.sb],
    clock := some fun s x vs p =>
      match tagCheck x.g vs with
      | some e => some e
      | none =>
        let k := s.core x.c
        match (k.cell f.sa.toNat).clock with
        | some b => if p && x.staged k && b != x.g then some (cCLKMIS, 0, b) else none
        | none => none,
    body := fun _ vs s => .ok s { effs := [.dlyw f.sa.toNat (val vs 1)] } }
def execDlyw (h : Head) (f : SR) (s : State) : Host.Outcome State Fault Refusal := issueOne (.dlyw h f) (opDlyw f) s
/-- INST (R195): the clock of every bound cell is evaluated. -/
def opInst (_ : XF) : Op :=
  { clock := some fun s x _ p =>
      let k := s.core x.c
      if !(p && x.staged k) then none
      else
        match k.regs.cells.findSome? fun d =>
            d.2.clock.bind fun ck => if (k.present ck).isNone then some ck else none with
        | some ck => some (cCLKUNK, 0, ck)
        | none => none,
    body := fun _ _ s => .ok s { effs := [.inst] } }
def execInst (h : Head) (f : XF) (s : State) : Host.Outcome State Fault Refusal := issueOne (.inst h f) (opInst f) s

end Sys2Proof.Machine
end

