-- ==== Sys2Proof/Machine/Sync.lean ====
section
/-! DEFINITION. Channels (R196-R199), barriers (R200-R203), latches (R204), drains, counter waits and sleep (R205-R207),
power requests (R208) and continuations (R209): what each operation does at its issue. -/
namespace Sys2Proof.Machine

/-- The waiting of an operation in W format (R86, R182): condition, deadline in ticks and the register of its status. -/
def waitOf (x : Ctx) (f : WF) (vs : List SrcVal) (kind : WaitKind) : Wait :=
  { slot := x.slot.ix, kind := kind, st := f.st.toNat, wall := bit f.dl.toNat 7,
    dl := dlTicks f (vval vs 0), esc := f.esc == 1, word := x.word, guard := x.g }
/-- An operation that waits, and one that resolves at once. -/
def waits (w : Wait) (s : State) : Res := .ok s { waits := [w] }
def resolved (w : Wait) (code detail mask : Nat) (effs : List Eff) (s : State) : Res := waits (w.done code detail mask effs) s

/-- The checks of R196: the entry is valid and the core is its producer, or its consumer, and an element has the cell's
size. DESIGN CHOICE (log 48): of the two the spec gives no order here; PERM is taken before ALIGN. -/
def State.channelFault (s : State) (c n : Nat) (producer : Bool) (esz : Option Nat) : Option Trap :=
  let ch := s.channel (s.channelKey c n)
  if !(s.entryValid c n && if producer then s.isProducer c ch else s.isConsumer c ch) then some (trap6 cPERM [])
  else match esz with
    | some e => if e = ch.cell then none else some (trap6 cALIGN [])
    | none => none
/-- Channel number and element of a `CHWR` or `CHRD`. -/
def chNum (f : WF) : Nat := bits f.imm.toNat 19 12
def chElem (f : WF) : Nat := bits f.imm.toNat 11 0
/-- CHWR (R197): one value for each instant. -/
def opChwr (f : WF) : Op :=
  { srcs := [dlSrc f, .absent, .absent, .v (chElem f) 0 false],
    weight := fun _ _ => 4,
    body := fun x vs s =>
      let k := s.core x.c
      let key := s.channelKey x.c (chNum f)
      let e := k.elemSize (chElem f)
      match s.channelFault x.c (chNum f) true (some e) with
      | some t => .trap t
      | none =>
        waits (waitOf x f vs (.chwr key (bytesOf (vval vs 3) e))) s }
def execChwr (h : Head) (f : WF) (s : State) : Host.Outcome State Fault Refusal := issueOne (.chwr h f) (opChwr f) s
/-- ABSN (R198): the marker waits for a free cell with a deadline of its own; it writes no status. -/
def opAbsn (f : XF) : Op :=
  { body := fun x _ s =>
      let key := s.channelKey x.c (bits f.imm.toNat 7 0)
      match s.channelFault x.c (bits f.imm.toNat 7 0) true none with
      | some t => .trap t
      | none =>
        waits { slot := x.slot.ix, kind := .absn key, st := 0, wall := false, dl := 2 ^ (s.channel key).mdl, esc := false,
                word := x.word, guard := x.g } s }
def execAbsn (h : Head) (f : XF) (s : State) : Host.Outcome State Fault Refusal := issueOne (.absn h f) (opAbsn f) s
/-- CHRD (R199). -/
def opChrd (f : WF) : Op :=
  { srcs := [dlSrc f], dsts := [(chElem f, 0)],
    weight := fun _ _ => 4,
    body := fun x vs s =>
      let k := s.core x.c
      withDst (k.resolve (chElem f) (k.elemSize (chElem f)) true x.rx 0) fun a =>
        match s.channelFault x.c (chNum f) false (some (k.elemSize (chElem f))) with
        | some t => .trap t
        | none => waits (waitOf x f vs (.chrd (s.channelKey x.c (chNum f)) (some a))) s }
def execChrd (h : Head) (f : WF) (s : State) : Host.Outcome State Fault Refusal := issueOne (.chrd h f) (opChrd f) s
/-- CHRDY (R199). -/
def opChrdy (f : WF) : Op :=
  { srcs := [dlSrc f],
    weight := fun _ _ => 4,
    body := fun x vs s =>
      match s.channelFault x.c (chNum f) false none with
      | some t => .trap t
      | none => waits (waitOf x f vs (.chrd (s.channelKey x.c (chNum f)) none)) s }
def execChrdy (h : Head) (f : WF) (s : State) : Host.Outcome State Fault Refusal := issueOne (.chrdy h f) (opChrdy f) s

/-- Sources of a barrier operation: with REG the object stands in s[sa] (R200). -/
def barSrcs (f : WF) : List Src := dlSrc f :: if bit f.imm.toNat 7 then [sx6 f.sa] else []
/-- The object that a barrier operation names, of which the core must be a member (R200). DESIGN CHOICE (log 48): with REG = 0
sa, and with REG = 1 bits 6:0 of imm21, are ignored. -/
def barObject (f : WF) (x : Ctx) (vs : List SrcVal) (s : State) : Except Trap Nat :=
  let n := if bit f.imm.toNat 7 then (val vs 1).toNat else f.imm.toNat
  match s.barrierOf x.c (bits n 6 0) with
  | none => .error x.illop
  | some o => if s.isMember x.c o then .ok o else .error (trap6 cPERM [])
/-- An arrival of the core is pending in the current phase, or its completed phase has not been waited for (R202). -/
def State.hasArrived (s : State) (c o : Nat) : Bool :=
  let b := s.barrier o
  (b.arrivals.any fun a => a.1 == c) || b.release.any fun r => r.1 == c
/-- BARA (R201). -/
def opBara (f : WF) : Op :=
  { srcs := barSrcs f,
    body := fun x vs s =>
      match barObject f x vs s with
      | .error t => .trap t
      | .ok o => .ok s { effs := [.bara o] } }
def execBara (h : Head) (f : WF) (s : State) : Host.Outcome State Fault Refusal := issueOne (.bara h f) (opBara f) s
/-- BARX (R203). -/
def opBarx (f : WF) : Op :=
  { srcs := barSrcs f,
    body := fun x vs s =>
      match barObject f x vs s with
      | .error t => .trap t
      | .ok o => .ok s { effs := [.barx o] } }
def execBarx (h : Head) (f : WF) (s : State) : Host.Outcome State Fault Refusal := issueOne (.barx h f) (opBarx f) s
/-- The wait for the phase in which the core has arrived (R202). -/
def barWait (f : WF) (x : Ctx) (vs : List SrcVal) (o : Nat) (s : State) : Res :=
  let w := waitOf x f vs (.bar o)
  if s.hasArrived x.c o then waits w s else resolved w stDENIED 0 (s.arrivals o) [] s
/-- BARW (R202). -/
def opBarw (f : WF) : Op :=
  { srcs := barSrcs f,
    body := fun x vs s =>
      match barObject f x vs s with
      | .error t => .trap t
      | .ok o => barWait f x vs o s }
def execBarw (h : Head) (f : WF) (s : State) : Host.Outcome State Fault Refusal := issueOne (.barw h f) (opBarw f) s
/-- BAR (R202): it arrives at its issue; where its arrival was made before its bundle was taken back, it issues as
`BARW` (R186, R233). -/
def opBar (f : WF) : Op :=
  { srcs := barSrcs f,
    body := fun x vs s =>
      match barObject f x vs s with
      | .error t => .trap t
      | .ok o => barWait f x vs o (if x.again then s else s.arrive x.c o) }
def execBar (h : Head) (f : WF) (s : State) : Host.Outcome State Fault Refusal := issueOne (.bar h f) (opBar f) s

/-- The latch of its cluster that an operation names (R204). -/
def latchOf (x : Ctx) (f : WF) : Nat := clusterOf x.c * 256 + bits f.imm.toNat 7 0
/-- LATCHOVR (R234). -/
def latchTrap (l : Nat) (t : LatchObj) : Trap := trap6 cLATCHOVR [wordN (l % 256), wordN (t.n + t.a <<< 8)]
/-- `LTIN`s of a latch that are in flight. -/
def State.ltinFlying (s : State) (l : Nat) : Nat :=
  s.cores.foldl (fun n k => n + (k.2.flights.filter fun f => match f.what with | .ltin m => m == l | _ => false).length) 0
/-- LTAR (R204). -/
def opLtar (f : WF) : Op :=
  { body := fun x _ s =>
      let l := latchOf x f
      let t := s.latch l
      if t.n ≠ 0 ∧ 0 < t.a ∧ !t.passed then .trap (latchTrap l t)
      else .ok s { effs := [.ltar l (bits f.imm.toNat 14 8)] } }
def execLtar (h : Head) (f : WF) (s : State) : Host.Outcome State Fault Refusal := issueOne (.ltar h f) (opLtar f) s
/-- LTIN (R204): the arrival follows the core's earlier stores to the latch's handoff pages. DESIGN CHOICE (log 48): beside a
waiting operation it goes in flight as its bundle commits. -/
def opLtin (f : WF) : Op :=
  { body := fun x _ s =>
      let l := latchOf x f
      let t := s.latch l
      if t.n = 0 ∨ t.passed ∨ t.a + s.ltinFlying l = t.n then .trap (latchTrap l t)
      else .ok (s.onCore x.c fun k => { k with ctl := { k.ctl with ltins := joined l k.ctl.ltins } }) { effs := [.ltin l] } }
def execLtin (h : Head) (f : WF) (s : State) : Host.Outcome State Fault Refusal := issueOne (.ltin h f) (opLtin f) s
/-- LTWT (R204). -/
def opLtwt (f : WF) : Op :=
  { srcs := [dlSrc f], body := fun x vs s => waits (waitOf x f vs (.ltwt (latchOf x f))) s }
def execLtwt (h : Head) (f : WF) (s : State) : Host.Outcome State Fault Refusal := issueOne (.ltwt h f) (opLtwt f) s

/-- DRN (R205): it waits for what the core issued earlier. -/
def opDrn (f : WF) : Op :=
  { srcs := [dlSrc f],
    body := fun x vs s =>
      waits (waitOf x f vs (.drn (bits f.imm.toNat 2 0) (bits f.imm.toNat 6 3) (s.core x.c).ctl.seq)) s }
def execDrn (h : Head) (f : WF) (s : State) : Host.Outcome State Fault Refusal := issueOne (.drn h f) (opDrn f) s
/-- WAITC (R206). -/
def opWaitc (f : WF) : Op :=
  { srcs := [dlSrc f],
    body := fun x vs s =>
      let n := f.imm.toNat
      waits (waitOf x f vs (.waitc (bits n 4 0) (bits n 9 5) (bits n 14 10) (bits n 19 15))) s }
def execWaitc (h : Head) (f : WF) (s : State) : Host.Outcome State Fault Refusal := issueOne (.waitc h f) (opWaitc f) s
/-- SLEEP (R207): it writes no status and has no deadline. -/
def opSleep (f : WF) : Op :=
  { srcs := [.absent, sx6 f.sa],
    body := fun x vs s =>
      waits { slot := x.slot.ix, kind := .sleep (val vs 1).toNat, st := 0, wall := true, dl := 0, esc := false, word := x.word,
              guard := x.g } s }
def execSleep (h : Head) (f : WF) (s : State) : Host.Outcome State Fault Refusal := issueOne (.sleep h f) (opSleep f) s

/-- A core's request joins its cluster's queue, the lower core number first within one cycle (R375). -/
def Cluster.ask (cl : Cluster) (c n : Nat) : List (Nat × Nat × Nat) :=
  let before := fun (g : Nat × Nat × Nat) => decide (g.2.2 < cl.cycle ∨ (g.2.2 = cl.cycle ∧ g.1 < c))
  let q := cl.grants.filter fun g => g.1 != c
  q.takeWhile before ++ [(c, n, cl.cycle)] ++ q.dropWhile before
/-- PWRA (R208, R375): a request whose outcome a pre-emption found goes on with that (R186); a level at or below the one held is kept; one above the region's share is denied; any other joins
the cluster's request queue. -/
def opPwra (f : WF) : Op :=
  { srcs := [dlSrc f],
    body := fun x vs s =>
      let n := bits f.imm.toNat 2 0
      let held := (s.core x.c).ctl.level
      let w := waitOf x f vs (.pwra n)
      let went := (s.core x.c).waitBack.any fun b => b.waits.any fun y => y.slot == x.slot.ix && y.out.isSome
      if went then waits w s
      else if n ≤ held then resolved w stOK 0 held [] s
      else if bits (s.teamRegion x.c 3 3) 31 29 < n then resolved w stDENIED 0 held [] s
      else
        waits w (s.onCluster (clusterOf x.c) fun cl =>
          { cl with grants := cl.ask x.c n }) }
def execPwra (h : Head) (f : WF) (s : State) : Host.Outcome State Fault Refusal := issueOne (.pwra h f) (opPwra f) s
/-- PWRR (R208). -/
def opPwrr (_ : WF) : Op := { body := fun _ _ s => .ok s { effs := [.level 0] } }
def execPwrr (h : Head) (f : WF) (s : State) : Host.Outcome State Fault Refusal := issueOne (.pwrr h f) (opPwrr f) s

/-- Translation without a permission: no page outside the map, or of slice storage that is not pinned (R178, R209, R248). -/
def State.pageOf (s : State) (c va : Nat) : Option Page :=
  (s.walkPage (s.ctxOf c) va).filter fun p =>
    match placeOf p.pa with
    | some (.pinned, _) => s.isPinned p.pa
    | some _ => true
    | none => false
def State.physOf (s : State) (c va : Nat) : Option Nat := (s.pageOf c va).map Page.pa
/-- The bucket of a data address (R31): home slice and address bits 9:6. -/
def State.bucketOf (s : State) (pa : Nat) : Nat := s.homeSlice pa * 16 + bits pa 9 6
/-- CPOST (R209). -/
def opCpost (f : WF) : Op :=
  let elem := bits f.imm.toNat 11 0
  { srcs := [dlSrc f, sx6 f.sa, sx6 f.sb, .v elem 0 false],
    body := fun x vs s =>
      let va := (val vs 1).toNat
      if (s.core x.c).elemSize elem < 64 then .trap (trap6 cALIGN [])
      else
        match s.physOf x.c va with
        | none => .trap (trap6 cXLATE (accessFrs cXLATE va .read 0))
        | some pa =>
          waits (waitOf x f vs (.cpost { payload := bytesOf (vval vs 3) 64, addr := va, bucket := s.bucketOf pa,
                                         entry := (val vs 2).toNat % 2 ^ 32, instant := 0, core := x.c, seq := 0 })) s }
def execCpost (h : Head) (f : WF) (s : State) : Host.Outcome State Fault Refusal := issueOne (.cpost h f) (opCpost f) s

end Sys2Proof.Machine
end

