-- ==== Sys2Proof/Machine/Transfer.lean ====
section
/-! DEFINITION. The C slots: elements to and from memory (R169-R173), bulk copies and their promises (R174, R311), copy
queues (R177, R315), cache operations (R178) and reduction packets (R179, R180). -/
namespace Sys2Proof.Machine

/-- Effective address of a C-format access (R169). -/
def transferAddr (x : Ctx) (base : Word) (s : State) : Nat := (wordI (sgn base + (s.core x.c).addrStep x.slot x.ix)).toNat
/-- A part of an element in memory: offset in the element, virtual address, bytes. -/
abbrev Seg := Nat × Nat × Nat
/-- The parts of an access that have passed their checks, with their pages. -/
abbrev Reached := List (Seg × List (Nat × Nat × Page))
/-- Every part translates, and then every part passes `conflict_check` (R169). -/
def State.reachSegs (s : State) (c : Nat) (segs : List Seg) (k : AccessKind) (size : Nat) (acc : Acc) :
    Except Stop (Reached × State) :=
  match s.translatePieces (s.ctxOf c) (segs.flatMap fun g => piecesOf g.2.1 g.2.2) k with
  | .error (e, b) => .error (some (trap6 e (accessFrs e b k size)))
  | .ok _ =>
    segs.foldl (fun r g =>
      match r with
      | .error e => .error e
      | .ok (got, s) =>
        match s.reach c g.2.1 g.2.2 k size acc with
        | .error e => .error e
        | .ok (ps, s) => .ok (got ++ [(g, ps)], s)) (.ok ([], s))
/-- The parts of an element of n bytes: contiguous, or rows (R170). -/
def tileSegs (f : CF) (vs : List SrcVal) (ea n : Nat) : Except Unit (List Seg) :=
  if ea % 16 ≠ 0 then .error ()
  else if f.sz = 0 then .ok [(0, ea, n)]
  else
    let stride := (val vs 2).toNat
    let row := (val vs 3).toNat
    if row = 0 ∨ row % 16 ≠ 0 ∨ n % row ≠ 0 ∨ stride % 16 ≠ 0 then .error ()
    else .ok ((List.range (n / row)).map fun i => (i * row, truncI (ea + i * stride) 64, row))
/-- BY and NA of a C-format word. -/
def hintBy (f : CF) : Bool := f.bypass == 1
def hintNa (f : CF) : Bool := f.noAlloc == 1
/-- Load the parts of an element, and its bytes above them zero (R117, R169). -/
def State.loadSegs (s : State) (x : Ctx) (f : CF) (r : Reached) : Nat × State :=
  r.foldl (fun (v, s) g =>
    let (a, s) := s.loadFor x g.1.2.1 g.1.2.2 g.2 (hintBy f) (hintNa f)
    (v + a <<< (8 * g.1.1), s)) (0, s)
/-- An element arrives at once from local memory, and later from remote memory (R117, R170). -/
def elementEffs (x : Ctx) (a n v : Nat) (r : Reached) : List Eff :=
  if r.all fun g => (remotePieces x.c g.2).isEmpty then [.space a n v]
  else [.load (.space a n) v (r.flatMap fun g => (sourcesOf x.c g.1.2.1 g.2).map fun q => (q.1, q.2.1, g.1.1 + q.2.2))]
/-- The stores of an element's parts; what is remote is one operation in flight (R169, R360). -/
def storeSegs (x : Ctx) (f : CF) (v : Nat) (r : Reached) : List Eff :=
  let es := r.flatMap fun g => storeEffs x.c g.1.2.1 g.1.2.2 ((v >>> (8 * g.1.1)) % 2 ^ (8 * g.1.2.2)) g.2 (hintBy f) (hintNa f)
  let sent := es.filterMap fun e => match e with | .sent l h t _ => some (l, h, t) | _ => none
  mergePresented (es.filter fun e => match e with | .sent _ _ _ _ => false | _ => true) ++
  if sent.isEmpty then []
  else [.sent (sent.flatMap fun t => t.1).eraseDups (sent.any fun t => t.2.1) (sent.flatMap fun t => t.2.2).eraseDups false]

/-- The register sources of a tile's rows (R170). -/
def rowSrcs (f : CF) : List Src := if f.sz = 0 then [] else [sx6 f.sb, sx6 f.sc]
/-- TLD (R170). -/
def opTld (f : CF) : Op :=
  { srcs := [.absent, sx6 f.sa] ++ rowSrcs f, dsts := [(f.rr.toNat, 0)], weight := fun _ _ => 4,
    body := fun x vs s =>
      let k := s.core x.c
      let n := k.elemSize f.rr.toNat
      withDst (k.resolve f.rr.toNat n true x.rx 0) fun a =>
        let ea := transferAddr x (val vs 1) s
        match tileSegs f vs ea n with
        | .error _ => .trap (alignTrap ea .read 0)
        | .ok segs =>
          match s.reachSegs x.c segs .read 0 .read with
          | .error e => e.res
          | .ok (r, s) =>
            let (v, s) := s.loadSegs x f r
            .ok s { effs := elementEffs x a n v r } }
def execTld (h : Head) (f : CF) (s : State) : Host.Outcome State Fault Refusal := issueOne (.tld h f) (opTld f) s
/-- TST (R170): a held element has at most 128 bytes. -/
def opTst (f : CF) : Op :=
  { srcs := [.v f.rr.toNat 0 (f.hr == 1), sx6 f.sa] ++ rowSrcs f, weight := fun _ _ => 4,
    illop := fun _ k => f.hr == 1 && decide (128 < k.elemSize f.rr.toNat),
    body := fun x vs s =>
      let ea := transferAddr x (val vs 1) s
      match tileSegs f vs ea ((s.core x.c).elemSize f.rr.toNat) with
      | .error _ => .trap (alignTrap ea .write 0)
      | .ok segs =>
        match s.reachSegs x.c segs .write 0 .write with
        | .error e => e.res
        | .ok (r, s) => .ok s { effs := storeSegs x f (vval vs 0) r } }
def execTst (h : Head) (f : CF) (s : State) : Host.Outcome State Fault Refusal := issueOne (.tst h f) (opTst f) s
/-- A page of the presented aperture (R262). -/
def inAperture (p : Page) : Bool := match placeOf p.pa with | some (.aperture, _) => true | _ => false
/-- TLDW (R171): raw bytes; a source in the presented aperture is PERM (R262). -/
def opTldw (f : CF) : Op :=
  { srcs := [.absent, sx6 f.sa, sx6 f.sb, sx6 f.sc], weight := fun _ _ => 4,
    body := fun x vs s =>
      let ea := transferAddr x (val vs 1) s
      let off := transferAddr x (val vs 2) s
      let n := (val vs 3).toNat
      if ea % 16 ≠ 0 ∨ off % 16 ≠ 0 ∨ n % 16 ≠ 0 ∨ 98304 < n then .trap (alignTrap ea .read 0)
      else
        match s.reachPages x.c ea n .read 0 with
        | .error e => e.res
        | .ok ps =>
          match ps.find? fun q => inAperture q.2.2 with
          | some q => .trap (trap6 cPERM (accessFrs cPERM q.1 .read 0))
          | none =>
            match s.checkPieces x.c .read 0 .read ps with
            | .error e => e.res
            | .ok s =>
              let (v, s) := s.loadFor x ea n ps (hintBy f) (hintNa f)
              .ok s { effs := [.tldw (off % 98304) (bytesOf v n) (sourcesOf x.c ea ps)] } }
def execTldw (h : Head) (f : CF) (s : State) : Host.Outcome State Fault Refusal := issueOne (.tldw h f) (opTldw f) s

/-- Width of a lane of `GATH` and `SCAT`, and its size code (R172). -/
def laneWidth (f : CF) : Nat := if f.sz = 0 then 4 else 8
def laneSize (f : CF) : Nat := if f.sz = 0 then 2 else 3
/-- The lanes of an element of e bytes: their places and addresses (R172). An element below 128 bytes has the lanes and
offsets that it holds (log 32). -/
def laneSegs (f : CF) (e ea offs : Nat) : List Seg :=
  let w := laneWidth f
  (List.range (min e 128 / w)).map fun i => (i * w, truncI (ea + laneN offs w i * w) 64, w)
/-- GATH (R172). -/
def opGath (f : CF) : Op :=
  { srcs := [.plain f.rr.toNat 0 1, sx6 f.sa], dsts := [(f.rr.toNat, 0)], weight := fun _ _ => 4,
    body := fun x vs s =>
      let k := s.core x.c
      let n := k.elemSize f.rr.toNat
      withDst (k.resolve f.rr.toNat n true x.rx 0) fun a =>
        let ea := transferAddr x (val vs 1) s
        if ea % laneWidth f ≠ 0 then .trap (alignTrap ea .read (laneSize f))
        else
          match s.reachSegs x.c (laneSegs f n ea (vval vs 0)) .read (laneSize f) .read with
          | .error e => e.res
          | .ok (r, s) =>
            let (v, s) := s.loadSegs x f r
            .ok s { effs := elementEffs x a n v r } }
def execGath (h : Head) (f : CF) (s : State) : Host.Outcome State Fault Refusal := issueOne (.gath h f) (opGath f) s
/-- The clock check of `SCAT`: the tag of the offsets is checked with rr's (R172). -/
def scatClock (x : Ctx) (vs : List SrcVal) : Option (Nat × Nat × Nat) :=
  match tagCheck x.g (vs.take 1 ++ vs.drop 4) with
  | some (cause, _, t) => some (cause, 0, t)
  | none => tagCheck x.g vs
/-- SCAT (R172): where two lanes share an address the higher one stays. -/
def opScat (f : CF) : Op :=
  { srcs := [.v f.rr.toNat 0 (f.hr == 1), sx6 f.sa, .absent, .absent, .plain f.rr.toNat 0 1], weight := fun _ _ => 4,
    clock := some fun _ x vs _ => scatClock x vs,
    body := fun x vs s =>
      let ea := transferAddr x (val vs 1) s
      if ea % laneWidth f ≠ 0 then .trap (alignTrap ea .write (laneSize f))
      else
        match s.reachSegs x.c (laneSegs f ((s.core x.c).elemSize f.rr.toNat) ea (vval vs 4)) .write (laneSize f) .write with
        | .error e => e.res
        | .ok (r, s) => .ok s { effs := storeSegs x f (vval vs 0) r } }
def execScat (h : Head) (f : CF) (s : State) : Host.Outcome State Fault Refusal := issueOne (.scat h f) (opScat f) s

/-- Replica number j of every page of an access: the served replica first. -/
def replicaOf (c j : Nat) (p : Page) : Option Nat := (servedPa c p :: (replicaPas p).filter (· != servedPa c p))[j]?
/-- The conflict checks of every replica that a multicast stores to (R173, R274). -/
def State.checkReplicas (s : State) (c : Nat) (ps : List (Nat × Nat × Page)) : Except Stop State :=
  ps.foldl (fun r (b, m, p) =>
    (List.range 4).foldl (fun r j =>
      match r, replicaOf c j p with
      | .ok s, some pa => s.checkPiece c b p pa m .write (accessFrs cCONFLICT b .write 0)
      | r, _ => r) r) (.ok s)
/-- The stores of a multicast: the served replica's as a plain store, each other replica's at its home, each in flight on
its own (R173). -/
def multicastEffs (x : Ctx) (f : CF) (va n v : Nat) (ps : List (Nat × Nat × Page)) : List Eff :=
  storeEffs x.c va n v ps (hintBy f) (hintNa f) ++
  (List.range 4).flatMap fun j =>
    if j = 0 then []
    else
      let parts := ps.filterMap fun (b, m, p) => (replicaOf x.c j p).map fun pa => (pa, m, v >>> (8 * (b - va)), p)
      if parts.isEmpty then []
      else
        (parts.map fun (pa, m, w, p) => Eff.store (cellsOf pa m w) 0 p.evp none) ++
        [.sent (parts.flatMap fun (pa, m, _, _) => (List.range ((pa % 128 + m + 127) / 128)).map (pa / 128 + ·)).eraseDups false [] true]
/-- MCST (R173). -/
def opMcst (f : CF) : Op :=
  { srcs := [.v f.rr.toNat 0 (f.hr == 1), sx6 f.sa], weight := fun _ _ => 4,
    body := fun x vs s =>
      let ea := transferAddr x (val vs 1) s
      let n := (s.core x.c).elemSize f.rr.toNat
      if ea % 16 ≠ 0 then .trap (alignTrap ea .write 0)
      else
        match s.reachPages x.c ea n .write 0 with
        | .error e => e.res
        | .ok ps =>
          match s.checkReplicas x.c ps with
          | .error e => e.res
          | .ok s => .ok s { effs := multicastEffs x f ea n (vval vs 0) ps } }
def execMcst (h : Head) (f : CF) (s : State) : Host.Outcome State Fault Refusal := issueOne (.mcst h f) (opMcst f) s

/-- Latency and cost of an endpoint of a copy (R311). -/
def State.endpoint (s : State) (c pa : Nat) : Nat × Nat :=
  match placeOf pa with
  | some (.spad d _, _) => if d = c then (100, 2) else (300, 4)
  | some (.host, _) => (20000, 128)
  | _ => if s.homeSlice pa / 16 = dieOfCore c then (800, 8) else (1200, 16)
/-- The slowest endpoint class that a range meets (R311); where no page of it translates, memory of the own die (log 33). -/
def State.slowest (s : State) (c : Nat) (rs : List (Nat × Nat)) : Nat × Nat :=
  let l := rs.map fun r => s.endpoint c r.1
  if l.isEmpty then (800, 8) else l.foldl (fun a e => (max a.1 e.1, max a.2 e.2)) (0, 0)
/-- The physical places of the pages that a copy's range meets, whatever those pages permit (R311). -/
def State.pagesMet (s : State) (c va n : Nat) : List (Nat × Nat) :=
  (piecesOf va n).filterMap fun q => (s.pageOf c q.1).map fun p => (servedPa c p, q.2)
/-- Cost and promise of a copy of n bytes beside earlier ones (R311). -/
def State.promiseOf (s : State) (c dst src n : Nat) (earlier : List Copy) : Nat × Nat :=
  let a := s.slowest c (s.pagesMet c src n)
  let b := s.slowest c (s.pagesMet c dst n)
  let cost := max a.2 b.2
  let w := (earlier.map fun x => x.cost * x.remainder s.now).sum
  (cost, if n = 0 then s.now else s.now + a.1 + b.1 + ceilDiv (w + cost * n) 16)
/-- Detail of a fault of copy `id` (R234). -/
def copyFrs (a : Nat) (k : AccessKind) (id done : Nat) : List Word := [wordN a, wordN (k.code + 0xFF00), wordN id, wordN done]
/-- The bytes of a copy's source as the core sees them at its issue, up to the first page that fails (R117, R174, R175). -/
def State.copySource (s : State) (x : Ctx) (src n : Nat) : List Byte × State :=
  let rs := s.rangesOf x.c src n .copySrc
  let s := s.l1Clean x.c (inRanges rs)
  let ok := (piecesOf src n).takeWhile fun q => match s.translate (s.ctxOf x.c) q.1 .copySrc with | .ok _ => true | .error _ => false
  ok.foldl (fun (l, s) q =>
    match s.translate (s.ctxOf x.c) q.1 .copySrc with
    | .ok p =>
      let (v, s) := s.loadFor x q.1 q.2 [(q.1, q.2, p)] true true
      (l ++ bytesOf v q.2, s)
    | .error _ => (l, s)) ([], s)
/-- The conflict checks of a copy's range, over the pages that translate (R174, R274). -/
def State.checkCopy (s : State) (c a n : Nat) (k : AccessKind) (id : Nat) (acc : Acc) : Except Stop State :=
  (piecesOf a n).foldl (fun r q =>
    match r with
    | .error e => .error e
    | .ok s =>
      match s.translate (s.ctxOf c) q.1 k with
      | .error _ => .ok s
      | .ok p => s.checkPiece c q.1 p (servedPa c p) q.2 acc (copyFrs q.1 k id 0)) (.ok s)
/-- CPY (R174, R175, R262, R311). -/
def opCpy (f : CF) : Op :=
  { srcs := [.absent, sx6 f.sa, sx6 f.sb, sx6 f.sc], weight := fun _ _ => 16,
    body := fun x vs s =>
      let dst := (val vs 1).toNat
      let src := (val vs 2).toNat
      let n := (val vs 3).toNat
      let before := x.earlier.filterMap fun e => match e with | .cpy cp => some cp | _ => none
      let k := s.core x.c
      let id := (k.csr csrNEXTID).toNat + before.length
      let align := fun (a : Nat) (kd : AccessKind) => Res.trap (trap6 cALIGN (copyFrs a kd id 0))
      let xlate := fun (a : Nat) (kd : AccessKind) => Res.trap (trap6 cXLATE (copyFrs a kd id 0))
      if src % 16 ≠ 0 then align src .copySrc
      else if dst % 16 ≠ 0 ∨ n % 16 ≠ 0 ∨ 2 ^ 40 ≤ n then align dst .copyDst
      else if 2 ^ 56 ≤ src then xlate src .copySrc
      else if 2 ^ 56 ≤ dst then xlate dst .copyDst
      else
        match (piecesOf src n).find? fun q =>
            match s.physOf x.c q.1 with
            | some pa => (match placeOf pa with | some (.aperture, _) => true | _ => false)
            | none => false with
        | some q => .trap (trap6 cPERM (copyFrs q.1 .copySrc id 0))
        | none =>
          match s.checkCopy x.c src n .copySrc id .read with
          | .error e => e.res
          | .ok s =>
            match s.checkCopy x.c dst n .copyDst id (.cwrite id) with
            | .error e => e.res
            | .ok s =>
              let open_ := fun (kd : AccessKind) (a : Nat) => (piecesOf a n).filterMap fun q =>
                match s.translatePiece (s.ctxOf x.c) q.1 q.2 kd with
                | .error _ => some (q.1, q.2, kd == .copyDst)
                | .ok _ => none
              let pr := s.promiseOf x.c dst src n (k.copies ++ before)
              let (data, s) := s.copySource x src n
              let cp : Copy := { id := id, dst := dst, src := src, len := n, data := data, issued := s.now, cost := pr.1,
                                 promise := pr.2, team := k.ctl.team, todo := open_ .copySrc src ++ open_ .copyDst dst }
              .ok s { effs := [.sreg f.sd.toNat (wordN id) 1, .sreg (bits f.rr.toNat 5 0) (wordN pr.2) 1, .cpy cp] } }
def execCpy (h : Head) (f : CF) (s : State) : Host.Outcome State Fault Refusal := issueOne (.cpy h f) (opCpy f) s

/-- Free bytes, one free value for every eight (log 18). -/
def State.freeBytes (s : State) : Nat → List Byte × State
  | 0 => ([], s)
  | n + 1 =>
    let (l, s) := s.freeBytes n
    let (w, s) := s.takeFree
    (l ++ bytesOf w.toNat 8, s)
/-- The slot that an append would claim is reached, if the queue has one free (R169, R315). -/
def State.slotReach (s : State) (c : Nat) (p : Page) : Except Stop State :=
  let q := fun i => s.homeRead (servedPa c p + 8 * i) 8
  let n := 2 ^ bits (q 1) 4 0
  if n ≤ (q 2 + 2 ^ 64 - q 3) % 2 ^ 64 then .ok s
  else (s.reach c (bits (q 0) 55 0 + (q 2 % n) * 64) 64 .write 0 .write).map Prod.snd
/-- CPYQ (R177, R315). The bytes that an element below 64 bytes lacks are free (log 18). -/
def opCpyq (f : CF) : Op :=
  { srcs := [.v f.rr.toNat 0 false, sx6 f.sa], weight := fun _ _ => 4,
    body := fun x vs s =>
      let ea := transferAddr x (val vs 1) s
      let n := (s.core x.c).elemSize f.rr.toNat
      if ea % 64 ≠ 0 then .trap (alignTrap ea .atomic 3)
      else
        match s.reach x.c ea 64 .atomic 3 .write with
        | .error e => e.res
        | .ok (ps, s) =>
          match ps with
          | [] => .ok s {}
          | (_, _, p) :: _ =>
            match s.slotReach x.c p with
            | .error e => e.res
            | .ok s =>
              let (more, s) := if n < 64 then s.freeBytes 8 else ([], s)
              let data := bytesOf (vval vs 0) (min n 64) ++ more.take (64 - min n 64)
              .ok s { effs := [.cpyq ea f.sd.toNat data] } }
def execCpyq (h : Head) (f : CF) (s : State) : Host.Outcome State Fault Refusal := issueOne (.cpyq h f) (opCpyq f) s

/-- PFCH (R178): a page that does not translate is left alone. -/
def opPfch (f : CF) : Op :=
  { srcs := [.absent, sx6 f.sa], weight := fun _ _ => 4,
    body := fun x vs s =>
      let ea := transferAddr x (val vs 1) s
      match s.translate (s.ctxOf x.c) ea .read with
      | .error _ => .ok s {}
      | .ok p =>
        let local_ := match placeOf p.pa with | some (.spad _ _, _) => true | _ => false
        if local_ || p.home != 0 || p.alloc = 0 || (f.sco = 0 && p.alloc = 1) then .ok s {}
        else .ok s { effs := [.prefetch (servedPa x.c p) p.evp p.latch (f.sco == 1)] } }
def execPfch (h : Head) (f : CF) (s : State) : Host.Outcome State Fault Refusal := issueOne (.pfch h f) (opPfch f) s
/-- FLSH (R178): the lines of the pages of its range that translate; no permission is needed. -/
def opFlsh (f : CF) : Op :=
  { srcs := [.absent, sx6 f.sa, .absent, sx6 f.sc], weight := fun _ _ => 4,
    body := fun x vs s =>
      let ea := transferAddr x (val vs 1) s
      let lines := ((piecesOf ea (val vs 3).toNat).filterMap fun q =>
        (s.pageOf x.c q.1).map fun p => let pa := servedPa x.c p; (List.range ((pa % 128 + q.2 + 127) / 128)).map (pa / 128 + ·)).flatten
      .ok s { effs := if lines.isEmpty then [] else [.flush (f.sco == 1) lines] } }
def execFlsh (h : Head) (f : CF) (s : State) : Host.Outcome State Fault Refusal := issueOne (.flsh h f) (opFlsh f) s

/-- RPKT (R179). -/
def opRpkt (f : CF) : Op :=
  { srcs := [.v f.rr.toNat 0 (f.hr == 1), sx6 f.sa], weight := fun _ _ => 4,
    body := fun x vs s =>
      if (s.core x.c).elemSize f.rr.toNat ≠ 128 then .trap (trap6 cALIGN [])
      else
        let key := s.instanceOf x.c (val vs 1)
        match (assoc s.reductions key).bind fun r => s.memberIx x.c r.contributors with
        | none => .trap (trap6 cPERM [])
        | some j => .ok s { effs := [.rpkt key j (BitVec.ofNat 1024 (vval vs 0))] } }
def execRpkt (h : Head) (f : CF) (s : State) : Host.Outcome State Fault Refusal := issueOne (.rpkt h f) (opRpkt f) s
/-- RRCV (R180). -/
def opRrcv (f : WF) : Op :=
  let elem := bits f.imm.toNat 11 0
  { srcs := [dlSrc f, sx6 f.sa], dsts := [(elem, 0)], weight := fun _ _ => 4,
    body := fun x vs s =>
      let k := s.core x.c
      withDst (k.resolve elem (k.elemSize elem) true x.rx 0) fun a =>
        if k.elemSize elem ≠ 128 then .trap (trap6 cALIGN [])
        else
          let key := s.instanceOf x.c (val vs 1)
          match (assoc s.reductions key).bind fun r => s.memberIx x.c r.receivers with
          | none => .trap (trap6 cPERM [])
          | some _ => waits (waitOf x f vs (.rrcv key a)) s }
def execRrcv (h : Head) (f : WF) (s : State) : Host.Outcome State Fault Refusal := issueOne (.rrcv h f) (opRrcv f) s

end Sys2Proof.Machine
end

