-- ==== Sys2Proof/Machine/Matrix.lean ====
section
/-! DEFINITION. The matrix unit: issue of `MCALL` and `MZRO`, its tables and format setting (R154-R160, R166-R168), and
the macro-op sequencer (R98, R99, R161-R165, R263-R265). -/
namespace Sys2Proof.Machine

/-- The unit is idle (R167). -/
def Mx.idle (m : Mx) : Bool := m.queue.isEmpty && m.run.isNone
/-- A bundle with `MCFG`, `MACT`, `MSTP` or `MRTN` waits until the unit is idle (R156, R166). -/
def mxBusy (s : State) (c : Nat) (_ : Slot) : Bool := !(s.core c).mx.idle
/-- The command queue holds four entries (R159). -/
def mxFull (s : State) (c : Nat) : Bool := decide (4 ≤ (s.core c).mx.queue.length)
/-- mp_i as a re-issue with index c has it (R78). -/
def Core.steppedMp (k : Core) (c i : Nat) : Word :=
  if 0 < c ∧ i < 4 then
    let sdm := (k.csr (csrSDS + 3)).toNat
    wordI (sgn (k.mp i) + sextN (bits sdm (63 - 16 * i) (48 - 16 * i)) 16)
  else k.mp i
/-- The windows of a routine (R158, R168). -/
def windowsOf (entry : Word) (mp : Nat → Word) : Windows :=
  let e := entry.toNat
  let addr := fun i => bits (mp i).toNat 16 0
  { a := (addr 0, bits e 51 42 * 128), acc := (addr 2, bits e 41 32 * 128), bias := (addr 3, bits e 31 22 * 128),
    q := (addr 7, bits e 21 12 * 128), w := (addr 1, bits e 11 5 * 1024) }
/-- The tag of a granule, counting a pending write as carrying its writer's guard (R159, R220). -/
def Core.pendingTag (k : Core) (g : Nat) : Nat :=
  let fl := k.flights.filterMap fun f =>
    match f.what with
    | .vres b _ _ _ _ _ => if (granulesOf b 128).contains g then some (f.id, f.guard) else none
    | .load (.space b n) _ => if (granulesOf b n).contains g then some (f.id, f.guard) else none
    | _ => none
  let mx := k.mx.entries.filterMap fun e =>
    if e.writes.any fun w => (granulesOf w.1 w.2).contains g then some (e.before, e.guard) else none
  ((fl ++ mx).foldl (fun (m : Nat × Nat) p => if m.1 ≤ p.1 then p else m) (0, k.gtag g)).2
/-- The clock check of `MCALL` (R159): the tags of the A and Bias windows, and of the Accumulator window under ACC. -/
def mcallClock (f : MF) (s : State) (x : Ctx) : Option (Nat × Nat × Nat) :=
  let k := s.core x.c
  let w := windowsOf (k.mx.routines.get 0 f.ri.toNat) (k.steppedMp x.ix)
  let gs := ([w.a, w.bias] ++ if f.acc = 1 then [w.acc] else []).flatMap fun r => (wrapRange r).flatMap fun q => granulesOf q.1 q.2
  match gs.find? fun g => k.pendingTag g != 31 && k.pendingTag g != x.g with
  | some g => some (cCLKMIS, 0, k.pendingTag g)
  | none => none
/-- MCF fields (R155). -/
def mcfFmt (k : Core) (h l : Nat) : Fmt := fmtOf (k.csrBits csrMCF h l)
/-- Weight of an `MCALL` (R372). -/
def mcallWeight (f : MF) (k : Core) : Nat :=
  (match mcfFmt k 5 0 with
    | .fp64 => 1152 | .fp32 => 1024 | .bf16 => 1536 | .fp16 => 1536 | _ => 1280) + if f.pert = 1 then 256 else 0
/-- MCALL (R78, R157-R159). DESIGN CHOICE (log 48): an `MPW` beside a re-issue of `MCALL` that is nullified gives way to the step of `SDM`,
made from the value before it. -/
def opMcall (f : MF) : Op :=
  { full := mxFull, weight := fun _ k => mcallWeight f k,
    illop := fun _ k => !bit (k.mx.routines.get 0 f.ri.toNat).toNat 0 || (f.pert == 1 && k.csrBits csrMCF 18 18 == 0),
    clock := some fun s x _ _ => mcallClock f s x,
    pre := fun k c => if c = 0 then [] else (List.range 4).map fun i => Eff.raw (csrMP + i) (k.steppedMp c i),
    body := fun x _ s =>
      let k := s.core x.c
      .ok s { effs := [.mx { word := x.word, wc := (List.range 8).map (k.steppedMp x.ix),
                             win := windowsOf (k.mx.routines.get 0 f.ri.toNat) (k.steppedMp x.ix), guard := x.g, before := 0 }] } }
def execMcall (h : Head) (f : MF) (s : State) : Host.Outcome State Fault Refusal := issueOne (.mcall h f) (opMcall f) s
/-- MZRO (R160): a re-issue names the same element, a rotating name its base (R78, R85). -/
def opMzro (f : MF) : Op :=
  { dsts := [(f.rr.toNat, 0)], full := mxFull, weight := fun _ _ => 16,
    body := fun x _ s =>
      let k := s.core x.c
      let n := k.elemSize f.rr.toNat
      withDst (k.resolve f.rr.toNat n true x.rx 0) fun a =>
        .ok s { effs := [.mx { word := x.word, wc := [], win := { a := (0, 0), acc := (0, 0), bias := (0, 0), q := (0, 0), w := (0, 0) },
                               guard := x.g, zero := some (a, n), before := 0 }] } }
def execMzro (h : Head) (f : MF) (s : State) : Host.Outcome State Fault Refusal := issueOne (.mzro h f) (opMzro f) s

/-- ACF of a setting of MCFG, or `none` where the setting is not legal (R156). -/
def mcfgAcf (af bf qf : Nat) (pr : Bool) : Option Nat :=
  let b8 := fun (c : Nat) => decide (0x20 ≤ c ∧ c ≤ 0x3B)
  let half := fun (c : Nat) => decide (c = 2 ∨ c = 3)
  if !b8 qf then none
  else if pr then (if (half af ∧ bf = 2) ∨ (b8 af ∧ bf = 0x2C) then some 0 else none)
  else if af = 1 ∧ bf = 1 then some 1
  else if (af = 0 ∧ bf = 0) ∨ (half af ∧ half bf) ∨ (b8 af ∧ b8 bf) then some 0
  else none
/-- MCFG (R156). -/
def opMcfg (f : MF) : Op :=
  { srcs := [.absent, sx6 f.sa], held := mxBusy, weight := fun _ _ => 8,
    body := fun x vs s =>
      let v := (val vs 1).toNat
      match mcfgAcf (bits v 5 0) (bits v 11 6) (bits v 17 12) (bit v 18) with
      | none => .trap x.illop
      | some acf => .ok s { effs := [.raw csrMCF (wordN (acf <<< 19 + v % 2 ^ 19))] } }
def execMcfg (h : Head) (f : MF) (s : State) : Host.Outcome State Fault Refusal := issueOne (.mcfg h f) (opMcfg f) s
/-- MACT (R69, R166). -/
def opMact (f : MF) : Op :=
  { srcs := [.plain f.rr.toNat 520 0], held := mxBusy, weight := fun _ _ => 8,
    body := fun x vs s =>
      let v := vval vs 0
      let lo := Fmt.fp32.value (laneN v 4 0)
      let hi := Fmt.fp32.value (laneN v 4 1)
      if lo.isNaN || lo.isInf || hi.isNaN || hi.isInf || !lo.lt hi then .trap x.illop
      else .ok s { effs := [.act f.ri.toNat v] } }
def execMact (h : Head) (f : MF) (s : State) : Host.Outcome State Fault Refusal := issueOne (.mact h f) (opMact f) s
/-- A step word that the store may hold (R98, R99). -/
def stepOk (w : Word) : Bool :=
  let n := w.toNat
  let kind := bits n 63 60
  let p := bits n 59 57
  let lc := bits n 56 54
  let a := bits n 47 32
  let b := bits n 31 0
  let lo := b % 256
  let hi := bits b 15 8
  bits n 53 48 == 0 &&
  match kind with
  | 0 => p == 0 && lc == 0 && b == 0
  | 1 => lc == 0 && decide (1 ≤ lo ∧ lo ≤ 64 ∧ 1 ≤ hi ∧ b < 65536)
  | 2 => lc == 0 && decide (1 ≤ lo ∧ lo ≤ 96 ∧ 1 ≤ hi ∧ b < 65536 ∧ a < 6144)
  | 3 => p == 0 && lc == 0 && a == 0 && decide (1 ≤ b ∧ b < 256)
  | 4 => lc == 0 && decide (1 ≤ lo ∧ lo ≤ 64 ∧ b < 512)
  | 5 => lc == 0 && a == 0 && decide (b < 8)
  | 6 => p == 0 && b != 0
  | 7 => lc == 0 && a == 0
  | 8 => p == 0 && lc == 0 && a == 0 && b == 0
  | 9 => p == 0 && lc == 0 && a == 0 && b == 0
  | _ => false
/-- MSTP (R98, R166). -/
def opMstp (f : MF) : Op :=
  { srcs := [.plain f.rr.toNat 128 0], held := mxBusy, weight := fun _ _ => 8,
    body := fun x vs s =>
      let ws := (List.range 16).map fun i => wordN (laneN (vval vs 0) 8 i)
      if ws.all stepOk then .ok s { effs := [.mstp f.ri.toNat ws] } else .trap x.illop }
def execMstp (h : Head) (f : MF) (s : State) : Host.Outcome State Fault Refusal := issueOne (.mstp h f) (opMstp f) s
/-- A routine-table entry that may be written (R168). -/
def routineOk (e : Word) : Bool := bits e.toNat 4 1 == 0 && decide (bits e.toNat 11 5 ≤ 96)
/-- MRTN (R166, R168). -/
def opMrtn (f : MF) : Op :=
  { srcs := [.absent, sx6 f.sa], held := mxBusy, weight := fun _ _ => 8,
    body := fun x vs s =>
      if routineOk (val vs 1) then .ok s { effs := [.mrtn f.ri.toNat (val vs 1)] } else .trap x.illop }
def execMrtn (h : Head) (f : MF) (s : State) : Host.Outcome State Fault Refusal := issueOne (.mrtn h f) (opMrtn f) s

/-- The 1,024-byte blocks of the weight buffer that a range meets (R158). -/
def weightBlocks (w : Nat × Nat) : List Nat :=
  if w.2 = 0 then [] else
    let a := w.1 % 98304
    (List.range (min ((a % 1024 + w.2 + 1023) / 1024) 96)).map fun i => (a / 1024 + i) % 96
/-- n bytes of the weight buffer from `a`, cut at its blocks: address, place in the data from `i` on, and count (R158, R171). -/
def weightPieces : Nat → Nat → Nat → Nat → List (Nat × Nat × Nat)
  | 0, _, _, _ => []
  | fuel + 1, a, i, n =>
    if n = 0 then [] else let m := min n (1024 - a % 1024); (a, i, m) :: weightPieces fuel ((a + m) % 98304) (i + m) (n - m)
/-- A byte of the weight buffer is one that a `TLDW` in flight has written, or a later one (R171). -/
def Flight.hasWritten (f : Flight) (a : Nat) : Bool := f.skip.any fun r => decide (r.1 ≤ a ∧ a < r.1 + r.2)
/-- The pieces that a `TLDW` in flight has yet to write. -/
def Flight.owedPieces (f : Flight) (off n : Nat) : List (Nat × Nat × Nat) :=
  (weightPieces (n / 1024 + 2) (off % 98304) 0 n).filter fun p =>
    f.skip.isEmpty || (List.range p.2.2).any fun i => !f.hasWritten (p.1 + i)
/-- Address of a window access: reduced into the window (R158). -/
def windowAddr (w : Nat × Nat) (x : Nat) : Nat := w.1 + ((x : Int) - w.1).emod w.2 |>.toNat
/-- Read n bytes of a register-space window: an empty one reads +0, and so does the fixed block (R158, R214). DESIGN CHOICE
(log 48): an access that straddles the window's end is reduced byte by byte, so that its tail wraps to the window's start. -/
def Core.winRead (k : Core) (w : Nat × Nat) (x n : Nat) : Nat :=
  if w.2 = 0 then 0
  else
    (List.range n).foldl (fun v i =>
      let a := windowAddr w (x + i) % 131072
      if a < 0x1000 then v else v + (k.space a 1) <<< (8 * i)) 0
/-- Write n bytes of a register-space window, but for ranges that later writes have taken; the granules take their tags at END (R81,
R158, R214, R220). -/
def Core.winWrite (k : Core) (w : Nat × Nat) (skip : List (Nat × Nat)) (x n v : Nat) : Core :=
  if w.2 = 0 then k
  else
    (List.range n).foldl (fun k i =>
      let a := windowAddr w (x + i) % 131072
      if a < 0x1000 ∨ (skip.any fun r => decide (r.1 ≤ a ∧ a < r.1 + r.2)) then k
      else { k with regs := { k.regs with rs := linesWrite k.regs.rs a 1 ((v >>> (8 * i)) % 256) } }) k
/-- Read n bytes of the weight window (R158). -/
def Core.weightRead (k : Core) (w : Nat × Nat) (x n : Nat) : Nat :=
  if w.2 = 0 then 0
  else (List.range n).foldl (fun v i => v + (linesRead k.wbuf (windowAddr w (x + i) % 98304) 1) <<< (8 * i)) 0
/-- A staged value of B as plain data: class (0 and 1 finite, 2 and 3 infinite, by sign; 4 NaN), exponent, significand. -/
def packVal : XVal → Nat × Int × Nat
  | .fin s m e => (if s then 1 else 0, e, m)
  | .inf s => (if s then 3 else 2, 0, 0)
  | .nan => (4, 0, 0)
def unpackVal (p : Nat × Int × Nat) : XVal :=
  match p.1 with
  | 0 => .fin false p.2.2 p.2.1
  | 1 => .fin true p.2.2 p.2.1
  | 2 => .inf false
  | 3 => .inf true
  | _ => .nan
/-- Chunk size of a format of A (R60). -/
def chunkOf : Fmt → Nat
  | .fp64 => 4 | .fp32 => 8 | .bf16 => 16 | .fp16 => 16 | _ => 32
/-- Accumulator format (R155). -/
def accFmt (k : Core) : Fmt := if k.csrBits csrMCF 19 19 = 1 then .fp64 else .fp32
/-- Address and stride of a register-space descriptor (R157). -/
def descAddr (d : Word) : Nat := bits d.toNat 16 0
def descStride (d : Word) : Nat := bits d.toNat 47 32
/-- A weight pair: mean and log-deviation (R49). -/
def pairOf (bf q : Nat) : XVal × XVal :=
  if bf = 2 then (Fmt.bf16.value (q % 65536), (fmtOf 0x2C).value (bits q 23 16))
  else ((fmtOf 0x2C).value (q % 256), (fmtOf 0x28).value (bits q 15 8))
/-- The deviation code of a pair with its format (R49). -/
def pairSigma (bf q : Nat) : XVal := if bf = 2 then sigmaOf (fmtOf 0x2C) (bits q 23 16) else sigmaOf (fmtOf 0x28) (bits q 15 8)
/-- Flags of the command word (R91). -/
def cmdACC (w : Word) : Bool := bit w.toNat 39
def cmdPERT (w : Word) : Bool := bit w.toNat 38
def cmdTRB (w : Word) : Bool := bit w.toNat 37
def cmdBIAS (w : Word) : Bool := bit w.toNat 36
def cmdACT (w : Word) : Bool := bit w.toNat 35
def cmdATAB (w : Word) : Nat := bits w.toNat 34 33
def cmdRQ (w : Word) : Bool := bit w.toNat 32
/-- One step's fields (R98). -/
def stP (w : Nat) : Nat := bits w 59 57
def stA16 (w : Nat) : Nat := bits w 47 32
def stRows (w : Nat) : Nat := bits w 7 0
def stChunks (w : Nat) : Nat := bits w 15 8
/-- ALDA (R162). -/
def stepAlda (k : Core) (r : Routine) (w : Nat) : Routine :=
  let af := mcfFmt k 5 0
  let d := r.wc.getD (stP w) 0
  let n := stChunks w * chunkOf af
  let cells := (List.range (stRows w)).flatMap fun i => (List.range n).map fun j =>
    (i * 8192 + j, k.winRead r.entry.win.a (descAddr d + stA16 w + i * descStride d + j * af.wid) af.wid)
  { r with nr := stRows w, ka := 0, loadedA := n, stA := cells.filter fun c => c.2 != 0 }
/-- The staging value of element (k, n) of B (R163). DESIGN CHOICE (log 48): with BS = 1 the scale byte applies to every format of R157,
those too whose elements R264 lists as passing unchanged. -/
def bldwValue (k : Core) (r : Routine) (w kk n : Nat) : XVal × Flags :=
  let bf := k.csrBits csrMCF 11 6
  let pr := k.csrBits csrMCF 18 18 = 1
  let d := (r.wc.getD (stP w) 0).toNat
  let u := if pr then (if bf = 2 then 3 else 2) else (fmtOf bf).wid
  let row := if cmdTRB r.entry.word then n else kk
  let col := if cmdTRB r.entry.word then kk else n
  let q := k.weightRead r.entry.win.w (bits d 16 0 + stA16 w * 16 + row * bits d 63 48 + col * u) u
  if pr then
    let w6 := (r.wc.getD 6 0).toNat
    let ix := (bits w6 31 0 + kk * bits w6 63 32 + n) % 2 ^ 32
    let eps := if cmdPERT r.entry.word then
      some (epsHash (bits (r.wc.getD 5 0).toNat 31 0) (bits (r.wc.getD 4 0).toNat 31 0) ix) else none
    let x := pairWeight (fmtOf bf) (pairOf bf q).1 (pairSigma bf q) eps
    ((fmtOf bf).value x.1, x.2)
  else if bit d 47 then
    let sc := k.weightRead r.entry.win.w (bits d 16 0 + bits d 46 34 * 16 + kk / 32 * 128 + n) 1
    (if sc = 255 then .nan else ((fmtOf bf).value q).scale ((sc : Int) - 127), 0)
  else ((fmtOf bf).value q, 0)
/-- BLDW (R163). -/
def stepBldw (k : Core) (r : Routine) (w : Nat) : Routine :=
  let kc := stChunks w * chunkOf (mcfFmt k 5 0)
  let nc := stRows w
  let cells := (List.range kc).flatMap fun i => (List.range nc).map fun j => (i * 128 + j, bldwValue k r w i j)
  { r with nc := nc, kb := 0, loadedB := kc,
           stB := (cells.map fun c => (c.1, packVal c.2.1)).filter fun c => c.2 != (0, 0, 0),
           flags := cells.foldl (fun f c => f ||| c.2.2) r.flags }
/-- Partial sum (r, c). -/
def Routine.p (r : Routine) (i j : Nat) : Nat := r.part.get 0 (i * 96 + j)
/-- Replace every partial sum below NR and NC (R161). -/
def Routine.mapP (r : Routine) (nr : Nat) (g : Nat → Nat → Nat → Nat × Flags) : Routine :=
  (List.range nr).foldl (fun r i => (List.range r.nc).foldl (fun r j =>
    let (x, f) := g i j (r.p i j)
    { r with part := r.part.put 0 (i * 96 + j) x, flags := r.flags ||| f }) r) r
/-- One chunk of a MAC step (R60, R61, R162). -/
def stepChunk (k : Core) (r : Routine) : Routine :=
  let af := mcfFmt k 5 0
  let c := chunkOf af
  let term := fun (i j t : Nat) =>
    let ia := r.ka * c + t
    let ib := r.kb * c + t
    if r.loadedA ≤ ia ∨ r.loadedB ≤ ib then (XVal.fin false 0 0, XVal.fin false 0 0)
    else (af.value (r.stA.get 0 (i * 8192 + ia)), unpackVal (r.stB.get (0, 0, 0) (ib * 128 + j)))
  let r := r.mapP r.nr fun i j p => chunkStep (accFmt k) p ((List.range c).map (term i j))
  { r with ka := r.ka + 1, kb := r.kb + 1 }
/-- ACCW (R162): the core's register space with the sums written out, or the routine with sums read in. -/
def stepAccw (k : Core) (r : Routine) (w : Nat) : Core × Routine :=
  let d := r.wc.getD (stP w) 0
  let wid := (accFmt k).wid
  let addr := fun (i j : Nat) => descAddr d + stA16 w + i * descStride d + j * wid
  if bit w 8 then
    (k, r.mapP (stRows w) fun i j _ => (if cmdACC r.entry.word then k.winRead r.entry.win.acc (addr i j) wid else 0, 0))
  else
    ((List.range (stRows w)).foldl (fun k i => (List.range r.nc).foldl (fun k j =>
      k.winWrite r.entry.win.acc r.entry.skip (addr i j) wid (r.p i j)) k) k, r)
/-- The activation table of a number (R69, R166). -/
def activation (k : Core) (t : Nat) (x : Nat) : Nat × Flags :=
  let v := k.mx.act.get 0 t
  let at_ := fun i => Fmt.fp32.value (laneN v 4 i)
  activate (accFmt k) (at_ 0) (at_ 1) (fun i => (at_ (2 + i), at_ (66 + i))) ((accFmt k).value x)
/-- Requantisation of a row's block (R59, R164). -/
def requantise (k : Core) (r : Routine) (i j : Nat) : Core × Flags :=
  let d := r.wc.getD 7 0
  let cols := (List.range 32).map fun t => 32 * j + t
  let (sc, codes, fl) := quantise (mcfFmt k 17 12) (cols.map fun c => if c < r.nc then (accFmt k).value (r.p i c) else .fin false 0 0)
  let codes := (cols.zip codes).map fun (c, q) => if c < r.nc then q else 0
  (k.winWrite r.entry.win.q r.entry.skip (descAddr d + i * descStride d + 40 * j) 40 (ofLanes 1 (codes ++ [sc])), fl)
/-- CHN (R164). -/
def stepChn (k : Core) (r : Routine) (w : Nat) : Core × Routine :=
  let acc := accFmt k
  let cmd := r.entry.word
  let r := if bit w 0 && cmdBIAS cmd then
      r.mapP r.nr fun _ j p =>
        let b := k.winRead r.entry.win.bias (descAddr (r.wc.getD (stP w) 0) + j * acc.wid) acc.wid
        let (x, f) := (acc.value p).add 0 (acc.value b)
        let (y, g) := ovf acc 0 x
        (y, f ||| g)
    else r
  let r := if bit w 1 && cmdACT cmd then r.mapP r.nr fun _ _ p => activation k (cmdATAB cmd) p else r
  if bit w 2 && cmdRQ cmd then
    (List.range r.nr).foldl (fun (k, r) i => (List.range ((r.nc + 31) / 32)).foldl (fun (k, r) j =>
      let (k, f) := requantise k r i j
      (k, { r with flags := r.flags ||| f })) (k, r)) (k, r)
  else (k, r)
/-- A BLDW step waits for a block of weight bytes that an earlier `TLDW` still owes (R171). -/
def bldwWaits (k : Core) (r : Routine) : Bool :=
  k.flights.any fun f =>
    match f.what with
    | .tldw off data => decide (f.id < r.entry.before) &&
        (f.owedPieces off data.length).any fun p => (weightBlocks r.entry.win.w).contains (p.1 / 1024)
    | _ => false
/-- One step of the sequencer (R161, R162). -/
def Core.sequence (k : Core) (r : Routine) : Core × Routine :=
  let w := (k.mx.store.get 0 r.step).toNat
  let r := { r with bndy := false }
  let next := { r with step := (r.step + 1) % 4096 }
  match bits w 63 60 with
  | 1 => (k, stepAlda k next w)
  | 2 => if bldwWaits k r then (k, r) else (k.perf 14 (if cmdPERT r.entry.word then stChunks w * chunkOf (mcfFmt k 5 0) * stRows w else 0),
      stepBldw k next w)
  | 3 => (k, (List.range (stRows w)).foldl (fun r _ => stepChunk k r) next)
  | 4 => stepAccw k next w
  | 5 => stepChn k next w
  | 6 =>
    let lc := bits w 56 54
    let n := r.lc.getD lc 0 + 1
    if n < bits w 31 0 then
      (k, { r with lc := r.lc.set lc n, step := ((r.step : Int) + sextN (stA16 w) 16).emod 4096 |>.toNat })
    else (k, { next with lc := r.lc.set lc 0 })
  | 7 => (k, { next with wc := r.wc.set (stP w) (wordI (sgn (r.wc.getD (stP w) 0) + sextN (bits w 31 0) 32)) })
  | 8 => (k, { next with bndy := true })
  | 9 => (k, { r with ended := true })
  | _ => (k, next)

/-- The head of the queue may start: the routine before it has ended, and what was issued before it and writes the
register space has done so (R159). -/
def Core.mxReady (k : Core) : Option MxEntry :=
  match k.mx.run, k.mx.queue with
  | none, e :: _ =>
    if k.flights.any fun f => decide (f.id < e.before) && (match f.what with
      | .vres _ _ _ _ _ _ => true
      | .load (.space _ _) _ => true
      | _ => false) then none else some e
  | _, _ => none
/-- An `MCALL` issued before operation `id` still marks block `b` of the weight buffer (R158). -/
def Core.blockMarked (k : Core) (id b : Nat) : Bool :=
  k.mx.entries.any fun e => decide (e.before < id) && e.zero.isNone && (weightBlocks e.win.w).contains b
/-- An earlier `MCALL` still marks a block that a `TLDW` has yet to write (R158, R171). -/
def Core.blockHeld (k : Core) (f : Flight) (off n : Nat) : Bool := (f.owedPieces off n).any fun p => k.blockMarked f.id (p.1 / 1024)
/-- A `TLDW` in flight waits for a routine that stands in the queue. -/
def Core.ldwHeld (k : Core) : Bool := k.flights.any fun f => match f.what with | .tldw off d => k.blockHeld f off d.length | _ => false
/-- An entry of a copy engine's queue holds a `TLDW` whose writes are held: it stays there (R171). -/
def Core.entryHeld (k : Core) (q : Nat × Nat × Nat) : Bool :=
  k.flights.any fun f => decide (q.2.1 ≤ f.id ∧ f.id < q.2.2) && match f.what with | .tldw off d => k.blockHeld f off d.length | _ => false
/-- At the end of a cycle each engine takes the first entry of its queue, unless that one is held, or the agenda keeps the engine
busy (R171, R301; log 47). -/
def Core.engineTakes (k : Core) : Core :=
  let q := k.engq.filter k.occupies
  let take := fun (q : List (Nat × Nat × Nat)) (e : Nat) =>
    if 0 < k.engBusy.get 0 e then q
    else match q.find? fun x => x.1 == e with
      | some x => if k.entryHeld x then q else q.erase x
      | none => q
  { k with engq := take (take q 0) 1, engBusy := k.engBusy.map fun b => (b.1, b.2 - 1) }
/-- The engines of a core stop at their boundaries: its team's pre-emption has begun, or it has yielded (R126, R242); but
routines for which a `TLDW` in flight waits still run, for that must complete (R242, R360; log 24). -/
def State.halting (s : State) (c : Nat) : Bool :=
  ((s.teamOf c).leaving || (s.core c).ctl.mode == .yielded) && !(s.core c).ldwHeld
/-- ROUTINE_START (R159, R161). -/
def execRoutineStart (c : Nat) (s : State) : Host.Outcome State Fault Refusal :=
  let k := s.core c
  match k.mxReady with
  | some e =>
    if e.zero.isSome || s.halting c then .next s
    else
      let r : Routine := { entry := e, step := bits (k.mx.routines.get 0 (bits e.word.toNat 47 40)).toNat 63 52, wc := e.wc,
                           lc := List.replicate 8 0 }
      .next (s.setCore c { k with mx := { k.mx with queue := k.mx.queue.drop 1, run := some r } })
  | none => .next s
/-- SEQUENCER_STEP (R161, R162). -/
def execSequencerStep (c : Nat) (s : State) : Host.Outcome State Fault Refusal :=
  let k := s.core c
  match k.mx.run with
  | some r =>
    if r.ended || (r.bndy && s.halting c) then .next s
    else
      let (k, r) := k.sequence r
      .next (s.setCore c { k with mx := { k.mx with run := some r } })
  | none => .next s
/-- The granules that a routine's END, or an `MZRO`'s write, retags: those that no later write has touched (R81, R159, R160,
R214). -/
def retagged (e : MxEntry) : List Nat := (e.writes.flatMap fun w => granulesOf w.1 w.2).filter fun g => decide (32 ≤ g) && !touched e.skip g
/-- ROUTINE_END (R159): tags, flags, marks and the count of class mx. -/
def execRoutineEnd (c : Nat) (s : State) : Host.Outcome State Fault Refusal :=
  let k := s.core c
  match k.mx.run with
  | some r =>
    if r.ended then
      .next (s.setCore c ((({ k with mx := { k.mx with run := none } }.retag (retagged r.entry) r.entry.guard).orFlags r.flags).addOut 4 (-1)))
    else .next s
  | none => .next s
/-- MZRO_WRITE (R160): it waits in the queue while its core is halting (R242). -/
def execMzroWrite (c : Nat) (s : State) : Host.Outcome State Fault Refusal :=
  let k := s.core c
  match k.mxReady with
  | some e =>
    match e.zero with
    | some (a, n) =>
      if s.halting c then .next s
      else
        .next (s.setCore c (({ k with mx := { k.mx with queue := k.mx.queue.drop 1 } }.writeAround a n 0 e.guard e.before e.skip).addOut 4 (-1)))
    | none => .next s
  | none => .next s

end Sys2Proof.Machine
end

