-- ==== Sys2Proof/Machine/Vector.lean ====
section
/-! DEFINITION. The vector operations (R139-R153). -/
namespace Sys2Proof.Machine

/-- Operations of class F on n lanes (R138, R141): `g` gives the exact result of a lane and its flags. -/
def floatOp (f : V2) (srcs : List Src) (lat : Nat) (g : Nat → XVal → XVal → XVal × Flags) : Op :=
  vecOp f.vd srcs lat (weightAD f.fp) (fun x k => !(k.pair x f.fp).classF) fun k x vs =>
    let p := k.pair x.slot f.fp
    let m := modeOf p f.rm
    let u := vval vs 0
    let v := vval vs 1
    lanesOf p.d.wid p.count fun i =>
      let (r, fl) := g m (p.a.value (laneN u p.a.wid i)) (p.a.value (laneN v p.a.wid i))
      let (c, fl') := voutF p.d (satV2 p f.fn) m r
      (c, fl ||| fl')
/-- Three-source operations of class F (R141); the mode is the pair's. -/
def floatOp3 (f : V3) (g : Nat → XVal → XVal → XVal → XVal × Flags) : Op :=
  vecOp f.vd [vsrc f.va f.ha, .v f.vb.toNat 128 false, vcsrc f] 4 (weightAD f.fp) (fun x k => !(k.pair x f.fp).classF)
    fun k x vs =>
    let p := k.pair x.slot f.fp
    let at_ := fun (j i : Nat) => p.a.value (laneN (vval vs j) p.a.wid i)
    lanesOf p.d.wid p.count fun i =>
      let (r, fl) := g p.rm (at_ 0 i) (at_ 1 i) (at_ 2 i)
      let (c, fl') := voutF p.d (satV3 p) p.rm r
      (c, fl ||| fl')
/-- Operations of class I on n lanes (R143): `g` gives the exact result from the raw lanes. -/
def intOp (f : V2) (srcs : List Src) (lat : Nat) (g : Fmt → Nat → Nat → Int) : Op :=
  vecOp f.vd srcs lat (weightAD f.fp) (fun x k => !(k.pair x f.fp).classI) fun k x vs =>
    let p := k.pair x.slot f.fp
    lanesOf p.d.wid p.count fun i =>
      voutI p.d (satV2 p f.fn) 0 (g p.a (laneN (vval vs 0) p.a.wid i) (laneN (vval vs 1) p.a.wid i))
/-- Operations on lanes of width wid(A), D ignored, no flag (R144, R146-R148). -/
def laneOp (f : V2) (srcs : List Src) (lat : Nat) (illop : Fmt → Bool) (g : Fmt → Nat → Nat → Nat → Nat) : Op :=
  vecOp f.vd srcs lat (weightA f.fp) (fun x k => illop (k.pair x f.fp).a) fun k x vs =>
    let a := (k.pair x.slot f.fp).a
    lanesOf a.wid (128 / a.wid) fun i => (g a (vval vs 0) (vval vs 1) i, 0)
/-- Operations on all 1,024 bits (R144, R147). -/
def bitsOp (f : V2) (srcs : List Src) (g : Nat → Nat → Nat) : Op :=
  vecOp f.vd srcs 2 weight16 (fun _ _ => false) fun _ _ vs => (g (vval vs 0) (vval vs 1), 0)
/-- Both sources of a V2 operation, and the first alone. -/
def srcAB (f : V2) : List Src := [vsrc f.va f.ha, vsrc f.vb f.hb]
def srcA (f : V2) : List Src := [vsrc f.va f.ha]

/-- VRND's value (R141). -/
def roundIntegral (m : Nat) (x : XVal) : XVal × Flags :=
  match x with
  | .fin s n e => let (q, nx) := XVal.toInteger m s n e; (.fin s q 0, if nx then fNX else 0)
  | x => (x, 0)
/-- Functions of one operand (R63, R142): class F, and A not FP64 except in `VSQRT`. -/
def funOp (f : V2) (g : Fun) : Op :=
  vecOp f.vd (srcA f) 12 (weightAD f.fp)
    (fun x k => let p := k.pair x f.fp; !p.classF || (g != .sqrt && p.a == .fp64)) fun k x vs =>
    let p := k.pair x.slot f.fp
    let m := modeOf p f.rm
    lanesOf p.d.wid p.count fun i =>
      let (r, fl) := g.eval (p.a == .fp32 && g != .sqrt) m (p.a.value (laneN (vval vs 0) p.a.wid i))
      let (c, fl') := voutF p.d (satV2 p f.fn) m r
      (c, fl ||| fl')
/-- The conditions of `VCMP` on values that may be NaN, and on integers (R146). -/
def cmpF (c : Nat) (x y : XVal) : Bool :=
  match c with
  | 0 => x.eqv y | 1 => !x.eqv y | 2 => x.lt y
  | 3 => y.lt x || x.eqv y | 4 => x.lt y || x.eqv y | 5 => y.lt x
  | _ => x.isNaN || y.isNaN
def cmpI (c : Nat) (x y : Int) : Bool :=
  match c with
  | 0 => decide (x = y) | 1 => decide (x ≠ y) | 2 => decide (x < y) | 3 => decide (y ≤ x) | 4 => decide (x ≤ y)
  | 5 => decide (y < x) | _ => false
/-- Shift amounts of a full width or more (R144). -/
def shiftLane (right arith : Bool) (w x k : Nat) : Nat :=
  let n := 8 * w
  if !right then (if n ≤ k then 0 else (x <<< k) % 2 ^ n)
  else if arith then truncI (sextN x n / (2 ^ min k n : Nat)) n
  else if n ≤ k then 0 else x >>> k
/-- `VSHF`'s patterns (R148): source (0 va, 1 vb) and lane of result lane i of n. -/
def shufflePat (pat n i : Nat) : Nat × Nat :=
  match pat with
  | 0 => (i % 2, i / 2)
  | 1 => (i % 2, n / 2 + i / 2)
  | 2 => (i / (n / 2), 2 * (i % (n / 2)))
  | _ => (i / (n / 2), 2 * (i % (n / 2)) + 1)
/-- `tree_sum` of R62 on codes of D, level by level. -/
def treeSum (d : Fmt) (mode : Nat) : Nat → List XVal → Flags → XVal × Flags
  | 0, l, fl => (l.headD .nan, fl)
  | fuel + 1, l, fl =>
    match l with
    | [x] => (x, fl)
    | l =>
      let pairs := (List.range (l.length / 2)).map fun i =>
        let (r, g) := (l.getD (2 * i) .nan).add mode (l.getD (2 * i + 1) .nan)
        let (c, h) := ovf d mode r
        (d.value c, g ||| h)
      treeSum d mode fuel (pairs.map Prod.fst) (pairs.foldl (fun f x => f ||| x.2) fl)
/-- The steps of `VSCAN` (R149): codes of D. -/
def scanF (d : Fmt) (mode : Nat) : List XVal → Option XVal → List Nat × Flags
  | [], _ => ([], 0)
  | x :: r, y =>
    let (v, g) := match y with
      | none => (x, 0)
      | some y => y.add mode x
    let (c, h) := ovf d mode v
    let (cs, fl) := scanF d mode r (some (d.value c))
    (c :: cs, g ||| h ||| fl)
/-- The largest of some values by R149. -/
def maxOf (l : List XVal) : XVal := match l with | [] => .nan | x :: r => r.foldl XVal.maxv x
def maxOfI (l : List Int) : Int := match l with | [] => 0 | x :: r => r.foldl max x
/-- The formats of `VQNT` and `VDQNT` (R150, R151). -/
def isHalfOrSingle (f : Fmt) : Bool := f == .fp32 || f == .bf16 || f == .fp16

/-- VADD (R141). -/
def opVadd (f : V2) : Op :=
  floatOp f (srcAB f) 4 fun m a b => a.add m b
def execVadd (h : Head) (f : V2) (s : State) : Host.Outcome State Fault Refusal := issueOne (.vadd h f) (opVadd f) s
/-- VSUB (R141). -/
def opVsub (f : V2) : Op :=
  floatOp f (srcAB f) 4 fun m a b => a.add m b.neg
def execVsub (h : Head) (f : V2) (s : State) : Host.Outcome State Fault Refusal := issueOne (.vsub h f) (opVsub f) s
/-- VMUL (R141). -/
def opVmul (f : V2) : Op :=
  floatOp f (srcAB f) 4 fun _ a b => a.mul b
def execVmul (h : Head) (f : V2) (s : State) : Host.Outcome State Fault Refusal := issueOne (.vmul h f) (opVmul f) s
/-- An operation that raises no flag. -/
def Op.quiet (eval : Core → Ctx → List SrcVal → Nat × Flags) (k : Core) (x : Ctx) (vs : List SrcVal) : Nat × Flags := ((eval k x vs).1, 0)
/-- The smaller or the larger of two lanes, of class F, without flags, those of `vout` included (R141). -/
def pickOp (f : V2) (g : XVal → XVal → XVal) : Op :=
  vecOp f.vd (srcAB f) 2 (weightAD f.fp) (fun x k => !(k.pair x f.fp).classF) (Op.quiet fun k x vs =>
    let p := k.pair x.slot f.fp
    lanesOf p.d.wid p.count fun i =>
      voutF p.d (satV2 p f.fn) (modeOf p f.rm) (g (p.a.value (laneN (vval vs 0) p.a.wid i)) (p.a.value (laneN (vval vs 1) p.a.wid i))))
/-- VMIN (R141). -/
def opVmin (f : V2) : Op :=
  pickOp f XVal.minv
def execVmin (h : Head) (f : V2) (s : State) : Host.Outcome State Fault Refusal := issueOne (.vmin h f) (opVmin f) s
/-- VMAX (R141). -/
def opVmax (f : V2) : Op :=
  pickOp f XVal.maxv
def execVmax (h : Head) (f : V2) (s : State) : Host.Outcome State Fault Refusal := issueOne (.vmax h f) (opVmax f) s
/-- VABS (R141). -/
def opVabs (f : V2) : Op :=
  floatOp f (srcA f) 2 fun _ a _ => (a.abs, 0)
def execVabs (h : Head) (f : V2) (s : State) : Host.Outcome State Fault Refusal := issueOne (.vabs h f) (opVabs f) s
/-- VNEG (R141). DESIGN CHOICE (log 48): the format without -0 is that of the result (R50), so that a 0 of an operand format without -0
gives -0 where the result's format has one. -/
def opVneg (f : V2) : Op :=
  floatOp f (srcA f) 2 fun _ a _ => (a.neg, 0)
def execVneg (h : Head) (f : V2) (s : State) : Host.Outcome State Fault Refusal := issueOne (.vneg h f) (opVneg f) s
/-- VRND (R141). -/
def opVrnd (f : V2) : Op :=
  floatOp f (srcA f) 4 fun m a _ => roundIntegral m a
def execVrnd (h : Head) (f : V2) (s : State) : Host.Outcome State Fault Refusal := issueOne (.vrnd h f) (opVrnd f) s
/-- VDIV (R141). -/
def opVdiv (f : V2) : Op :=
  floatOp f (srcAB f) 12 fun _ a b => a.div b
def execVdiv (h : Head) (f : V2) (s : State) : Host.Outcome State Fault Refusal := issueOne (.vdiv h f) (opVdiv f) s
/-- VFMA (R141). -/
def opVfma (f : V3) : Op :=
  floatOp3 f fun m a b c => XVal.fma m a b c
def execVfma (h : Head) (f : V3) (s : State) : Host.Outcome State Fault Refusal := issueOne (.vfma h f) (opVfma f) s
/-- VFMS (R141). -/
def opVfms (f : V3) : Op :=
  floatOp3 f fun m a b c => XVal.fma m a b c.neg
def execVfms (h : Head) (f : V3) (s : State) : Host.Outcome State Fault Refusal := issueOne (.vfms h f) (opVfms f) s
/-- VCLMP (R141): it raises no flag. -/
def opVclmp (f : V3) : Op :=
  vecOp f.vd [vsrc f.va f.ha, .v f.vb.toNat 128 false, vcsrc f] 4 (weightAD f.fp)
    (fun x k => let p := k.pair x f.fp; !(p.classF || p.classI)) (Op.quiet fun k x vs =>
    let p := k.pair x.slot f.fp
    let at_ := fun (j i : Nat) => laneN (vval vs j) p.a.wid i
    lanesOf p.d.wid p.count fun i =>
      if p.classF then
        let b := p.a.value (at_ 1 i)
        let c := p.a.value (at_ 2 i)
        voutF p.d (satV3 p) p.rm (((p.a.value (at_ 0 i)).maxv b).minv c)
      else voutI p.d (satV3 p) 0 (min (max (readAs p.a (at_ 0 i)) (readAs p.a (at_ 1 i))) (readAs p.a (at_ 2 i))))
def execVclmp (h : Head) (f : V3) (s : State) : Host.Outcome State Fault Refusal := issueOne (.vclmp h f) (opVclmp f) s
/-- VSQRT (R142). -/
def opVsqrt (f : V2) : Op :=
  funOp f .sqrt
def execVsqrt (h : Head) (f : V2) (s : State) : Host.Outcome State Fault Refusal := issueOne (.vsqrt h f) (opVsqrt f) s
/-- VRCP (R142). -/
def opVrcp (f : V2) : Op :=
  funOp f .rcp
def execVrcp (h : Head) (f : V2) (s : State) : Host.Outcome State Fault Refusal := issueOne (.vrcp h f) (opVrcp f) s
/-- VRSQ (R142). -/
def opVrsq (f : V2) : Op :=
  funOp f .rsq
def execVrsq (h : Head) (f : V2) (s : State) : Host.Outcome State Fault Refusal := issueOne (.vrsq h f) (opVrsq f) s
/-- VEX2 (R142). -/
def opVex2 (f : V2) : Op :=
  funOp f .ex2
def execVex2 (h : Head) (f : V2) (s : State) : Host.Outcome State Fault Refusal := issueOne (.vex2 h f) (opVex2 f) s
/-- VLG2 (R142). -/
def opVlg2 (f : V2) : Op :=
  funOp f .lg2
def execVlg2 (h : Head) (f : V2) (s : State) : Host.Outcome State Fault Refusal := issueOne (.vlg2 h f) (opVlg2 f) s
/-- VTNH (R142). -/
def opVtnh (f : V2) : Op :=
  funOp f .tnh
def execVtnh (h : Head) (f : V2) (s : State) : Host.Outcome State Fault Refusal := issueOne (.vtnh h f) (opVtnh f) s
/-- VIADD (R143). -/
def opViadd (f : V2) : Op :=
  intOp f (srcAB f) 2 fun t a b => readAs t a + readAs t b
def execViadd (h : Head) (f : V2) (s : State) : Host.Outcome State Fault Refusal := issueOne (.viadd h f) (opViadd f) s
/-- VISUB (R143). -/
def opVisub (f : V2) : Op :=
  intOp f (srcAB f) 2 fun t a b => readAs t a - readAs t b
def execVisub (h : Head) (f : V2) (s : State) : Host.Outcome State Fault Refusal := issueOne (.visub h f) (opVisub f) s
/-- VIMUL (R143). -/
def opVimul (f : V2) : Op :=
  intOp f (srcAB f) 4 fun t a b => readAs t a * readAs t b
def execVimul (h : Head) (f : V2) (s : State) : Host.Outcome State Fault Refusal := issueOne (.vimul h f) (opVimul f) s
/-- VIMIN (R143). -/
def opVimin (f : V2) : Op :=
  intOp f (srcAB f) 2 fun t a b => min (readAs t a) (readAs t b)
def execVimin (h : Head) (f : V2) (s : State) : Host.Outcome State Fault Refusal := issueOne (.vimin h f) (opVimin f) s
/-- VIMAX (R143). -/
def opVimax (f : V2) : Op :=
  intOp f (srcAB f) 2 fun t a b => max (readAs t a) (readAs t b)
def execVimax (h : Head) (f : V2) (s : State) : Host.Outcome State Fault Refusal := issueOne (.vimax h f) (opVimax f) s
/-- VCLZ (R143). -/
def opVclz (f : V2) : Op :=
  intOp f (srcA f) 2 fun t a _ => (leadingZeros (8 * t.wid) a : Nat)
def execVclz (h : Head) (f : V2) (s : State) : Host.Outcome State Fault Refusal := issueOne (.vclz h f) (opVclz f) s
/-- VPOPC (R143). -/
def opVpopc (f : V2) : Op :=
  intOp f (srcA f) 2 fun t a _ => (onesCount (8 * t.wid) a : Nat)
def execVpopc (h : Head) (f : V2) (s : State) : Host.Outcome State Fault Refusal := issueOne (.vpopc h f) (opVpopc f) s
/-- VAND (R144). -/
def opVand (f : V2) : Op :=
  bitsOp f (srcAB f) fun a b => a &&& b
def execVand (h : Head) (f : V2) (s : State) : Host.Outcome State Fault Refusal := issueOne (.vand h f) (opVand f) s
/-- VOR (R144). -/
def opVor (f : V2) : Op :=
  bitsOp f (srcAB f) fun a b => a ||| b
def execVor (h : Head) (f : V2) (s : State) : Host.Outcome State Fault Refusal := issueOne (.vor h f) (opVor f) s
/-- VXOR (R144). -/
def opVxor (f : V2) : Op :=
  bitsOp f (srcAB f) fun a b => a ^^^ b
def execVxor (h : Head) (f : V2) (s : State) : Host.Outcome State Fault Refusal := issueOne (.vxor h f) (opVxor f) s
/-- VMOV (R147). -/
def opVmov (f : V2) : Op :=
  bitsOp f (srcA f) fun a _ => a
def execVmov (h : Head) (f : V2) (s : State) : Host.Outcome State Fault Refusal := issueOne (.vmov h f) (opVmov f) s
/-- VSHL (R144). -/
def opVshl (f : V2) : Op :=
  laneOp f (srcAB f) 2 Fmt.isFloat fun t a b i => shiftLane false false t.wid (laneN a t.wid i) (laneN b t.wid i)
def execVshl (h : Head) (f : V2) (s : State) : Host.Outcome State Fault Refusal := issueOne (.vshl h f) (opVshl f) s
/-- VSHR (R144). -/
def opVshr (f : V2) : Op :=
  laneOp f (srcAB f) 2 Fmt.isFloat fun t a b i => shiftLane true false t.wid (laneN a t.wid i) (laneN b t.wid i)
def execVshr (h : Head) (f : V2) (s : State) : Host.Outcome State Fault Refusal := issueOne (.vshr h f) (opVshr f) s
/-- VSRA (R144). -/
def opVsra (f : V2) : Op :=
  laneOp f (srcAB f) 2 Fmt.isFloat fun t a b i => shiftLane true true t.wid (laneN a t.wid i) (laneN b t.wid i)
def execVsra (h : Head) (f : V2) (s : State) : Host.Outcome State Fault Refusal := issueOne (.vsra h f) (opVsra f) s
/-- VCVT (R145). -/
def opVcvt (f : V2) : Op :=
  vecOp f.vd (srcA f) 4 (weightAD f.fp) (fun _ _ => false) fun k x vs =>
    let p := k.pair x.slot f.fp
    let m := modeOf p f.rm
    lanesOf p.d.wid p.count fun i =>
      let a := laneN (vval vs 0) p.a.wid i
      match p.a, p.d with
      | .int sg w, d => voutI d (satV2 p f.fn) m (readInt sg w a)
      | t, .int sg w => toIntType sg w m (t.value a)
      | t, d => voutF d (satV2 p f.fn) m (t.value a)
def execVcvt (h : Head) (f : V2) (s : State) : Host.Outcome State Fault Refusal := issueOne (.vcvt h f) (opVcvt f) s
/-- VCMP (R146). -/
def opVcmp (f : V2) : Op :=
  laneOp f (srcAB f) 2 (fun _ => false) fun t a b i =>
    let x := laneN a t.wid i
    let y := laneN b t.wid i
    let c := if t.isFloat then cmpF f.fn.toNat (t.value x) (t.value y) else cmpI f.fn.toNat (readAs t x) (readAs t y)
    if c then 2 ^ (8 * t.wid) - 1 else 0
def execVcmp (h : Head) (f : V2) (s : State) : Host.Outcome State Fault Refusal := issueOne (.vcmp h f) (opVcmp f) s
/-- VSEL (R147). -/
def opVsel (f : V3) : Op :=
  vecOp f.vd [vsrc f.va f.ha, .v f.vb.toNat 128 false, vcsrc f] 2 (weightA f.fp) (fun _ _ => false) fun k x vs =>
    let w := (k.pair x.slot f.fp).a.wid
    lanesOf w (128 / w) fun i => (if laneN (vval vs 2) w i ≠ 0 then laneN (vval vs 0) w i else laneN (vval vs 1) w i, 0)
def execVsel (h : Head) (f : V3) (s : State) : Host.Outcome State Fault Refusal := issueOne (.vsel h f) (opVsel f) s
/-- VBCST (R147). -/
def opVbcst (f : V2) : Op :=
  vecOp f.vd [ssrc f.va] 2 (weightD f.fp) (fun _ _ => false) fun k x vs =>
    let w := (k.pair x.slot f.fp).d.wid
    lanesOf w (128 / w) fun _ => (vval vs 0 % 2 ^ (8 * w), 0)
def execVbcst (h : Head) (f : V2) (s : State) : Host.Outcome State Fault Refusal := issueOne (.vbcst h f) (opVbcst f) s
/-- VLI (R147). -/
def opVli (f : VI) : Op :=
  vecOp f.vd [] 2 (weightD f.fp) (fun _ _ => false) fun k x _ =>
    let d := (k.pair x.slot f.fp).d
    let v := match d with
      | .fp64 => (ovf .fp64 0 (Fmt.fp32.value f.imm.toNat)).1
      | .int true 8 => (sx f.imm).toNat
      | _ => f.imm.toNat % 2 ^ (8 * d.wid)
    lanesOf d.wid (128 / d.wid) fun _ => (v, 0)
def execVli (h : Head) (f : VI) (s : State) : Host.Outcome State Fault Refusal := issueOne (.vli h f) (opVli f) s
/-- VPERM (R148). -/
def opVperm (f : V2) : Op :=
  laneOp f (srcAB f) 6 (fun _ => false) fun t a b i => laneN a t.wid (laneN b t.wid i % (128 / t.wid))
def execVperm (h : Head) (f : V2) (s : State) : Host.Outcome State Fault Refusal := issueOne (.vperm h f) (opVperm f) s
/-- VSHF (R148). -/
def opVshf (f : V2) : Op :=
  laneOp f (srcAB f) 6 (fun _ => false) fun t a b i =>
    let (src, j) := shufflePat f.fn.toNat (128 / t.wid) i
    laneN (if src = 0 then a else b) t.wid j
def execVshf (h : Head) (f : V2) (s : State) : Host.Outcome State Fault Refusal := issueOne (.vshf h f) (opVshf f) s
/-- VRSUM (R62, R149). -/
def opVrsum (f : V2) : Op :=
  vecOp f.vd (srcA f) 6 (weightAD f.fp) (fun x k => let p := k.pair x f.fp; !(p.classF || p.classI)) fun k x vs =>
    let p := k.pair x.slot f.fp
    let m := modeOf p f.rm
    let l := (List.range (128 / p.a.wid)).map fun i => laneN (vval vs 0) p.a.wid i
    if p.classF then
      let (r, fl) := treeSum p.d m 8 (l.map p.a.value) 0
      ((ovf p.d m r).1, fl)
    else (truncI (l.map (readAs p.a)).sum (8 * p.d.wid), 0)
def execVrsum (h : Head) (f : V2) (s : State) : Host.Outcome State Fault Refusal := issueOne (.vrsum h f) (opVrsum f) s
/-- VRMAX (R149). -/
def opVrmax (f : V2) : Op :=
  vecOp f.vd (srcA f) 6 (weightAD f.fp)
    (fun x k => let p := k.pair x f.fp; !p.a.isFloat && (p.d.isFloat || narrowing p.a p.d)) fun k x vs =>
    let p := k.pair x.slot f.fp
    let m := modeOf p f.rm
    let l := (List.range (128 / p.a.wid)).map fun i => laneN (vval vs 0) p.a.wid i
    match p.a, p.d with
    | .int _ _, d => (truncI (maxOfI (l.map (readAs p.a))) (8 * d.wid), 0)
    | t, .int sg w => toIntType sg w m (maxOf (l.map t.value))
    | t, d => ovf d m (maxOf (l.map t.value))
def execVrmax (h : Head) (f : V2) (s : State) : Host.Outcome State Fault Refusal := issueOne (.vrmax h f) (opVrmax f) s
/-- VSCAN (R149). -/
def opVscan (f : V2) : Op :=
  vecOp f.vd (srcA f) 6 (weightAD f.fp) (fun x k => let p := k.pair x f.fp; !(p.classF || p.classI)) fun k x vs =>
    let p := k.pair x.slot f.fp
    let l := (List.range p.count).map fun i => laneN (vval vs 0) p.a.wid i
    if p.classF then
      let (cs, fl) := scanF p.d (modeOf p f.rm) (l.map p.a.value) none
      (ofLanes p.d.wid cs, fl)
    else
      lanesOf p.d.wid p.count fun i => (truncI ((l.take (i + 1)).map (readAs p.a)).sum (8 * p.d.wid), 0)
def execVscan (h : Head) (f : V2) (s : State) : Host.Outcome State Fault Refusal := issueOne (.vscan h f) (opVscan f) s
/-- VQNT (R59, R150). -/
def opVqnt (f : V2) : Op :=
  vecOp f.vd (srcA f) 6 (weightAD f.fp) (fun x k => let p := k.pair x f.fp; !(isHalfOrSingle p.a && p.d.isB8)) fun k x vs =>
    let p := k.pair x.slot f.fp
    let (sc, q, fl) := quantise p.d ((List.range 32).map fun i => p.a.value (laneN (vval vs 0) p.a.wid i))
    (ofLanes 1 (q ++ [sc]), fl)
def execVqnt (h : Head) (f : V2) (s : State) : Host.Outcome State Fault Refusal := issueOne (.vqnt h f) (opVqnt f) s
/-- VDQNT (R48, R151). -/
def opVdqnt (f : V2) : Op :=
  vecOp f.vd (srcA f) 6 (weightAD f.fp) (fun x k => let p := k.pair x f.fp; !(p.a.isB8 && isHalfOrSingle p.d)) fun k x vs =>
    let p := k.pair x.slot f.fp
    let sc := laneN (vval vs 0) 1 32
    lanesOf p.d.wid 32 fun i => blkDec (laneN (vval vs 0) 1 i) sc p.a p.d (modeOf p f.rm)
def execVdqnt (h : Head) (f : V2) (s : State) : Host.Outcome State Fault Refusal := issueOne (.vdqnt h f) (opVdqnt f) s
/-- VEPS (R70, R152). -/
def opVeps (f : V3) : Op :=
  vecOp f.vd [ssrc f.va, ssrc f.vb, .s (bits f.vc.toNat 5 0)] 6 weight16 (fun _ _ => false) fun _ _ vs =>
    lanesOf 4 32 fun i => ((ovf .fp32 0 (epsHash (vval vs 0) (vval vs 1) (vval vs 2 + i))).1, 0)
def execVeps (h : Head) (f : V3) (s : State) : Host.Outcome State Fault Refusal := issueOne (.veps h f) (opVeps f) s
/-- VCFG (R139, R140). -/
def opVcfg (f : VI) : Op :=
  { weight := weight16,
    held := fun s c x => (s.core c).flights.any fun g =>
      match g.what with
      | .vres _ _ _ _ _ u => u == x.ix - 1
      | _ => false,
    body := fun x _ s =>
      let n := csrVCF + if x.slot = .v1 then 1 else 0
      let p := bits f.imm.toNat 31 30
      let v := bits f.imm.toNat 29 15 * 2
      .ok s { effs := [.raw n (wordN (setBits ((s.core x.c).csr n).toNat (16 * p + 15) (16 * p) v))] } }
def execVcfg (h : Head) (f : VI) (s : State) : Host.Outcome State Fault Refusal := issueOne (.vcfg h f) (opVcfg f) s
/-- VCHK (R153). -/
def opVchk (f : V2) : Op :=
  { srcs := srcAB f, weight := weight16,
    body := fun _ vs s =>
      let a := vval vs 0
      let b := vval vs 1
      match (List.range 16).find? fun i => laneN a 8 i != laneN b 8 i with
      | some i => .trap (trap6 cDUPMIS [wordN (8 * i), wordN (laneN a 8 i), wordN (laneN b 8 i)])
      | none => .ok s {} }
def execVchk (h : Head) (f : V2) (s : State) : Host.Outcome State Fault Refusal := issueOne (.vchk h f) (opVchk f) s

end Sys2Proof.Machine
end

