-- ==== Sys2Proof/Machine/SlotOps.lean ====
section
/-! DEFINITION. The operation that each instruction of a bundle stands for: one line per constructor, shared by a bundle of one
operation (Dispatch.lean) and a bundle of several (Bundle.lean). -/
namespace Sys2Proof.Machine

/-- The operation of an instruction; an event is none. -/
def slotOp (i : Instr) : Op :=
  match i with
  | .nop _ _ => opNop
  | .add _ f => opAdd f
  | .sub _ f => opSub f
  | .mul _ f => opMul f
  | .mulh _ f => opMulh f
  | .mulhn _ f => opMulhn f
  | .div _ f => opDiv f
  | .divn _ f => opDivn f
  | .rem _ f => opRem f
  | .remn _ f => opRemn f
  | .and _ f => opAnd f
  | .or _ f => opOr f
  | .xor _ f => opXor f
  | .andn _ f => opAndn f
  | .shl _ f => opShl f
  | .shr _ f => opShr f
  | .sra _ f => opSra f
  | .min _ f => opMin f
  | .max _ f => opMax f
  | .minn _ f => opMinn f
  | .maxn _ f => opMaxn f
  | .seq _ f => opSeq f
  | .sne _ f => opSne f
  | .slt _ f => opSlt f
  | .sltn _ f => opSltn f
  | .sel _ f => opSel f
  | .clz _ f => opClz f
  | .popc _ f => opPopc f
  | .addi _ f => opAddi f
  | .andi _ f => opAndi f
  | .ori _ f => opOri f
  | .xori _ f => opXori f
  | .shli _ f => opShli f
  | .shri _ f => opShri f
  | .srai _ f => opSrai f
  | .slti _ f => opSlti f
  | .sltni _ f => opSltni f
  | .li _ f => opLi f
  | .lih _ f => opLih f
  | .addx _ f => opAddx f
  | .lds _ f => opLds f
  | .sts _ f => opSts f
  | .mpw _ f => opMpw f
  | .br _ f => opBr f
  | .jmp _ f => opJmp f
  | .jmpr _ f => opJmpr f
  | .call _ f => opCall f
  | .callr _ f => opCallr f
  | .ret _ f => opRet f
  | .loop _ f => opLoop f
  | .lpset _ f => opLpset f
  | .yld _ f => opYld f
  | .endOp _ f => opEndOp f
  | .csrr _ f => opCsrr f
  | .csrw _ f => opCsrw f
  | .csrs _ f => opCsrs f
  | .csrc _ f => opCsrc f
  | .trap _ f => opTrap f
  | .eret _ f => opEret f
  | .chk _ f => opChk f
  | .tbr _ f => opTbr f
  | .clkd _ f => opClkd f
  | .clke _ f => opClke f
  | .when _ f => opWhen f
  | .mrg _ f => opMrg f
  | .pmrg _ f => opPmrg f
  | .dlyr _ f => opDlyr f
  | .dlyw _ f => opDlyw f
  | .inst _ f => opInst f
  | .chrd _ f => opChrd f
  | .chrdy _ f => opChrdy f
  | .chwr _ f => opChwr f
  | .absn _ f => opAbsn f
  | .bara _ f => opBara f
  | .barw _ f => opBarw f
  | .bar _ f => opBar f
  | .barx _ f => opBarx f
  | .ltar _ f => opLtar f
  | .ltin _ f => opLtin f
  | .ltwt _ f => opLtwt f
  | .drn _ f => opDrn f
  | .waitc _ f => opWaitc f
  | .sleep _ f => opSleep f
  | .pwra _ f => opPwra f
  | .pwrr _ f => opPwrr f
  | .cpost _ f => opCpost f
  | .aadd _ f => opAadd f
  | .amin _ f => opAmin f
  | .amax _ f => opAmax f
  | .aand _ f => opAand f
  | .aor _ f => opAor f
  | .axor _ f => opAxor f
  | .aaddr _ f => opAaddr f
  | .axch _ f => opAxch f
  | .acas _ f => opAcas f
  | .vadd _ f => opVadd f
  | .vsub _ f => opVsub f
  | .vmul _ f => opVmul f
  | .vfma _ f => opVfma f
  | .vfms _ f => opVfms f
  | .vmin _ f => opVmin f
  | .vmax _ f => opVmax f
  | .vabs _ f => opVabs f
  | .vneg _ f => opVneg f
  | .vcmp _ f => opVcmp f
  | .vsel _ f => opVsel f
  | .vcvt _ f => opVcvt f
  | .vrnd _ f => opVrnd f
  | .vdiv _ f => opVdiv f
  | .vsqrt _ f => opVsqrt f
  | .vrcp _ f => opVrcp f
  | .vrsq _ f => opVrsq f
  | .vex2 _ f => opVex2 f
  | .vlg2 _ f => opVlg2 f
  | .vtnh _ f => opVtnh f
  | .viadd _ f => opViadd f
  | .visub _ f => opVisub f
  | .vimul _ f => opVimul f
  | .vand _ f => opVand f
  | .vor _ f => opVor f
  | .vxor _ f => opVxor f
  | .vshl _ f => opVshl f
  | .vshr _ f => opVshr f
  | .vsra _ f => opVsra f
  | .vimin _ f => opVimin f
  | .vimax _ f => opVimax f
  | .vclz _ f => opVclz f
  | .vpopc _ f => opVpopc f
  | .vclmp _ f => opVclmp f
  | .vbcst _ f => opVbcst f
  | .vperm _ f => opVperm f
  | .vshf _ f => opVshf f
  | .vrsum _ f => opVrsum f
  | .vrmax _ f => opVrmax f
  | .vscan _ f => opVscan f
  | .vqnt _ f => opVqnt f
  | .vdqnt _ f => opVdqnt f
  | .veps _ f => opVeps f
  | .vmov _ f => opVmov f
  | .vli _ f => opVli f
  | .vcfg _ f => opVcfg f
  | .vchk _ f => opVchk f
  | .mcall _ f => opMcall f
  | .mcfg _ f => opMcfg f
  | .mzro _ f => opMzro f
  | .mact _ f => opMact f
  | .mstp _ f => opMstp f
  | .mrtn _ f => opMrtn f
  | .tld _ f => opTld f
  | .tst _ f => opTst f
  | .tldw _ f => opTldw f
  | .cpy _ f => opCpy f
  | .cpyq _ f => opCpyq f
  | .gath _ f => opGath f
  | .scat _ f => opScat f
  | .mcst _ f => opMcst f
  | .rpkt _ f => opRpkt f
  | .rrcv _ f => opRrcv f
  | .pfch _ f => opPfch f
  | .flsh _ f => opFlsh f
  | .stickyReissue _ => {}
  | .vwlPresetLoad _ _ => {}
  | .viewRegisterWrite _ _ _ _ => {}
  | .tstatWrite _ _ _ => {}
  | .prdWrite _ _ _ => {}
  | .pmevWrite _ _ _ => {}
  | .pmcWrite _ _ _ _ => {}
  | .registerWrite _ _ _ _ => {}
  | .cprRequest _ _ => {}
  | .heldRequestStart _ => {}
  | .voltageStep _ => {}
  | .frequencyStep _ => {}
  | .tthWrite _ _ => {}
  | .calWrite _ _ => {}
  | .grantStep _ => {}
  | .waitResolve _ => {}
  | .deadlineExpiry _ => {}
  | .markerDeadlineExpiry _ => {}
  | .promise _ => {}
  | .copyCompletion _ _ => {}
  | .copyFault _ _ => {}
  | .loadDataArrival _ _ => {}
  | .storePerform _ _ => {}
  | .tldwBlockWrite _ _ => {}
  | .vectorResultWrite _ => {}
  | .routineStart _ => {}
  | .sequencerStep _ => {}
  | .routineEnd _ => {}
  | .mzroWrite _ => {}
  | .barrierCompletion _ => {}
  | .memberResume _ => {}
  | .staleReclaim _ => {}
  | .latchArrival _ _ => {}
  | .cellStamp _ _ => {}
  | .channelEntryMove _ _ _ => {}
  | .conflictEntryConfirm _ _ => {}
  | .conflictSpill _ _ => {}
  | .supervisorResume _ => {}
  | .endTeam _ _ => {}
  | .coldtxtService _ _ _ => {}
  | .memue _ _ _ => {}
  | .frameRetire _ _ _ => {}
  | .yieldRequest _ _ => {}
  | .yieldDeadlineExpiry _ => {}
  | .preEmption _ => {}
  | .swapIn _ => {}
  | .residency _ => {}
  | .quantumExpiry _ => {}
  | .parkReclaim _ => {}
  | .teamCompletion _ => {}
  | .instantClose _ => {}
  | .kernelBoundary _ => {}
  | .commandArrival _ _ => {}
  | .launch _ => {}
  | .copy _ => {}
  | .signal _ => {}
  | .wait _ => {}
  | .loadFolio _ => {}
  | .unloadFolio _ => {}
  | .powerCap _ => {}
  | .queryIdentity _ => {}
  | .queryQueueState _ => {}
  | .queryCounts _ => {}
  | .commandCompletion _ => {}
  | .copyQueueServe _ => {}
  | .nodeOperandArrival _ => {}
  | .rootDelivery _ _ => {}
  | .cancelRequest _ _ => {}
  | .collectivePacket _ _ => {}
  | .windowSample _ => {}
  | .hostWriteCompletion _ _ => {}
  | .pageInvalidation _ _ _ _ => {}
  | .regionInstall _ _ => {}
  | .formatRegionWrite _ _ _ => {}
  | .sidebandRead _ _ => {}
  | .uetRmaAccess _ _ _ _ => {}
  | .portDown _ => {}
  | .portUp _ => {}
  | .queueConfiguration _ _ _ _ _ => {}
  | .contextDescriptorWrite _ _ => {}
  | .copyResumption _ _ => {}
  | .supervisorTrapEntry _ => {}
  | .atomicPerform _ _ => {}
  | .illegalOpcode _ _ => {}
  | .sensorPoll => {}
  | .dispatchStep => {}
  | .coldStart => {}
  | .warmStart => {}

end Sys2Proof.Machine
end

