-- ==== Sys2Proof/Machine/Bundle.lean ====
section
/-! DEFINITION. A bundle as memory holds it: fetch and framing (R73, R74, R79), the operations that its slots issue (R76,
R77), the view-join rule (R252), the gang's offsets (R19, R186), and a slot's re-issue and an illegal opcode by themselves. -/
namespace Sys2Proof.Machine

/-- A bundle as fetched: its header and the word and address of each named slot. -/
structure Fetched where
  hdr : Header
  words : List (Slot × Word × Nat)
/-- A trap of the fetch step (R97, R234), with the slots whose words fail it. -/
def fetchTrap (e va mask : Nat) : Trap := { cause := e, step := 1, fmask := mask, frs := accessFrs e va .fetch 3 }
/-- A trap of the framing step, with the slots that fail it. -/
def framingTrap (w : Word) (va mask : Nat) : Trap := { cause := cILLBUN, step := 2, fmask := mask, frs := [w, wordN va] }
/-- FMASK of slots. -/
def maskOf (xs : List Slot) : Nat := xs.foldl (fun m x => m ||| 2 ^ x.maskBit) 0
/-- The words of the named slots, in slot order. -/
def State.fetchWords (s : State) (c : Nat) : List Slot → Nat → Except Trap (List (Slot × Word × Nat))
  | [], _ => .ok []
  | x :: xs, a =>
    match s.fetchWord c a with
    | .error e => .error (fetchTrap e a (maskOf ((x :: xs).zipIdx.filterMap fun y =>
        match s.fetchWord c (a + 8 * y.2) with | .error _ => some y.1 | .ok _ => none)))
    | .ok w =>
      match s.fetchWords c xs (a + 8) with
      | .error t => .error t
      | .ok r => .ok ((x, w, a) :: r)
/-- An operation that issues only once (R79, R95). -/
def onceOnly (w : Word) : Bool :=
  match opcodeClass (bits w.toNat 63 56) with
  | some (_, sticky) => !sticky
  | none => false
/-- Fetch and framing of the bundle at an address (R73, R74, R79, R97): the words that the mask of a header names are fetched before
its framing is looked at. -/
def State.fetchBundle (s : State) (c pc : Nat) : Except Trap Fetched :=
  match s.fetchWord c pc with
  | .error e => .error (fetchTrap e pc 0)
  | .ok w =>
    let named := if bits w.toNat 63 60 = 0xF then slots.filter (inMask (bits w.toNat 55 50)) else []
    match s.fetchWords c named (pc + 8) with
    | .error t => .error t
    | .ok ws =>
      let failing := ws.filter fun q => bits q.2.1.toNat 63 60 == 0xF || (0 < bits w.toNat 49 44 && onceOnly q.2.1)
      let mask := maskOf (failing.map fun q => q.1)
      match decodeHeader w with
      | none => .error (framingTrap w pc mask)
      | some h =>
        match ws.find? fun q => bits q.2.1.toNat 63 60 == 0xF with
        | some q => .error (framingTrap q.2.1 q.2.2 mask)
        | none => if failing.isEmpty then .ok { hdr := h, words := ws } else .error (framingTrap w pc mask)
/-- An operation as its slot issues it: base word, issue index and address; the decode check is that of the base word,
whatever the steps make of a field that the operation does not use (R77, R78; log 30). -/
def Core.slotIssue (k : Core) (x : Slot) (base : Word) (ix addr : Nat) : SlotOp :=
  let w := k.stepWord x base ix
  let gs := bits w.toNat 50 48
  let gk := bits w.toNat 55 51
  match decodeSlot x base with
  | .ok i => { slot := x, gk := gk, gs := gs, base := base, ix := ix, word := w, op := slotOp ((readWord x w).getD i), addr := addr }
  | .error .illslot => { slot := x, gk := gk, gs := gs, base := base, ix := ix, word := w, op := {}, bad := some cILLSLOT, addr := addr }
  | .error _ => { slot := x, gk := gk, gs := gs, base := base, ix := ix, word := w, op := {}, bad := some cILLOP, addr := addr }
/-- A bundle of kind 2, 3 or 5 resets the re-issue state before its first issue, and so also where that issue is held or
faults (R76). -/
def resets (h : Header) (rep : Nat) : Bool := rep == 0 && (h.kind == 2 || h.kind == 3 || h.kind == 5)
/-- The operations of an issue: the named slots' words in the first, the re-issued words otherwise (R77). DESIGN CHOICE (log 48): an
operation that re-issues has no word in the bundle, and the spec does not say whose address FRS1 of its ILLOP holds (R234); it holds
that of the bundle's header. -/
def Core.issueOps (k : Core) (pc : Nat) (b : Fetched) : List SlotOp :=
  slots.filterMap fun x =>
    match (if k.ctl.rep = 0 then b.words.find? fun q => q.1 == x else none) with
    | some (_, w, a) => some (k.slotIssue x w 0 a)
    | none =>
      if k.word x.ix == 0 then none else some (k.slotIssue x (k.word x.ix) (k.count x.ix) pc)
/-- An earlier copy of the core still writes its own scratchpad (R252). DESIGN CHOICE (log 48): one that stands stopped is not
waited for; it may stay so for good (R175), and R252 bounds the wait by the latency of the engines. -/
def State.joinWaits (s : State) (c : Nat) : Bool :=
  (s.core c).copies.any fun x => !x.complete && x.stopped.isNone && (s.rangesOf c x.dst x.len .copyDst).any fun r => isLocal c r.1
/-- The core's copies, as they stand before or behind a view-join bundle (R252). -/
def Core.joinCopies (f : Copy → Bool) (k : Core) : Core := { k with copies := k.copies.map fun x => { x with joined := f x } }
/-- The first issue of a view-join bundle: it waits for those copies, and starts a new record if it issues, in which no earlier write of
the core is, nor comes to be when a copy to another scratchpad lands (R252). -/
def State.viewJoin (s : State) (c : Nat) (go : State → State) : State :=
  if s.joinWaits c then s.markHeld c 7
  else
    let k := s.core c
    let r := go (s.setCore c ({ k with ctl := { k.ctl with writtenLin := [], writtenSwz := [], did := 0 } }.joinCopies fun _ => true))
    if (r.core c).ctl.did = 1 then r
    else r.onCore c fun q => { q with ctl := { q.ctl with writtenLin := k.ctl.writtenLin, writtenSwz := k.ctl.writtenSwz } }.joinCopies fun x =>
      k.copies.any fun y => y.id == x.id && y.joined
/-- The issue of the bundle at a core's program counter, with what `f` makes of its operations (R77). -/
def State.issueAs (f : List SlotOp → List SlotOp) (s : State) (c : Nat) : State :=
  match s.beforeIssue c with
  | (some t, _) => t
  | (none, s) =>
    let k := s.core c
    let pc := k.ctl.pc
    match s.fetchBundle c pc with
    | .error t => s.faultIssue c { h := pc, len := 8 } t
    | .ok b =>
      let fr : Frame := { h := pc, len := 8 * (1 + b.words.length), rep := b.hdr.rep }
      let s := if resets b.hdr k.ctl.rep then s.onCore c Core.clearReissue else s
      let go := fun (s : State) => s.issueSlots c fr (f ((s.core c).issueOps pc b))
      if b.hdr.kind = 4 ∧ k.ctl.rep = 0 then s.viewJoin c go else go s
/-- The issue of the bundle at a core's program counter (R77). -/
def State.issueBundle (s : State) (c : Nat) : State := s.issueAs id c

/-- The gang's clock (R19). -/
def State.gangClock (s : State) (c : Nat) : Nat := (s.core (c - (s.core c).ctl.gpos)).ctl.gclock
/-- A member's issue is due at this value of its gang's clock: exactly its offset behind the bundle's entry, or, for the
first to issue a bundle, once in each value; a member that has left its gang's handler waits until all have (R19, R20). -/
def State.gangDue (s : State) (c : Nat) : Bool :=
  let k := s.core c
  let off := k.ctl.gpos * (s.teamOf c).skew
  let lead := s.core (c - k.ctl.gpos)
  s.atIssue c && k.ctl.stall == 0 && (k.handler || !((s.gangOf c).any fun m => (s.core m).handler)) &&
  match s.gangEntry c k.ctl.issued with
  | some e => e.2.1 + off == lead.ctl.gclock
  | none =>
    (List.range k.ctl.gpos).all (fun i => (s.core (c - 1 - i)).ctl.mode == .ended) &&
    !(lead.ctl.glog.any fun e => sameStream e.1 k.ctl.issued && decide (lead.ctl.gclock ≤ e.2.1 + off))
/-- The gang's clock has come to the value at which a member is to issue its next bundle, which another has issued (R19). -/
def State.reached (s : State) (m : Nat) : Bool :=
  let k := s.core m
  match s.gangEntry m k.ctl.issued with
  | some e => e.2.1 + k.ctl.gpos * (s.teamOf m).skew == s.gangClock m
  | none => false
/-- A member stalls its gang in this cycle: it is held, it stands stopped, it has waited since an earlier cycle, or its issue is due
and its core has issued in this cycle already, for another team or before a trap (R18); a member that has yielded, or that waits on
barriers alone, stalls it only once it is due again (R26, R126, R186; log 46). -/
def State.stallsGang (s : State) (m : Nat) : Bool :=
  let k := s.core m
  [2, 3, 4, 6, 7, 9, 10].contains k.ctl.did || k.ctl.mode == .stopped || (k.ctl.mode == .yielded && s.reached m) ||
  (k.ctl.did == 1 && s.gangDue m) ||
  (match k.ctl.wait with
   | some w => k.ctl.did != 1 && (!w.barsOnly || s.reached m)
   | none => false)
/-- The issue of a core would be held in this cycle. -/
def State.wouldHold (s : State) (m : Nat) : Bool := [2, 4, 6, 7, 10].contains ((s.issueBundle m).core m).ctl.did
/-- The gang lets a core make its next issue: the issue is due, and no other member stalls, nor would one whose issue is due
in this cycle too (R19, R186); one that would be held itself is held, for its own reason, whatever the others do (R359). -/
def State.gangReady (s : State) (c : Nat) : Bool :=
  decide ((s.teamOf c).gang ≤ 1) ||
  (s.gangDue c && (s.wouldHold c ||
    (s.gangOf c).all fun m => m == c || (!s.stallsGang m && !(s.gangDue m && (s.core m).ctl.did == 0 && s.wouldHold m))))
/-- A core makes an issue in this cycle: it stands at one and has made none in it (R18), no cycle of a taken transfer is left
(R120), and its gang is ready. -/
def State.mayIssue (s : State) (c : Nat) : Bool :=
  s.atIssue c && (s.core c).ctl.stall == 0 && (s.core c).ctl.did == 0 && s.gangReady c

/-- STICKY_REISSUE (R77, R78): an issue of a header without operation words in which slot x alone re-issues. -/
def execStickyReissue (x : Slot) (s : State) : Host.Outcome State Fault Refusal :=
  let c := s.turn
  if !s.atIssue c || (s.core c).word x.ix == 0 then .next s
  else
    match s.beforeIssue c with
    | (some t, _) => .next t
    | (none, s) =>
      let k := s.core c
      .next (s.issueSlots c { h := k.ctl.pc, len := 8 } [k.slotIssue x (k.word x.ix) (k.count x.ix) k.ctl.pc])
/-- ILLEGAL_OPCODE (R96, R97): a bundle of one word whose opcode no profile of the part has. -/
def execIllegalOpcode (h : Head) (w : Word) (s : State) : Host.Outcome State Fault Refusal :=
  let c := s.turn
  if !s.atIssue c || bits w.toNat 63 60 == 0xF || (opcodeClass (bits w.toNat 63 56)).isSome then .next s
  else
    match s.beforeIssue c with
    | (some t, _) => .next t
    | (none, s) =>
      let pc := (s.core c).ctl.pc
      .next (s.issueSlots c { h := pc, len := 16 }
        [{ slot := h.slot, gk := h.gk.toNat, gs := h.gs.toNat, base := w, ix := 0, word := w, op := {}, bad := some cILLOP, addr := pc + 8 }])

end Sys2Proof.Machine
end

