-- ==== Sys2Proof/Machine/Engines.lean ====
section
/-! DEFINITION. What a core's engines do by themselves: register writes that have rows of their own, results and data that
arrive, stores that perform, bulk copies, waits, barriers, latches, channel cells and conflict entries. An event that
cannot happen in a state leaves it as it is (log 3). -/
namespace Sys2Proof.Machine

/-- The write of a control register by a core, where it is not refused; a refused value leaves the register as it is,
and the fault is that of the operation which holds the write (R128, R129, R217). -/
def regWrite (c : Nat) (op : CsrOp) (n : Nat) (x : Word) (s : State) : Host.Outcome State Fault Refusal :=
  match (s.core c).csrRefused op n x with
  | some _ => .next s
  | none => .next (s.onCore c fun k => k.csrApply op n x)
/-- VWL_PRESET_LOAD (R223): the source value is ignored. -/
def execVwlPresetLoad (c : Nat) (i : BitVec 5) (s : State) : Host.Outcome State Fault Refusal :=
  regWrite c .write (csrVWL + i.toNat) 0 s
/-- VIEW_REGISTER_WRITE (R217). -/
def execViewRegisterWrite (c : Nat) (k : CsrOp) (n : BitVec 3) (x : Word) (s : State) : Host.Outcome State Fault Refusal :=
  regWrite c k (csrVW + n.toNat) x s
/-- TSTAT_WRITE (R231). -/
def execTstatWrite (c : Nat) (k : CsrOp) (x : Word) (s : State) : Host.Outcome State Fault Refusal := regWrite c k csrTSTAT x s
/-- PRD_WRITE (R222). -/
def execPrdWrite (c : Nat) (k : CsrOp) (x : Word) (s : State) : Host.Outcome State Fault Refusal := regWrite c k csrPRD x s
/-- PMEV_WRITE (R361). -/
def execPmevWrite (c : Nat) (k : CsrOp) (x : Word) (s : State) : Host.Outcome State Fault Refusal := regWrite c k csrPMEV x s
/-- PMC_WRITE (R362): the cycle's events are added when the cycle ends, after the write. -/
def execPmcWrite (c : Nat) (k : CsrOp) (n : BitVec 2) (x : Word) (s : State) : Host.Outcome State Fault Refusal :=
  regWrite c k (csrPMC + n.toNat) x s
/-- Registers whose writes have rows of their own. -/
def ownRow (n : Nat) : Bool :=
  n == csrTSTAT || n == csrPRD || n == csrPMEV || (decide (csrPMC ≤ n) && decide (n < csrPMC + 4)) ||
  (decide (csrVW ≤ n) && decide (n < csrVW + 8)) || (decide (csrVWL ≤ n) && decide (n < csrVWL + 32))
/-- REGISTER_WRITE (R129). -/
def execRegisterWrite (c : Nat) (k : CsrOp) (n : BitVec 12) (x : Word) (s : State) : Host.Outcome State Fault Refusal :=
  if ownRow n.toNat then .next s else regWrite c k n.toNat x s

/-- A flight of a core by its number. -/
def Core.flight (k : Core) (id : Nat) : Option Flight := k.flights.find? fun f => f.id == id
/-- VECTOR_RESULT_WRITE (R55, R81, R112, R138): every result of an exposed
latency that is due. -/
def execVectorResultWrite (c : Nat) (s : State) : Host.Outcome State Fault Refusal :=
  .next (s.landNow c)
/-- A result reaches its destination: an older one that is still to land is discarded when it does (R81). -/
def Core.deliver (k : Core) (f : Flight) (d : Dst) (x : Nat) : Core :=
  match d with
  | .none => k.endFlight f.id
  | .sreg r => k.landS f r (wordN x)
  | .space a n => (k.endFlight f.id).writeAround a n x f.guard f.id f.skip
/-- LOAD_DATA_ARRIVAL (R81, R170, R225). -/
def execLoadDataArrival (c : Nat) (id : Nat) (s : State) : Host.Outcome State Fault Refusal :=
  match (s.core c).flight id with
  | some f =>
    match f.what with
    | .load d x => .next (s.onCore c fun k => (k.deliver f d x).addOut 0 (-1))
    | _ => .next s
  | none => .next s
/-- ATOMIC_PERFORM (R211). -/
def execAtomicPerform (c : Nat) (id : Nat) (s : State) : Host.Outcome State Fault Refusal :=
  match (s.core c).flight id with
  | some f =>
    match f.what with
    | .atomic d x _ => .next (s.onCore c fun k => (k.deliver f d x.toNat).addOut 3 (-1))
    | _ => .next s
  | none => .next s
/-- STORE_PERFORM (R253, R268): lines it left dirty are written back; a store to host memory still owes its completion. -/
def execStorePerform (c : Nat) (id : Nat) (s : State) : Host.Outcome State Fault Refusal :=
  match (s.core c).flight id with
  | some f =>
    match f.what with
    | .store lines host _ _ =>
      if !f.live then .next s
      else
        let s := s.l1Clean c fun x => lines.contains (x.pa / 128)
        .next (s.onCore c fun k =>
          if host then { k with flights := k.flights.map fun g => if g.id == id then { g with live := false } else g }
          else (k.endFlight id).addOut 1 (-1))
    | _ => .next s
  | none => .next s
/-- HOST_WRITE_COMPLETION (R259, R268). -/
def execHostWriteCompletion (c : Nat) (id : Nat) (s : State) : Host.Outcome State Fault Refusal :=
  match (s.core c).flight id with
  | some f =>
    match f.what with
    | .store _ true _ _ => if f.live then .next s else .next (s.onCore c fun k => (k.endFlight id).addOut 1 (-1))
    | _ => .next s
  | none => .next s
/-- A piece of a `TLDW` in flight is written, but for bytes that a later one has written; of an earlier one these bytes are written no
more (R169, R171). -/
def Core.landPiece (f : Flight) (data : List Byte) (k : Core) (p : Nat × Nat × Nat) : Core :=
  let v := ofBytes ((data.drop p.2.1).take p.2.2)
  let old := linesRead k.wbuf p.1 p.2.2
  let x := if f.skip.isEmpty then v
    else (List.range p.2.2).foldl (fun x i => if f.hasWritten (p.1 + i) then setBits x (8 * i + 7) (8 * i) (old >>> (8 * i)) else x) v
  { k with wbuf := linesWrite k.wbuf p.1 p.2.2 x,
           flights := k.flights.map fun g =>
             match g.what with
             | .tldw _ _ => if g.id ≤ f.id then { g with skip := g.skip ++ [(p.1, p.2.2)] } else g
             | _ => g }
/-- TLDW_BLOCK_WRITE (R171): every block that no earlier `MCALL` marks is written, and the load ends with the last one. -/
def execTldwBlockWrite (c : Nat) (id : Nat) (s : State) : Host.Outcome State Fault Refusal :=
  let k := s.core c
  match k.flight id with
  | some f =>
    match f.what with
    | .tldw off data =>
      let owed := f.owedPieces off data.length
      let free := owed.filter fun p => !k.blockMarked f.id (p.1 / 1024)
      let k' := free.foldl (Core.landPiece f data) k
      if free.length = owed.length then .next (s.setCore c ((k'.endFlight id).addOut 0 (-1)))
      else if free.isEmpty then .next s
      else .next (s.setCore c k')
    | _ => .next s
  | none => .next s

/-- PROMISE (R176): the trap is owed, and the core's next issue takes it. -/
def execPromise (c : Nat) (s : State) : Host.Outcome State Fault Refusal := .next (s.notePromise c)
/-- A copy of a core by its ID. -/
def Core.copy (k : Core) (id : Nat) : Option Copy := k.copies.find? fun x => x.id == id
def Core.onCopy (k : Core) (id : Nat) (f : Copy → Copy) : Core :=
  { k with copies := k.copies.map fun x => if x.id == id then f x else x }
/-- How far a copy can go: to the end of the source it has read, or to the first page of its destination that fails. -/
def State.copyReach (s : State) (c : Nat) (x : Copy) : Nat × Option (Nat × AccessKind × Nat) :=
  let srcEnd := if x.data.length < x.len then
      match s.translate (s.ctxOf c) (x.src + x.data.length) .copySrc with
      | .error e => some (x.data.length, AccessKind.copySrc, e)
      | .ok _ => some (x.data.length, AccessKind.copySrc, cXLATE)
    else none
  let dstEnd := (s.firstBad (s.ctxOf c) x.dst x.len .copyDst).map fun b => (b.1 - x.dst, AccessKind.copyDst, b.2)
  match srcEnd, dstEnd with
  | some (a, k, e), some (b, l, g) => if a ≤ b then (a, some (x.src + a, k, e)) else (b, some (x.dst + b, l, g))
  | some (a, k, e), none => (a, some (x.src + a, k, e))
  | none, some (b, l, g) => (b, some (x.dst + b, l, g))
  | none, none => (x.len, none)
/-- The pieces of a copy that no page held at its issue are checked as soon as one does, by the view rule too (R252, R274): the first that
the checker refuses, with what is still to be checked. -/
def State.copyAdmit (s : State) (c : Nat) (x : Copy) : Option (Nat × AccessKind × Nat) × State :=
  let r := x.todo.foldl (fun (r : Option (Nat × AccessKind × Nat) × List (Nat × Nat × Bool) × State) q =>
    let (bad, left, s) := r
    let k := if q.2.2 then AccessKind.copyDst else .copySrc
    if bad.isSome then (bad, left ++ [q], s)
    else
      match s.translatePiece (s.ctxOf c) q.1 q.2.1 k with
      | .error _ => (none, left ++ [q], s)
      | .ok p =>
        let acc := if q.2.2 then Acc.cwrite x.id else .read
        let cross := p.chk && !x.joined && s.crossView c (servedPa c p) q.2.1
        match (if cross then .error .conflict else s.conflictCheck c p (servedPa c p) q.2.1 acc) with
        | .ok s => (none, left, if x.joined then s else s.noteAccess c (servedPa c p) q.2.1 acc)
        | .error .conflict => (some (q.1, k, cCONFLICT), left ++ [q], s)
        | .error (.full _) => (some (q.1, k, cCTFULL), left ++ [q], s)
        | .error .wait => (some (q.1, k, 0), left ++ [q], s)) (none, [], s)
  (r.1, (r.2.2.settleRecords s.records c).onCore c fun k => k.onCopy x.id fun y => { y with todo := r.2.1 })
/-- COPY_COMPLETION (R174). -/
def execCopyCompletion (c : Nat) (id : Nat) (s : State) : Host.Outcome State Fault Refusal :=
  match (s.core c).copy id with
  | some x =>
    if x.complete || x.stopped.isSome || (s.copyReach c x).2.isSome || (s.copyAdmit c x).1.isSome then .next s
    else
      let s := (s.copyAdmit c x).2.copyOut c x x.done x.len
      let s := s.l1Drop c true (inRanges (s.rangesOf c x.dst x.len .copyDst))
      .next (s.onCore c fun k =>
        ((k.onCopy id fun x => { x with complete := true, done := x.len }).addOut 2 (-1)).setWatermark.perf 11 ((x.len - x.done) / 16))
  | none => .next s
/-- A copy stops at a byte that it cannot reach, or that the checker refuses it (R175, R274). -/
def State.stopCopy (s : State) (c : Nat) (x : Copy) (n a : Nat) (k : AccessKind) (e : Nat) : State :=
  let s := s.copyOut c x x.done n
  let frs := if e = cCTFULL then [wordN a, wordN (((s.walkPage (s.ctxOf c) a).map fun p => s.homeSlice (servedPa c p)).getD 0)] else copyFrs a k x.id n
  s.onCore c fun q =>
    let q := (q.onCopy x.id fun x => { x with done := n, stopped := some s.now, fault := some (e, a, k.code) }).perf 11 ((n - x.done) / 16)
    { q with ctl := { q.ctl with owed := q.ctl.owed ++ [{ cause := e, step := 7, frs := frs }] } }
/-- COPY_FAULT (R175). -/
def execCopyFault (c : Nat) (id : Nat) (s : State) : Host.Outcome State Fault Refusal :=
  match (s.core c).copy id with
  | some x =>
    if x.complete || x.stopped.isSome then .next s
    else
      match (s.copyAdmit c x).1, s.copyReach c x with
      | some (a, k, e), (n, f) =>
        let m := a - (if k == .copyDst then x.dst else x.src)
        if e = 0 then .next s
        else match f with
          | some (b, l, g) => if n < m then .next (s.stopCopy c x n b l g) else .next (s.stopCopy c x m a k e)
          | none => .next (s.stopCopy c x (max m x.done) a k e)
      | none, (n, some (a, k, e)) => .next ((s.copyAdmit c x).2.stopCopy c x n a k e)
      | none, (_, none) => .next s
  | none => .next s
/-- Read more of a stopped copy's source, as far as it translates now. -/
def State.copyMore (s : State) (c : Nat) (x : Copy) : List Byte × State :=
  ((piecesOf (x.src + x.data.length) (x.len - x.data.length)).takeWhile fun q =>
      match s.translate (s.ctxOf c) q.1 .copySrc with | .ok _ => true | .error _ => false).foldl (fun (l, s) q =>
    match s.translate (s.ctxOf c) q.1 .copySrc with
    | .ok p =>
      let (v, s) := s.loadValue c q.1 q.2 [(q.1, q.2, p)] true true
      (l ++ bytesOf v q.2, s)
    | .error _ => (l, s)) ([], s)
/-- COPY_RESUMPTION (R175, R311): from the bytes done, with the promise moved by the ticks of the stop. -/
def execCopyResumption (c : Nat) (id : Nat) (s : State) : Host.Outcome State Fault Refusal :=
  match (s.core c).copy id with
  | some x =>
    match x.stopped with
    | none => .next s
    | some t =>
      let (bad, s') := s.copyAdmit c x
      let (more, s') := s'.copyMore c x
      let y := { ((s'.core c).copy id).getD x with data := x.data ++ more }
      if bad.isSome || decide ((s'.copyReach c y).1 ≤ x.done) then .next s
      else
        .next (s'.onCore c fun k => k.onCopy id fun _ =>
          { y with stopped := none, fault := none, promise := x.promise + (s.now - t) })
  | none => .next s

/-- The marker of a waiting bundle whose deadline has passed (R198). -/
def State.markerDue (s : State) (c : Nat) : Option Wait :=
  (s.core c).ctl.wait.bind fun w => w.waits.find? fun x =>
    (match x.kind with | .absn _ => true | _ => false) && x.out.isNone && s.expired c w x
/-- The deadline of a core's marker passes: the bundle does not commit, TXP is set, ESCN is 0 and ESCAL goes to the supervisor
(R198). -/
def State.expireMarker (s : State) (c : Nat) : State :=
  let s := s.pollBundle c
  match s.markerDue c with
  | none => s
  | some x =>
    let n := (s.core c).csr csrESCN
    let s := (s.takeBack c false).onCore c fun k => (k.setTxp).setCsr csrESCN 0
    let k := s.core c
    s.takeTrap c { cause := cESCAL, step := 6, fmask := 2 ^ 5, frs := [statusWord stTIMEOUT 0 0, n, x.word] }
      k.ctl.pc k.ctl.pc k.ctl.rep k.ctl.dmask
/-- What a core still does by itself in this cycle: its waits end, or it makes its issue (R183, R186, R198). -/
def State.ownCycle (s : State) (m : Nat) : State :=
  if s.isWaiting m then ((s.pollBundle m).expireMarker m).expireBundle m
  else if s.mayIssue m then s.issueBundle m
  else s
/-- The trap that a core has taken between two states (R236). -/
def newTrap (s t : State) (c : Nat) : Option (Bool × Nat) := if (t.core c).trapId = (s.core c).trapId then none else (t.core c).trapId
/-- A core is put into a mode, and out of or back into its gang's way. -/
def Core.inMode (m : Mode) (k : Core) : Core := { k with ctl := { k.ctl with mode := m } }
/-- What a core of a gang does by itself, no other following it; a trap of it has the destination `h` (R237). -/
def State.alone (s : State) (m : Nat) (h : Bool) (f : State → Nat → State) : State :=
  let others := (s.gangOf m).filter (· != m)
  let t := others.foldl (fun (t : State) d => t.onCore d (Core.inMode .idle)) s
  let t := f (t.onCore m fun k => { k with ctl := { k.ctl with dest := some h } }) m
  others.foldl (fun (t : State) d => t.onCore d (Core.inMode (s.core d).ctl.mode)) (t.onCore m fun k => { k with ctl := { k.ctl with dest := none } })
/-- A trap of the gang of core `c`, in which member `m` faults with `act m` in the cycle (R237): M is the member of lowest position that
does. The others that fail with its cause each take their own trap, to M's destination, and the rest take M's, as they stand. DESIGN
CHOICE (log 11): a member that has not faulted has committed what it issued in this cycle before M. -/
def State.trapTogether (s : State) (c : Nat) (act : Nat → State → Nat → State) : State :=
  let m0 := ((s.gangOf c).find? fun m => (newTrap s (s.alone m false (act m)) m).isSome).getD c
  let first := s.alone m0 false (act m0)
  let h := ((act m0 s m0).core m0).sentToHandler
  let lead := c - (s.core c).ctl.gpos
  let inside := (s.gangOf c).any fun m => (s.core m).handler
  let s1 := if s.isWaiting m0 then s else s.onCore lead fun l => { l with ctl := { l.ctl with glog := (first.core lead).ctl.glog } }
  let r := ((s.gangOf c).filter (· != m0)).foldl (fun (r : List (Nat × Mode) × State) m =>
    let t := r.2.alone m h (act m)
    if newTrap r.2 t m == newTrap s first m0 then (r.1 ++ [(m, (t.core m).ctl.mode)], t.onCore m (Core.inMode .idle)) else r) ([], s1)
  let t := act m0 (r.2.onCore m0 fun k => { k with ctl := { k.ctl with dest := some h } }) m0
  let t := t.onCore m0 fun k => { k with ctl := { k.ctl with dest := none } }
  let t := r.1.foldl (fun (t : State) x => t.onCore x.1 (Core.inMode x.2)) t
  if inside then t else t.gangEnters c
/-- `f` in a core; where that traps it, and it is of a gang, what other members bring about in the same cycle counts too (R237). -/
def State.inGang (s : State) (c : Nat) (f : State → Nat → State) : State :=
  if (s.teamOf c).gang ≤ 1 || (newTrap s (f s c) c).isNone then f s c
  else s.trapTogether c fun m => if m = c then f else State.ownCycle
/-- The waits of a core are polled, with those of the members of its gang whose bundles then trap with its own (R183, R186, R237). -/
def State.pollGang (s : State) (c : Nat) : State := s.inGang c State.pollBundle
/-- WAIT_RESOLVE (R183, R186). -/
def execWaitResolve (c : Nat) (s : State) : Host.Outcome State Fault Refusal :=
  if s.isWaiting c then .next (s.pollGang c) else .next s
/-- DEADLINE_EXPIRY (R182-R185); members of a gang whose outcomes escalate in one cycle each take their own trap (R237). -/
def execDeadlineExpiry (c : Nat) (s : State) : Host.Outcome State Fault Refusal :=
  if s.isWaiting c then .next (s.inGang c State.expireBundle) else .next s
/-- MARKER_DEADLINE_EXPIRY (R198, R237). -/
def execMarkerDeadlineExpiry (c : Nat) (s : State) : Host.Outcome State Fault Refusal :=
  if s.isWaiting c then .next (s.inGang c State.expireMarker) else .next s
/-- MEMBER_RESUME (R26, R202, R272): a member whose release time has come. -/
def execMemberResume (c : Nat) (s : State) : Host.Outcome State Fault Refusal :=
  let due := (s.core c).ctl.wait.any fun w => w.waits.any fun x =>
    match x.kind with
    | .bar o => (s.barrier o).release.any fun r => r.1 == c && decide (r.2.1 ≤ s.now) && decide (r.2.2 ≤ s.cycleOf c)
    | _ => false
  if s.isWaiting c && due then .next (s.pollGang c) else .next s

/-- STALE_RECLAIM (R280): a slice folds the stale entries of its table; those that are spilled are folded when they are found
(R281). -/
def execStaleReclaim (sl : Nat) (s : State) : Host.Outcome State Fault Refusal :=
  .next ((s.granules.filter fun e => s.staleEntry e.2 && !e.2.spilled && s.homeSlice (e.1 * 64) == sl).foldl
    (fun t e => t.fold e.1 e.2) s)
/-- LATCH_ARRIVAL (R204): the core's earlier stores to the latch's handoff pages have performed at cluster scope. -/
def execLatchArrival (c : Nat) (id : Nat) (s : State) : Host.Outcome State Fault Refusal :=
  let k := s.core c
  match k.flight id with
  | some f =>
    match f.what with
    | .ltin l =>
      let owed := k.flights.any fun g => decide (g.id < id) && g.live && (match g.what with | .store _ _ ts _ => ts.contains l | _ => false)
      if owed then .next s
      else
        .next ((s.setCore c (k.endFlight id)).onLatch l fun t =>
          { t with a := t.a + 1, passed := t.passed || t.a + 1 == t.n })
    | _ => .next s
  | none => .next s
/-- CELL_STAMP (R197, R305): the data are at the consumer, and the header follows; before the consumer's first residency they are
kept for its ring, and after its end they are dropped (log 28). -/
def execCellStamp (c : Nat) (id : Nat) (s : State) : Host.Outcome State Fault Refusal :=
  match (s.core c).flight id with
  | some f =>
    match f.what with
    | .cell key ring data stamp pres =>
      let s := s.onCore c fun k => (k.endFlight id).addOut 1 (if pres then -1 else 0)
      match s.cellPlace (s.channel key) ring, (s.team (s.channel key).cteam).mode with
      | some _, _ => .next (s.placeCell key ring data stamp pres)
      | none, .done => .next s
      | none, .ended _ => .next s
      | none, _ => .next (s.onChannel key fun ch => { ch with early := ch.early ++ [(ring, data, stamp, pres)] })
    | _ => .next s
  | none => .next s
/-- CHANNEL_ENTRY_MOVE (R306): while the consumer's team is out the supervisor moves the entry to another granted cluster; the
move begins, and with the next event it is made. -/
def execChannelEntryMove (g ch cl : Nat) (s : State) : Host.Outcome State Fault Refusal :=
  let key := g * 256 + ch
  let e := s.channel key
  let cls := regionClusters s (s.grid g).rcb
  if !(e.valid && (s.team e.cteam).mode == .out && cls.contains cl) then .next s
  else if !e.moving then .next (s.onChannel key fun e => { e with moving := true })
  else .next ((s.onChannel key fun e => { e with home := cl, moving := false }).writeEntries cls key)
/-- CONFLICT_ENTRY_CONFIRM (R275): the entries of a waiting bundle are confirmed as it commits, or withdrawn as it is
taken back at a pre-emption that is due (R186, R242). -/
def execConflictEntryConfirm (c : Nat) (ok : Bool) (s : State) : Host.Outcome State Fault Refusal :=
  if !s.isWaiting c then .next s
  else if ok then
    match (s.core c).ctl.wait with
    | some w => if w.waits.all fun x => x.out.isSome then .next (s.inGang c fun s c => s.commitBundle c w) else .next s
    | none => .next s
  else
    match (s.teamOf c).yreq with
    | some dl => if dl ≤ s.now then .next (s.takeBack c true) else .next s
    | none => .next s

end Sys2Proof.Machine
end

