-- ==== Sys2Proof/Machine/Power.lean ====
section
/-! DEFINITION. Operating points, activity grants, temperature and the stall samples (R363, R367-R378). -/
namespace Sys2Proof.Machine

/-- Vfloor(f) in mV (R367). -/
def vfloor (f : Nat) : Nat := 550 + 5 * ((f - 600 + 49) / 50)
/-- A target lies in the ranges of R367 and on their steps. -/
def pointInRange (v f : Nat) : Bool :=
  decide (550 ≤ v ∧ v ≤ 900 ∧ v % 5 = 0 ∧ 600 ≤ f ∧ f ≤ 2400 ∧ f % 25 = 0)
/-- The reset values of a sensor's thresholds (R377). -/
def sensorInit (n : Nat) : Sensor := if n < 16 then {} else { trip := 105, thr := 95, notice := 85 }
def State.sensor (s : State) (n : Nat) : Sensor := s.sensors.get (sensorInit n) n
def State.setSensor (s : State) (n : Nat) (x : Sensor) : State := { s with sensors := s.sensors.put (sensorInit n) n x }

/-- What a change does next: `some true` a voltage step, `some false` a frequency step, `none` it is complete (R369). -/
def changeNext (vt ft v f : Nat) : Option Bool :=
  if f < ft ∧ v < vt then some true
  else if f ≠ ft then some false
  else if v ≠ vt then some true
  else none
/-- Move by `d` toward a target. -/
def stepToward (x t d : Nat) : Nat := if x < t then min t (x + d) else max t (x - d)
/-- A change waits for its next step, or is complete (R369, R370). -/
def Cluster.await (c : Cluster) (vt ft t : Nat) : Cluster :=
  match changeNext vt ft c.volt c.freq with
  | some true => { c with change := some (vt, ft, t + 200) }
  | some false => { c with change := some (vt, ft, t + 100) }
  | none => { c with change := none, code := 0, detail := 0, changed := t }
/-- A request starts, with its checks (R369). -/
def State.startRequest (s : State) (cl : Nat) (x : Word) : State :=
  let v := bits x.toNat 31 16
  let f := bits x.toNat 47 32
  let refuse := fun (d : Nat) => s.onCluster cl fun c => { c with code := 5, detail := d }
  if !pointInRange v f then refuse 3
  else if v < vfloor f then refuse 1
  else if (s.cluster cl).freq < f ∧ (s.sensor cl).state = 2 then refuse 2
  else s.onCluster cl fun c => c.await v f s.now
/-- A write of CPR: it keeps what is written; with GO = 1 the request starts, or is held while a change is in progress (R368,
R370). -/
def State.writeCpr (s : State) (cl : Nat) (x : Word) : State :=
  if 16 ≤ cl then s
  else
    let s := s.onCluster cl fun c => { c with cprFreq := bits x.toNat 47 32, cprVolt := bits x.toNat 31 16 }
    if !bit x.toNat 63 then s
    else if (s.cluster cl).change.isSome || (s.cluster cl).held.isSome then s.onCluster cl fun c => { c with held := some x }
    else s.startRequest cl x
/-- CPR_REQUEST (R368, R370). -/
def execCprRequest (cl : Nat) (x : Word) (s : State) : Host.Outcome State Fault Refusal := .next (s.writeCpr cl x)
/-- HELD_REQUEST_START (R370): in the tick after the change completes. -/
def execHeldRequestStart (cl : Nat) (s : State) : Host.Outcome State Fault Refusal :=
  match (s.cluster cl).held with
  | some x =>
    if (s.cluster cl).change.isNone && decide ((s.cluster cl).changed < s.now) then
      .next ((s.onCluster cl fun c => { c with held := none }).startRequest cl x)
    else .next s
  | none => .next s
/-- The next step of a cluster's change, if it is due. -/
def Cluster.due (c : Cluster) (now : Nat) : Option (Bool × Nat × Nat × Nat) :=
  match c.change with
  | some (vt, ft, t) => if t ≤ now then (changeNext vt ft c.volt c.freq).map fun b => (b, vt, ft, t) else none
  | none => none
/-- VOLTAGE_STEP (R369). -/
def execVoltageStep (cl : Nat) (s : State) : Host.Outcome State Fault Refusal :=
  match (s.cluster cl).due s.now with
  | some (true, vt, ft, t) => .next (s.onCluster cl fun c => { c with volt := stepToward c.volt vt 5 }.await vt ft t)
  | _ => .next s
/-- FREQUENCY_STEP (R369). -/
def execFrequencyStep (cl : Nat) (s : State) : Host.Outcome State Fault Refusal :=
  match (s.cluster cl).due s.now with
  | some (false, vt, ft, t) => .next (s.onCluster cl fun c => { c with freq := stepToward c.freq ft 25 }.await vt ft t)
  | _ => .next s
/-- CPS of a cluster as the supervisor reads it (R368). -/
def Cluster.cps (c : Cluster) : Word :=
  wordN ((if c.change.isSome then 2 ^ 63 else 0) + (if c.held.isSome then 2 ^ 62 else 0) + c.code <<< 48 + c.detail <<< 40 +
    c.volt <<< 16 + c.freq)
/-- CPR of a cluster as the supervisor reads it: GO reads 0 (R368). -/
def Cluster.cpr (c : Cluster) : Word := wordN (c.cprFreq <<< 32 + c.cprVolt <<< 16)

/-- CAL_WRITE (R375). -/
def execCalWrite (cl : Nat) (x : Word) (s : State) : Host.Outcome State Fault Refusal :=
  if 16 ≤ cl then .next s else .next (s.onCluster cl fun c => { c with cal := bits x.toNat 23 0 })
/-- GRANT_STEP (R208, R375): the queue is served, and the cores served commit if nothing else holds their bundles. -/
def execGrantStep (cl : Nat) (s : State) : Host.Outcome State Fault Refusal :=
  let asked := (s.cluster cl).grants.map fun g => g.1
  let s := s.serveGrants cl 64
  .next ((asked.filter fun c => !((s.cluster cl).grants.any fun g => g.1 == c)).foldl State.pollGang s)

/-- TTH_WRITE (R377): discarded whole unless HYST is not 0 and NOT < THR < TRIP. -/
def execTthWrite (n : Nat) (x : Word) (s : State) : Host.Outcome State Fault Refusal :=
  let f := fun (h l : Nat) => bits x.toNat h l
  if n < 48 ∧ f 35 32 ≠ 0 ∧ f 15 8 < f 23 16 ∧ f 23 16 < f 31 24 then
    .next (s.setSensor n { s.sensor n with hyst := f 35 32, trip := f 31 24, thr := f 23 16, notice := f 15 8 })
  else .next s
/-- The threshold of a state, in units of 1/8 degree (R377). -/
def Sensor.threshold (x : Sensor) (k : Nat) : Int := 8 * (if k = 3 then x.trip else if k = 2 then x.thr else x.notice : Nat)
/-- Leave states whose threshold the temperature has fallen below by the hysteresis (R377). -/
def Sensor.fall (x : Sensor) : Nat → Nat → Nat
  | 0, k => k
  | fuel + 1, k =>
    if (k = 1 ∨ k = 2) ∧ x.temp ≤ x.threshold k - 8 * x.hyst then x.fall fuel (k - 1) else k
/-- A reading of a sensor and its new state (R377). -/
def Sensor.poll (x : Sensor) (t : Int) : Sensor :=
  let x := { x with temp := t }
  let up := if x.threshold 3 ≤ t then 3 else if x.threshold 2 ≤ t then 2 else if x.threshold 1 ≤ t then 1 else 0
  { x with state := x.fall 3 (max up x.state) }
/-- TSN of a sensor (R377). -/
def Sensor.tsn (x : Sensor) : Word := wordN (x.state <<< 22 + (x.temp % 65536).toNat)
/-- A throttled cluster's frequency steps down 25 MHz, and with it the target of a change in progress, which may be complete with
that: a falling change's target by the step, a rising one's to the new frequency, above which nothing raises it in this state. A voltage
phase that begins with the step takes its first step after 200 ticks (R369, R378; log 48). -/
def Cluster.throttle (now : Nat) (c : Cluster) : Cluster :=
  let f := max 600 (c.freq - 25)
  match c.change with
  | none => { c with freq := f }
  | some (vt, ft, t) =>
    let g := max 600 (min f (ft - 25))
    match changeNext vt ft c.volt c.freq, changeNext vt g c.volt f with
    | _, none => { c with freq := f, change := none, code := 0, detail := 0, changed := now }
    | some false, some true => { c with freq := f, change := some (vt, g, now + 200) }
    | _, some _ => { c with freq := f, change := some (vt, g, t) }
/-- The module's draw estimate in watts: the part's own (log 18), and no more than the cap in force where no change of an operating
point is under way (R379; log 14). -/
def State.drawEstimate (s : State) : Nat :=
  let w := (Config.freeWord s.freeCtr).toNat
  if s.clusters.any fun c => c.2.change.isSome || c.2.held.isSome then w % 65536 else w % (s.cap + 1)
/-- The sideband registers (R391). -/
def State.sidebandImage (s : State) : List Byte :=
  let trip := (List.range 48).any fun n => (s.sensor n).state == 3
  bytesOf ((if s.ready then 2 ^ 15 else 0) + (if trip then 2 ^ 14 else 0) + (if s.warm then 2 ^ 13 else 0) + s.failStep % 16) 2 ++
  bytesOf s.starts 4 ++ [0, 0] ++
  (List.range 48).flatMap (fun n => bytesOf ((s.sensor n).temp % 65536).toNat 2) ++
  (List.range 48).map (fun n => BitVec.ofNat 8 (s.sensor n).state) ++
  bytesOf s.drawEstimate 2 ++ bytesOf s.cap 2
/-- The sideband registers are refreshed (R391). -/
def State.refreshSideband (s : State) : State := { s with sideband := s.sidebandImage, freeCtr := s.freeCtr + 1 }
/-- SENSOR_POLL (R377, R378): once at each multiple of 100,000 ticks; a sensor that enters notice, throttle or trip, from
below or from above, raises the sideband's interrupt (R391). -/
def execSensorPoll (s : State) : Host.Outcome State Fault Refusal :=
  if s.now % 100000 ≠ 0 ∨ s.polled = some s.now then .next s
  else
    let old := s
    let s := { s with polled := some s.now }
    let s := (List.range 48).foldl (fun (s : State) n => s.setSensor n ((s.sensor n).poll (s.readings.getD n (s.sensor n).temp))) s
    let s := (List.range 16).foldl (fun (s : State) cl =>
      if (s.sensor cl).state = 2 then s.onCluster cl (Cluster.throttle s.now) else s) s
    let s := if (List.range 48).any fun n => (s.sensor n).state == 3 then { s with tripped := true } else s
    let entered := (List.range 48).any fun n => (s.sensor n).state != 0 && (old.sensor n).state != (s.sensor n).state
    .next { s with interrupts := s.interrupts + if entered then 1 else 0 }.refreshSideband

/-- A sample of R363. -/
def stallSample (win issuing stalled idle : Nat) : Word :=
  let sr := min 65535 (65536 * stalled / max 1 (issuing + stalled))
  let act := min 65535 (65536 * (issuing + stalled) / max 1 (issuing + stalled + idle))
  wordN ((win % 65536) <<< 32 + sr <<< 16 + act)
/-- WINDOW_SAMPLE (R363): once at the end of each window of 10,000 ticks. -/
def execWindowSample (cl : Nat) (s : State) : Host.Outcome State Fault Refusal :=
  let taken := (s.cluster cl).srh.head?.any fun w => bits w.toNat 47 32 == (s.now / 10000 - 1) % 65536
  if s.now % 10000 ≠ 0 ∨ s.now = 0 ∨ 16 ≤ cl ∨ taken then .next s
  else
    .next (s.onCluster cl fun c =>
      { c with srh := (stallSample (s.now / 10000 - 1) c.issuing c.stalled c.idle :: c.srh).take 8, issuing := 0, stalled := 0, idle := 0 })

end Sys2Proof.Machine
end

