-- ==== Sys2Proof/Machine/Teams.lean ====
section
/-! DEFINITION. Teams on and off their cores: page tables, placement, the first residency, team images, completion and
the end of a team (R21, R127, R216, R221, R228, R242, R243, R249, R288, R291, R295-R297, R301, R342, R347). -/
namespace Sys2Proof.Machine

/-- Memory in [a, a + n) reads as zero. -/
def Memory.clear (m : List Host.Cell) (a n : Nat) : List Host.Cell := m.filter fun c => !(decide (a ≤ c.1) && decide (c.1 < a + n))
/-- The listed bytes of [a, a + n), moved by an offset. -/
def Memory.moved (m : List Host.Cell) (a n b : Nat) : List Host.Cell :=
  (m.filter fun c => decide (a ≤ c.1) && decide (c.1 < a + n)).map fun c => (c.1 - a + b, c.2)
/-- Replace [b, b + n) by the bytes of [a, a + n). -/
def State.moveMem (s : State) (a n b : Nat) : State :=
  { s with mem := Memory.writeCells (Memory.clear s.mem b n) (Memory.moved s.mem a n b) }
/-- Replace [a, a + n) by cells that lie in it. -/
def State.replaceMem (s : State) (a n : Nat) (cs : List (Nat × Byte)) : State :=
  { s with mem := Memory.writeCells (Memory.clear s.mem a n) cs }
def State.write8 (s : State) (a x : Nat) : State := { s with mem := Memory.writeCells s.mem (cellsOf a 8 x) }
/-- Bytes as cells from an address. -/
def cellsAt (a : Nat) (bs : List Byte) : List (Nat × Byte) := bs.zipIdx.map fun (b, i) => (a + i, b)

/-- Read n bytes of a context's virtual memory at system scope; `none` where a page fails (R286). -/
def State.sysRead (s : State) (ctx va n : Nat) : Option (List Byte) :=
  match s.translateAll ctx va n .read with
  | .error _ => none
  | .ok ps => some (ps.flatMap fun q => bytesOf (s.homeRead q.2.2.pa q.2.1) q.2.1)
/-- The cells that a write at system scope fills. DESIGN CHOICE (log 48): of a replicated page the spec does not say which
replicas a write of the host, of RMA, of a copy queue or of the supervisor reaches; every replica is written, and a read takes
the one that the entry names (R258). -/
def State.sysCells (s : State) (ctx va : Nat) (bs : List Byte) : Option (List (Nat × Byte)) :=
  match s.translateAll ctx va bs.length .write with
  | .error _ => none
  | .ok ps => some (ps.flatMap fun q => (replicaPas q.2.2).flatMap fun pa => cellsAt pa ((bs.drop (q.1 - va)).take q.2.1))
/-- Write bytes to a context's virtual memory at system scope; `none` where a page fails. -/
def State.sysWrite (s : State) (ctx va : Nat) (bs : List Byte) : Option State :=
  (s.sysCells ctx va bs).map fun cs => s.homeWriteAll cs
/-- A 64-bit word of a list of bytes. -/
def word8 (bs : List Byte) (o : Nat) : Nat := ofBytes ((bs.drop o).take 8)

/-- The highest frame of HBM that nothing has taken and that is not retired (R246; log 9). -/
def State.topFrame (s : State) : Nat :=
  let f := 4 * dieBytes / 65536 - 1 - s.frames
  f - ((List.range s.retired.length).takeWhile fun i => s.retired.contains (f - i)).length
/-- A frame of HBM that the supervisor takes for a page or a table: from the top of HBM downward (log 9). -/
def State.takeFrame (s : State) : Nat × State :=
  let f := s.topFrame
  (f, { s with frames := 4 * dieBytes / 65536 - f, mem := Memory.clear s.mem (f * 65536) 65536 })
/-- Write the level-3 entry of a virtual page, making the tables above it (R336, R338). -/
def State.mapFrom (s : State) (va pte : Nat) : Nat → Nat → Nat → State
  | 0, _, _ => s
  | fuel + 1, lvl, base =>
    let a := base + 8 * bits va (55 - 10 * lvl) (46 - 10 * lvl)
    if lvl = 3 then s.write8 a pte
    else
      let e := Memory.read s.mem a 8
      if bit e 63 then
        if bit e 62 then s else s.mapFrom va pte fuel (lvl + 1) (bits e 31 0 <<< 16)
      else
        let (f, s) := s.takeFrame
        (s.write8 a (2 ^ 63 + f)).mapFrom va pte fuel (lvl + 1) (f <<< 16)
def State.mapPage (s : State) (ctx va pte : Nat) : State :=
  let d := (s.contexts.get 0 ctx).toNat
  if bit d 63 then s.mapFrom va pte 4 0 (bits d 47 16 <<< 16) else s
/-- A level-3 entry: V, LEAF, home, ALLOC 2, CHK and permissions (R337). -/
def pteOf (frame home : Nat) (chk rd wr ex : Bool) : Nat :=
  2 ^ 63 + 2 ^ 62 + home <<< 60 + (if home = 0 then 2 else 0) <<< 58 + (if chk then 2 ^ 53 else 0) + (if rd then 2 ^ 39 else 0) +
    (if wr then 2 ^ 38 else 0) + (if ex then 2 ^ 37 else 0) + frame
/-- A level-3 entry of a cold piece that is absent: LEAF and COLD, and V = 0 (R266, R337). -/
def coldPte : Nat := 2 ^ 62 + 2 ^ 36
/-- The address of the scratchpad at position k of a team: in the team's own window of 64 MiB (R221, R249; log 9). -/
def spadVa (t : Nat) (x : Team) (k : Nat) : Nat := 2 ^ 55 + t * 0x4000000 + (x.home + k) * 0x80000
/-- Map, or with `on` false unmap, both views of every scratchpad of a team (R249). -/
def State.mapSpads (s : State) (t : Nat) (on : Bool) : State :=
  let x := s.team t
  let ctx := (s.grid x.grid).ctx
  (List.range x.size).foldl (fun s k =>
    [0, 1].foldl (fun s v =>
      (List.range 6).foldl (fun (s : State) p =>
        let frame := (spadBase (x.coreAt k) + v * 0x20000000) / 65536 + p
        s.mapPage ctx (spadVa t x k + v * 0x2000000 + p * 65536) (if on then pteOf frame 2 true true true false else 0)) s) s) s

def Barrier.rename (f : Nat → Nat) (b : Barrier) : Barrier :=
  { b with members := b.members.map fun m => (f m.1, m.2), arrivals := b.arrivals.map fun a => (f a.1, a.2),
           release := b.release.map fun r => (f r.1, r.2) }
/-- A range of addresses moves to another base. -/
def shifted (a n b x : Nat) : Nat := if a ≤ x ∧ x < a + n then x - a + b else x
def Live.rename (f : Nat → Nat) : Live → Live
  | .rd cs => .rd (cs.map f)
  | .own c => .own (f c)
  | l => l
def Granule.rename (f : Nat → Nat) (e : Granule) : Granule :=
  { e with live := e.live.rename f, base := e.base.map fun b => (b.1.rename f, b.2), cp := e.cp.map fun x => (f x.1, x.2),
           tent := e.tent.map fun x => (f x.1, x.2.1, x.2.2.1.rename f, x.2.2.2) }
/-- The views through which a core has written granules of its team's scratchpads go where those go (R252). -/
def Core.moveViews (a n b : Nat) (k : Core) : Core :=
  let f := fun (l : List (Nat × Nat × Nat)) => l.map fun e => (shifted a n b (e.1 * 64) / 64, e.2)
  { k with ctl := { k.ctl with writtenLin := f k.ctl.writtenLin, writtenSwz := f k.ctl.writtenSwz } }
/-- A release time of a die or package barrier as its member leaves its core, or enters one: while it is out the cycles that it
still has to wait stand in place of a cycle, and a time that falls while it is out has come at its first resident cycle (R26,
R242, R297). -/
def State.retime (s : State) (f : Nat → Nat) (r : Nat × Nat × Nat) : Nat × Nat × Nat :=
  let c := f r.1
  if c = r.1 then r
  else if outId 0 0 ≤ c then (c, r.2.1, r.2.2 - s.cycleOf r.1)
  else (c, r.2.1, if r.2.1 ≤ s.now then 0 else s.cycleOf c + r.2.2)
/-- A team's cores get other numbers in the die and package barriers and in its conflict entries, which name team
positions (R242, R344, R347). -/
def State.renameCores (s : State) (t : Nat) (f : Nat → Nat) : State :=
  { s with barriers := s.barriers.map fun b => if 512 ≤ b.1 then (b.1, { b.2.rename f with release := b.2.release.map (s.retime f) }) else b,
           granules := s.granules.map fun e => if e.2.team == t then (e.1, e.2.rename f) else e }
/-- Where the conflict entries of a scratchpad stand while its team is out: at addresses of no storage (R22, R242). -/
def outSpad (t : Nat) : Nat := 2 ^ 60 + t * 0x2000000
/-- The slice of a record that moves from `a` to `b`: that of the granules at the same place in its page. -/
def State.recordSlice (s : State) (a key b : Nat) : Nat :=
  let p := key / 64 * 65536
  (((List.range 1024).find? fun i => s.homeSlice (p + 64 * i) == key % 64).map fun i => s.homeSlice (p + 64 * i - a + b)).getD (s.homeSlice (p - a + b))
/-- Conflict entries and records of addresses in a range get other addresses; a slice that cannot hold what has come to it spills
(R281). -/
def State.moveEntries (s : State) (a n b : Nat) : State :=
  let inside := fun (x : Nat) => decide (a ≤ x ∧ x < a + n)
  let slices : List Nat := (((s.granules.map (fun (e : Nat × Granule) => e.1 * 64)) ++ s.handoffs.map (fun (e : Nat × Handoff) => e.1 * 64)).filter inside).map fun x => s.homeSlice (x - a + b)
  let toRec := (s.records.filter fun e => inside (e.1 / 64 * 65536)).map fun e => s.recordSlice a e.1 b
  (slices ++ toRec).eraseDups.foldl State.fitSlice
    { s with granules := s.granules.map fun e => (shifted a n b (e.1 * 64) / 64, e.2),
             handoffs := s.handoffs.map fun e => (shifted a n b (e.1 * 64) / 64, e.2),
             records := s.records.foldl (fun t e =>
               let p := e.1 / 64 * 65536
               let q := shifted a n b p
               Table.put {} t (if p = q then e.1 else q / 65536 * 64 + s.recordSlice a e.1 b) e.2) [] }
/-- Conflict entries and records of addresses in a range are dropped. -/
def State.dropEntries (s : State) (a n : Nat) : State :=
  let inside := fun (x : Nat) => decide (a ≤ x ∧ x < a + n)
  { s with granules := s.granules.filter fun e => !inside (e.1 * 64), handoffs := s.handoffs.filter fun e => !inside (e.1 * 64),
           records := s.records.filter fun e => !inside (e.1 / 64 * 65536) }
/-- The entries of a team's scratchpads leave its cores with it, or enter them (R22, R242). -/
def State.entriesOut (s : State) (t : Nat) (x : Team) : State := s.moveEntries (spadBase (x.coreAt 0)) (x.size * 0x80000) (outSpad t)
def State.entriesIn (s : State) (t : Nat) (x : Team) : State := s.moveEntries (outSpad t) (x.size * 0x80000) (spadBase (x.coreAt 0))
/-- Cores that a team leaves. -/
def leaveName (t : Nat) (x : Team) (c : Nat) : Nat :=
  if x.coreAt 0 ≤ c ∧ c < x.coreAt x.size then outId t (c - x.coreAt 0) else c
/-- Cores that a team enters. -/
def enterName (t : Nat) (x : Team) (c : Nat) : Nat :=
  if outId t 0 ≤ c ∧ c < outId t 64 then x.coreAt (c - outId t 0) else c

/-- Cores of a cluster that the resident teams of a region and of those below it hold (R24, R295). -/
def State.regionUse (s : State) (a cl : Nat) : Nat :=
  (s.teams.map fun e => if e.2.mode == .resident && e.2.cluster == cl && s.within (s.rcbOf e.2) a then e.2.size else 0).sum
/-- The lowest base, a multiple of the gang size, at which n cores of a cluster are free (R295). -/
def State.freeBase (s : State) (cl n g : Nat) : Option Nat :=
  ((List.range 64).filter fun b => b % g == 0).find? fun b =>
    decide (b + n ≤ 64) && (List.range n).all fun i => (s.core (cl * 64 + b + i)).ctl.mode == .idle
/-- The lowest free team-barrier object of a cluster (R21). -/
def State.freeBn (s : State) (cl : Nat) : Option Nat := (List.range 32).find? fun n => (s.barrier (cl * 32 + n)).owner == 0
/-- The slot of a cluster for a team: base and barrier object, within the core budgets of its region and of every region above
it (R24, R295). -/
def State.slotIn (s : State) (x : Team) (cl : Nat) : Option (Nat × Nat × Nat) :=
  if (s.above (s.rcbOf x)).all fun a => decide (s.regionUse a cl + x.size ≤ regionCores s a) then
    match s.freeBase cl x.size x.gang, s.freeBn cl with
    | some b, some n => some (cl, b, n)
    | _, _ => none
  else none
/-- Where a team may become resident (R295, R347). -/
def State.placeTeam (s : State) (t : Nat) : Option (Nat × Nat × Nat) :=
  let x := s.team t
  let cls := (regionClusters s (s.rcbOf x)).filter fun cl => match x.die with | some d => cl / 4 == d | none => true
  let i := x.index % max cls.length 1
  if (s.grid x.grid).strict then (cls[i]?).bind fun cl => s.slotIn x cl
  else (cls.drop i ++ cls.take i).findSome? fun cl => s.slotIn x cl
/-- The waiting team that becomes resident next: the first of each region that a slot can take, of the region of the
highest priority, then of the lowest node address (R296, R342). -/
def State.nextResident (s : State) : Option Nat :=
  let rank := fun (t : Nat) => let a := s.rcbOf (s.team t); (7 - bits (s.region a 5 3) 2 0, a)
  (s.residency.filter fun t => (s.placeTeam t).isSome).foldl (fun best t =>
    match best with
    | none => some t
    | some b => if (rank t).1 < (rank b).1 ∨ ((rank t).1 = (rank b).1 ∧ (rank t).2 < (rank b).2) then some t else best) none

/-- The tier of the member at position k (R340, R347). -/
def State.tierOf (s : State) (a k : Nat) : Nat :=
  bits (s.region a 11 9 + s.region a 11 10 <<< 64 + s.region a 11 11 <<< 128) (3 * k + 2) (3 * k)
/-- The team barrier bound to a team at its first residency (R21, R347). -/
def State.freshBarrier (s : State) (t : Nat) (x : Team) : Barrier :=
  let a := s.rcbOf x
  { members := (List.range x.size).map fun k => (x.coreAt k, s.tierOf a k), spacing := bits (s.region a 11 12) 15 0, owner := t + 1 }
/-- Set the control registers that name a core's place (R229). -/
def Core.identify (k : Core) (x : Team) (p : Nat) : Core :=
  ((k.setCsr csrTEAM (wordN (x.index <<< 32 + 0x60 + x.bn))).setCsr csrGPOS (wordN (p % x.gang))).setCsr csrGSIZE
    (wordN (x.skew <<< 8 + x.gang))
/-- What stays with the physical core: the tables of the matrix unit, the weight buffer within a region, CYC and STL, and that it has
issued in this cycle (R18, R154, R263, R359). -/
def Core.vacate (k : Core) : Core :=
  let k' : Core := { mx := { routines := k.mx.routines, store := k.mx.store, act := k.mx.act }, wbuf := k.wbuf, rcb := k.rcb,
                     ctl := { team := k.ctl.team, did := if k.ctl.did = 1 then 1 else 0 } }
  (k'.setCsr csrCYC (k.csr csrCYC)).setCsr csrSTL (k.csr csrSTL)
/-- The bits of a view preset that are not res-z (R7, R223). -/
def presetMask : Word := 0x80007FFFFFFFFFFF
/-- A core at the launch of its team (R216, R221, R223, R228, R263). -/
def State.launchCore (s : State) (t : Nat) (x : Team) (p : Nat) : State :=
  let c := x.coreAt p
  let a := s.rcbOf x
  let f := assoc s.folios (s.grid x.grid).folio
  let k0 := s.core c
  let k := k0.vacate
  let k := { k with wbuf := if k.rcb = some a then k.wbuf else [], rcb := some a,
                    ctl := { mode := .run, team := t, pos := p, gpos := p % x.gang, pc := x.entry, did := k.ctl.did } }
  let k := (k.identify x p).setCsr csrIC (wordN x.ic0)
  let k := k.setCsr csrECM (wordN ((f.map fun f => f.cov).getD 0))
  let k := launchViews.foldl (fun k v => k.setCsr v.1 v.2) k
  let k := ((f.map fun f => f.views).getD []).zipIdx.foldl (fun k v => k.setCsr (csrVWL + v.2) (v.1 &&& presetMask)) k
  let k := (k.setS 1 (wordN (spadVa t x p)) 31).setS 62 (wordN (spadVa t x p + 0x60000)) 31
  (s.setCore c k).replaceMem (spadBase c) 0x60000 (cellsAt (spadBase c) x.block)
/-- The launch block of a team (R288); of bytes at ARGS that do not translate the spec gives no value (log 18). -/
def State.launchBlock (s : State) (x : Team) : List Byte :=
  if x.args = 0 then x.block
  else (s.sysRead (s.grid x.grid).ctx x.args 256).getD ((List.range 32).flatMap fun i => bytesOf (Config.freeWord (s.freeCtr + i)).toNat 8)
/-- A team has come to stand in its cluster: a kernel boundary of its grid reaches that too (R273). -/
def State.standIn (s : State) (x : Team) : State := s.onGrid x.grid fun g => { g with stood := joined x.cluster g.stood }
/-- RESIDENCY (R21, R288, R295, R296): a team that has not been resident takes its cores. -/
def execResidency (t : Nat) (s : State) : Host.Outcome State Fault Refusal :=
  if s.nextResident ≠ some t ∨ (s.team t).mode ≠ .waiting then .next s
  else
    match s.placeTeam t with
    | none => .next s
    | some (cl, base, bn) =>
      let x := { s.team t with mode := .resident, cluster := cl, base := base, home := base, bn := bn, since := 0, residentTicks := 0, block := s.launchBlock (s.team t), args := 0 }
      let s := { (s.setTeam t x).standIn x with residency := s.residency.filter (· != t), freeCtr := s.freeCtr + 32 }
      let s := s.onBarrier (cl * 32 + bn) fun _ => s.freshBarrier t x
      let s := (List.range x.size).foldl (fun s p => s.launchCore t x p) s
      .next ((((s.renameCores t (enterName t x)).entriesIn t x).mapSpads t true).rehome t)

/-- Bytes of a store of lines, as cells from an address. -/
def lineCells (tb : Table Line) (a : Nat) : List (Nat × Byte) := tb.flatMap fun e => cellsAt (a + 128 * e.1) (bytesOf e.2.toNat 128)
/-- The latches of the slots that can hold a source, in the order in which the image keeps them (log 19). -/
def heldLatches : List Nat := [latchIx 1 0, latchIx 1 1, latchIx 2 0, latchIx 2 1, latchIx 4 0, latchIx 5 0]
/-- The marks of an entry of the matrix unit in the scoreboard: for each of its windows the first granule, the number of granules,
and whether it is read and written (R158, R225). -/
def MxEntry.marks (e : MxEntry) : List Nat :=
  let mark := fun (w : Nat × Nat) (rw : Nat) => w.1 / 128 % 1024 + min (granulesOf w.1 w.2).length 1024 * 1024 + rw * 2 ^ 21
  match e.zero with
  | some z => [mark z 2]
  | none => [mark e.win.a 1, mark e.win.acc 3, mark e.win.bias 1, mark e.win.q 2]
/-- The tags of the granules behind the fixed block, five bits each. -/
def Core.tagBits (k : Core) : Nat := (List.range 992).foldl (fun v g => v + (k.gtag (32 + g) % 32) <<< (5 * g)) 0
/-- The latches, the granule tags and the scoreboard marks that the matrix unit leaves standing, in the block's range 0x800-0xDFF:
the spec gives that range no layout, and this one is the model's (log 19). -/
def Core.latchBlock (k : Core) (a : Nat) : List (Nat × Byte) :=
  (heldLatches.zipIdx.flatMap fun l =>
    let x := k.regs.latch.get {} l.1
    cellsOf (a + 0x800 + 128 * l.2) 128 x.val.toNat ++ cellsOf (a + 0xB00 + l.2) 1 x.tag) ++
  cellsOf (a + 0xB08) 620 k.tagBits ++
  (k.mx.entries.flatMap MxEntry.marks).zipIdx.flatMap fun m => cellsOf (a + 0xD78 + 3 * m.2) 3 m.1
/-- The fixed block of the register space in the image (R213): scalars, delay cells, tags, parameters and views. DESIGN CHOICE
(log 19): the byte of a cell's written bit and clock has the bit in bit 7 and the clock below it, 31 where none is bound. -/
def Core.fixedBlock (k : Core) (a : Nat) : List (Nat × Byte) :=
  (List.range 64).flatMap (fun i => cellsOf (a + 8 * i) 8 (k.sreg i).toNat) ++
  (List.range 64).flatMap (fun i => cellsOf (a + 0x200 + 16 * i) 8 (k.cell i).committed.toNat ++
    cellsOf (a + 0x208 + 16 * i) 8 (k.cell i).pending.toNat) ++
  (List.range 64).flatMap (fun i => cellsOf (a + 0x600 + i) 1 (k.stag i) ++
    cellsOf (a + 0x640 + i) 1 ((if (k.cell i).written then 128 else 0) + ((k.cell i).clock.getD 31))) ++
  (List.range 8).flatMap (fun i => cellsOf (a + 0x700 + 8 * i) 8 (k.mp i).toNat ++ cellsOf (a + 0x740 + 8 * i) 8 (k.base i) ++
    cellsOf (a + 0x790 + 8 * i) 8 (k.csr (csrVW + i)).toNat) ++
  cellsOf (a + 0x780) 8 (k.csr csrLC).toNat ++ cellsOf (a + 0x788) 8 (k.csr csrPRD).toNat ++ k.latchBlock a
/-- The values that a core's heads present, for the head block of the image (R213, R310). -/
def State.headBlock (s : State) (c a : Nat) : List (Nat × Byte) :=
  (List.range 4).flatMap fun q =>
    match s.headChannel c q with
    | some key => if s.headReady key (s.core c).ic then cellsOf (a + 0xE00 + 128 * q) 128 (s.cellData key) else []
    | none => []
/-- Words of 8 bytes from an address, as many as `room` holds. -/
def wordsAt (a room : Nat) (ws : List Nat) : List (Nat × Byte) := (ws.take room).zipIdx.flatMap fun w => cellsOf (a + 8 * w.2) 8 w.1
/-- A number that may be absent, as two words. -/
def optWords (x : Option Nat) : List Nat := [if x.isSome then 1 else 0, x.getD 0]
/-- A trap with its bundle, as the nested-record area of the image holds it (R236). -/
def Trap.words (t : Trap) (fra : Nat) : List Nat :=
  [1, t.cause, t.step, t.fmask, fra] ++ (List.range 8).map fun i => (t.frs.getD i 0).toNat
/-- The state of a wait (R186, R242). -/
def Wait.words (x : Wait) : List Nat :=
  [x.slot, x.st, if x.wall then 1 else 0, x.dl, if x.esc then 1 else 0, x.word.toNat, x.guard, x.stale] ++
  (match x.claim with | some (k, ws, lw) => [1, k, ws, (lw % 2 ^ 64).toNat] | none => [0, 0, 0, 0]) ++
  (match x.out with | some (c, d, m) => [1, c, d, m] | none => [0, 0, 0, 0])
/-- A wait that a pre-emption has taken back. -/
def Back.words (b : Back) : List Nat := [1, b.pc, b.rep, b.t0, b.rt0, b.waits.length] ++ b.waits.flatMap Wait.words
/-- The shadow of a handler (R236). -/
def Shadow.words (h : Shadow) : List Nat :=
  [1, h.issued] ++ (List.range 6).flatMap (fun x => [(h.rw.get 0 x).toNat, h.rc.get 0 x]) ++
  heldLatches.flatMap fun l => (h.latch.get {} l).tag :: (List.range 16).map fun i => ((h.latch.get {} l).val.toNat >>> (64 * i)) % 2 ^ 64
/-- A bulk copy (R174-R176). -/
def Copy.words (x : Copy) : List Nat :=
  [x.id, x.dst, x.src, x.len, x.done, x.issued, x.cost, x.promise, (if x.complete then 1 else 0) + (if x.late then 2 else 0) +
    (if x.taken then 4 else 0) + (if x.established then 8 else 0) + if x.joined then 16 else 0] ++ optWords x.stopped ++
  match x.fault with | some (e, a, k) => [1, e, a, k] | none => [0, 0, 0, 0]
/-- The core state of the image, whose layout is the part's own (R243; log 19): clock table, resume record, re-issue words and step
counts, activity, shadow, nested record, waits, traps still to be taken, and copies. -/
def Core.stateBlock (k : Core) (a : Nat) : List (Nat × Byte) :=
  (List.range 32).flatMap (fun i => cellsOf (a + 4 * i) 4 (k.clock i)) ++
  cellsOf (a + 0x80) 8 k.ctl.pc ++ cellsOf (a + 0x88) 8 (k.ctl.rep <<< 8 + k.ctl.dmask) ++
  (List.range 6).flatMap (fun x => cellsOf (a + 0x90 + 8 * x) 8 (k.word x).toNat ++ cellsOf (a + 0xC0 + 8 * x) 8 (k.count x)) ++
  cellsOf (a + 0xF0) 8 k.heldLevel ++ cellsOf (a + 0xF8) 8 k.ctl.posts ++
  wordsAt (a + 0x100) 128 ((k.ctl.shadow.map Shadow.words).getD []) ++
  wordsAt (a + 0x500) 16 ((k.ctl.nested.map fun n => n.1.words n.2).getD []) ++
  wordsAt (a + 0x580) 128 ((k.ctl.back.map Back.words).getD []) ++
  wordsAt (a + 0x980) 128 (((k.ctl.shadow.bind fun h => h.back).map Back.words).getD []) ++
  wordsAt (a + 0xD80) 16 ((k.ctl.supervisor.map fun t => t.words 0).getD []) ++
  wordsAt (a + 0xE00) 64 (k.ctl.owed.flatMap fun t => t.words ((t.behind.map Prod.fst).getD 0)) ++
  wordsAt (a + 0x1000) 3328 (k.copies.flatMap Copy.words)
/-- Entries of a table, as many as `room` holds: their number, and for each its key in 4 bytes and its value in `w`. -/
def tableAt (a w room : Nat) (t : List (Nat × Nat)) : List (Nat × Byte) :=
  cellsOf a 8 (min t.length room) ++ (t.take room).zipIdx.flatMap fun e => cellsOf (a + 8 + (4 + w) * e.2) 4 e.1.1 ++ cellsOf (a + 12 + (4 + w) * e.2) w e.1.2
/-- A saved entry of the matrix queue (R301). -/
def MxEntry.record (e : MxEntry) (a : Nat) : List (Nat × Byte) :=
  let w := [e.win.a, e.win.acc, e.win.bias, e.win.q, e.win.w]
  cellsOf a 8 e.word.toNat ++ (e.wc.zipIdx.flatMap fun x => cellsOf (a + 8 + 8 * x.2) 8 x.1.toNat) ++
  (w.zipIdx.flatMap fun x => cellsOf (a + 72 + 8 * x.2) 4 x.1.1 ++ cellsOf (a + 76 + 8 * x.2) 4 x.1.2) ++ cellsOf (a + 112) 8 e.guard
/-- The stopped routine with its staging and partial sums, in the image's area of the matrix unit, whose layout is the part's own
(R165, R243; log 19). -/
def Core.routineBlock (k : Core) (a : Nat) : List (Nat × Byte) :=
  match k.mx.run with
  | none => []
  | some r =>
    { r.entry with wc := r.wc }.record a ++
    wordsAt (a + 0x100) 32 ([1, r.step, r.nr, r.nc, r.ka, r.kb, r.loadedA, r.loadedB, r.flags] ++ r.lc) ++
    tableAt (a + 0x200) 2 60000 r.stA ++
    tableAt (a + 0x60000) 10 60000 (r.stB.map fun e => (e.1, e.2.1 % 256 + (e.2.2.1 % 65536).toNat <<< 8 + (e.2.2.2 % 2 ^ 56) <<< 24)) ++
    tableAt (a + 0x140000) 8 10000 r.part
/-- The image block of a slot of a region's area (R342; log 19). -/
def State.imageBase (s : State) (a slot : Nat) : Nat := bits (s.region a 10 7) 47 0 + slot * 0x8100000
/-- The lowest slot whose block no team holds, be it of another region with the same area (R340, R342). -/
def State.freeSlot (s : State) (a : Nat) : Option Nat :=
  (List.range (bits (s.region a 10 8) 15 0)).find? fun i => !(s.teams.any fun e =>
    match e.2.slot with
    | some j => meets (s.imageBase a i) 0x8100000 (s.imageBase (s.rcbOf e.2) j) 0x8100000
    | none => false)
/-- Write a core's block of the team image (R243, R301). -/
def State.saveCore (s : State) (ib c p : Nat) : State :=
  let k := s.core c
  let b := ib + p * 0x200000
  let s := s.replaceMem b 0x20000 (k.fixedBlock b ++ s.headBlock c b ++ lineCells k.regs.rs b)
  let s := s.moveMem (spadBase c) 0x60000 (b + 0x20000)
  let s := s.replaceMem (b + 0x80000) 98304 (lineCells k.wbuf (b + 0x80000))
  let s := s.replaceMem (b + 0x98000) 2048 ((List.range 256).flatMap fun n => cellsOf (b + 0x98000 + 8 * n) 8 (s.readCsr c n).toNat)
  let s := s.replaceMem (b + 0x98800) 30720 (k.stateBlock (b + 0x98800))
  let s := s.replaceMem (b + 0xA0000) 1441792 (k.routineBlock (b + 0xA0000))
  let q := ib + 0x8000000 + p * 1024
  s.replaceMem q 1024 (k.mx.queue.zipIdx.flatMap fun e => e.1.record (q + 256 * e.2))
/-- Lines of memory as a store of lines. -/
def State.linesAt (s : State) (a lo hi : Nat) : Table Line :=
  (List.range hi).foldl (fun t g => if lo ≤ g then t.put 0 g (BitVec.ofNat 1024 (Memory.read s.mem (a + 128 * g) 128)) else t) []
/-- Bytes of memory as a table with a default. -/
def State.bytesAt (s : State) (d a n : Nat) : Table Nat :=
  (List.range n).foldl (fun t i => t.put d i (Memory.byte s.mem (a + i)).toNat) []
/-- The registers of a block of the team image: at `b` the fixed block, at `e` the core state (R213, R243). -/
def State.fixedRegs (s : State) (b e : Nat) (old : Regs) : Regs :=
  let rd := fun (a n : Nat) => Memory.read s.mem a n
  let words := fun (a n : Nat) => (List.range n).foldl (fun (t : Table Word) i => t.put 0 i (wordN (rd (a + 8 * i) 8))) []
  let cell := fun (i : Nat) =>
    let x := rd (b + 0x640 + i) 1
    ({ committed := wordN (rd (b + 0x200 + 16 * i) 8), pending := wordN (rd (b + 0x208 + 16 * i) 8), written := bit x 7,
       clock := if x % 32 = 31 then none else some (x % 32) } : Cell)
  { old with
    s := words b 64, stag := s.bytesAt 31 (b + 0x600) 64, rs := s.linesAt b 32 1024, gtag := (List.range 992).foldl (fun t g => t.put 31 (32 + g) ((rd (b + 0xB08 + 5 * g / 8) 2 >>> (5 * g % 8)) % 32)) [],
    cells := (List.range 64).foldl (fun (t : Table Cell) i => t.put {} i (cell i)) [],
    clocks := (List.range 32).foldl (fun (t : Table Nat) i => t.put 0 i (rd (e + 4 * i) 4)) [],
    latch := heldLatches.zipIdx.foldl (fun (t : Table Latch) l =>
      t.put {} l.1 { val := BitVec.ofNat 1024 (rd (b + 0x800 + 128 * l.2) 128), tag := rd (b + 0xB00 + l.2) 1 }) old.latch,
    rw := words (e + 0x90) 6, rc := (List.range 6).foldl (fun (t : Table Nat) i => t.put 0 i (rd (e + 0xC0 + 8 * i) 8)) [] }
/-- An entry of the matrix queue from its record (R242, R301). -/
def MxEntry.fromRecord (e : MxEntry) (s : State) (a : Nat) : MxEntry :=
  let w := fun (i : Nat) => (Memory.read s.mem (a + 72 + 8 * i) 4, Memory.read s.mem (a + 76 + 8 * i) 4)
  { e with word := wordN (Memory.read s.mem a 8), wc := (List.range e.wc.length).map fun i => wordN (Memory.read s.mem (a + 8 + 8 * i) 8),
           win := { a := w 0, acc := w 1, bias := w 2, q := w 3, w := w 4 }, guard := Memory.read s.mem (a + 112) 8 }
/-- A core runs on where it had yielded: the request has ended (R126, R241). -/
def Core.runOn (k : Core) : Core :=
  let f := fun (m : Mode) => match m with | .yielded => .run | m => m
  { k with ctl := { k.ctl with mode := f k.ctl.mode, later := f k.ctl.later, shadow := k.ctl.shadow.map fun h => { h with later := f h.later } } }
/-- Read a core's block of the team image back; its level is granted with that (R242, R243, R360, R362, R373, R376). -/
def State.restoreCore (s : State) (x : Team) (ib : Nat) (old : Core) (p : Nat) : State :=
  let c := x.coreAt p
  let b := ib + p * 0x200000
  let here := s.core c
  let q := ib + 0x8000000 + p * 1024
  let mx := { old.mx with routines := here.mx.routines, store := here.mx.store, act := here.mx.act,
                          queue := old.mx.queue.zipIdx.map fun e => e.1.fromRecord s (q + 256 * e.2) }
  let k := { old with regs := s.fixedRegs b (b + 0x98800) old.regs, mx := mx, wbuf := s.linesAt (b + 0x80000) 0 768, rcb := some (s.rcbOf x) }
  let k := (List.range 256).foldl (fun (k : Core) n =>
    if n = 0 then k else k.setCsr n (wordN (Memory.read s.mem (b + 0x98000 + 8 * n) 8))) k
  let k := ((k.identify x p).setCsr csrCYC (here.csr csrCYC)).setCsr csrSTL (here.csr csrSTL)
  let k := (List.range 4).foldl (fun (k : Core) i => k.setCsr (csrPMC + i) 0) (k.setCsr csrPMEV 0)
  let rec8 := fun (o : Nat) => Memory.read s.mem (b + 0x98800 + o) 8
  let k := { k with ctl := { k.ctl with
    pc := rec8 0x80, rep := rec8 0x88 / 256, dmask := rec8 0x88 % 256, level := rec8 0xF0, window := [], stall := 0, did := if here.ctl.did = 1 then 1 else 0, events := [], pmev := 0 } }.runOn
  (s.setCore c (k.moveViews (outSpad (k.ctl.team)) (x.size * 0x80000) (spadBase (x.coreAt 0)))).moveMem (b + 0x20000) 0x60000 (spadBase c)

/-- A core has stopped for good: nothing of it is in flight, and its matrix unit stands at a place where it may stop
(R165, R242, R360). The unit goes on as long as a `TLDW` waits behind an entry of its queue (log 24). -/
def Core.quiet (k : Core) : Bool :=
  k.flights.isEmpty &&
  (k.copies.all fun x => x.complete || x.stopped.isSome) &&
  (match k.mx.run with | none => true | some r => r.bndy)
/-- A core's next bundle is a wait on a die or package barrier whose phase has not completed, or it has ended (R297). -/
def State.parkedCore (s : State) (c : Nat) : Bool :=
  let k := s.core c
  k.ctl.mode == .ended ||
  (match k.ctl.wait with
   | some w => w.waits.any fun x => match x.kind with
     | .bar o => decide (512 ≤ o) && !((s.barrier o).release.any fun r => r.1 == c)
     | _ => false
   | none => false)
def State.isParked (s : State) (t : Nat) : Bool :=
  let x := s.team t
  x.isResident && !x.leaving && (x.cores.all s.parkedCore) && !(x.cores.all fun c => (s.core c).ctl.mode == .ended)
/-- The pre-emption of a team begins: each core stops at its issue boundary (R242). A team that is parked then stays so while it is
out (R297). -/
def State.beginLeave (s : State) (t : Nat) : State :=
  let parked := s.isParked t
  let s := (s.team t).cores.foldl (fun s c => s.takeBack c true) s
  s.onTeam t fun x => { x with leaving := true, parked := parked }
/-- A team's cores become free: what is dirty in their first-level lines goes home. -/
def State.vacateTeam (s : State) (t : Nat) : State :=
  let x := s.team t
  let s := x.cores.foldl (fun s c => (s.l1Drop c true fun _ => true).onCore c Core.vacate) s
  ((s.onBarrier (x.cluster * 32 + x.bn) fun _ => {}).renameCores t (leaveName t x)).entriesOut t x
/-- The team's barrier as the image holds it: release times that have come are 0, and of the time that the reclamation of its last
interval takes the cycles still to come (R242, R365). -/
def State.savedBarrier (s : State) (t : Nat) : Barrier :=
  let x := s.team t
  let b := (s.barrier (x.cluster * 32 + x.bn)).rename (leaveName t x)
  { b with release := b.release.map (fun r => if r.2.1 ≤ s.now ∧ r.2.2 ≤ (s.cluster x.cluster).cycle then (r.1, 0, 0) else r),
           reclaim := b.reclaim - (s.cluster x.cluster).cycle }
/-- Contributions that the cores of a team have sent and that no node has accepted or dropped yet (R242, R323). -/
def State.sends (s : State) (t : Nat) : Bool :=
  s.packets.any fun p => decide (p.2.2.1 < 64) &&
    match assoc s.reductions p.1 with
    | some r => (r.contributors.getD p.2.2.1 (0, 0)).1 == t
    | none => false
/-- The image of a team is written (R241-R243). -/
def State.saveTeam (s : State) (t slot : Nat) : State :=
  let x := s.team t
  let ib := s.imageBase (s.rcbOf x) slot
  let s := x.cores.foldl (fun s c => (s.l1Drop c true fun _ => true).onCore c fun k => k.setYield none) s
  (List.range x.size).foldl (fun s p => s.saveCore ib (x.coreAt p) p) s
/-- The image is written and the team is out (R241-R243, R296). -/
def State.swapOut (s : State) (t slot : Nat) : State :=
  let x := s.team t
  let s := s.saveTeam t slot
  let out := fun (c : Nat) => (s.core c).moveViews (spadBase (x.coreAt 0)) (x.size * 0x80000) (outSpad t)
  let image : Image := { cores := x.cores.map out, barrier := s.savedBarrier t }
  let s := s.mapSpads t false
  let s := (s.vacateTeam t).onTeam t fun x =>
    { x with mode := .out, image := some image, slot := some slot, yreq := none, leaving := false, tail := true }
  if x.parked then s else { s with residency := s.residency ++ [t] }
/-- Every core of a team has committed a `YLD` after the request was posted (R126, R241). -/
def State.allYielded (s : State) (t : Nat) : Bool := (s.team t).cores.all fun c => (s.core c).ctl.mode == .yielded
/-- PRE_EMPTION (R242): once every core stands still. Without a free image slot the team stays (R342). DESIGN CHOICE (log 48):
the spec does not say what becomes of its yield request then; YRQ and YDL are cleared, its residency counts from anew and cores
that have yielded run on. -/
def execPreEmption (t : Nat) (s : State) : Host.Outcome State Fault Refusal :=
  let x := s.team t
  let go := x.isResident && (x.leaving || (x.yreq.isSome && s.allYielded t))
  if !go then .next s
  else
    match (match x.slot with | some i => some i | none => s.freeSlot (s.rcbOf x)) with
    | none =>
      let s := x.cores.foldl (fun s c => s.onCore c fun k =>
        (k.setYield none).runOn) s
      .next (s.onTeam t fun x => { x with yreq := none, leaving := false, parked := false, since := 0 })
    | some slot =>
      if !x.leaving then .next (s.beginLeave t)
      else if !s.sends t && x.cores.all fun c => (s.core c).quiet then .next (s.swapOut t slot) else .next s
/-- The team barrier of a returning team: release times that had not come, and the rest of a reclamation, count from its return
(R242, R365). -/
def State.returnBarrier (s : State) (t : Nat) (x : Team) (b : Barrier) : Barrier :=
  let b := b.rename (enterName t x)
  { b with
    reclaim := (s.cluster x.cluster).cycle + b.reclaim,
    release := b.release.map fun r =>
      if r.2 = (0, 0) then r
      else
        let tier := ((b.members.find? fun m => m.1 == r.1).map Prod.snd).getD 0
        s.releaseAt b (r.1, tier) }
/-- SWAP_IN (R242, R296). -/
def execSwapIn (t : Nat) (s : State) : Host.Outcome State Fault Refusal :=
  if s.nextResident ≠ some t ∨ (s.team t).mode ≠ .out then .next s
  else
    match s.placeTeam t, (s.team t).image with
    | some (cl, base, bn), some im =>
      let x := { s.team t with mode := .resident, cluster := cl, base := base, bn := bn, since := 0, image := none }
      let s := { (s.setTeam t x).standIn x with residency := s.residency.filter (· != t) }
      let ib := s.imageBase (s.rcbOf x) (x.slot.getD 0)
      let s := im.cores.zipIdx.foldl (fun s k => s.restoreCore x ib k.1 k.2) s
      let s := s.onBarrier (cl * 32 + bn) fun _ => s.returnBarrier t x im.barrier
      .next ((((s.renameCores t (enterName t x)).entriesIn t x).mapSpads t true).rehome t)
    | _, _ => .next s

/-- Another team of the region waits for residency (R297). -/
def State.regionWaits (s : State) (a : Nat) : Bool := s.residency.any fun t => s.rcbOf (s.team t) == a
/-- An image slot is at hand (R342). -/
def State.canLeave (s : State) (t : Nat) : Bool := (s.team t).slot.isSome || (s.freeSlot (s.rcbOf (s.team t))).isSome
/-- A parked team that a slot of its region is to be taken from. -/
def State.reclaimable (s : State) (t : Nat) : Bool := s.isParked t && s.regionWaits (s.rcbOf (s.team t)) && s.canLeave t
/-- Order of index: launches by their start, and teams by index within one (R296, R297). -/
def State.teamRank (s : State) (t : Nat) : Nat × Nat := ((s.grid (s.team t).grid).order, (s.team t).index)
/-- The parked teams of a region that are to leave (R297). -/
def State.parkedIn (s : State) (a : Nat) : List Nat := (s.teams.filter fun e => s.rcbOf e.2 == a && s.reclaimable e.1).map Prod.fst
/-- PARK_RECLAIM (R297): forced, without a yield request, in order of index. -/
def execParkReclaim (t : Nat) (s : State) : Host.Outcome State Fault Refusal :=
  let before := fun (u : Nat) =>
    let a := s.teamRank u
    let b := s.teamRank t
    decide (a.1 < b.1 ∨ (a.1 = b.1 ∧ a.2 < b.2))
  if s.reclaimable t && !((s.parkedIn (s.rcbOf (s.team t))).any before) then .next (s.beginLeave t) else .next s
/-- Post a yield request (R241). -/
def State.postYield (s : State) (t dl : Nat) : State :=
  ((s.team t).cores.foldl (fun s c => s.onCore c fun k => k.setYield (some dl)) s).onTeam t fun x => { x with yreq := some dl }
/-- YIELD_REQUEST (R241). -/
def execYieldRequest (t dl : Nat) (s : State) : Host.Outcome State Fault Refusal :=
  let x := s.team t
  if x.isResident && x.yreq.isNone && !x.leaving then .next (s.postYield t dl) else .next s
/-- The region's quantum (R340). -/
def State.quantum (s : State) (t : Nat) : Nat := bits (s.region (s.rcbOf (s.team t)) 9 6) 47 0
/-- QUANTUM_EXPIRY (R297): once no parked team of the region is left to reclaim (R33). -/
def execQuantumExpiry (t : Nat) (s : State) : Host.Outcome State Fault Refusal :=
  let x := s.team t
  if (s.parkedIn (s.rcbOf x)).isEmpty && x.isResident && x.yreq.isNone && !x.leaving && decide (s.quantum t ≤ x.since) && s.regionWaits (s.rcbOf x) then
    .next (s.postYield t (s.now + s.quantum t / 8))
  else .next s
/-- YIELD_DEADLINE_EXPIRY (R126, R241): the pre-emption is forced, unless every core has yielded. -/
def execYieldDeadlineExpiry (t : Nat) (s : State) : Host.Outcome State Fault Refusal :=
  let x := s.team t
  match x.yreq with
  | some dl =>
    if x.isResident && !x.leaving && decide (dl ≤ s.now) && !s.allYielded t then .next (s.beginLeave t) else .next s
  | none => .next s
/-- A parked team that is out is ready again: its phase has completed, or a wall deadline of a wait has passed (R297). -/
def State.wakes (s : State) (t : Nat) : Bool :=
  match (s.team t).image with
  | none => false
  | some im => im.cores.zipIdx.any fun k =>
    match k.1.ctl.back with
    | none => false
    | some b => b.waits.any fun x =>
      (x.wall && decide (b.t0 + x.dl ≤ s.now)) ||
      (match x.kind with | .bar o => (s.barrier o).release.any fun r => r.1 == outId t k.2 | _ => false)
/-- Parked teams that have become ready join the residency queue (R296, R297). -/
def State.wakeParked (s : State) : State :=
  s.teams.foldl (fun s e =>
    if e.2.mode == .out && e.2.parked && s.wakes e.1 then
      { s.onTeam e.1 fun x => { x with parked := false } with residency := s.residency ++ [e.1] }
    else s) s

/-- BARRIER_COMPLETION (R26, R201, R272, R280): parked teams that were waiting for it are ready (R297). -/
def execBarrierCompletion (o : Nat) (s : State) : Host.Outcome State Fault Refusal :=
  if s.phaseComplete o then .next (s.completePhase o).wakeParked else .next s

/-- LCI of a team (R291). -/
def State.lastInstant (s : State) (x : Team) : Nat :=
  x.cores.foldl (fun m c => match (s.core c).ctl.lastInst with | some i => min m (i % 2 ^ 48) | none => 2 ^ 48 - 1)
    (x.cores.foldl (fun m c => max m ((((s.core c).ctl.lastInst).getD 0) % 2 ^ 48)) 0)
/-- The entry of a team in the result area (R291). -/
def State.resultEntry (s : State) (x : Team) (cause : Nat) (done : Bool) : Nat :=
  let lci := if x.cores.any fun c => (s.core c).ctl.lastInst.isNone then 2 ^ 48 - 1 else s.lastInstant x
  (if done then 2 ^ 63 else 0) + (if x.cores.any fun c => (s.core c).txp then 2 ^ 62 else 0) + cause <<< 48 + lci
/-- Write the result entry of a team where it fits (R291). DESIGN CHOICE (log 48): where its address fails translation or permission, of
which the spec says nothing, the entry is dropped, and the command goes on as ever. -/
def State.writeResult (s : State) (x : Team) (cause : Nat) (done : Bool) : State :=
  let g := s.grid x.grid
  if g.result ≠ 0 ∧ 8 * x.index + 8 ≤ g.rlen then
    (s.sysWrite g.ctx (g.result + 8 * x.index) (bytesOf (s.resultEntry x cause done) 8)).getD s
  else s
/-- A core has committed `END`, be it that it stands stopped or in its handler since (R127, R185). -/
def Core.hasEnded (k : Core) : Bool :=
  k.ctl.mode == .ended || (k.ctl.mode == .stopped && k.ctl.later == .ended) || (k.ctl.shadow.map fun h => h.later) == some .ended
/-- A team leaves for good: its result entry, its TXP, its cores, its window and its image slot (R127, R291, R342). DONE of the entry says
whether every core has committed `END`, also where the supervisor ends the team; the team counts among those that the supervisor has
ended then, since it has not completed (R127, R289). -/
def State.retireTeam (s : State) (t : Nat) (m : TeamMode) (cause : Nat) : State :=
  let x := s.team t
  let done := m == .done
  let txp := x.cores.any fun c => (s.core c).txp
  let s := s.writeResult x cause (x.cores.all fun c => (s.core c).hasEnded)
  let s := s.onGrid x.grid fun g =>
    { g with ended := g.ended + (if done then 1 else 0), txp := g.txp || txp,
             fteam := if done then g.fteam else match g.fteam with
               | some (i, c) => if x.index < i then some (x.index, cause) else some (i, c)
               | none => some (x.index, cause) }
  let s := x.cores.foldl (fun s c => (s.core c).copies.foldl (fun s cp => s.copyEnds c cp) (s.takeBack c false)) s
  let s := s.mapSpads t false
  ((s.vacateTeam t).dropEntries (outSpad t) 0x2000000).onTeam t fun x => { x with mode := m, slot := none, image := none, yreq := none, leaving := false, txp := txp }
/-- Everything a core issued has performed at system scope (R127). -/
def Core.performed (k : Core) : Bool :=
  k.flights.isEmpty && (k.copies.all fun x => x.complete) && k.mx.run.isNone && k.mx.queue.isEmpty && (k.l1.all fun x => x.dirty == 0)
/-- TEAM_COMPLETION (R127). -/
def execTeamCompletion (t : Nat) (s : State) : Host.Outcome State Fault Refusal :=
  let x := s.team t
  if x.isResident && !s.sends t && (x.cores.all fun c => (s.core c).ctl.mode == .ended && (s.core c).performed) then
    .next (s.retireTeam t .done 0)
  else .next s
/-- A core of the team has stopped for the supervisor with a cause, or a copy of it has stopped with that cause (R175, R235). -/
def State.mayEnd (s : State) (t cause : Nat) : Bool :=
  (s.team t).isResident && (s.team t).cores.any fun c =>
    (match (s.core c).ctl.mode, (s.core c).ctl.supervisor with | .stopped, some tr => tr.cause == cause | _, _ => false) ||
    (s.core c).copies.any fun x => match x.fault with | some (e, _, _) => e == cause | none => false
/-- END_TEAM (R235, R291). -/
def execEndTeam (t cause : Nat) (s : State) : Host.Outcome State Fault Refusal :=
  if s.mayEnd t cause then .next (s.retireTeam t (.ended cause) cause) else .next s

end Sys2Proof.Machine
end

