-- ==== Sys2Proof/Machine/Supervisor.lean ====
section
/-! DEFINITION. What the supervisor does for a stopped core, conflict spills, cold text, memory errors, continuations and
kernel boundaries (R235, R236, R239, R246, R257, R266, R273, R281, R299, R300). -/
namespace Sys2Proof.Machine

/-- A core stands stopped for the supervisor. -/
def State.isStopped (s : State) (c : Nat) : Bool := (s.core c).ctl.mode == .stopped && (s.teamOf c).isResident
/-- The members of a core's gang that stand stopped (R237). -/
def State.stoppedGang (s : State) (c : Nat) : List Nat := (s.gangOf c).filter s.isStopped
/-- Resume every stopped member of a gang, each from its own record (R20, R237, R239). -/
def State.resumeGang (s : State) (c : Nat) : State := (s.stoppedGang c).foldl State.resumeCore s
/-- Enter the in-core handler in every stopped member of a gang: a trap entry of each (R235-R237, R361). -/
def State.enterGang (s : State) (c : Nat) : State :=
  let s := (s.stoppedGang c).foldl (fun s m =>
    match (s.core m).ctl.supervisor with
    | some t => (s.onCore m fun k => k.perf 13 1).enterHandler m t
    | none => s) s
  s.gangEnters c
/-- Deliver a trap that the supervisor cannot resolve by the rule for the remaining causes: the handler where the fault
domain selects it; otherwise the core stays stopped for the supervisor (R235). -/
def State.deliverTrap (s : State) (c : Nat) : State :=
  match (s.core c).ctl.supervisor with
  | some t => if s.handlerTakes c t.cause then s.enterGang c else s
  | none => s
/-- SUPERVISOR_RESUME (R235, R239). -/
def execSupervisorResume (c : Nat) (s : State) : Host.Outcome State Fault Refusal :=
  if s.isStopped c then .next (s.resumeGang c) else .next s
/-- SUPERVISOR_TRAP_ENTRY (R235, R236): where a handler is installed and the core is not in it. -/
def execSupervisorTrapEntry (c : Nat) (s : State) : Host.Outcome State Fault Refusal :=
  if s.isStopped c && bit ((s.core c).csr csrTVEC).toNat 0 && !(s.core c).handler then .next (s.enterGang c) else .next s

/-- The supervisor's trap of a stopped core, if it has a cause. -/
def State.stoppedBy (s : State) (c cause : Nat) : Option Trap :=
  if s.isStopped c then (s.core c).ctl.supervisor.bind fun t => if t.cause = cause then some t else none else none
/-- The cold piece of a context that holds an address (R266). -/
def State.coldPiece (s : State) (ctx va : Nat) : Option (Nat × List Byte) :=
  s.folios.findSome? fun f => if f.2.ctx = ctx then f.2.cold.find? fun p => p.1 == va / 65536 * 65536 else none
/-- A frame that the supervisor has named is no longer free (log 9). -/
def State.takenTo (s : State) (frame : Nat) : State := { s with frames := max s.frames (4 * dieBytes / 65536 - frame) }
/-- CONFLICT_SPILL (R281): entries of a slice are spilled, and the cores that met the full table go on, those of a region whose spill area
has room; to the others, and to all where no entry can be spilled, CTFULL is delivered. -/
def execConflictSpill (sl n : Nat) (s : State) : Host.Outcome State Fault Refusal :=
  let held := (s.cores.map Prod.fst).filter fun c =>
    match s.stoppedBy c cCTFULL with
    | some t => t.frs.getD 1 0 == wordN sl
    | none => false
  let u := s.spillEntries sl n
  let moved := decide (n = 0 ∨ u.ctocc sl < s.ctocc sl) || !s.tableFull sl
  let goes := fun (c : Nat) => moved && s.spillRoom (s.rcbOf (s.teamOf c)) (min n 1)
  .next ((held.filter fun c => !goes c).foldl State.deliverTrap ((held.filter goes).foldl State.resumeGang u))

/-- The memory quota of a region or of one above it is exceeded (R24, R340). -/
def State.overQuota (s : State) (a : Nat) : Bool := (s.above a).any fun b => decide (bits (s.region b 2 2) 47 0 < s.regionPages b)
/-- The quota may force a fetched piece out: no core of the context has a bundle of it issued and uncommitted (R266). -/
def State.mayEvict (s : State) (ctx va : Nat) : Bool :=
  (s.coldPiece ctx va).isSome && (s.walkPage ctx va).isSome && s.cores.all fun k =>
    s.ctxOf k.1 != ctx || match k.2.ctl.wait with | some w => w.fra / 65536 != va / 65536 | none => true
/-- A cold piece is absent again (R266). -/
def State.evictCold (s : State) (ctx va : Nat) : State :=
  if s.mayEvict ctx va then s.mapPage ctx (va / 65536 * 65536) coldPte else s
/-- Beyond the quota the fetched pieces of the region's folios go, the lowest first, but for the one that has just come
(R266; log 14). -/
def State.fitQuota (s : State) (a ctx va : Nat) : State :=
  let ps := (s.folios.filter fun f => s.within f.2.rcb a).flatMap fun f => f.2.cold.map fun p => (f.2.ctx, p.1)
  (ps.filter fun p => p != (ctx, va)).foldl (fun s p => if s.overQuota a then s.evictCold p.1 p.2 else s) s
/-- COLDTXT is delivered with the address of the piece (R266). -/
def State.deliverCold (s : State) (c : Nat) : State :=
  let s := (s.stoppedGang c).foldl (fun (s : State) m => s.onCore m fun k =>
    match k.ctl.supervisor with
    | some t =>
      if t.cause = cCOLDTXT then
        let a := (t.frs.getD 0 0).toNat / 65536 * 65536
        let k := if k.handler then k else k.setCsr csrFRS (wordN a)
        { k with ctl := { k.ctl with supervisor := some { t with frs := [wordN a] } } }
      else k
    | none => k) s
  s.deliverTrap c
/-- COLDTXT_SERVICE (R266): the piece is read and mapped, and every core that waits for it goes on; where the read fails,
COLDTXT is delivered. The bytes are those of the folio as it was loaded: whether a later change of them in host memory is seen is left
open, and the model does not see it (log 48). -/
def execColdtxtService (c frame : Nat) (ok : Bool) (s : State) : Host.Outcome State Fault Refusal :=
  match s.stoppedBy c cCOLDTXT with
  | none => .next s
  | some t =>
    let va := (t.frs.getD 0 0).toNat
    let ctx := s.ctxOf c
    let held := (s.cores.map Prod.fst).filter fun d =>
      match s.stoppedBy d cCOLDTXT with
      | some u => s.ctxOf d == ctx && (u.frs.getD 0 0).toNat / 65536 == va / 65536
      | none => false
    match s.coldPiece ctx va with
    | some (_, bs) =>
      if ok && decide (frame < 4 * dieBytes / 65536) then
        let s := (s.replaceMem (frame * 65536) 65536 (cellsAt (frame * 65536) (bs.take 65536))).takenTo frame
        let s := s.mapPage ctx (va / 65536 * 65536) (pteOf frame 0 false false false true)
        let s := s.fitQuota (s.rcbOf (s.teamOf c)) ctx (va / 65536 * 65536)
        .next (held.foldl State.resumeGang s)
      else if ok then .next s
      else .next (held.foldl State.deliverCold s)
    | none => .next (held.foldl State.deliverCold s)

/-- A corrected error is counted, and the last one is recorded (R245). -/
def Core.correct (src a bt syn : Nat) (k : Core) : Core :=
  let e := (k.csr csrECM).toNat
  let n := min (bits e 47 16 + 1) (2 ^ 32 - 1)
  let k := k.setCsr csrECM (wordN (n <<< 16 + (src % 4) <<< 2 + bits e 1 0))
  (k.setCsr (csrECM + 1) (wordN (2 ^ 63 + a % 2 ^ 19))).setCsr (csrECM + 2) (wordN ((bt % 256) <<< 8 + syn % 256))
/-- An operation whose own access finds an uncorrectable error: MEMUE, unless a check of its slot that comes before fails (R97, R246). -/
def SlotOp.failing (t : Trap) (x : SlotOp) : SlotOp :=
  if x.op.nop then x else { x with op := { x.op with body := fun y vs s => (x.op.body y vs s).unless t } }
/-- An issue in which the accesses of some slots find an uncorrectable error, in memory number `mem` at the address `a` as FRS0 is to hold
it: MEMUE at step 6 in those of them that are not nullified, among the other slots in their order (R97, R234, R246). -/
def State.badIssue (s : State) (c mem a mask : Nat) : State :=
  let t := trap6 cMEMUE [wordN a, wordN (mem % 4)]
  s.issueAs (fun ops => ops.map fun x => if bit mask x.slot.maskBit then x.failing t else x) c
/-- The bytes [b, b + 8) of physical memory as a command has read them from its source are zero. -/
def zeroRead (b : Nat) (src : List (Nat × Nat × Nat)) (x : Nat) : Nat :=
  src.foldl (fun x q =>
    (List.range 8).foldl (fun x i => if q.1 ≤ b + i ∧ b + i < q.1 + q.2.1 then
      let o := q.2.2 + (b + i - q.1)
      setBits x (8 * o + 7) (8 * o) 0 else x) x) x
/-- A load in flight with those bytes zero (R246). -/
def Flight.zeroed (b : Nat) (f : Flight) : Flight :=
  match f.what with
  | .load d x => { f with what := .load d (zeroRead b f.src x) }
  | .tldw o d => { f with what := .tldw o (bytesOf (zeroRead b f.src (ofBytes d)) d.length) }
  | _ => f
/-- What a core's engines have read of the 8 bytes of physical memory at `bs`, which name the same storage, is zero: loads in flight and
the source of copies (R246). -/
def State.zeroReads (s : State) (c : Nat) (bs : List Nat) : State :=
  s.onCore c fun k =>
    { k with flights := k.flights.map fun f => bs.foldl (fun f b => f.zeroed b) f,
             copies := k.copies.map fun x =>
               if x.complete then x
               else
                 { x with data := x.data.zipIdx.map fun (d, i) =>
                     match s.translate (s.ctxOf c) (x.src + i) .copySrc with
                     | .ok p => if decide (x.done ≤ i) && bs.any fun b => decide (b ≤ servedPa c p ∧ servedPa c p < b + 8) then 0 else d
                     | .error _ => d } }
/-- A trap that the core's next issue takes. -/
def Core.owe (t : Trap) (k : Core) : Core := { k with ctl := { k.ctl with owed := k.ctl.owed ++ [t] } }
/-- The physical addresses of the 8 bytes of a scratchpad that hold what a virtual address names, through either view (R249, R250); of an
address that names no scratchpad there are none. -/
def State.spadNames (s : State) (c va : Nat) : List Nat :=
  match (s.walkPage (s.ctxOf c) va).bind fun p => placeOf (servedPa c p) with
  | some (.spad d _, a) => let o := a / 8 * 8 - spadBase d; [spadBase d + o, spadBase d + 0x20000000 + swizzle o]
  | _ => []
/-- MEMUE (R246): an uncorrectable error that an engine finds, at an address as FRS0 holds it, of a scratchpad a virtual one (R234): the 8 bytes read as zero in its command, and the core's next
issue takes the trap. The register space and the weight buffer hold no second copy, and the engine of the matrix unit reads
them step by step: there the bytes are zero from now on (log 53). A clean line of a slice is refetched silently, which is no
event. -/
def execMemue (c : Nat) (mem : BitVec 2) (a : Nat) (s : State) : Host.Outcome State Fault Refusal :=
  let b := a / 8 * 8
  let k := s.core c
  let t : Trap := { cause := cMEMUE, step := 7, frs := [wordN a, wordN mem.toNat] }
  let s := match mem.toNat with
    | 0 => s.setCore c { k with regs := { k.regs with rs := linesWrite k.regs.rs (b % 131072) 8 0 } }
    | 1 => s.zeroReads c (s.spadNames c a)
    | 2 => s.setCore c { k with wbuf := linesWrite k.wbuf (b % 98304) 8 0 }
    | _ => s.zeroReads c [b]
  .next (s.onCore c (Core.owe t))
/-- A parity error of the microprogram store, the routine table or the activation tables: it is uncorrectable, the entry reads
as zero, and the core takes MEMUE (R245, R246). The spec gives that MEMUE neither an address nor a memory code: both are free,
the code being none of device memory (log 53). -/
def State.parityError (s : State) (c tbl i : Nat) : State :=
  let (a, s) := s.takeFree
  let (m, s) := s.takeFree
  s.onCore c fun k =>
    let mx := match tbl with
      | 0 => { k.mx with store := k.mx.store.put 0 i 0 }
      | 1 => { k.mx with routines := k.mx.routines.put 0 i 0 }
      | _ => { k.mx with act := k.mx.act.put 0 i 0 }
    Core.owe { cause := cMEMUE, step := 7, frs := [a, wordN (m.toNat % 3)] } { k with mx := mx }
/-- The leaf entries under a table: where each stands, what it says and how many bytes it maps. -/
def State.leaves (s : State) : Nat → Nat → Nat → List (Nat × Nat × Nat)
  | 0, _, _ => []
  | fuel + 1, lvl, base =>
    (List.range 1024).flatMap fun i =>
      let e := Memory.read s.mem (base + 8 * i) 8
      if !bit e 63 || bit e 62 && bit e 36 then []
      else if bit e 62 then [(base + 8 * i, e, 2 ^ (46 - 10 * lvl))]
      else if lvl = 3 then []
      else s.leaves fuel (lvl + 1) (bits e 31 0 <<< 16)
/-- FRAME_RETIRE (R246, R257): the frame of an HBM address is retired and its page moves to another: dirty lines of it go home
first, and its conflict entries go with it. The bytes of a clean page are those of its copy in host memory, which they equal
(log 53). Cores that the error
stopped go on where the page was clean; otherwise MEMUE is delivered to them. -/
def execFrameRetire (a frame : Nat) (clean : Bool) (s : State) : Host.Outcome State Fault Refusal :=
  let f := a / 65536
  let hit := (s.contexts.flatMap fun d => if bit d.2.toNat 63 then s.leaves 4 0 (bits d.2.toNat 47 16 <<< 16) else []).filter fun l =>
    let n := l.2.2 / 65536
    decide (bits l.2.1 31 0 ≤ f) && decide (f < bits l.2.1 31 0 + n) && frame % n == 0
  let s := match hit.head? with
    | none => { s with retired := joined f s.retired }
    | some l =>
      let old := bits l.2.1 31 0 * 65536
      let s := (s.cores.map Prod.fst).foldl (fun (s : State) c => s.l1Drop c true fun x => meets x.pa 128 old l.2.2) s
      let s := ((s.moveMem old l.2.2 (frame * 65536)).moveEntries old l.2.2 (frame * 65536)).takenTo frame
      { s with retired := joined f s.retired }
  let s := hit.foldl (fun s l => s.write8 l.1 (setBits l.2.1 31 0 frame)) s
  let held := (s.cores.map Prod.fst).filter fun c =>
    match s.stoppedBy c cMEMUE with
    | some t => t.frs.getD 1 0 == 3 && (t.frs.getD 0 0).toNat / 65536 == f
    | none => false
  .next (held.foldl (if clean then State.resumeGang else State.deliverTrap) s)

/-- The teams of a grid, by number. -/
def gridTeams (s : State) (g : Nat) : List (Nat × Team) := s.teams.filter fun e => e.1 / 65536 == g && e.2.mode != .none
/-- A team has completed an instant: it has ended, or its cores' IC stand above it (R300). -/
def State.passed (s : State) (x : Team) (n : Nat) : Bool :=
  match x.mode with
  | .waiting => decide (n < x.ic0)
  | .resident => x.cores.all fun c => decide (n < (s.core c).ic)
  | .out => (x.image.map fun im => im.cores.all fun k => decide (n < k.ic)).getD true
  | _ => true
/-- The entry points of a folio, in order (R351). -/
def Folio.entries (f : Folio) : List Symbol := f.symbols.filter fun y => y.kind == 0
/-- The residency queue with a new team: an initial team stands by the start of its launch and its index, before those of later
launches; a continuation joins at the tail (R296). -/
def State.enqueueTeam (s : State) (t : Nat) (x : Team) : List Nat :=
  let o := (s.grid x.grid).order
  let later := fun (u : Nat) => !(s.team u).tail && decide (o < (s.grid (s.team u).grid).order)
  if x.tail then s.residency ++ [t]
  else (s.residency.takeWhile fun u => !later u) ++ t :: (s.residency.dropWhile fun u => !later u)
/-- Add a team to a grid; it joins the residency queue (R22, R296). -/
def State.addTeam (s : State) (g : Nat) (x : Team) : State :=
  let t := g * 65536 + (s.grid g).created
  let x := { x with mode := .waiting, grid := g, index := (s.grid g).created }
  { (s.setTeam t x).onGrid g fun y => { y with created := y.created + 1 } with residency := s.enqueueTeam t x }
/-- The launch block of a continuation team (R288). -/
def Post.block (p : Post) : List Byte :=
  (p.payload ++ List.replicate 64 0).take 64 ++ bytesOf p.addr 8 ++ bytesOf p.entry 8 ++ bytesOf p.instant 8 ++ bytesOf p.core 8 ++ bytesOf p.seq 8
/-- Consume one record: a continuation team, or a grid whose status becomes FAULTED (R300). -/
def State.consumePost (s : State) (g : Nat) (p : Post) : State :=
  let w := p.entry
  let gs := 2 ^ bits w 26 24
  let n := bits w 22 16
  let f := assoc s.folios (s.grid g).folio
  let entry := (f.bind fun f => f.entries[bits w 15 0]?).map fun y => y.va
  let s := s.onGrid g fun y => { y with posts := y.posts.erase p }
  match entry with
  | some pc =>
    if bit w 31 || bit w 27 || bit w 23 || decide (4 < bits w 26 24 ∨ n = 0 ∨ 64 < n ∨ n % gs ≠ 0 ∨ regionCores s (s.grid g).rcb < n) then
      s.onGrid g fun y => { y with badRecord := true }
    else
      s.addTeam g { size := n, gang := gs, skew := bits w 30 28, entry := pc, ic0 := p.instant + 1, block := p.block, tail := true }
  | none => s.onGrid g fun y => { y with badRecord := true }
/-- The first record of a list by posting core and sequence number. DESIGN CHOICE (log 48): of two that are equal in both, which two
teams in turn on one core can post in one instant, the one posted first is first; R300 gives them no order. -/
def firstPost (ps : List Post) : Option Post :=
  ps.foldl (fun b p =>
    match b with
    | none => some p
    | some q => if p.core < q.core ∨ (p.core = q.core ∧ p.seq < q.seq) then some p else some q) none
/-- Consume the records of one instant in ascending order (R31, R300). -/
def State.consumeAll (s : State) (g n : Nat) : Nat → State
  | 0 => s
  | fuel + 1 =>
    match firstPost ((s.grid g).posts.filter fun p => decide (p.instant ≤ n)) with
    | none => s
    | some p => (s.consumePost g p).consumeAll g n fuel
/-- INSTANT_CLOSE (R31, R300): the oldest instant that has records, or the next one, closes once every team has left it. -/
def execInstantClose (g : Nat) (s : State) : Host.Outcome State Fault Refusal :=
  let y := s.grid g
  let n := match y.posts with
    | [] => y.closed
    | p :: r => max y.closed (r.foldl (fun m q => min m q.instant) p.instant)
  if y.alive && (gridTeams s g).all fun e => s.passed e.2 n then
    .next ((s.consumeAll g n (y.posts.length + 1)).onGrid g fun y => { y with closed := n + 1 })
  else .next s

/-- A running launch command that has yet to create its grid. -/
def Queue.launching (q : Queue) : Option (List Word) :=
  match q.run with
  | some r => if bits (r.words.getD 0 0).toNat 63 56 = 1 && r.grid.isNone && !r.fin then some r.words else none
  | none => none
/-- The dependences of a command (R284): queue and count. -/
def dependences (ws : List Word) : List (Nat × Nat) :=
  (List.range (bits (ws.getD 0 0).toNat 55 53)).map fun j =>
    (bits (ws.getD (1 + j) 0).toNat 59 48, bits (ws.getD (1 + j) 0).toNat 47 0)
/-- The completed launches that a queue's launch is ordered after and that no kernel boundary has followed (R273, R283). -/
def State.boundariesFor (s : State) (q : Nat) : List Nat :=
  match (s.queue q).launching with
  | none => []
  | some ws =>
    (s.grids.filter fun e => e.2.finished && (e.2.queue == q || (dependences ws).any fun d => d.1 == e.2.queue && decide (e.2.count ≤ d.2))).map
      Prod.fst
/-- KERNEL_BOUNDARY (R254, R255, R273) after the launch of a grid, in every cluster in which a team of it has stood. -/
def execKernelBoundary (g : Nat) (s : State) : Host.Outcome State Fault Refusal :=
  if !((s.queues.map Prod.fst).any fun q => (s.boundariesFor q).contains g) then .next s
  else
    let cls := (((gridTeams s g).map fun e => e.2.cluster) ++ (s.grid g).stood).eraseDups
    let s := s.cacheBoundary
    .next { s with
      granules := s.granules.filter fun e => e.2.team / 65536 != g,
      records := s.records.foldl (fun (t : Table Record) e =>
        let keep := fun (l : List Nat) => l.filter fun u => u / 65536 != g
        if (keep e.2.teams).isEmpty && e.2.tent.isEmpty then t
        else t.put {} e.1 { e.2 with teams := keep e.2.teams, writers := keep e.2.writers }) [],
      handoffs := s.handoffs.filter fun e => !cls.contains e.2.clu,
      latches := s.latches.filter fun e => !cls.contains (e.1 / 256),
      teams := s.teams.filter fun e => e.1 / 65536 != g,
      grids := s.grids.put {} g {} }

end Sys2Proof.Machine
end

