-- ==== Sys2Proof/Machine/Work.lean ====
section
/-! DEFINITION. Work queues: arrival, dispatch, completion, and the commands that need no folio (R282-R286, R289, R290,
R292, R293, R379, R385, R388, R390). -/
namespace Sys2Proof.Machine

/-- Word i of a command: w0-w7, then b0-b7 (R284). -/
def cmdWord (ws : List Word) (i : Nat) : Nat := (ws.getD i 0).toNat
def cmdBody (ws : List Word) (i : Nat) : Nat := cmdWord ws (8 + i)
def cmdOp (ws : List Word) : Nat := bits (cmdWord ws 0) 63 56
/-- The header of a command breaks its map (R284). -/
def badHeader (ws : List Word) : Bool :=
  let n := bits (cmdWord ws 0) 55 53
  let ddl := bits (cmdWord ws 5) 47 0
  cmdOp ws == 0 || decide (7 < cmdOp ws) || decide (4 < n) || bits (cmdWord ws 0) 52 32 != 0 ||
  ((List.range 4).any fun j => if j < n then bits (cmdWord ws (1 + j)) 63 60 != 0 else cmdWord ws (1 + j) != 0) ||
  bits (cmdWord ws 5) 63 48 != 0 || (n == 0) != (ddl == 0) || cmdWord ws 6 != 0 || cmdWord ws 7 != 0
/-- A 56-bit address with a multiple. -/
def addrOk (x m : Nat) : Bool := decide (x < 2 ^ 56) && x % m == 0
/-- Body words from i on are zero. -/
def restZero (ws : List Word) (i : Nat) : Bool := (List.range 8).all fun j => decide (j < i) || cmdBody ws j == 0
/-- The body of a launch keeps its map (R287). -/
def launchOk (ws : List Word) : Bool :=
  let b := cmdBody ws
  let per := bits (b 1) 47 32
  let glog := bits (b 1) 26 24
  let n := bits (b 1) 22 16
  bits (b 0) 47 32 == 0 && per != 0 && decide (bits (b 1) 63 48 < per) && !bit (b 1) 31 && !bit (b 1) 27 && !bit (b 1) 23 &&
  decide (glog ≤ 4) && decide (1 ≤ n ∧ n ≤ 64) && n % 2 ^ glog == 0 && addrOk (b 2) 1 && decide (b 3 < 2 ^ 32) && b 3 % 256 == 0 &&
  addrOk (b 4) 1 && decide (b 5 < 2 ^ 32) && restZero ws 6
/-- The body of a command keeps its map (R286). A value outside the domain that R286 states for its field, which it does not call
refused, is refused as MALFORMED: a signal or wait address that is not aligned, a deadline of a wait outside 1 to 2^48 - 1, a query
item above 2 or a non-zero b2 63:12, a non-zero b2 63:9 of a load, an ASTR of a launch that is no multiple of 256 (log 48). -/
def bodyOk (ws : List Word) : Bool :=
  let b := cmdBody ws
  match cmdOp ws with
  | 1 => launchOk ws
  | 2 => addrOk (b 0) 16 && addrOk (b 1) 16 && decide (b 2 < 2 ^ 40) && b 2 % 16 == 0 && restZero ws 3
  | 3 => addrOk (b 0) 8 && decide (b 2 < 2) && restZero ws 3
  | 4 => addrOk (b 0) 8 && decide (1 ≤ b 2 ∧ b 2 < 2 ^ 48) && restZero ws 3
  | 5 => addrOk (b 0) 1 && bits (b 2) 63 9 == 0 && restZero ws 4
  | 6 => decide (b 0 < 2 ^ 32) && restZero ws 1
  | _ => decide (b 0 < 3) && addrOk (b 1) 1 && decide (b 2 < 4096) && restZero ws 3
/-- A head that a halted queue still starts (R290). -/
def isResume (ws : List Word) : Bool := cmdOp ws == 3 && bit (cmdBody ws 2) 0

/-- The DDL clock starts when a command becomes the head of a queue that is neither BUSY nor HALT (R285). -/
def Queue.settle (x : Queue) (now : Nat) : Queue :=
  if x.cmds.isEmpty || x.run.isSome || x.halt then { x with headAt := none }
  else { x with headAt := some (x.headAt.getD now) }
/-- QS0 and QS1 (R282). -/
def Queue.qs0 (x : Queue) : Nat :=
  x.prio <<< 61 + x.elev <<< 58 + (if x.halt then 2 ^ 57 else 0) + (if x.run.isSome then 2 ^ 56 else 0) + x.ctx <<< 48 + x.count % 2 ^ 48
def Queue.qs1 (x : Queue) : Nat := (if x.valid then 2 ^ 63 else 0) + x.rcb
/-- QUEUE_CONFIGURATION (R282, R390): `en` is the host's endpoint of a queue that is enabled, none of one that is not, whose record of
an endpoint stays for the command that it still runs. DESIGN CHOICE (log 48): ELEV is set to the new PRIO. -/
def execQueueConfiguration (q : Nat) (prio : BitVec 3) (ctx : BitVec 8) (rcb : BitVec 56) (en : Option Word) (s : State) :
    Host.Outcome State Fault Refusal :=
  if 4096 ≤ q then .next s
  else .next (s.onQueue q fun x =>
    { x with valid := en.isSome, prio := prio.toNat, elev := prio.toNat, ctx := ctx.toNat, rcb := rcb.toNat, host := en.getD x.host })
/-- COMMAND_ARRIVAL (R282-R284, R382, R388, R390): refused at the endpoint of a disabled queue or before the module is ready;
beyond 64 commands the transport holds it back. -/
def execCommandArrival (q : Nat) (ws : List Word) (s : State) : Host.Outcome State Fault Refusal :=
  let x := s.queue q
  if s.ready && x.valid && ws.length == 16 && decide (x.cmds.length < 64) && decide (s.ports.length < 8) then
    .next (s.onQueue q fun x => { x with cmds := x.cmds ++ [ws] }.settle s.now)
  else .next s

/-- The completion record of a command (R289), COUNT, and HALT: a status other than OK sets it, and a signal with RESUME clears
it (R290). The record goes to the host's endpoint on the queue's stream (R390). A load's folio is known from now on (R353). -/
def State.completeCommand (s : State) (q : Nat) (ws : List Word) (start status detail val : Nat) (g : Option Grid) : State :=
  let n := ((s.queue q).count + 1) % 2 ^ 48
  let op := cmdOp ws
  let f := g.bind fun g => g.fteam
  let w5 := if op = 1 then (match f with | some (i, c) => c <<< 32 + i | none => 0xFFFFFFFF) else 0
  let rec_ : List Nat := [op <<< 56 + status <<< 48 + detail <<< 40 + bits (cmdWord ws 0) 31 0, q <<< 52 + n, val,
    ((g.map fun g => g.created).getD 0), (match g with | some g => if g.txp then 1 else 0 | none => 0), w5, start, s.now]
  let s := { s with outbox := s.outbox ++ [Sent.mk (.host (s.queue q).host q) (rec_.map wordN)] }
  let s := if op = 5 ∧ status = 0 ∧ !bit (cmdBody ws 2) 8 then
      { s with folios := s.folios.map fun f => if f.1 == val then (f.1, { f.2 with since := some s.order }) else f }
    else s
  s.onQueue q fun x => { x with count := n, run := none, halt := (x.halt && !(isResume ws && status == 0)) || status != 0 }.settle s.now
/-- A running command has come to its outcome (R283). -/
def State.finish (s : State) (q status detail val : Nat) : State :=
  s.onQueue q fun x => { x with run := x.run.map fun r => { r with fin := true, status := status, detail := detail, value := val } }
/-- The running command of a queue with a given OP, not yet done. -/
def State.running (s : State) (q op : Nat) : Option Running :=
  match (s.queue q).run with
  | some r => if !r.fin && cmdOp r.words == op then some r else none
  | none => none

/-- Queue weight and starvation bound of the bound region (R282, R340). -/
def State.queueWeight (s : State) (q : Nat) : Nat := bits (s.region (s.queue q).rcb 4 3) 18 3
def State.queueBound (s : State) (q : Nat) : Nat := bits (s.region (s.queue q).rcb 8 5) 47 0
/-- Every dependence of a command holds (R285). DESIGN CHOICE (log 48): a malformed header waits for none, and a malformed body is found
once the dependences hold, so that such a command may end TIMEOUT. -/
def State.depsHold (s : State) (ws : List Word) : Bool := badHeader ws || (dependences ws).all fun d => decide (d.2 ≤ (s.queue d.1).count)
/-- Take the head of a queue off. -/
def Queue.pop (x : Queue) : Queue := { x with cmds := x.cmds.drop 1, headAt := none }
/-- Heads of halted queues complete CANCELLED, and heads whose dependences have timed out complete TIMEOUT (R285, R290). -/
def State.dropHead (s : State) (q : Nat) : State :=
  let x := s.queue q
  match x.valid && x.run.isNone, x.cmds with
  | true, ws :: _ =>
    if x.halt then
      if isResume ws then s else (s.onQueue q Queue.pop).completeCommand q ws s.now 3 0 0 none
    else if !s.depsHold ws && (match x.headAt with | some t => decide (t + bits (cmdWord ws 5) 47 0 ≤ s.now) | none => false) then
      (s.onQueue q Queue.pop).completeCommand q ws s.now 4 0 0 none
    else s
  | _, _ => s
/-- A queue is ready (R292). -/
def State.queueReady (s : State) (q : Nat) : Bool :=
  let x := s.queue q
  match x.cmds with
  | [] => false
  | ws :: _ => x.valid && x.run.isNone && (!x.halt || isResume ws) && s.depsHold ws
/-- Readiness is noted, and a ready queue past its bound rises one level (R293). -/
def State.promote (s : State) (q : Nat) : State :=
  let r := s.queueReady q
  let b := s.queueBound q
  s.onQueue q fun x =>
    let x := if r && !x.wasReady then { x with since := s.now } else x
    let x := { x with wasReady := r }
    if r && decide (b ≤ s.now - x.since) && decide (x.elev < 7) then { x with elev := x.elev + 1, since := s.now } else x
/-- Start the head of a queue (R292); a malformed command is refused at once (R284). -/
def State.startHead (s : State) (q : Nat) : State :=
  match (s.queue q).cmds with
  | [] => s
  | ws :: _ =>
    let bad := badHeader ws || !bodyOk ws
    let run : Running := { words := ws, start := s.now, fin := bad, status := if bad then 1 else 0, detail := if bad then 1 else 0,
                           order := s.order }
    { s with order := s.order + 1 }.onQueue q fun x =>
      { x.pop with run := some run, elev := x.prio, since := s.now, wasReady := false }
/-- The choice of R292 among the ready queues of the highest level. -/
def State.choose (s : State) : State :=
  let ready := (s.queues.map Prod.fst).filter s.queueReady
  let lvl := ready.foldl (fun m q => max m (s.queue q).elev) 0
  let r := ready.filter fun q => (s.queue q).elev == lvl
  match r with
  | [] => s
  | _ =>
    let s := r.foldl (fun s q => s.onQueue q fun x => { x with cur := x.cur + (s.queueWeight q : Int) }) s
    let best := r.foldl (fun (b : Option Nat) q =>
      match b with
      | none => some q
      | some p => if (s.queue p).cur < (s.queue q).cur then some q else some p) none
    match best with
    | none => s
    | some q =>
      let w := (r.map s.queueWeight).sum
      (s.onQueue q fun x => { x with cur := x.cur - (w : Int) }).startHead q
/-- DISPATCH_STEP (R285, R290, R292, R293): once at each multiple of 64 ticks. Within a step the heads of the queues are taken off in
queue number order, so that a COUNT which such a completion raises counts already for the queues behind it; R285 gives no order,
and this one is the model's choice (log 48). -/
def execDispatchStep (s : State) : Host.Outcome State Fault Refusal :=
  if s.now % 64 ≠ 0 ∨ s.stepped = some s.now ∨ s.tripped then .next s
  else
    let s := { s with stepped := some s.now }
    let qs := s.queues.map Prod.fst
    let s := qs.foldl State.dropHead s
    .next (qs.foldl State.promote s).choose
/-- A grid's launch has run to its end (R289). -/
def State.gridDone (s : State) (g : Nat) : Bool :=
  (s.grid g).posts.isEmpty && (gridTeams s g).all fun e => match e.2.mode with | .done => true | .ended _ => true | _ => false
/-- What a grid held is free again: its channels, its die and package barriers and its reductions (R303, R317, R347). -/
def State.releaseGrid (s : State) (g : Nat) : State :=
  { s with channels := s.channels.filter fun e => e.1 / 256 != g,
           reductions := s.reductions.filter fun e => e.1 / 65536 != g,
           packets := s.packets.filter fun p => p.1 / 65536 != g,
           chantab := s.chantab.filter fun e => e.2.grid != g,
           routers := s.routers.filter fun e => e.2.inst / 65536 != g,
           barriers := s.barriers.filter fun b => b.1 < 512 || b.2.holder != g + 1 }
/-- COMMAND_COMPLETION (R283, R289, R290, R378). -/
def execCommandCompletion (q : Nat) (s : State) : Host.Outcome State Fault Refusal :=
  match (s.queue q).run with
  | none => .next s
  | some r =>
    if s.tripped then .next s
    else
      match r.grid with
      | none => if r.fin then .next (s.completeCommand q r.words r.start r.status r.detail r.value none) else .next s
      | some n =>
        if !s.gridDone n then .next s
        else
          let g := s.grid n
          let (st, d) := match g.fteam with
            | some (_, c) => (2, c)
            | none => (if g.badRecord then 2 else 0, 0)
          let s := (s.completeCommand q r.words r.start st d g.ended (some g)).releaseGrid n
          .next (s.onGrid n fun g => { g with alive := false, finished := true, count := (s.queue q).count })

/-- Bytes of [va, va + n) that translate, from its start (R286). -/
def State.goodPrefix (s : State) (ctx va n : Nat) (k : AccessKind) : Nat :=
  match s.firstBad ctx va n k with
  | some b => (b.1 - va) / 16 * 16
  | none => n
/-- COPY (R286). -/
def execCopy (q : Nat) (s : State) : Host.Outcome State Fault Refusal :=
  match s.running q 2 with
  | none => .next s
  | some r =>
    let ctx := (s.queue q).ctx
    let n := cmdBody r.words 2
    let m := min (s.goodPrefix ctx (cmdBody r.words 0) n .read) (s.goodPrefix ctx (cmdBody r.words 1) n .write)
    let s := match s.sysRead ctx (cmdBody r.words 0) m with
      | some bs => (s.sysWrite ctx (cmdBody r.words 1) bs).getD s
      | none => s
    .next (s.finish q (if m = n then 0 else 5) 0 m)
/-- SIGNAL (R286, R290). -/
def execSignal (q : Nat) (s : State) : Host.Outcome State Fault Refusal :=
  match s.running q 3 with
  | none => .next s
  | some r =>
    let a := cmdBody r.words 0
    let done := if a = 0 then some s else s.sysWrite (s.queue q).ctx a (bytesOf (cmdBody r.words 1) 8)
    .next ((done.getD s).finish q (if done.isSome then 0 else 5) 0 0)
/-- WAIT (R286): the condition wins a tie with the deadline. -/
def execWait (q : Nat) (s : State) : Host.Outcome State Fault Refusal :=
  match s.running q 4 with
  | none => .next s
  | some r =>
    match s.sysRead (s.queue q).ctx (cmdBody r.words 0) 8 with
    | none => .next (s.finish q 5 0 0)
    | some bs =>
      let v := ofBytes bs
      if cmdBody r.words 1 ≤ v then .next (s.finish q 0 0 v)
      else if r.start + cmdBody r.words 2 ≤ s.now then .next (s.finish q 4 0 v)
      else .next s

/-- The root region, the children of a region, and the guaranteed power of a region, PFLR (R340). -/
def State.rootRegion (s : State) : Option Nat := (s.regions.find? fun e => bits (e.2.getD 0 0).toNat 55 0 == 0).map Prod.fst
def State.childrenOf (s : State) (a : Nat) : List Nat :=
  (s.regions.filter fun e => a != 0 && bits (e.2.getD 0 0).toNat 55 0 == a).map Prod.fst
def State.floorOf (s : State) (a : Nat) : Nat := bits (s.region a 3 3) 63 32
/-- The floor of the power cap (R379). -/
def State.powerFloor (s : State) : Nat :=
  max Config.idleFloor (((s.rootRegion.map s.childrenOf).getD []).map s.floorOf).sum
/-- The watts that the supervisor gives the regions below one that has n: each its PFLR, and of the rest a part that is the
supervisor's own choice (R379; log 14). -/
def State.giveShares : Nat → Nat → Nat → State → State
  | 0, _, _, s => s
  | fuel + 1, a, n, s =>
    let kids := s.childrenOf a
    (kids.foldl (fun (r : State × Nat) k =>
      let (w, s) := r.1.takeFree
      let x := w.toNat % (r.2 + 1)
      (giveShares fuel k (s.floorOf k + x) { s with power := assocSet s.power k (s.floorOf k + x) }, r.2 - x)) (s, n - (kids.map s.floorOf).sum)).1
/-- The root region has the whole cap, and the regions below it their shares (R379). -/
def State.shareOut (s : State) (cap : Nat) : State :=
  match s.rootRegion with
  | none => s
  | some a => State.giveShares 8 a cap { s with power := [(a, cap)] }
/-- The supervisor lowers the operating point of a cluster: which point it takes is its own choice, at a frequency no higher
than the present one and a voltage that the frequency needs; levels that cores hold stay (R375, R379; log 14). -/
def State.lowerPoint (s : State) (cl : Nat) : State :=
  let (w, s) := s.takeFree
  let f := 600 + 25 * (w.toNat % (((s.cluster cl).freq - 600) / 25 + 1))
  let s := s.writeCpr cl (wordN (2 ^ 63 + f <<< 32 + vfloor f <<< 16))
  let (a, s) := s.takeFree
  s.onCluster cl fun c => { c with cal := a.toNat % (c.cal + 1) }
/-- A cap is set: a lower one lowers the operating points and the allowances, and the regions have their shares (R379). -/
def State.setCap (s : State) (cap : Nat) : State :=
  let s := if cap < s.cap then (List.range 16).foldl State.lowerPoint s else s
  { s.shareOut cap with cap := cap }
/-- A change of an operating point is under way, or is held. -/
def State.changing (s : State) : Bool := s.clusters.any fun c => c.2.change.isSome || c.2.held.isSome
/-- POWER_CAP (R286, R379): the cap is set once; the command is complete once every change of an operating point has completed. -/
def execPowerCap (q : Nat) (s : State) : Host.Outcome State Fault Refusal :=
  match s.running q 6 with
  | none => .next s
  | some r =>
    let p := cmdBody r.words 0
    let cap := min p Config.thermalPower
    if r.acted then if s.changing then .next s else .next (s.finish q 0 0 cap)
    else if p < s.powerFloor then .next (s.finish q 1 5 s.powerFloor)
    else
      let s := s.setCap cap
      if s.changing then .next (s.onQueue q fun x => { x with run := x.run.map fun r => { r with acted := true } }) else .next (s.finish q 0 0 cap)

/-- Write a query's answer (R286). DESIGN CHOICE (log 48): one whose destination fails on any of its pages writes no byte and reports 0. -/
def State.answer (s : State) (q : Nat) (r : Running) (bs : List Byte) : State :=
  match s.sysWrite (s.queue q).ctx (cmdBody r.words 1) bs with
  | some s' => s'.finish q 0 0 bs.length
  | none => s.finish q 5 0 0
/-- The running query of a queue for an item. -/
def State.querying (s : State) (q item : Nat) : Option Running :=
  match s.running q 7 with
  | some r => if cmdBody r.words 0 = item then some r else none
  | none => none
/-- Image i of the flash: management firmware, supervisor, `cktr`, port firmware (R383, R385). -/
def State.image (s : State) (i : Nat) : Firmware := s.flash.getD i {}
/-- The measurement of image i, as the last start that built the identity record verified it (R381, R383, R385). -/
def State.measurement (s : State) (i : Nat) : List Byte := Sha256.digest (s.booted.getD i {}).bytes
/-- The identity record before its signatures (R385): bytes 0x0000-0x01AF. -/
def State.identityHead (s : State) (challenge : List Byte) : List Byte :=
  bytesOf (1 <<< 32 + 0x49445254) 8 ++ ([0x54, 0x47, 0x37, 0x2D, 0x31, 0x30, 0x32, 0x34] : List Byte) ++ bytesOf Config.serial.toNat 16 ++
  [0x030, 0x031, 0x032, 0x033].flatMap (fun n => bytesOf (csrInit n).toNat 8) ++
  bytesOf ((if s.warm then 2 ^ 63 else 0) + s.starts % 2 ^ 48) 8 ++ bytesOf (Config.thermalPower <<< 32 + Config.idleFloor) 8 ++
  bytesOf (if Config.fsig then 1 else 0) 8 ++ bytesOf s.now 8 ++ challenge ++
  ((List.range 4).flatMap s.measurement) ++ Sha256.digest Config.folioKeys ++
  (List.range 8).flatMap (fun p => bytesOf (Config.endpoint p).toNat 8) ++ bytesOf Config.identityKey.toNat 48 ++
  bytesOf (Config.attestationKey s.starts).toNat 32
/-- The identity record (R385). -/
def State.identityRecord (s : State) (challenge : List Byte) : List Byte :=
  let h := s.identityHead challenge
  let part := fun (l : List Byte) (a b : Nat) => (l.drop a).take (b - a)
  let r := h ++ bytesOf (Config.signature 0 (part h 0x08 0x20 ++ part h 0x160 0x190)) 16224
  let r := r ++ bytesOf (Config.signature 1 (part h 0x40 0x50 ++ part h 0x190 0x1B0)) 16224
  r ++ bytesOf (Config.signature (2 + s.starts) r) 17088
/-- QUERY_IDENTITY (R385). -/
def execQueryIdentity (q : Nat) (s : State) : Host.Outcome State Fault Refusal :=
  match s.querying q 0 with
  | none => .next s
  | some r =>
    match s.sysRead (s.queue q).ctx (cmdBody r.words 1) 32 with
    | none => .next (s.finish q 5 0 0)
    | some ch => .next (s.answer q r (s.identityRecord ch))
/-- QUERY_QUEUE_STATE (R282, R286). -/
def execQueryQueueState (q : Nat) (s : State) : Host.Outcome State Fault Refusal :=
  match s.querying q 1 with
  | none => .next s
  | some r => let x := s.queue (cmdBody r.words 2); .next (s.answer q r (bytesOf x.qs0 8 ++ bytesOf x.qs1 8))
/-- QUERY_COUNTS (R286): one word for each queue, in order. -/
def execQueryCounts (q : Nat) (s : State) : Host.Outcome State Fault Refusal :=
  match s.querying q 2 with
  | none => .next s
  | some r => .next (s.answer q r ((List.range 4096).flatMap fun i => bytesOf (s.queue i).count 8))

end Sys2Proof.Machine
end

