-- ==== Sys2Proof/Machine/Loader.lean ====
section
/-! DEFINITION. The loader: the folio's sections, `cktr`, the load and unload of a folio (R2, R82, R83, R89, R107-R109, R266,
R286, R312, R313, R350-R354, R387). The layouts that R351 leaves open are those of log 8, and what `cktr` makes of a portable
bundle is log 10. -/
namespace Sys2Proof.Machine

/-- Word i of the colophon, and section k as offset and length (R350). -/
def colophon (f : List Byte) (i : Nat) : Nat := word8 f (8 * i)
def section_ (f : List Byte) (k : Nat) : Nat × Nat := (colophon f (3 + 2 * k), colophon f (4 + 2 * k))
def sectionBytes (f : List Byte) (k : Nat) : List Byte := let x := section_ f k; (f.drop x.1).take x.2
/-- Records of n bytes. -/
def recordsOf (n : Nat) (l : List Byte) : List (List Byte) := Sha256.groups n (l.length / n + 1) l
def num (l : List Byte) (o n : Nat) : Nat := ofBytes ((l.drop o).take n)
/-- A string at an offset of the strings section, without its zero byte (R351). -/
def stringAt (f : List Byte) (o : Nat) : List Byte := ((sectionBytes f 2).drop o).takeWhile (· != 0)

/-- A leaf record (R351). -/
structure LeafRec where
  off : Nat
  len : Nat
  cold : Bool
  native : Bool
/-- A symbol record (R351). -/
structure SymRec where
  name : List Byte
  kind : Nat
  index : Nat
  off : Nat
  sig : Option (List Byte)
/-- A routine record (R351): index, entry, steps. -/
structure RoutineRec where
  index : Nat
  entry : Word
  steps : List Word
def leafRecs (f : List Byte) : List LeafRec :=
  (recordsOf 32 (sectionBytes f 0)).map fun r => { off := num r 0 8, len := num r 8 8, cold := bit (num r 16 8) 0, native := bit (num r 16 8) 1 }
def symRecs (f : List Byte) : List SymRec :=
  (recordsOf 32 (sectionBytes f 1)).map fun r =>
    { name := stringAt f (num r 0 4), kind := num r 4 4, index := num r 8 8, off := num r 16 8,
      sig := if num r 24 8 = 0 then none else some (stringAt f (num r 24 8)) }
/-- The routine records, or `none` where a record does not fit its section. -/
def routineRecs : Nat → List Byte → Option (List RoutineRec)
  | _, [] => some []
  | 0, _ => none
  | fuel + 1, l =>
    let n := num l 4 4
    if l.length < 16 + 8 * n then none
    else
      (routineRecs fuel (l.drop (16 + 8 * n))).map fun r =>
        { index := num l 0 4, entry := wordN (num l 8 8), steps := (List.range n).map fun i => wordN (num l (16 + 8 * i) 8) } :: r
def folioRoutines (f : List Byte) : Option (List RoutineRec) := routineRecs 4096 (sectionBytes f 3)
def leafBytes (f : List Byte) (l : LeafRec) : List Byte := (f.drop l.off).take l.len
/-- The section in which a symbol stands that is in no leaf: 0 the data section, 1 the launch image. R351 tells leaf and data indices apart
by no field that it names: for kind 2 the index is this number, and for kind 1 it counts on behind the leaves (log 8). -/
def symData (f : List Byte) (y : SymRec) : Option Nat :=
  let n := (leafRecs f).length
  if y.kind = 2 then some y.index else if y.kind = 1 ∧ n ≤ y.index then some (y.index - n) else none
/-- The bytes that a symbol's offset counts in. -/
def symSection (f : List Byte) (y : SymRec) : List Byte :=
  match symData f y with
  | some 0 => sectionBytes f 6
  | some _ => sectionBytes f 5
  | none => (((leafRecs f)[y.index]?).map (leafBytes f)).getD []

/-- A portable bundle: its header and four words (R82). -/
structure Portable where
  hdr : Nat
  ws : List Nat
def portables (l : List Byte) : List Portable :=
  (recordsOf 40 l).map fun r => { hdr := num r 0 8, ws := (List.range 4).map fun i => num r (8 + 8 * i) 8 }
/-- The hold bits of an operation word (R87-R92). -/
def holdBits (w : Nat) : Nat :=
  let o := bits w 63 56
  if o = 0x52 ∨ o = 0x54 ∨ (0x80 ≤ o ∧ o ≤ 0xAB ∧ o ≠ 0x83 ∧ o ≠ 0x84 ∧ o ≠ 0x8A ∧ o ≠ 0xA1 ∧ o ≠ 0xAA) ∨ o = 0xAE then bits w 9 8
  else if o = 0x53 ∨ o = 0x83 ∨ o = 0x84 ∨ o = 0x8A ∨ o = 0xA1 ∨ o = 0xAA then bits w 9 9
  else if 0xC0 ≤ o ∧ o ≤ 0xCB ∧ o ≠ 0xC9 then bits w 11 11
  else 0
/-- A leaf keeps the rules of R82. -/
def Portable.ok (b : Portable) : Bool :=
  bits b.hdr 63 60 == 0xF && decide (bits b.hdr 59 56 ≤ 5) && bits b.hdr 55 44 == 0 && bit b.hdr 43 && bits b.hdr 42 32 == 0 &&
  (bits b.hdr 59 56 == 2 || bits b.hdr 31 0 == 0) && b.ws.all fun w => bits w 63 60 != 0xF && holdBits w == 0
/-- The native words of a portable bundle, with their mask bits: S, V0 and for `VCFG` also V1, M, C0. -/
def Portable.slots (b : Portable) : List (Nat × Nat) :=
  let w := fun i => b.ws.getD i 0
  let one := fun (i m : Nat) => if bits (w i) 63 56 = 0 then [] else [(m, w i)]
  one 0 5 ++ one 1 4 ++ (if bits (w 1) 63 56 = 0xAD then [(3, w 1)] else []) ++ one 2 2 ++ one 3 1
/-- Padding before a call pad (R89, R107): none, or one bundle of 56 bytes and headers of MASK 0. -/
def padBefore (at_ : Nat) (kind : Nat) : Nat :=
  let p := (64 - at_ % 64) % 64
  if kind ≠ 2 ∨ p = 0 then 0 else if 56 ≤ p then p else p + 64
/-- An `ERET` with a V operation beside it: the V, M and C operations have a bundle of their own in front of the `ERET`'s, so that the
result of V has landed where the handler returns to (R83, R131). -/
def Portable.splits (b : Portable) : Bool :=
  bits (b.ws.getD 0 0) 63 56 == 0x45 && bits (b.ws.getD 0 0) 47 0 == 0 && bits (b.ws.getD 1 0) 63 56 != 0
/-- The operations of the first bundle: beside those of an `ERET` that is split off stands a `CSRS` of FRS7 with s0 under the `ERET`'s
guard, which changes nothing and fails as the `ERET` does outside a handler (R128, R129, R131). -/
def Portable.first (b : Portable) : List (Nat × Nat) :=
  if b.splits then (5, 0x42 <<< 56 + bits (b.ws.getD 0 0) 55 48 <<< 48 + 0x1F <<< 24) :: b.slots.drop 1 else b.slots
/-- Portable bundles after which a branch goes on by way of another jump: a portable bundle takes fewer than 2,048 bytes of native text, so
that this many take fewer than the 16 GiB of R89 (log 10). -/
def relayEvery : Nat := 2 ^ 23
/-- The jumps by way of which the branch of the bundle at index i goes: how many, negative where it leads back. -/
def relayCount (n i : Nat) (b : Portable) : Int :=
  let w := b.ws.getD 0 0
  let o := bits w 63 56
  let t : Int := 40 * i + sextN (bits w 31 0) 32 * 8
  if (o ≠ 0x30 ∧ o ≠ 0x31 ∧ o ≠ 0x36) ∨ (0 ≤ t ∧ t < 40 * n ∧ t % 40 ≠ 0) then 0
  else
    let d : Int := (if t < 0 then (-1 : Int) else if 40 * (n : Int) ≤ t then (n : Int) else t / 40) - (i : Int)
    if 0 < d then (d - 1) / relayEvery else if d < 0 then -((-d - 1) / relayEvery) else 0
/-- The bundles whose branches go by way of a jump that stands in the bundle at index h. -/
def relaysAt (bs : List Portable) (h : Nat) : List Nat :=
  (List.range (bs.length / relayEvery + 1)).flatMap fun k =>
    let via := fun (i : Nat) (p : Int → Bool) => match bs[i]? with | some b => if p (relayCount bs.length i b) then [i] else [] | none => []
    if k = 0 then []
    else
      (if k * relayEvery ≤ h then via (h - k * relayEvery) fun c => decide ((k : Int) ≤ c) else []) ++
      via (h + k * relayEvery) fun c => decide (c ≤ -(k : Int))
/-- A portable bundle in its leaf: the padding in front of it, where it starts, where its bundle of 20 issues stands, the bundles whose
branches have a jump in it, and where the bundles stand that follow its first one. -/
structure Placed where
  pad : Nat
  start : Nat
  spacer : Nat
  relays : List Nat := []
  behind : List Nat := []
/-- The header of a portable bundle's operations. -/
def Placed.head (p : Placed) : Nat := p.spacer + 56
/-- Where the jump for the branch of bundle i stands. -/
def Placed.relay (p : Placed) (i : Nat) : Nat := p.start + 56 + 16 * p.relays.findIdx (· == i)
/-- The call pad that a portable bundle's `CALL` reaches by way of a jump: one of the `CALL`'s signature, 1,000 bundles away or more, so that
every nearer one is within the 2 MiB of R89. -/
def farCall (bs : List Portable) (i : Nat) (b : Portable) : Option Nat :=
  let w := b.ws.getD 0 0
  let d := sextN (bits w 47 32) 16
  let j := (i : Int) + d
  if bits w 63 56 ≠ 0x33 ∨ (-1000 < d ∧ d < 1000) ∨ j < 0 then none
  else match bs[j.toNat]? with
    | some t => if bits t.hdr 59 56 = 2 ∧ bits t.hdr 31 0 = bits w 31 0 then some j.toNat else none
    | none => none
/-- Where each portable bundle stands, with its padding (log 10): a bundle of 56 bytes that names every slot with `NOP`, of the portable
bundle's kind, then the operations; one with a far `CALL`, or with jumps for far branches, begins with a bundle of its kind that jumps over
these, and over a call pad of the `CALL`'s signature which jumps on to the far one. -/
def placeBundles : List (Portable × Bool × List Nat) → Nat → List Placed
  | [], _ => []
  | (b, far, rs) :: r, at_ =>
    let p := padBefore at_ (bits b.hdr 59 56)
    let o := at_ + p + 56 + 16 * rs.length
    let s := if far then (o + 63) / 64 * 64 + 16 else if rs.isEmpty then at_ + p else o
    let e := s + 56 + 8 * (1 + b.slots.length)
    { pad := p, start := at_ + p, spacer := s, relays := rs, behind := if b.splits then [e, e + 56] else [] } ::
      placeBundles r (if b.splits then e + 72 else e)
def nopBundle (kind rep sig : Nat) : List Nat := (0xF <<< 60 + kind <<< 56 + 0x3F <<< 50 + rep <<< 44 + sig) :: List.replicate 6 0
/-- A displacement of a branch in units of 8 bytes: one that R89 cannot hold, which only a branch out of its leaf can have, goes as far as
R89 can. -/
def branchField (d : Int) : Nat := ((max (-(2 ^ 31)) (min (2 ^ 31 - 1) (d / 8))).emod (2 ^ 32)).toNat
/-- A `JMP` of a bundle at `h` to `t`. -/
def jumpWord (h : Nat) (t : Int) : Nat := 0x31 <<< 56 + 31 <<< 51 + branchField (t - h)
/-- Where a displacement of the portable text leads in the native text, as an offset in its leaf: to a bundle's place, to the first
word behind the branch's own header where the portable target is no bundle, and as far outside the leaf as there (R83). -/
def nativeTarget (st : List Placed) (total i h : Nat) (d : Int) : Int :=
  let t : Int := 40 * i + d
  if t < 0 then t
  else if 40 * (st.length : Int) ≤ t then total + (t - 40 * st.length)
  else if t % 40 ≠ 0 then (h : Int) + 8
  else ((st[(t / 40).toNat]?).map fun x => (x.start : Int)).getD t
/-- Where the branch of the bundle at index i leads next, behind k of its jumps: to the next one, or to its target (R83, R89). -/
def branchStop (st : List Placed) (total i h k : Nat) (b : Portable) : Int :=
  let c := relayCount st.length i b
  if (k : Int) < c.natAbs then
    (((st[((i : Int) + c.sign * ((k + 1) * relayEvery : Nat)).toNat]?).map fun p => (p.relay i : Int)).getD 0)
  else nativeTarget st total i h (sextN (bits (b.ws.getD 0 0) 31 0) 32 * 8)
/-- Where a `CALL` of the bundle at index i leads: to its call pad, for a far one to the pad in front of its own bundle. One whose portable
target is no call pad of its leaf, or a far one of another signature, leads to the first multiple of 64 behind the start of its own bundle
of 20 issues. That multiple lies inside the two native bundles of the portable one, on no call pad, so that the `CALL` takes CFI as in the
portable text. -/
def callPlace (bs : List Portable) (st : List Placed) (i : Nat) (b : Portable) (here : Placed) (w : Nat) : Nat :=
  let d := sextN (bits w 47 32) 16
  let j := (i : Int) + d
  let none_ := here.spacer / 64 * 64 + 64
  if (farCall bs i b).isSome then here.spacer - 16
  else if j < 0 ∨ d ≤ -1000 ∨ 1000 ≤ d then none_
  else match bs[j.toNat]?, st[j.toNat]? with
    | some t, some x => if bits t.hdr 59 56 = 2 then x.start else none_
    | _, _ => none_
/-- A branch of the bundle at index i with its displacement recomputed (R83, R89). -/
def retarget (bs : List Portable) (st : List Placed) (total i : Nat) (b : Portable) (here : Placed) (w : Nat) : Nat :=
  let o := bits w 63 56
  let h := here.head
  if o = 0x30 ∨ o = 0x31 ∨ o = 0x36 then setBits w 31 0 (branchField (branchStop st total i h 0 b - h))
  else if o = 0x33 then
    let d : Int := (callPlace bs st i b here w : Int) / 64 - (h : Int) / 64
    setBits w 47 32 (d.emod 65536).toNat
  else w
/-- The jumps that stand in a portable bundle for far branches: each a bundle of a kind at which nothing re-issues (R76). -/
def relayWords (bs : List Portable) (st : List Placed) (total here : Nat) (p : Placed) : List Nat :=
  p.relays.flatMap fun (i : Nat) =>
    let k := (Int.natAbs ((here : Int) - (i : Int))) / relayEvery
    match bs[i]?, st[i]? with
    | some b, some q => [0xF <<< 60 + 3 <<< 56 + 0x20 <<< 50, jumpWord (p.relay i) (branchStop st total i q.head k b)]
    | _, _ => [0xF <<< 60, 0xF <<< 60]
/-- The native words of one portable bundle. -/
def packBundle (bs : List Portable) (st : List Placed) (total i : Nat) (b : Portable) : List Nat :=
  let here := st.getD i { pad := 0, start := 0, spacer := 0 }
  let kind := bits b.hdr 59 56
  let sig := bits b.hdr 31 0
  let native := fun (l : List (Nat × Nat)) => (0xF <<< 60 + (l.foldl (fun m x => m + 2 ^ x.1) 0) <<< 50) :: l.map fun x => retarget bs st total i b here x.2
  let fill := if here.pad = 0 then [] else nopBundle 0 0 0 ++ List.replicate ((here.pad - 56) / 8) (0xF <<< 60)
  let hop := (0xF <<< 60 + kind <<< 56 + 0x3F <<< 50 + sig) :: jumpWord here.start here.spacer :: List.replicate 5 0 ++ relayWords bs st total i here
  let lead := match farCall bs i b with
    | some j =>
      let pad := here.spacer - 16
      hop ++ List.replicate ((pad - here.start - 8 * hop.length) / 8) (0xF <<< 60) ++
      [0xF <<< 60 + 2 <<< 56 + 0x20 <<< 50 + bits (b.ws.getD 0 0) 31 0, jumpWord pad ((st[j]?).map Placed.start |>.getD 0)] ++ nopBundle 0 19 0
    | none => if here.relays.isEmpty then nopBundle kind 19 sig else hop ++ nopBundle 0 19 0
  fill ++ lead ++ native b.first ++ if b.splits then nopBundle 0 19 0 ++ native (b.slots.take 1) else []
/-- Where the native bundles of the portable bundle at index i stand, each with the portable bundle that it belongs to. -/
def Placed.bundles (p : Placed) (i : Nat) : List (Nat × Nat) :=
  let own := fun (a : Nat) => (a, i)
  let o := p.start + 56 + 16 * p.relays.length
  (if p.pad = 0 then [] else own (p.start - p.pad) :: (List.range ((p.pad - 56) / 8)).map fun j => own (p.start - p.pad + 56 + 8 * j)) ++
  (if p.spacer = p.start then []
   else own p.start :: p.relays.map (fun r => (p.relay r, r)) ++
     if o = p.spacer then [] else (List.range ((p.spacer - 16 - o) / 8)).map (fun j => own (o + 8 * j)) ++ [own (p.spacer - 16)]) ++
  [own p.spacer, own p.head] ++ p.behind.map own
/-- A leaf as it is mapped: its bytes, where an offset of the source stands, and the address map (R83). -/
structure Leaf where
  bytes : List Byte
  pairs : List (Nat × Nat)   -- source offset, native offset
  map : List (Nat × Nat) := []   -- native and source offset of every native bundle, ascending (R351)
/-- `cktr` packs a leaf; `none` where it breaks R82. -/
def packLeaf (f : List Byte) (l : LeafRec) : Option Leaf :=
  let src := leafBytes f l
  if l.native then some { bytes := src, pairs := [] }
  else
    let bs := portables src
    if src.length % 40 ≠ 0 || !(bs.all Portable.ok) then none
    else
      let st := placeBundles (bs.zipIdx.map fun b => (b.1, (farCall bs b.2 b.1).isSome, relaysAt bs b.2)) 0
      let total := match st.getLast?, bs.getLast? with
        | some x, some b => match x.behind.getLast? with | some e => e + 16 | none => x.head + 8 * (1 + b.slots.length)
        | _, _ => 0
      some { bytes := (bs.zipIdx.flatMap fun b => packBundle bs st total b.2 b.1).flatMap fun w => bytesOf w 8,
             pairs := st.zipIdx.map fun x => (40 * x.2, x.1.start),
             map := st.zipIdx.flatMap fun x => (x.1.bundles x.2).map fun a => (a.1, 40 * a.2) }
/-- The native offset of an offset of a leaf's source. -/
def Leaf.place (l : Leaf) (o : Nat) : Nat := ((l.pairs.find? fun p => p.1 == o).map Prod.snd).getD o

/-- Bytes that UTF-8 continues a character with, from `k` that are still to come. -/
def utf8Rest : Nat → List Byte → Bool
  | k, [] => k == 0
  | 0, b :: r =>
    let x := b.toNat
    if x < 0x80 then utf8Rest 0 r
    else if 0xC2 ≤ x ∧ x ≤ 0xDF then utf8Rest 1 r
    else if 0xE0 ≤ x ∧ x ≤ 0xEF then
      let y := (r.headD 0).toNat
      (x != 0xE0 || decide (0xA0 ≤ y)) && (x != 0xED || decide (y < 0xA0)) && utf8Rest 2 r
    else if 0xF0 ≤ x ∧ x ≤ 0xF4 then
      let y := (r.headD 0).toNat
      (x != 0xF0 || decide (0x90 ≤ y)) && (x != 0xF4 || decide (y < 0x90)) && utf8Rest 3 r
    else false
  | k + 1, b :: r => b.toNat / 64 == 2 && utf8Rest k r
/-- The strings section holds UTF-8 strings, each ended by a zero byte, and an offset lies in it (R351). -/
def stringsOk (f : List Byte) : Bool := let t := sectionBytes f 2; utf8Rest 0 t && (t.isEmpty || t.getLast? == some 0)
def stringOffsetOk (f : List Byte) (o : Nat) : Bool := decide (o < (sectionBytes f 2).length)
/-- The string offsets of the symbol records lie in the strings section (R351). -/
def symOffsetsOk (f : List Byte) : Bool :=
  (recordsOf 32 (sectionBytes f 1)).all fun r =>
    stringOffsetOk f (num r 0 4) && (num r 24 8 == 0 || stringOffsetOk f (num r 24 8))
/-- A symbol stands in a section that is there, and its offset in that (R351). -/
def symOk (f : List Byte) (y : SymRec) : Bool :=
  decide (y.kind ≤ 2) && decide (y.off ≤ (symSection f y).length) &&
  match symData f y with
  | some d => decide (d < 2)
  | none => decide (y.index < (leafRecs f).length)
/-- Bundles of native text, as far as it frames: offset, header and words. -/
def nativeBundles : Nat → Nat → List Byte → List (Nat × Nat × List Nat)
  | 0, _, _ => []
  | fuel + 1, o, l =>
    let h := num l 0 8
    if l.length < 8 ∨ bits h 63 60 ≠ 0xF then []
    else
      let n := maskCount (bits h 55 50)
      (o, h, (List.range n).map fun i => num l (8 + 8 * i) 8) :: nativeBundles fuel (o + 8 * (1 + n)) (l.drop (8 * (1 + n)))
/-- The pairs of a folio's own address map ascend, and there is one for each bundle of its native leaves; an empty map stands with
native text that was not translated (R351, log 8). -/
def ownMap (f : List Byte) : List (Nat × Nat) := (recordsOf 16 (sectionBytes f 7)).map fun r => (num r 0 8, num r 8 8)
def mapAscends (l : List (Nat × Nat)) : Bool := (l.zip (l.drop 1)).all fun p => decide (p.1.1 < p.2.1)
def mapCovers (f : List Byte) : Bool :=
  (ownMap f).isEmpty ||
  (ownMap f).length == (((leafRecs f).filter LeafRec.native).map fun l => (nativeBundles (l.len / 8 + 1) 0 (leafBytes f l)).length).sum
/-- R350, R351: the colophon and every section keep their maps, and `cktr` packs every leaf (R82). -/
def folioOk (f : List Byte) : Bool :=
  let h := colophon f
  let inside := (List.range 9).all fun k => decide ((section_ f k).1 + (section_ f k).2 ≤ h 2) && (k == 2 || k == 5 || k == 6 || k == 8 || (section_ f k).1 % 8 == 0)
  decide (256 ≤ f.length) && bits (h 0) 63 32 == 0x47464F4C && bits (h 0) 31 0 == 1 <<< 16 &&
  [0, 5, 6, 7].contains (bits (h 1) 63 60) && bits (h 1) 44 0 == 0 && h 2 == f.length && inside &&
  ((List.range 11).all fun i => h (21 + i) == 0) &&
  (section_ f 0).2 % 32 == 0 && (section_ f 1).2 % 32 == 0 && (section_ f 4).2 % 8 == 0 && decide ((section_ f 4).2 ≤ 256) &&
  decide ((section_ f 5).2 ≤ 256) && (section_ f 7).2 % 16 == 0 &&
  ((leafRecs f).all fun l => decide (l.off + l.len ≤ h 2) && l.off % 8 == 0 && l.len % 8 == 0 && (!l.native || bits (h 1) 63 60 != 0) &&
    (packLeaf f l).isSome) && stringsOk f && symOffsetsOk f && mapAscends (ownMap f) && mapCovers f &&
  (symRecs f).all (symOk f) &&
  (match folioRoutines f with
   | none => false
   | some rs => rs.all fun r => decide (r.index < 256) && routineOk r.entry && r.steps.all stepOk)

/-- Operation words of a leaf's source. -/
def leafWords (f : List Byte) (l : LeafRec) : List Nat :=
  if l.native then (nativeBundles (l.len / 8 + 1) 0 (leafBytes f l)).flatMap fun b => b.2.2 else (portables (leafBytes f l)).flatMap fun b => b.ws
/-- A cycle counter (R358). -/
def cycleCounter (n : Nat) : Bool := csrNamed n && (n == csrCPWM || (decide (0x100 ≤ n) && n != csrPMEV))
/-- An operation that strict mode excludes (R108). -/
def notStrict (w : Nat) : Bool :=
  let o := bits w 63 56
  o == 0x76 || o == 0x77 || o == 0x78 || o == 0x47 || (o == 0x40 && cycleCounter (bits w 35 24))
/-- The header at an offset of a leaf's source. -/
def sourceHeader (f : List Byte) (l : LeafRec) (o : Nat) : Nat := num (leafBytes f l) o 8
/-- Every call pad that a symbol with a signature names holds its hash (R40, R352). -/
def sigsOk (f : List Byte) : Bool :=
  (symRecs f).all fun y =>
    match y.sig, (leafRecs f)[y.index]? with
    | some t, some l =>
      let h := sourceHeader f l y.off
      (symData f y).isSome || bits h 63 60 != 0xF || bits h 59 56 != 2 || bits h 31 0 == ofBytes ((Sha256.digest t).take 4)
    | _, _ => true
/-- The signature section verifies, where one is there or the part requires it (R352, R387). -/
def signatureOk (f : List Byte) : Bool :=
  let n := (section_ f 8).2
  if n = 0 then !Config.fsig else Config.verifies (f.take (f.length - n)) (sectionBytes f 8)
/-- The body of a global symbol (R352). -/
def symBody (f : List Byte) (y : SymRec) : List Byte :=
  let same := fun (z : SymRec) => symData f z == symData f y && ((symData f y).isSome || z.index == y.index)
  let stop := ((symRecs f).filter fun z => same z && decide (y.off < z.off)).foldl (fun m z => min m z.off) (symSection f y).length
  BitVec.ofNat 8 y.kind :: (match y.sig with | none => [0] | some t => 1 :: t ++ [0]) ++ ((symSection f y).drop y.off).take (stop - y.off)
def isGlobal (y : SymRec) : Bool := y.kind != 1

/-- Symbols that folios of a context have loaded. -/
def State.loadedSymbols (s : State) (ctx : Nat) : List Symbol := (s.folios.filter fun e => e.2.ctx == ctx).flatMap fun e => e.2.symbols
/-- The lowest free range of the store of n steps beside those of a context's folios (R354). -/
def State.storeRange (s : State) (ctx n : Nat) : Option Nat :=
  let used := (s.folios.filter fun e => e.2.ctx == ctx && e.2.steps != 0).map fun e => (e.2.first, e.2.steps)
  if n = 0 then some 0
  else (0 :: used.map fun u => u.1 + u.2).foldl (fun (b : Option Nat) a =>
    if a + n ≤ 4096 ∧ !(used.any fun u => meets a n u.1 u.2) then some (min a (b.getD a)) else b) none
/-- Map bytes from a virtual address in new frames (R354); cold text only marks its pages (R266). -/
def State.mapBytes (s : State) (ctx va : Nat) (bs : List Byte) (text cold : Bool) : State :=
  (List.range ((bs.length + 65535) / 65536)).foldl (fun (s : State) p =>
    if cold then s.mapPage ctx (va + 65536 * p) coldPte
    else
      let (f, s) := s.takeFrame
      let s := { s with mem := Memory.writeCells s.mem (cellsAt (f * 65536) ((bs.drop (65536 * p)).take 65536)) }
      s.mapPage ctx (va + 65536 * p) (if text then pteOf f 0 false false false true else pteOf f 0 s.dataChk true true false)) s
/-- The addresses of a folio: its data, then its leaves (log 9). -/
def dataVa (h : Nat) : Nat := h * 2 ^ 38
def leafVas (h : Nat) (ls : List Leaf) : List Nat :=
  (ls.foldl (fun (acc : List Nat × Nat) l => (acc.1 ++ [acc.2], acc.2 + (l.bytes.length + 65535) / 65536 * 65536)) ([], h * 2 ^ 38 + 2 ^ 37)).1
/-- A descriptor of a copy queue keeps its map (R313). -/
def descriptorOk (a : Nat) (d : List Byte) : Bool :=
  let q := fun i => word8 d (8 * i)
  a % 64 == 0 && addrOk (q 0) 64 && bits (q 1) 63 12 == 0 && bits (q 1) 7 5 == 0 && decide (bits (q 1) 4 0 ≤ 16)
/-- The address of a folio's global data symbol by name. -/
def Folio.data (f : Folio) (name : String) : Option Nat :=
  (f.symbols.find? fun y => y.kind == 2 && y.name == name.toList.map fun c => BitVec.ofNat 8 c.toNat).map fun y => y.va
/-- The descriptors that a folio lists (R312): clusters and addresses, or `none` where one breaks R313. -/
def State.queuesOf (s : State) (f : Folio) : Option (List (Nat × Nat)) :=
  match f.data "copyqueues" with
  | none => some []
  | some a =>
    match s.sysRead f.ctx a 8 with
    | none => none
    | some n =>
      (List.range (min (ofBytes n) 1025)).mapM fun i =>
        match s.sysRead f.ctx (a + 8 + 8 * i) 8 with
        | none => none
        | some p =>
          match s.sysRead f.ctx (ofBytes p) 64 with
          | none => none
          | some d => if descriptorOk (ofBytes p) d then some (bits (word8 d 8) 11 8, ofBytes p) else none
/-- The folio as the loader keeps it, and the machine with its sections mapped (R351, R354). A label of the launch image, which is
mapped nowhere, has its offset in the launch block as its address (log 8). -/
def State.mapFolio (s : State) (h ctx first rcb : Nat) (f : List Byte) : Folio × State :=
  let recs := leafRecs f
  let ls := recs.map fun l => (packLeaf f l).getD { bytes := [], pairs := [] }
  let vas := leafVas h ls
  let data := sectionBytes f 6
  let s := s.mapBytes ctx (dataVa h) data false false
  let s := (recs.zip (ls.zip vas)).foldl (fun s x => s.mapBytes ctx x.2.2 x.2.1.bytes true x.1.cold) s
  let loaded := s.loadedSymbols ctx
  let sym := fun (y : SymRec) =>
    let va := if y.kind = 2 then (if y.index = 0 then dataVa h + y.off else y.off)
      else vas.getD y.index 0 + ((ls[y.index]?).map fun l => l.place y.off).getD 0
    let va := ((loaded.find? fun z => z.name == y.name).map fun z => z.va).getD va
    ({ name := y.name, kind := y.kind, va := va, body := symBody f y } : Symbol)
  let rs := (folioRoutines f).getD []
  let pages := fun (va n : Nat) => (va, (n + 65535) / 65536)
  ({ ctx := ctx, strict := bit (colophon f 1) 45, cov := bits (colophon f 1) 47 46, symbols := ((symRecs f).filter isGlobal).map sym,
     routines := rs.map fun r => (r.index, wordN (setBits r.entry.toNat 63 52 ((bits r.entry.toNat 63 52 + first) % 4096)), r.steps),
     first := first, steps := (rs.map fun r => r.steps.length).sum,
     views := (List.range ((section_ f 4).2 / 8)).map fun i => wordN (num (sectionBytes f 4) (8 * i) 8),
     launch := (sectionBytes f 5 ++ List.replicate 256 0).take 256,
     pages := pages (dataVa h) data.length :: (ls.zip vas).map fun x => pages x.2 x.1.bytes.length,
     cold := (recs.zip (ls.zip vas)).flatMap fun x => if x.1.cold then
         (List.range ((x.2.1.bytes.length + 65535) / 65536)).map fun p => (x.2.2 + 65536 * p, (x.2.1.bytes.drop (65536 * p)).take 65536) else [],
     queues := [],
     amap := ((ls.zip vas).flatMap fun x => x.1.map.map fun p => (x.2 + p.1, x.2 + p.2)) ++ ownMap f,
     rcb := rcb }, s)
/-- The first refusal of R352 that a folio meets before anything is mapped. -/
def State.refusal (s : State) (ctx : Nat) (f : List Byte) : Option Nat :=
  let h1 := colophon f 1
  let rs := (folioRoutines f).getD []
  let taken := (s.folios.filter fun e => e.2.ctx == ctx).flatMap fun e => e.2.routines.map fun r => r.1
  if !folioOk f then some 1
  else if bits h1 63 60 ≠ 0 ∧ bits h1 63 60 ≠ 7 then some 2
  else if 1 < bits h1 59 56 ∨ 3 < bits h1 55 52 ∨ 2 < bits h1 51 48 then some 3
  else if !signatureOk f || !sigsOk f then some 4
  else if bit h1 45 && (leafRecs f).any fun l => (leafWords f l).any notStrict then some 5
  else if (symRecs f).any fun y => isGlobal y && (s.loadedSymbols ctx).any fun z => z.name == y.name && z.body != symBody f y then some 6
  else if rs.any (fun r => taken.contains r.index) || (s.storeRange ctx (rs.map fun r => r.steps.length).sum).isNone then some 7
  else none
/-- The lowest handle that no folio holds, from 1. -/
def State.freeHandle (s : State) : Nat :=
  ((List.range (s.folios.length + 1)).find? fun i => (assoc s.folios (i + 1)).isNone).getD 0 + 1
/-- Register a folio's copy queues (R312): `none` where a cluster would exceed 64. A descriptor that two folios of a context list is
registered, and counted, once for each, which R312 leaves open (log 48). -/
def State.register (s : State) (ctx : Nat) (qs : List (Nat × Nat)) : Option State :=
  let all := s.copyqs ++ qs.map fun x => (x.1, ctx, x.2)
  if (List.range 16).all fun cl => decide ((all.filter fun x => x.1 == cl).length ≤ 64) then some { s with copyqs := all } else none
/-- The load of a folio: a refusal code, or the handle and the machine (R352-R354). -/
def State.load (s : State) (q ctx : Nat) (f : List Byte) : Except Nat (Nat × State) :=
  let n := (((folioRoutines f).getD []).map fun r => r.steps.length).sum
  match s.refusal ctx f with
  | some e => .error e
  | none =>
    let h := s.freeHandle
    let (x, s') := s.mapFolio h ctx ((s.storeRange ctx n).getD 0) (s.queue q).rcb f
    match s'.queuesOf x with
    | none => .error 8
    | some qs =>
      match s'.register ctx qs with
      | none => .error 8
      | some t =>
        let u := { t with folios := t.folios ++ [(h, { x with queues := qs })] }
        if u.overQuota (s.queue q).rcb then .error 9 else .ok (h, u)
/-- A load or unload of the same context that was started earlier has yet to take effect (R353). -/
def State.loadsBefore (s : State) (q : Nat) : Bool :=
  match (s.queue q).run with
  | none => false
  | some r =>
    s.queues.any fun e => e.1 != q &&
      match e.2.run with
      | some p => cmdOp p.words == 5 && !p.fin && bits (cmdBody p.words 2) 7 0 == bits (cmdBody r.words 2) 7 0 && decide (p.order < r.order)
      | none => false
/-- The loader writes each leaf's virtual address to its record, where the record can be written (R351). -/
def State.writeLeafVas (s : State) (ctx a h : Nat) (f : List Byte) : State :=
  let ls := (leafRecs f).map fun l => (packLeaf f l).getD { bytes := [], pairs := [] }
  (leafVas h ls).zipIdx.foldl (fun (s : State) x => (s.sysWrite ctx (a + (section_ f 0).1 + 32 * x.2 + 24) (bytesOf x.1 8)).getD s) s
/-- LOAD_FOLIO (R286, R352, R353). -/
def execLoadFolio (q : Nat) (s : State) : Host.Outcome State Fault Refusal :=
  match s.running q 5 with
  | none => .next s
  | some r =>
    if bit (cmdBody r.words 2) 8 || s.loadsBefore q then .next s
    else
      match s.sysRead (s.queue q).ctx (cmdBody r.words 0) (cmdBody r.words 1) with
      | none => .next (s.finish q 1 4 1)
      | some f =>
        match s.load q (bits (cmdBody r.words 2) 7 0) f with
        | .error e => .next (s.finish q 1 4 e)
        | .ok (h, t) => .next ((t.writeLeafVas (s.queue q).ctx (cmdBody r.words 0) h f).finish q 0 0 h)
/-- A launch that has not completed uses a folio: its grid stands, or it has been started and has none yet (R352). -/
def State.folioBusy (s : State) (h : Nat) : Bool :=
  (s.grids.any fun g => g.2.alive && g.2.folio == h) ||
  s.queues.any fun e => match e.2.run with | some r => cmdOp r.words == 1 && !r.fin && bits (cmdBody r.words 0) 31 0 == h | none => false
/-- The unload of a folio (R354). Its descriptors lose every registration, also that of another folio which lists one of them: R312 and
R354 leave that open (log 48). -/
def State.unload (s : State) (h : Nat) (f : Folio) : State :=
  let s := f.pages.foldl (fun s p => (List.range p.2).foldl (fun (s : State) i => s.mapPage f.ctx (p.1 + 65536 * i) 0) s) s
  let mine := fun (c i : Nat) => s.installs.get 0 (clusterOf c * 256 + i) == h
  let s := (s.cores.map Prod.fst).foldl (fun (s : State) c => s.onCore c fun k =>
    { k with mx := { k.mx with routines := f.routines.foldl (fun t r =>
        if mine c r.1 && t.get 0 r.1 == r.2.1 then t.put 0 r.1 0 else t) k.mx.routines } }) s
  { s with installs := s.installs.filter fun e => e.2 != h, folios := assocDel s.folios h, copyqs := s.copyqs.filter fun x => !(f.queues.any fun y => y.1 == x.1 && y.2 == x.2.2 && f.ctx == x.2.1) }
/-- UNLOAD_FOLIO (R286, R352, R354). -/
def execUnloadFolio (q : Nat) (s : State) : Host.Outcome State Fault Refusal :=
  match s.running q 5 with
  | none => .next s
  | some r =>
    if !bit (cmdBody r.words 2) 8 || s.loadsBefore q then .next s
    else
      let h := cmdBody r.words 3
      match assoc s.folios h with
      | none => .next (s.finish q 1 2 0)
      | some f =>
        if f.ctx ≠ bits (cmdBody r.words 2) 7 0 then .next (s.finish q 1 2 0)
        else if s.folioBusy h then .next (s.finish q 1 4 10)
        else .next ((s.unload h f).finish q 0 0 h)

end Sys2Proof.Machine
end

