-- ==== Sys2Proof/Machine/Launch.lean ====
section
/-! DEFINITION. Launch: the channel, barrier and reduction lists of a folio, and the grid that a launch creates (R22, R23,
R287, R288, R295, R303, R304, R317, R318, R330, R347, R354, R364). -/
namespace Sys2Proof.Machine

/-- Check records of a list: `none` as soon as one breaks its map. -/
def parsed {α : Type} (ok : α → Bool) (l : List α) : Option (List α) := if l.all ok then some l else none
/-- No two records agree in a key. -/
def distinct {α β : Type} [BEq β] (key : α → β) (l : List α) : Bool :=
  l.zipIdx.all fun x => !((l.take x.2).any fun y => key y == key x.1)
/-- The bytes of a list that a folio's global symbol names: `none` where it cannot be read, `some []` where the folio has
no such symbol. -/
def State.listAt (s : State) (f : Folio) (name : String) (size : Nat → List Byte → Option Nat) : Option (List Byte) :=
  match f.data name with
  | none => some []
  | some a =>
    match s.sysRead f.ctx a 32 with
    | none => none
    | some h =>
      match size a h with
      | none => none
      | some n => s.sysRead f.ctx a n
/-- A member of a launch: an initial team and a position below the team size (R303, R317, R347). -/
def memberOk (teams size : Nat) (m : Nat × Nat) : Bool := decide (m.1 < teams) && decide (m.2 < size)

/-- A channel record (R304). -/
structure ChanRec where
  ch : Nat
  head : Nat
  depth : Nat
  cell : Nat
  mdl : Nat
  prod : Nat × Nat
  cons : Nat × Nat
  ring : Nat
  ok : Bool
def chanRec (r : List Byte) : ChanRec :=
  let w := fun i => word8 r (8 * i)
  let c : ChanRec := { ch := bits (w 0) 55 48, head := bits (w 0) 47 45, depth := bits (w 0) 39 32, cell := bits (w 0) 31 16, mdl := bits (w 0) 5 0,
                       prod := (bits (w 1) 63 48, bits (w 1) 47 42), cons := (bits (w 1) 31 16, bits (w 1) 15 10), ring := bits (w 2) 18 0,
                       ok := bits (w 0) 63 56 == 0 && bits (w 0) 44 40 == 0 && bits (w 0) 15 6 == 0 && bits (w 1) 41 32 == 0 &&
                         bits (w 1) 9 0 == 0 && bits (w 2) 63 19 == 0 && w 3 == 0 }
  { c with ok := c.ok && decide (c.head ≤ 4) && c.depth != 0 && c.cell != 0 && c.cell % 16 == 0 && c.mdl != 63 && c.ring % 16 == 0 &&
      (c.head == 0 || c.cell == 128) && decide (256 ≤ c.ring) && decide (c.ring + c.depth * (c.cell + 16) ≤ 0x60000) }
/-- The channel list of a launch (R303): `none` is MALFORMED. -/
def State.chanList (s : State) (f : Folio) (teams size : Nat) : Option (List ChanRec) :=
  match s.listAt f "chanlist" fun _ h => if bits (word8 h 0) 63 9 = 0 ∧ word8 h 0 ≤ 256 then some (32 + 32 * word8 h 0) else none with
  | none => none
  | some bs =>
    let l := (recordsOf 32 (bs.drop 32)).map chanRec
    let rings := fun (c d : ChanRec) => c.cons == d.cons && meets c.ring (c.depth * (c.cell + 16)) d.ring (d.depth * (d.cell + 16))
    if (l.all fun c => c.ok && memberOk teams size c.prod && memberOk teams size c.cons) && distinct (fun c => c.ch) l &&
       distinct (fun c => (c.cons, c.head)) (l.filter fun c => c.head != 0) &&
       (l.zipIdx.all fun x => !((l.take x.2).any fun y => rings x.1 y)) then some l
    else none

/-- A barrier record (R347). -/
structure BarRec where
  lvl : Nat
  die : Nat
  num : Nat
  spc : Nat
  members : List ((Nat × Nat) × Nat)   -- team and position, tier
  ok : Bool
/-- The barrier list of a launch, record after record (R347). -/
def barRecs : Nat → List Byte → List BarRec
  | 0, _ => []
  | n + 1, l =>
    let h := word8 l 0
    let m := bits h 54 44
    let size := 32 + (4 * m + 31) / 32 * 32
    let mem := (List.range m).map fun i => num l (32 + 4 * i) 4
    let zero := ((l.drop (32 + 4 * m)).take (size - 32 - 4 * m)).all (· == 0)
    { lvl := bits h 63 62, die := bits h 61 60, num := bits h 59 55, spc := bits h 31 0,
      members := mem.map fun x => ((bits x 31 16, bits x 15 10), bits x 9 7),
      ok := (bits h 63 62 == 1 || (bits h 63 62 == 2 && bits h 61 60 == 0)) && decide (bits h 59 55 < 16) && decide (1 ≤ m ∧ m ≤ 1024) &&
        bits h 43 32 == 0 && word8 l 8 == 0 && word8 l 16 == 0 && word8 l 24 == 0 && (mem.all fun x => bits x 6 0 == 0) && zero &&
        decide (size ≤ l.length) } :: barRecs n (l.drop size)
/-- Bytes that a barrier list takes, read header by header. -/
def State.barListSize (s : State) (ctx : Nat) : Nat → Nat → Nat → Option Nat
  | 0, _, o => some o
  | n + 1, a, o =>
    match s.sysRead ctx (a + o) 8 with
    | none => none
    | some h => s.barListSize ctx n a (o + 32 + (4 * bits (ofBytes h) 54 44 + 31) / 32 * 32)
/-- The barrier list of a launch (R347): `none` is MALFORMED; the bits of word 0 above COUNT are res-z, and discarded (R7). -/
def State.barList (s : State) (f : Folio) (teams size : Nat) (cls : List Nat) : Option (List BarRec) :=
  match s.listAt f "barlist" fun a h => if bits (word8 h 0) 6 0 ≤ 80 then s.barListSize f.ctx (bits (word8 h 0) 6 0) a 32 else none with
  | none => none
  | some bs =>
    let l := if bs.isEmpty then [] else barRecs (bits (word8 bs 0) 6 0) (bs.drop 32)
    if (l.all fun b => b.ok && (b.members.all fun m => memberOk teams size m.1) && distinct (fun m => m.1) b.members &&
         (b.lvl == 2 || cls.any fun cl => cl / 4 == b.die)) && distinct (fun b => (b.lvl, b.die, b.num)) l then some l
    else none
/-- The object of a barrier record (R200). -/
def BarRec.object (b : BarRec) : Nat := if b.lvl = 1 then 512 + b.die * 16 + b.num else 576 + b.num

/-- A reduction record (R318). -/
structure RedRec where
  inst : Nat
  op : Nat
  fmt : Nat
  chain : Bool
  win : Nat
  sys : Bool
  gdesc : Nat
  con : List (Nat × Nat)
  rcv : List (Nat × Nat)
  ok : Bool
def redRec (r : List Byte) : RedRec :=
  let w := fun i => word8 r (8 * i)
  let n := bits (w 0) 29 24
  let m := bits (w 0) 23 18
  let mem := fun (o i : Nat) => num r (o + 4 * i) 4
  let fmt := bits (w 0) 45 40
  { inst := bits (w 0) 63 48, op := bits (w 0) 47 46, fmt := fmt, chain := bits (w 0) 39 38 == 1, win := bits (w 0) 37 36 + 1, sys := bit (w 0) 35,
    gdesc := w 1, con := (List.range n).map fun i => (bits (mem 32 i) 31 16, bits (mem 32 i) 15 10),
    rcv := (List.range m).map fun i => (bits (mem 224 i) 31 16, bits (mem 224 i) 15 10),
    ok := decide (bits (w 0) 47 46 < 2) && [0x00, 0x01, 0x02, 0x03, 0x06, 0x07, 0x0A, 0x0B].contains fmt && decide (bits (w 0) 39 38 < 2) &&
      bits (w 0) 34 30 == 0 && decide (1 ≤ n ∧ n ≤ 48) && decide (1 ≤ m ∧ m ≤ 48) && bits (w 0) 17 0 == 0 &&
      (if bit (w 0) 35 then addrOk (w 1) 64 else w 1 == 0) && w 2 == 0 && w 3 == 0 &&
      ((List.range 48).all fun i => (if i < n then bits (mem 32 i) 9 0 == 0 else mem 32 i == 0) &&
        (if i < m then bits (mem 224 i) 9 0 == 0 else mem 224 i == 0)) && (r.drop 416).all (· == 0) }
/-- What a collective descriptor says (R330). -/
structure Collective where
  colln : Nat
  nmem : Nat
  self : Nat
  chain : Bool
  security : Nat
  endpoints : List Word
  deriving DecidableEq, Repr
/-- A collective descriptor, with the endpoint addresses of its members behind it (R330); `none` where it breaks its map, or cannot be
read. -/
def State.collective (s : State) (ctx a : Nat) : Option Collective :=
  match s.sysRead ctx a 64 with
  | none => none
  | some d =>
    let g := word8 d 0
    let n := bits g 47 37
    if 2 ≤ n ∧ n ≤ 1024 ∧ bits g 36 26 < n ∧ bits g 25 24 < 2 ∧ bits g 23 0 = 0 ∧ bits (word8 d 8) 63 32 = 0 ∧ ((List.range 6).all fun i => word8 d (16 + 8 * i) == 0) then
      (s.sysRead ctx (a + 64) (8 * n)).map fun e =>
        { colln := bits g 63 48, nmem := n, self := bits g 36 26, chain := bits g 25 24 == 1, security := bits (word8 d 8) 31 0,
          endpoints := (List.range n).map fun i => wordN (word8 e (8 * i)) }
    else none
/-- The reduction list of a launch (R317): `none` is MALFORMED; the bits of word 0 above COUNT are res-z, and discarded (R7). -/
def State.redList (s : State) (f : Folio) (teams size : Nat) : Option (List (RedRec × Option Collective)) :=
  match s.listAt f "redlist" fun _ h => if bits (word8 h 0) 6 0 ≤ 64 then some (32 + 512 * bits (word8 h 0) 6 0) else none with
  | none => none
  | some bs =>
    let l := (recordsOf 512 (bs.drop 32)).map redRec
    if (l.all fun r => r.ok && (r.con ++ r.rcv).all (memberOk teams size) && distinct id r.con && distinct id r.rcv) && distinct (fun r => r.inst) l then
      l.mapM fun r => if r.sys then (s.collective f.ctx r.gdesc).map fun c => (r, some c) else some (r, none)
    else none
/-- Nodes that an instance needs (R317). -/
def nodesOf (n : Nat) : Nat := max 1 (n - 1)

/-- The granted sets of two regions meet. -/
def State.shares (s : State) (cls : List Nat) (a : Nat) : Bool := (regionClusters s a).any cls.contains
/-- An entry that a launch needs is held in a granted cluster by a grid that has not completed (R303). -/
def State.chanHeld (s : State) (cls : List Nat) (l : List ChanRec) : Bool :=
  s.channels.any fun e => e.2.valid && l.any fun c => c.ch == e.1 % 256 && s.shares cls (s.grid e.2.grid).rcb
/-- The router tables of the granted clusters cannot hold every node (R317). -/
def State.nodesShort (s : State) (cls : List Nat) (need : Nat) : Bool :=
  need != 0 && decide ((s.freeNodes cls).length < need)
/-- The lowest number that no grid holds. -/
def State.freeGrid (s : State) : Nat :=
  ((List.range (s.grids.length + 1)).find? fun i => !(s.grid i).alive && !(s.grid i).finished).getD 0
/-- Configure a channel's entry, in every cluster of the granted set (R303, R306, R346). -/
def State.setChan (s : State) (g : Nat) (cls : List Nat) (c : ChanRec) : State :=
  (s.onChannel (g * 256 + c.ch) fun _ =>
    { valid := true, grid := g, pteam := g * 65536 + c.prod.1, ppos := c.prod.2, cteam := g * 65536 + c.cons.1, cpos := c.cons.2, depth := c.depth,
      cell := c.cell, mdl := c.mdl, head := c.head, ring := c.ring, home := cls.headD 0 }).writeEntries cls (g * 256 + c.ch)
/-- Configure a die or package barrier (R347). -/
def State.setBar (s : State) (g : Nat) (b : BarRec) : State :=
  s.onBarrier b.object fun _ =>
    { members := b.members.map fun m => (outId (g * 65536 + m.1.1) m.1.2, m.2), spacing := b.spc, inTicks := true, holder := g + 1 }
/-- Configure a reduction instance and its nodes (R317, R330, R348). -/
def State.setRed (s : State) (g : Nat) (cls : List Nat) (r : RedRec × Option Collective) : State :=
  let team := fun (m : Nat × Nat) => (g * 65536 + m.1, m.2)
  let x : Reduction := { grid := g, op := r.1.op, fmt := r.1.fmt, chain := r.1.chain, win := r.1.win, contributors := r.1.con.map team,
                         receivers := r.1.rcv.map team, sys := r.2.map fun c => (c.colln, c.nmem, c.self, c.chain, r.1.gdesc),
                         endpoints := (r.2.map fun c => c.endpoints).getD [], security := (r.2.map fun c => c.security).getD 0 }
  { s with reductions := assocSet s.reductions (g * 65536 + r.1.inst) x }.placeNodes cls (g * 65536 + r.1.inst) x
/-- The routines of a folio are written to every core of the granted clusters (R354). -/
def Folio.install (f : Folio) (k : Core) : Core :=
  let steps := f.routines.flatMap fun r => r.2.2
  { k with mx := { k.mx with
      routines := f.routines.foldl (fun t r => t.put 0 r.1 r.2.1) k.mx.routines,
      store := steps.zipIdx.foldl (fun t w => t.put 0 (f.first + w.2) w.1) k.mx.store } }
/-- A folio's routines are written to a cluster's cores; whose they are is noted (R354). -/
def State.installIn (s : State) (cl h : Nat) (f : Folio) : State :=
  let s := (List.range 64).foldl (fun (s : State) i => s.onCore (cl * 64 + i) f.install) s
  { s with installs := f.routines.foldl (fun t r => t.put 0 (cl * 256 + r.1) h) s.installs }
/-- Latch counts are 0 at launch, in the granted clusters that no team of another running grid may use, and so
are the contributions to handoffs there (DESIGN CHOICE, log 52). R366 names the counts alone. -/
def State.clearLatches (s : State) (g : Nat) (cls : List Nat) : State :=
  let others := (s.grids.filter fun e => e.1 != g && e.2.alive).flatMap fun e => regionClusters s e.2.rcb
  let free := cls.filter fun cl => !others.contains cl
  { s with latches := s.latches.filter fun e => !free.contains (e.1 / 256),
           handoffs := s.handoffs.filter fun e => !free.contains e.2.clu }
/-- A launch creates its grid and its initial teams (R13, R22, R23, R287, R288, R364). -/
def State.createGrid (s : State) (q : Nat) (r : Running) (f : Folio) (pc : Nat) (chans : List ChanRec) (bars : List BarRec)
    (reds : List (RedRec × Option Collective)) : State :=
  let b := cmdBody r.words
  let x := s.queue q
  let g := s.freeGrid
  let cls := regionClusters s x.rcb
  let s := s.onGrid g fun _ =>
    { alive := true, queue := q, ctx := x.ctx, folio := bits (b 0) 31 0, strict := f.strict, rcb := x.rcb, result := b 4, rlen := b 5, start := r.start,
      order := r.order }
  let s := cls.foldl (fun s cl => (s.onCluster cl fun c => { c with drpk := 0 })) s
  let s := if f.routines.isEmpty then s
    else cls.foldl (fun s cl => s.installIn cl (bits (b 0) 31 0) f) s
  let s := s.clearLatches g cls
  let s := chans.foldl (fun s c => s.setChan g cls c) s
  let s := bars.foldl (fun s c => s.setBar g c) s
  let s := reds.foldl (fun s c => s.setRed g cls c) s
  let dieOf := fun (i : Nat) => (bars.find? fun c => c.lvl == 1 && c.members.any fun m => m.1.1 == i).map fun c => c.die
  let s := (List.range (bits (b 1) 15 0 + 1)).foldl (fun (s : State) i =>
    s.addTeam g { size := bits (b 1) 22 16, gang := 2 ^ bits (b 1) 26 24, skew := bits (b 1) 30 28, entry := pc, ic0 := bits (b 1) 63 48,
                  period := bits (b 1) 47 32, block := f.launch, args := if b 2 = 0 then 0 else b 2 + i * b 3, die := dieOf i }) s
  s.onQueue q fun x => { x with run := some { r with grid := some g } }
/-- LAUNCH (R287, R303, R317, R347): refused, or the grid is created; a kernel boundary that is due comes first (R273). -/
def execLaunch (q : Nat) (s : State) : Host.Outcome State Fault Refusal :=
  match s.running q 1 with
  | none => .next s
  | some r =>
    if r.grid.isSome || !(s.boundariesFor q).isEmpty then .next s
    else
      let b := cmdBody r.words
      let x := s.queue q
      let size := bits (b 1) 22 16
      let teams := bits (b 1) 15 0 + 1
      let cls := regionClusters s x.rcb
      match assoc s.folios (bits (b 0) 31 0) with
      | none => .next (s.finish q 1 2 0)
      | some f =>
        match f.entries[bits (b 0) 63 48]? with
        | none => .next (s.finish q 1 2 0)
        | some e =>
          if f.ctx ≠ x.ctx ∨ !(match f.since with | some n => decide (n ≤ r.order) | none => false) then .next (s.finish q 1 2 0)
          else if regionCores s x.rcb < size then .next (s.finish q 1 3 0)
          else
            match s.chanList f teams size, s.barList f teams size cls, s.redList f teams size with
            | some cs, some bs, some rs =>
              if s.chanHeld cls cs || (bs.any fun b => (s.barrier b.object).holder != 0) || s.nodesShort cls (rs.map fun r => nodesOf r.1.con.length).sum then .next (s.finish q 1 3 0)
              else .next (s.createGrid q r f e.va cs bs rs)
            | _, _, _ => .next (s.finish q 1 1 0)

end Sys2Proof.Machine
end

