-- ==== Sys2Proof/Machine/Package.lean ====
section
/-! DEFINITION. The rest of the package: copy queues, reductions and collectives, what the supervisor installs, the ports,
the sideband, RMA and the starts (R313-R316, R322-R333, R335-R343, R380-R382, R388-R391). -/
namespace Sys2Proof.Machine

/-- A range meets a checked page, whatever the page permits (R274, R314). -/
def State.meetsChecked (s : State) (ctx va n : Nat) : Bool :=
  (piecesOf va n).any fun q => match s.walkPage ctx q.1 with | some p => p.chk | none => false
/-- Execute a packet: bytes done, code, and the machine after its writes (R314, R316). A packet whose res-z byte p3 63:56 is not zero, or
whose source is not 16-byte aligned, is MALFORMED, which R7 and R314 leave open (log 48). -/
def State.runPacket (s : State) (ctx : Nat) (p : Nat → Nat) : Nat × Nat × State :=
  let op := bits (p 0) 63 56
  let dst := bits (p 0) 55 0
  let src := p 1
  let n := p 2
  if (op ≠ 1 ∧ op ≠ 2) ∨ dst % 16 ≠ 0 ∨ (op = 1 ∧ !addrOk src 16) ∨ !(decide (n < 2 ^ 40) && n % 16 == 0) ∨ !addrOk (p 3) 8 then (0, 4, s)
  else if s.meetsChecked ctx dst n || (op == 1 && s.meetsChecked ctx src n) then (0, 3, s)
  else
    let m := min (s.goodPrefix ctx dst n .copyDst) (if op = 1 then s.goodPrefix ctx src n .copySrc else n)
    let bs := if op = 1 then (s.sysRead ctx src m).getD [] else (List.range (m / 8)).flatMap fun _ => bytesOf src 8
    (m, if m = n then 1 else 2, (s.sysWrite ctx dst bs).getD s)
/-- COPY_QUEUE_SERVE (R316): the engine serves one packet of a registered queue, if the next slot holds it. R316 gives no outcome for a
signal to a page that does not translate or may not be written: that it is dropped, with the status word and the slot as for any
other, is the model's choice (log 48). -/
def execCopyQueueServe (k : Nat) (s : State) : Host.Outcome State Fault Refusal :=
  match s.copyqs[k]? with
  | none => .next s
  | some (_, ctx, d) =>
    match s.sysRead ctx d 32 with
    | none => .next s
    | some q =>
      let rd := word8 q 24
      let a := bits (word8 q 0) 55 0 + rd % 2 ^ bits (word8 q 8) 4 0 * 64
      match s.sysRead ctx a 64 with
      | none => .next s
      | some b =>
        let p := fun i => word8 b (8 * i)
        if p 5 ≠ rd then .next s
        else
          let (done, code, s) := s.runPacket ctx p
          let s := (s.sysWrite ctx (a + 48) (bytesOf (done <<< 16 + code) 8)).getD s
          let s := if bits (p 3) 55 0 ≠ 0 ∧ code ≠ 4 then (s.sysWrite ctx (bits (p 3) 55 0) (bytesOf (p 4) 8)).getD s else s
          .next ((s.sysWrite ctx (d + 24) (bytesOf ((rd + 1) % 2 ^ 64) 8)).getD s)

/-- NODE_OPERAND_ARRIVAL (R320-R323): a packet on its way reaches the node of its place. -/
def execNodeOperandArrival (k : Nat) (s : State) : Host.Outcome State Fault Refusal :=
  match s.packets[k]? with
  | none => .next s
  | some (key, round, place, v, fl) => .next ({ s with packets := s.packets.eraseIdx k }.operandArrives key round place v fl)
/-- ROOT_DELIVERY (R324, R325): a complete round reaches every receiver's router. -/
def execRootDelivery (inst round : Nat) (s : State) : Host.Outcome State Fault Refusal :=
  match assoc s.reductions inst with
  | none => .next s
  | some r =>
    let d := r.round round
    if d.result.isSome && d.cancelled.isNone && !d.delivered then
      .next (s.onReduction inst fun r => r.onRound round fun d => { d with delivered := true, asking := [] })
    else .next s
/-- The round is cancelled for a member of a collective, and its root member tells the others (R324, R333). -/
def State.decideCancel (s : State) (key round i : Nat) : State :=
  match assoc s.reductions key with
  | none => s
  | some r =>
    let s := s.cancelRound key round i
    match r.sys with
    | some (_, n, self, chain, _) =>
      if self = rootMember n chain then
        ((List.range n).filter (· != self)).foldl (fun s m => s.sendCollective r 3 m 0 0 round 0 0) s
      else s
    | none => s
/-- The request of a receiver whose deadline has passed goes to the root member of a collective, once; where all have gone and the
time of a verdict has passed, the root member has failed, and the round's receivers time out (R324, R333; log 40). -/
def State.askRoot (s : State) (key round : Nat) (r : Reduction) (colln n : Nat) (chain : Bool) : State :=
  let d := r.round round
  match d.asking.find? fun i => !(d.told.any fun x => x.1 == i) with
  | some i => (s.sendCollective r 2 (rootMember n chain) 0 0 round 0 0).onReduction key fun r =>
      r.onRound round fun d => { d with told := d.told ++ [(i, s.now)] }
  | none =>
    if d.told.all fun x => decide (x.2 + Config.verdictTicks colln < s.now) then
      (s.cancelRound key round everyReceiver).onReduction key fun r => r.onRound round fun e => { e with asking := d.asking }
    else s
/-- CANCEL_REQUEST (R324, R333): where the root has the result, COMPLETE wins. A member that is not the root sends the request of each
of its receivers on, and waits for the verdict. -/
def execCancelRequest (inst round : Nat) (s : State) : Host.Outcome State Fault Refusal :=
  match assoc s.reductions inst with
  | none => .next s
  | some r =>
    let d := r.round round
    match d.asking with
    | [] => .next s
    | i :: _ =>
      if d.cancelled.isSome then .next s
      else if d.result.isSome then .next (s.onReduction inst fun r => r.onRound round fun d => { d with asking := [] })
      else
        match r.sys with
        | some (colln, n, self, chain, _) =>
          if self = rootMember n chain then .next (s.decideCancel inst round i) else .next (s.askRoot inst round r colln n chain)
        | none => .next (s.decideCancel inst round i)
/-- An operand from another member reaches a node of the upper tree that this member computes (R331, R333). -/
def State.upperArrives (s : State) (key round node side : Nat) (v : Line) (fl : Nat) : State :=
  match assoc s.reductions key with
  | none => s
  | some r =>
    match r.upper.find? fun u => u.1 == round && u.2.1 == node && u.2.2.1 == 1 - side with
    | none => s.onReduction key fun r => { r with upper := r.upper ++ [(round, node, side, v, fl)] }
    | some (_, _, _, w, gl) =>
      let s := s.onReduction key fun r => { r with upper := r.upper.filter fun u => !(u.1 == round && u.2.1 == node) }
      let (z, hl) := if side = 0 then nodeOp r.op (fmtOf r.fmt) v w else nodeOp r.op (fmtOf r.fmt) w v
      s.upperOperand key round 12 node z (fl ||| gl ||| hl)
/-- Fields of a collective packet that its kind does not use are zero. R332 states the drop for h0 12:0 and KIND 4-7; that a packet
with other res-z fields of its kind is dropped and counted too is the model's choice (log 48). -/
def collectiveOk (h : Nat) : Bool :=
  let k := bits h 47 45
  decide (k ≤ 3) && bits h 12 0 == 0 && (k == 0 || bits h 22 18 == 0) && (k ≤ 1 || bits h 17 13 == 0)
/-- A packet of a collective is dropped and counted, in the cluster whose router holds the root of the local tree (R323, R333). -/
def State.dropUpper (s : State) (key : Nat) : State :=
  match s.routers.find? fun e => e.2.valid && e.2.inst == key && e.2.root with
  | some e => s.countDrop (e.1 / 1024)
  | none => s
/-- The place of the node that a KIND 0 packet names in this member: `none` where the member computes no such node (R331). -/
def upperNode (chain : Bool) (self lvl : Nat) : Option Nat :=
  if chain then if lvl = 0 ∧ self ≠ 0 then some (1024 + self) else none
  else if lvl ≠ 0 ∧ self % 2 ^ lvl = 0 then some (lvl * 1024 + self / 2 ^ lvl) else none
/-- The round, from the oldest open one on, whose 32 bits a packet names; one that is resolved has none (R332). A round beyond the
open ones has no values yet, and can be cancelled (R327, R333). -/
def Reduction.roundNamed (r : Reduction) (g : Nat) : Option Nat :=
  let d := (2 ^ 32 + g - r.base % 2 ^ 32) % 2 ^ 32
  if d < 2 ^ 31 then some (r.base + d) else none
/-- COLLECTIVE_PACKET (R331-R333): a packet of another member; one that does not fit is dropped and counted. A verdict names no
receiver: whether a request of this member that is out was the first at the root, and which, is free (log 40). -/
def execCollectivePacket (ws : List Word) (v : Line) (s : State) : Host.Outcome State Fault Refusal :=
  let h := (ws.getD 0 0).toNat
  let g := (ws.getD 1 0).toNat
  match s.reductions.find? fun e => match e.2.sys with | some (c, _) => c == bits h 63 48 | none => false with
  | none => .next s
  | some (key, r) =>
    match r.sys with
    | none => .next s
    | some (colln, n, self, chain, _) =>
      let drop := s.dropUpper key
      let round := (r.roundNamed (bits g 31 0)).filter fun i => decide (2 ≤ bits h 47 45 ∨ i < r.base + r.window)
      if !collectiveOk h || bits h 33 23 != self || bits g 63 32 != collectiveHash colln n chain r.op r.fmt then .next drop
      else
        match bits h 47 45, round with
        | 0, some i =>
          match upperNode chain self (bits h 22 19) with
          | some node => if (r.round i).cancelled.isSome then .next drop else .next (s.upperArrives key i node (bits h 18 18) v (bits h 17 13))
          | none => .next drop
        | 0, none => .next drop
        | 1, some i =>
          if (r.round i).cancelled.isSome then .next s
          else .next (s.onReduction key fun r => r.onRound i fun d => { d with result := some (v, bits h 17 13 ||| d.lflags) })
        | 2, some i =>
          let d := r.round i
          if d.cancelled.isSome || d.result.isSome || self != rootMember n chain then .next s else .next (s.decideCancel key i noReceiver)
        | 3, some i =>
          let d := r.round i
          if d.cancelled.isSome then .next s
          else
            let (w, s) := s.takeFree
            .next (s.cancelRound key i ((d.told.map Prod.fst).getD (w.toNat % (d.told.length + 1)) noReceiver))
        | _, none => .next s
        | _, _ => .next s

/-- An entry that maps a page keeps the rules of its map: res-z bits, HL, and the frame's alignment (R337). -/
def leafOk (lvl pte : Nat) : Bool :=
  lvl != 0 && bits pte 35 32 == 0 && bits pte 59 58 != 3 && (!bit pte 52 || bit pte 53) && bits pte 31 0 % 2 ^ (10 * (3 - lvl)) == 0
/-- HOME fits the storage of the whole frame, and the replicas stand in HBM (R248, R258). DESIGN CHOICE (log 48): an entry with a replica
of which a part would lie beyond HBM is refused too; the spec does not speak of one. -/
def State.homeOk (s : State) (lvl pte : Nat) : Bool :=
  let a := bits pte 31 0 * 65536
  let home := bits pte 61 60
  let repl := bits pte 43 40
  (match placeOf a, placeOf (a + 2 ^ (46 - 10 * lvl) - 1) with
   | some (.spad _ _, _), some _ => home == 2 && lvl == 3
   | some (.pinned, _), some _ => home == 3 && lvl == 3 && s.isPinned a
   | some (.hbm, _), some (.hbm, _) => decide (home ≤ 1)
   | some (.aperture, _), some (.aperture, _) => decide (home ≤ 1)
   | some (.host, _), some (.host, _) => decide (home ≤ 1)
   | _, _ => false) &&
  (repl == 0 || (decide (a < 4 * dieBytes) && bit repl (a / dieBytes) &&
    (List.range 4).all fun d => !bit repl d || decide (a + 2 ^ (46 - 10 * lvl) + d * dieBytes ≤ 4 * dieBytes + a / dieBytes * dieBytes)))
/-- A page-table entry that the supervisor installs at a level (R248, R258, R337): with LEAF = 0 bits 61:32 are res-i, and an
entry that is not valid, or is marked COLD, names no storage. -/
def State.pteOk (s : State) (lvl pte : Nat) : Bool :=
  if !bit pte 62 then !bit pte 63 || lvl != 3
  else leafOk lvl pte && (!bit pte 63 || bit pte 36 || s.homeOk lvl pte)
/-- The table of a level on the way to an address. -/
def State.tableAt (s : State) (va : Nat) : Nat → Nat → Nat → Option Nat
  | 0, _, base => some base
  | n + 1, lvl, base =>
    let e := Memory.read s.mem (base + 8 * bits va (55 - 10 * lvl) (46 - 10 * lvl)) 8
    if bit e 63 && !bit e 62 then s.tableAt va n (lvl + 1) (bits e 31 0 <<< 16) else none
/-- A page-table entry as the table holds it: with LEAF = 0 bits 61:32 are res-i, and read as zero (R7, R337). -/
def storedPte (pte : Nat) : Nat := if bit pte 62 then pte else bits pte 63 62 <<< 62 + bits pte 31 0
/-- PAGE_INVALIDATION (R337, R338): an entry changes, and the page's invalidation completes. -/
def execPageInvalidation (ctx va lvl : Nat) (pte : Word) (s : State) : Host.Outcome State Fault Refusal :=
  let d := (s.contexts.get 0 ctx).toNat
  if !bit d 63 || decide (3 < lvl) || !s.pteOk lvl pte.toNat then .next s
  else
    match s.tableAt va lvl 0 (bits d 47 16 <<< 16) with
    | none => .next s
    | some base => .next (s.write8 (base + 8 * bits va (55 - 10 * lvl) (46 - 10 * lvl)) (storedPte pte.toNat))
/-- CONTEXT_DESCRIPTOR_WRITE (R335): what is written to a res-z bit is discarded (R7). -/
def execContextDescriptorWrite (ctx : Nat) (x : Word) (s : State) : Host.Outcome State Fault Refusal :=
  if ctx < 256 then .next { s with contexts := s.contexts.put 0 ctx (x &&& 0x8000FFFFFFFF0000) } else .next s

/-- The bits of each word of a region control block that are neither res-z nor res-i, and so read as written (R7, R340). -/
def rcbMasks : List Word :=
  [0x00FFFFFFFFFFFFFF, 0xFFF00000FFFF007F, 0x0000FFFFFFFFFFFF, 0xFFFFFFFFE007FFFF, 0x0000000000FCEFFE, 0xFFFFFFFFFFFFFFFF, 0x0000FFFFFFFFFFFF,
   0x00FFFFFFFFFFFFFF, 0xFFFF, 0xFFFFFFFFFFFFFFFF, 0xFFFFFFFFFFFFFFFF, 0xFFFFFFFFFFFFFFFF, 0xFFFF, 0, 0, 0]
/-- A node as the table holds it: what is written to its reserved bits is discarded (R7). -/
def rcbNode (ws : List Word) : List Word := ws.zipWith (· &&& ·) rcbMasks
/-- A region control block stands in device memory and keeps its map (R24, R340). -/
def rcbOk (a : Nat) (ws : List Word) : Bool :=
  let n := fun i => (ws.getD i 0).toNat
  let inh := bits (n 1) 63 52
  a % 128 == 0 && decide (a + 128 ≤ 4 * dieBytes) && a != 0 && ws.length == 16 &&
  (bit inh 1 || decide (1 ≤ bits (n 1) 6 0 ∧ bits (n 1) 6 0 ≤ 64)) && (bit inh 4 || bits (n 3) 18 3 != 0) && n 7 % 65536 == 0 &&
  (n 0 != 0 || inh == 0)
/-- The depth of a node below the root, counting it; 0 where its parents do not reach a root in 8 levels (R341). -/
def rcbDepth (rs : List (Nat × List Word)) : Nat → Nat → Nat
  | 0, _ => 0
  | fuel + 1, a =>
    match assoc rs a with
    | none => 0
    | some ws =>
      let p := bits (ws.getD 0 0).toNat 55 0
      if p = 0 then 1 else match rcbDepth rs fuel p with | 0 => 0 | d + 1 => d + 2
/-- The limits of R341 hold in a tree of nodes. -/
def State.treeOk (s : State) (rs : List (Nat × List Word)) : Bool :=
  let t := { s with regions := rs }
  decide (rs.length ≤ 4096) && rs.all fun e =>
    let p := bits (e.2.getD 0 0).toNat 55 0
    rcbDepth rs 8 e.1 != 0 &&
    (p == 0 ||
      (bits (t.region e.1 0 1) 31 16 ||| bits (t.region p 0 1) 31 16) == bits (t.region p 0 1) 31 16 &&
      decide (bits (t.region e.1 1 1) 6 0 ≤ bits (t.region p 1 1) 6 0) && decide (bits (t.region e.1 2 2) 47 0 ≤ bits (t.region p 2 2) 47 0) &&
      decide (bits (t.region e.1 3 3) 63 32 ≤ bits (t.region p 3 3) 63 32) && decide (bits (t.region e.1 3 3) 31 29 ≤ bits (t.region p 3 3) 31 29)) &&
    decide (((rs.filter fun k => bits (k.2.getD 0 0).toNat 55 0 == e.1).map fun k => bits (t.region k.1 3 3) 63 32).sum ≤ bits (t.region e.1 3 3) 63 32)
/-- REGION_INSTALL (R24, R340, R341): the node stands in device memory, and in the supervisor's tree; refused, the tree stays
as it was. -/
def execRegionInstall (a : Nat) (ws : List Word) (s : State) : Host.Outcome State Fault Refusal :=
  let ws := rcbNode ws
  let rs := assocSet s.regions a ws
  if rcbOk a ws && s.treeOk rs && !(s.grids.any fun g => g.2.alive && { s with regions := rs }.within g.2.rcb a) then
    .next { s with regions := rs, mem := Memory.writeCells s.mem (cellsAt a (ws.flatMap fun w => bytesOf w.toNat 8)) }
  else .next s

/-- A format region keeps its map: its ranges lie in the aperture and in HBM of its controller's die (R260, R343). -/
def formatOk (mc : Nat) (ws : List Word) : Bool :=
  let f := fun i => (ws.getD i 0).toNat
  let code := bits (f 1) 61 56
  let die := mc / 2
  let hbm := fun (a n : Nat) => decide (die * dieBytes ≤ a ∧ a + n ≤ (die + 1) * dieBytes)
  let n := bits (f 1) 39 0
  ws.length == 4 && bits (f 0) 62 48 == 0 && bits (f 0) 15 0 == 0 && bits (f 1) 63 62 != 3 && bits (f 1) 55 54 != 3 && bits (f 1) 53 40 == 0 &&
  decide (f 2 < 2 ^ 48) && decide (f 3 < 2 ^ 48) &&
  (match formatRegion ws with
   | none => true
   | some r => decide (0x20 ≤ code ∧ code ≤ 0x3B) && decide (0x400000000000 ≤ r.base ∧ r.base + r.size ≤ 0x600000000000) &&
       hbm r.kbase n && hbm r.sbase ((n + r.block - 1) / r.block))
/-- FORMAT_REGION_WRITE (R260, R262, R343): between kernels, and no two enabled regions meet. -/
def execFormatRegionWrite (mc n : Nat) (ws : List Word) (s : State) : Host.Outcome State Fault Refusal :=
  let others := s.formats.filter fun e => e.1 != mc * 64 + n
  let clash := match formatRegion ws with
    | none => false
    | some r => others.any fun e => match formatRegion e.2 with | some q => meets r.base r.size q.base q.size | none => false
  if mc < 8 ∧ n < 64 ∧ formatOk mc ws ∧ !clash ∧ !(s.grids.any fun g => g.2.alive) then
    .next { s with formats := s.formats.put [] (mc * 64 + n) ws }
  else .next s

/-- A message of bytes that leaves the module. -/
def State.sendOut (s : State) (d : Dest) (bs : List Byte) : State := { s with outbox := s.outbox ++ [⟨d, bs.map fun b => wordN b.toNat⟩] }
/-- SIDEBAND_READ (R391). -/
def execSidebandRead (off n : Nat) (s : State) : Host.Outcome State Fault Refusal := .next (s.sendOut .board ((s.sideband.drop off).take n))
/-- UET_RMA_ACCESS (R315, R389): a read answers, a write performs, a compare-and-swap answers the old word. -/
def execUetRmaAccess (ctx : Nat) (k : RmaOp) (va : Nat) (data : List Byte) (s : State) : Host.Outcome State Fault Refusal :=
  if !s.ready || decide (8 ≤ s.ports.length) then .next s
  else
    match k with
    | .read n => match s.sysRead ctx va n with | some bs => .next (s.sendOut .requester bs) | none => .next s
    | .write => .next ((s.sysWrite ctx va data).getD s)
    | .compareSwap e d =>
      match s.sysRead ctx va 8 with
      | none => .next s
      | some old =>
        if va % 8 ≠ 0 then .next s
        else
          match if ofBytes old = e.toNat then s.sysWrite ctx va (bytesOf d.toNat 8) else some s with
          | some t => .next (t.sendOut .requester old)
          | none => .next s
/-- PORT_DOWN and PORT_UP (R388): the ports that are down. -/
def execPortDown (p : Nat) (s : State) : Host.Outcome State Fault Refusal :=
  if p < 8 ∧ !s.ports.contains p then .next { s with ports := s.ports ++ [p] } else .next s
def execPortUp (p : Nat) (s : State) : Host.Outcome State Fault Refusal := .next { s with ports := s.ports.filter (· != p) }

/-- A core after a start: its team is gone, and what the steps clear is clear (R380, R381). -/
def Core.started (wipe5 did6 : Bool) (k : Core) : Core :=
  { wbuf := if wipe5 then [] else k.wbuf,
    regs := if did6 then {} else k.regs,
    mx := if did6 then {} else { routines := k.mx.routines, store := k.mx.store, act := k.mx.act } }
/-- A cluster after a start: operating points by step 2, counters by step 7 (R367, R381). -/
def Cluster.started (did2 : Bool) (x : Cluster) : Cluster :=
  if did2 then { cycle := x.cycle, frac := x.frac, srh := x.srh, issuing := x.issuing, stalled := x.stalled, idle := x.idle, drpk := x.drpk }
  else { x with grants := [], held := none }
/-- The machine after a start (R380-R382): `warm` skips the steps that R381 marks; a failing step `k` leaves it and the steps
after it undone, and 0 is a start that completes. Commands, contexts, folios, regions, channels and reductions go with any
start. -/
def State.started (s : State) (warm : Bool) (k : Nat) : State :=
  let did := fun (n : Nat) => decide (k = 0 ∨ n < k)
  let wipe := fun (n : Nat) => !warm && did n
  let t : State := if did 6 then {} else
    { granules := s.granules, handoffs := s.handoffs, records := s.records, chantab := s.chantab, barriers := s.barriers, latches := s.latches,
      routers := s.routers, installs := s.installs }
  { t with
    agenda := s.agenda, freeCtr := s.freeCtr, outbox := s.outbox, flash := s.flash, firmwareKey := s.firmwareKey, fuses := s.fuses, readings := s.readings, dataChk := s.dataChk, retired := s.retired,
    mem := s.mem.filter fun c =>
      !((wipe 4 && decide (c.1 < 4 * dieBytes)) || (wipe 5 && decide (0x700000000000 ≤ c.1 ∧ c.1 < 0x800000000000))),
    hostLines := if wipe 5 then [] else s.hostLines,
    cores := (s.cores.map fun e => (e.1, e.2.started (wipe 5) (did 6))).filter fun e => e.2 != {},
    now := if did 7 then 0 else s.now, polled := if did 7 then none else s.polled, stepped := if did 7 then none else s.stepped,
    clusters := if did 7 then [] else (s.clusters.map fun e => (e.1, e.2.started (did 2))).filter fun e => e.2 != {},
    sensors := if did 2 then [] else s.sensors, tripped := !did 2 && s.tripped,
    ports := if did 10 then [] else s.ports, warm := warm, starts := if did 9 then (s.starts + 1) % 2 ^ 48 else s.starts,
    booted := if did 9 then s.flash else s.booted,
    ready := k == 0, failStep := k, interrupts := s.interrupts + 1 }
/-- The public key is the one whose hash is fused, an image's signature verifies under it, and its security version is not below the
fused minimum (R383). -/
def State.imageOk (s : State) (i : Nat) : Bool :=
  Sha256.digest s.firmwareKey == s.fuses.keyHash && (s.image i).signed && decide (s.fuses.minimum ≤ (s.image i).version)
/-- The step that an image which is refused stops, 0 where none is: the boot ROM starts the management firmware at step 1, which starts
the supervisor and `cktr` at step 8 and, for the ports, their firmware at step 10 (R381, R383; log 54). -/
def State.refusedStep (s : State) : Nat :=
  if !s.imageOk 0 then 1 else if !(s.imageOk 1 && s.imageOk 2) then 8 else if !s.imageOk 3 then 10 else 0
/-- The step at which a start fails, 0 where it completes: the first of what the images stop and of what the start's own input does. -/
def State.failingStep (s : State) : Nat :=
  if s.startFail = 0 then s.refusedStep else if s.refusedStep = 0 then s.startFail else min s.startFail s.refusedStep
/-- COLD_START (R380-R382): at power-up, or after a trip. -/
def execColdStart (s : State) : Host.Outcome State Fault Refusal := .next (s.started false s.failingStep).refreshSideband
/-- WARM_START (R380-R382): on a reset request, with no sensor in trip; training values that fail their check make it a
cold start from the training step on. -/
def execWarmStart (s : State) : Host.Outcome State Fault Refusal :=
  if s.tripped || (List.range 48).any fun n => (s.sensor n).state == 3 then .next s
  else .next (s.started s.trained s.failingStep).refreshSideband

end Sys2Proof.Machine
end

