-- ==== Sys2Proof/Machine/Dispatch.lean ====
section
/-! DEFINITION. One arm per constructor of `Instr`: a direct call of its meaning. -/
namespace Sys2Proof.Machine

/-- The meaning of every row of the opcode table. -/
def exec (i : Instr) (s : State) : Host.Outcome State Fault Refusal :=
  match i with
  | .nop x r => Sys2Proof.Machine.execNop x r s
  | .add h f => Sys2Proof.Machine.execAdd h f s
  | .sub h f => Sys2Proof.Machine.execSub h f s
  | .mul h f => Sys2Proof.Machine.execMul h f s
  | .mulh h f => Sys2Proof.Machine.execMulh h f s
  | .mulhn h f => Sys2Proof.Machine.execMulhn h f s
  | .div h f => Sys2Proof.Machine.execDiv h f s
  | .divn h f => Sys2Proof.Machine.execDivn h f s
  | .rem h f => Sys2Proof.Machine.execRem h f s
  | .remn h f => Sys2Proof.Machine.execRemn h f s
  | .and h f => Sys2Proof.Machine.execAnd h f s
  | .or h f => Sys2Proof.Machine.execOr h f s
  | .xor h f => Sys2Proof.Machine.execXor h f s
  | .andn h f => Sys2Proof.Machine.execAndn h f s
  | .shl h f => Sys2Proof.Machine.execShl h f s
  | .shr h f => Sys2Proof.Machine.execShr h f s
  | .sra h f => Sys2Proof.Machine.execSra h f s
  | .min h f => Sys2Proof.Machine.execMin h f s
  | .max h f => Sys2Proof.Machine.execMax h f s
  | .minn h f => Sys2Proof.Machine.execMinn h f s
  | .maxn h f => Sys2Proof.Machine.execMaxn h f s
  | .seq h f => Sys2Proof.Machine.execSeq h f s
  | .sne h f => Sys2Proof.Machine.execSne h f s
  | .slt h f => Sys2Proof.Machine.execSlt h f s
  | .sltn h f => Sys2Proof.Machine.execSltn h f s
  | .sel h f => Sys2Proof.Machine.execSel h f s
  | .clz h f => Sys2Proof.Machine.execClz h f s
  | .popc h f => Sys2Proof.Machine.execPopc h f s
  | .addi h f => Sys2Proof.Machine.execAddi h f s
  | .andi h f => Sys2Proof.Machine.execAndi h f s
  | .ori h f => Sys2Proof.Machine.execOri h f s
  | .xori h f => Sys2Proof.Machine.execXori h f s
  | .shli h f => Sys2Proof.Machine.execShli h f s
  | .shri h f => Sys2Proof.Machine.execShri h f s
  | .srai h f => Sys2Proof.Machine.execSrai h f s
  | .slti h f => Sys2Proof.Machine.execSlti h f s
  | .sltni h f => Sys2Proof.Machine.execSltni h f s
  | .li h f => Sys2Proof.Machine.execLi h f s
  | .lih h f => Sys2Proof.Machine.execLih h f s
  | .addx h f => Sys2Proof.Machine.execAddx h f s
  | .lds h f => Sys2Proof.Machine.execLds h f s
  | .sts h f => Sys2Proof.Machine.execSts h f s
  | .mpw h f => Sys2Proof.Machine.execMpw h f s
  | .br h f => Sys2Proof.Machine.execBr h f s
  | .jmp h f => Sys2Proof.Machine.execJmp h f s
  | .jmpr h f => Sys2Proof.Machine.execJmpr h f s
  | .call h f => Sys2Proof.Machine.execCall h f s
  | .callr h f => Sys2Proof.Machine.execCallr h f s
  | .ret h f => Sys2Proof.Machine.execRet h f s
  | .loop h f => Sys2Proof.Machine.execLoop h f s
  | .lpset h f => Sys2Proof.Machine.execLpset h f s
  | .yld h f => Sys2Proof.Machine.execYld h f s
  | .endOp h f => Sys2Proof.Machine.execEndOp h f s
  | .csrr h f => Sys2Proof.Machine.execCsrr h f s
  | .csrw h f => Sys2Proof.Machine.execCsrw h f s
  | .csrs h f => Sys2Proof.Machine.execCsrs h f s
  | .csrc h f => Sys2Proof.Machine.execCsrc h f s
  | .trap h f => Sys2Proof.Machine.execTrap h f s
  | .eret h f => Sys2Proof.Machine.execEret h f s
  | .chk h f => Sys2Proof.Machine.execChk h f s
  | .tbr h f => Sys2Proof.Machine.execTbr h f s
  | .clkd h f => Sys2Proof.Machine.execClkd h f s
  | .clke h f => Sys2Proof.Machine.execClke h f s
  | .when h f => Sys2Proof.Machine.execWhen h f s
  | .mrg h f => Sys2Proof.Machine.execMrg h f s
  | .pmrg h f => Sys2Proof.Machine.execPmrg h f s
  | .dlyr h f => Sys2Proof.Machine.execDlyr h f s
  | .dlyw h f => Sys2Proof.Machine.execDlyw h f s
  | .inst h f => Sys2Proof.Machine.execInst h f s
  | .chrd h f => Sys2Proof.Machine.execChrd h f s
  | .chrdy h f => Sys2Proof.Machine.execChrdy h f s
  | .chwr h f => Sys2Proof.Machine.execChwr h f s
  | .absn h f => Sys2Proof.Machine.execAbsn h f s
  | .bara h f => Sys2Proof.Machine.execBara h f s
  | .barw h f => Sys2Proof.Machine.execBarw h f s
  | .bar h f => Sys2Proof.Machine.execBar h f s
  | .barx h f => Sys2Proof.Machine.execBarx h f s
  | .ltar h f => Sys2Proof.Machine.execLtar h f s
  | .ltin h f => Sys2Proof.Machine.execLtin h f s
  | .ltwt h f => Sys2Proof.Machine.execLtwt h f s
  | .drn h f => Sys2Proof.Machine.execDrn h f s
  | .waitc h f => Sys2Proof.Machine.execWaitc h f s
  | .sleep h f => Sys2Proof.Machine.execSleep h f s
  | .pwra h f => Sys2Proof.Machine.execPwra h f s
  | .pwrr h f => Sys2Proof.Machine.execPwrr h f s
  | .cpost h f => Sys2Proof.Machine.execCpost h f s
  | .aadd h f => Sys2Proof.Machine.execAadd h f s
  | .amin h f => Sys2Proof.Machine.execAmin h f s
  | .amax h f => Sys2Proof.Machine.execAmax h f s
  | .aand h f => Sys2Proof.Machine.execAand h f s
  | .aor h f => Sys2Proof.Machine.execAor h f s
  | .axor h f => Sys2Proof.Machine.execAxor h f s
  | .aaddr h f => Sys2Proof.Machine.execAaddr h f s
  | .axch h f => Sys2Proof.Machine.execAxch h f s
  | .acas h f => Sys2Proof.Machine.execAcas h f s
  | .vadd h f => Sys2Proof.Machine.execVadd h f s
  | .vsub h f => Sys2Proof.Machine.execVsub h f s
  | .vmul h f => Sys2Proof.Machine.execVmul h f s
  | .vfma h f => Sys2Proof.Machine.execVfma h f s
  | .vfms h f => Sys2Proof.Machine.execVfms h f s
  | .vmin h f => Sys2Proof.Machine.execVmin h f s
  | .vmax h f => Sys2Proof.Machine.execVmax h f s
  | .vabs h f => Sys2Proof.Machine.execVabs h f s
  | .vneg h f => Sys2Proof.Machine.execVneg h f s
  | .vcmp h f => Sys2Proof.Machine.execVcmp h f s
  | .vsel h f => Sys2Proof.Machine.execVsel h f s
  | .vcvt h f => Sys2Proof.Machine.execVcvt h f s
  | .vrnd h f => Sys2Proof.Machine.execVrnd h f s
  | .vdiv h f => Sys2Proof.Machine.execVdiv h f s
  | .vsqrt h f => Sys2Proof.Machine.execVsqrt h f s
  | .vrcp h f => Sys2Proof.Machine.execVrcp h f s
  | .vrsq h f => Sys2Proof.Machine.execVrsq h f s
  | .vex2 h f => Sys2Proof.Machine.execVex2 h f s
  | .vlg2 h f => Sys2Proof.Machine.execVlg2 h f s
  | .vtnh h f => Sys2Proof.Machine.execVtnh h f s
  | .viadd h f => Sys2Proof.Machine.execViadd h f s
  | .visub h f => Sys2Proof.Machine.execVisub h f s
  | .vimul h f => Sys2Proof.Machine.execVimul h f s
  | .vand h f => Sys2Proof.Machine.execVand h f s
  | .vor h f => Sys2Proof.Machine.execVor h f s
  | .vxor h f => Sys2Proof.Machine.execVxor h f s
  | .vshl h f => Sys2Proof.Machine.execVshl h f s
  | .vshr h f => Sys2Proof.Machine.execVshr h f s
  | .vsra h f => Sys2Proof.Machine.execVsra h f s
  | .vimin h f => Sys2Proof.Machine.execVimin h f s
  | .vimax h f => Sys2Proof.Machine.execVimax h f s
  | .vclz h f => Sys2Proof.Machine.execVclz h f s
  | .vpopc h f => Sys2Proof.Machine.execVpopc h f s
  | .vclmp h f => Sys2Proof.Machine.execVclmp h f s
  | .vbcst h f => Sys2Proof.Machine.execVbcst h f s
  | .vperm h f => Sys2Proof.Machine.execVperm h f s
  | .vshf h f => Sys2Proof.Machine.execVshf h f s
  | .vrsum h f => Sys2Proof.Machine.execVrsum h f s
  | .vrmax h f => Sys2Proof.Machine.execVrmax h f s
  | .vscan h f => Sys2Proof.Machine.execVscan h f s
  | .vqnt h f => Sys2Proof.Machine.execVqnt h f s
  | .vdqnt h f => Sys2Proof.Machine.execVdqnt h f s
  | .veps h f => Sys2Proof.Machine.execVeps h f s
  | .vmov h f => Sys2Proof.Machine.execVmov h f s
  | .vli h f => Sys2Proof.Machine.execVli h f s
  | .vcfg h f => Sys2Proof.Machine.execVcfg h f s
  | .vchk h f => Sys2Proof.Machine.execVchk h f s
  | .mcall h f => Sys2Proof.Machine.execMcall h f s
  | .mcfg h f => Sys2Proof.Machine.execMcfg h f s
  | .mzro h f => Sys2Proof.Machine.execMzro h f s
  | .mact h f => Sys2Proof.Machine.execMact h f s
  | .mstp h f => Sys2Proof.Machine.execMstp h f s
  | .mrtn h f => Sys2Proof.Machine.execMrtn h f s
  | .tld h f => Sys2Proof.Machine.execTld h f s
  | .tst h f => Sys2Proof.Machine.execTst h f s
  | .tldw h f => Sys2Proof.Machine.execTldw h f s
  | .cpy h f => Sys2Proof.Machine.execCpy h f s
  | .cpyq h f => Sys2Proof.Machine.execCpyq h f s
  | .gath h f => Sys2Proof.Machine.execGath h f s
  | .scat h f => Sys2Proof.Machine.execScat h f s
  | .mcst h f => Sys2Proof.Machine.execMcst h f s
  | .rpkt h f => Sys2Proof.Machine.execRpkt h f s
  | .rrcv h f => Sys2Proof.Machine.execRrcv h f s
  | .pfch h f => Sys2Proof.Machine.execPfch h f s
  | .flsh h f => Sys2Proof.Machine.execFlsh h f s
  | .stickyReissue x => Sys2Proof.Machine.execStickyReissue x s
  | .vwlPresetLoad c n => Sys2Proof.Machine.execVwlPresetLoad c n s
  | .viewRegisterWrite c k n x => Sys2Proof.Machine.execViewRegisterWrite c k n x s
  | .tstatWrite c k x => Sys2Proof.Machine.execTstatWrite c k x s
  | .prdWrite c k x => Sys2Proof.Machine.execPrdWrite c k x s
  | .pmevWrite c k x => Sys2Proof.Machine.execPmevWrite c k x s
  | .pmcWrite c k n x => Sys2Proof.Machine.execPmcWrite c k n x s
  | .registerWrite c k n x => Sys2Proof.Machine.execRegisterWrite c k n x s
  | .cprRequest cl x => Sys2Proof.Machine.execCprRequest cl x s
  | .heldRequestStart cl => Sys2Proof.Machine.execHeldRequestStart cl s
  | .voltageStep cl => Sys2Proof.Machine.execVoltageStep cl s
  | .frequencyStep cl => Sys2Proof.Machine.execFrequencyStep cl s
  | .tthWrite n x => Sys2Proof.Machine.execTthWrite n x s
  | .calWrite cl x => Sys2Proof.Machine.execCalWrite cl x s
  | .grantStep cl => Sys2Proof.Machine.execGrantStep cl s
  | .waitResolve c => Sys2Proof.Machine.execWaitResolve c s
  | .deadlineExpiry c => Sys2Proof.Machine.execDeadlineExpiry c s
  | .markerDeadlineExpiry c => Sys2Proof.Machine.execMarkerDeadlineExpiry c s
  | .promise c => Sys2Proof.Machine.execPromise c s
  | .copyCompletion c id => Sys2Proof.Machine.execCopyCompletion c id s
  | .copyFault c id => Sys2Proof.Machine.execCopyFault c id s
  | .loadDataArrival c k => Sys2Proof.Machine.execLoadDataArrival c k s
  | .storePerform c k => Sys2Proof.Machine.execStorePerform c k s
  | .tldwBlockWrite c k => Sys2Proof.Machine.execTldwBlockWrite c k s
  | .vectorResultWrite c => Sys2Proof.Machine.execVectorResultWrite c s
  | .routineStart c => Sys2Proof.Machine.execRoutineStart c s
  | .sequencerStep c => Sys2Proof.Machine.execSequencerStep c s
  | .routineEnd c => Sys2Proof.Machine.execRoutineEnd c s
  | .mzroWrite c => Sys2Proof.Machine.execMzroWrite c s
  | .barrierCompletion o => Sys2Proof.Machine.execBarrierCompletion o s
  | .memberResume c => Sys2Proof.Machine.execMemberResume c s
  | .staleReclaim sl => Sys2Proof.Machine.execStaleReclaim sl s
  | .latchArrival c k => Sys2Proof.Machine.execLatchArrival c k s
  | .cellStamp c k => Sys2Proof.Machine.execCellStamp c k s
  | .channelEntryMove g ch cl => Sys2Proof.Machine.execChannelEntryMove g ch cl s
  | .conflictEntryConfirm c ok => Sys2Proof.Machine.execConflictEntryConfirm c ok s
  | .conflictSpill sl n => Sys2Proof.Machine.execConflictSpill sl n s
  | .supervisorResume c => Sys2Proof.Machine.execSupervisorResume c s
  | .endTeam t cause => Sys2Proof.Machine.execEndTeam t cause s
  | .coldtxtService c frame ok => Sys2Proof.Machine.execColdtxtService c frame ok s
  | .memue c mem a => Sys2Proof.Machine.execMemue c mem a s
  | .frameRetire a frame clean => Sys2Proof.Machine.execFrameRetire a frame clean s
  | .yieldRequest t dl => Sys2Proof.Machine.execYieldRequest t dl s
  | .yieldDeadlineExpiry t => Sys2Proof.Machine.execYieldDeadlineExpiry t s
  | .preEmption t => Sys2Proof.Machine.execPreEmption t s
  | .swapIn t => Sys2Proof.Machine.execSwapIn t s
  | .residency t => Sys2Proof.Machine.execResidency t s
  | .quantumExpiry t => Sys2Proof.Machine.execQuantumExpiry t s
  | .parkReclaim t => Sys2Proof.Machine.execParkReclaim t s
  | .teamCompletion t => Sys2Proof.Machine.execTeamCompletion t s
  | .instantClose g => Sys2Proof.Machine.execInstantClose g s
  | .kernelBoundary g => Sys2Proof.Machine.execKernelBoundary g s
  | .commandArrival q ws => Sys2Proof.Machine.execCommandArrival q ws s
  | .launch q => Sys2Proof.Machine.execLaunch q s
  | .copy q => Sys2Proof.Machine.execCopy q s
  | .signal q => Sys2Proof.Machine.execSignal q s
  | .wait q => Sys2Proof.Machine.execWait q s
  | .loadFolio q => Sys2Proof.Machine.execLoadFolio q s
  | .unloadFolio q => Sys2Proof.Machine.execUnloadFolio q s
  | .powerCap q => Sys2Proof.Machine.execPowerCap q s
  | .queryIdentity q => Sys2Proof.Machine.execQueryIdentity q s
  | .queryQueueState q => Sys2Proof.Machine.execQueryQueueState q s
  | .queryCounts q => Sys2Proof.Machine.execQueryCounts q s
  | .commandCompletion q => Sys2Proof.Machine.execCommandCompletion q s
  | .copyQueueServe k => Sys2Proof.Machine.execCopyQueueServe k s
  | .nodeOperandArrival k => Sys2Proof.Machine.execNodeOperandArrival k s
  | .rootDelivery inst round => Sys2Proof.Machine.execRootDelivery inst round s
  | .cancelRequest inst round => Sys2Proof.Machine.execCancelRequest inst round s
  | .collectivePacket ws v => Sys2Proof.Machine.execCollectivePacket ws v s
  | .windowSample cl => Sys2Proof.Machine.execWindowSample cl s
  | .hostWriteCompletion c k => Sys2Proof.Machine.execHostWriteCompletion c k s
  | .pageInvalidation ctx va lvl pte => Sys2Proof.Machine.execPageInvalidation ctx va lvl pte s
  | .regionInstall a ws => Sys2Proof.Machine.execRegionInstall a ws s
  | .formatRegionWrite mc n ws => Sys2Proof.Machine.execFormatRegionWrite mc n ws s
  | .sidebandRead off n => Sys2Proof.Machine.execSidebandRead off n s
  | .uetRmaAccess ctx k va data => Sys2Proof.Machine.execUetRmaAccess ctx k va data s
  | .portDown p => Sys2Proof.Machine.execPortDown p s
  | .portUp p => Sys2Proof.Machine.execPortUp p s
  | .queueConfiguration q prio ctx rcb en => Sys2Proof.Machine.execQueueConfiguration q prio ctx rcb en s
  | .contextDescriptorWrite ctx x => Sys2Proof.Machine.execContextDescriptorWrite ctx x s
  | .copyResumption c id => Sys2Proof.Machine.execCopyResumption c id s
  | .supervisorTrapEntry c => Sys2Proof.Machine.execSupervisorTrapEntry c s
  | .atomicPerform c k => Sys2Proof.Machine.execAtomicPerform c k s
  | .illegalOpcode h w => Sys2Proof.Machine.execIllegalOpcode h w s
  | .sensorPoll => Sys2Proof.Machine.execSensorPoll s
  | .dispatchStep => Sys2Proof.Machine.execDispatchStep s
  | .coldStart => Sys2Proof.Machine.execColdStart s
  | .warmStart => Sys2Proof.Machine.execWarmStart s

end Sys2Proof.Machine
end

