-- ==== Sys2Proof/Machine/Schedule.lean ====
section
/-! DEFINITION. What the machine does next (log 1, 2): one issue, one cycle, one tick, one entry of the agenda, or where
the agenda is empty the default policy; and how a word is placed where the machine fetches (log 4). -/
namespace Sys2Proof.Machine

/-- A machine after an outcome. -/
def andThen (o : Host.Outcome State Fault Refusal) (f : State → Host.Outcome State Fault Refusal) : Host.Outcome State Fault Refusal :=
  match o with
  | .next s => f s
  | .fault e => .fault e
  | .refused r => .refused r

/-- The bundle at a core's program counter, at its first issue, holds one operation and nothing re-issues beside it: a
plain header with that one word, or a header without words while one slot re-issues (R73, R77). -/
def State.soleInstr (s : State) (c : Nat) : Option Instr :=
  let k := s.core c
  let again := slots.filter fun x => k.word x.ix != 0
  match s.fetchBundle c k.ctl.pc with
  | .error _ => none
  | .ok b =>
    if b.hdr.kind = 0 ∧ b.hdr.rep = 0 ∧ k.ctl.rep = 0 then
      match b.words, again with
      | [(x, w, _)], [] =>
        match decodeSlot x w with
        | .ok i => some i
        | .error _ => none
      | [], [x] => some (.stickyReissue x)
      | _, _ => none
    else none
/-- The core whose turn it is makes its issue (R77). -/
def State.issueAlone (s : State) : Host.Outcome State Fault Refusal :=
  match s.soleInstr s.turn with
  | some i => exec i s
  | none => .next (s.issueBundle s.turn)
/-- In a gang, an issue that traps stops every member, and those that fault in the same cycle record their own traps (R237). -/
def State.issueTurn (s : State) : Host.Outcome State Fault Refusal :=
  if (s.teamOf s.turn).gang ≤ 1 || (newTrap s (s.issueBundle s.turn) s.turn).isNone then s.issueAlone
  else .next (s.inGang s.turn State.issueBundle)

/-- The cores of a cluster that have a part in its cycle, in order: a team holds them, or one has left them after an issue in this
cycle (R18). -/
def State.heldIn (s : State) (cl : Nat) : List Nat :=
  (s.cores.filter fun e => (e.2.ctl.mode != .idle || e.2.ctl.did == 1) && clusterOf e.1 == cl).map Prod.fst
/-- Cores that a team holds, in order. -/
def State.heldCores (s : State) : List Nat := (s.cores.filter fun e => e.2.ctl.mode != .idle).map Prod.fst
/-- How the cycle of a core that has made no issue in it counts: it waits, or another member of its gang stalls (R186, R359). -/
def State.idleCode (s : State) (c : Nat) : Nat :=
  let k := s.core c
  if k.ctl.did ≠ 0 then k.ctl.did
  else
    match k.ctl.wait with
    | some w => w.code
    | none => if s.atIssue c && decide (1 < (s.teamOf c).gang) && (s.gangOf c).any fun m => m != c && s.stallsGang m then 5 else 0
/-- CYC counts this cycle of a core: its team is resident, and it is not stopped, has not ended and is in no trap entry, or it has
issued (R359). -/
def State.counted (s : State) (c : Nat) : Bool :=
  let k := s.core c
  k.ctl.did == 1 || ((s.teamOf c).isResident && k.ctl.did != 9 && match k.ctl.mode with | .run => true | .yielded => true | _ => false)
/-- What STL counts of such a cycle: scoreboard, wait, full queue, gang, interlock, limit of a count (R359, R360). -/
def stalls (did : Nat) : Bool := [2, 3, 4, 5, 6, 8, 10].contains did
/-- A matrix routine of a core runs in this cycle: it does not stand at a BNDY step while its team leaves (R165, R242, R361). -/
def State.routineRuns (s : State) (c : Nat) : Bool :=
  match (s.core c).mx.run with
  | some r => !(r.bndy && (s.teamOf c).leaving)
  | none => false
/-- The counters of a core at the end of a cycle; `runs`: a matrix routine of it runs (R359, R361, R362). -/
def Core.countCycle (counted runs : Bool) (k : Core) : Core :=
  let d := k.ctl.did
  let is := fun (l : List Nat) => if counted && l.contains d then 1 else 0
  let k := if counted then (k.setCsr csrCYC (k.csr csrCYC + 1)).perf 1 1 else k
  let k := if counted && stalls d then k.setCsr csrSTL (k.csr csrSTL + 1) else k
  ((((k.perf 4 (is [2])).perf 5 (is [3, 8])).perf 6 (is [4])).perf 10 (if runs then 1 else 0)).addEvents
/-- Micro-TLB misses and second bank accesses are the part's own: free values, where a counter selects them (R361; log 16). -/
def State.timingEvents (s : State) (c : Nat) : State :=
  let ev := (s.core c).ctl.pmev
  if (List.range 4).any fun i => bits ev (8 * i + 7) (8 * i) == 8 || bits ev (8 * i + 7) (8 * i) == 9 then
    let (w, s) := s.takeFree
    s.onCore c fun k => (k.perf 8 (w.toNat / 2)).perf 9 (w.toNat % 2)
  else s
/-- The classes of a cluster's core-cycles (R363). -/
def State.classify (s : State) (cl : Nat) : State :=
  let i := ((s.heldIn cl).filter fun c => (s.core c).ctl.did == 1).length
  let t := ((s.heldIn cl).filter fun c => s.counted c && stalls (s.core c).ctl.did).length
  s.onCluster cl fun x => { x with issuing := x.issuing + i, stalled := x.stalled + t, idle := x.idle + (64 - i - t) }
/-- The clock of a core's gang passes to its next value: no member stalls, none has still to make an issue that is due, and the
team is not leaving (R19, R186, R242). -/
def State.gangMoves (s : State) (c : Nat) : Bool :=
  !(s.teamOf c).leaving && (s.gangOf c).all fun m => !s.stallsGang m && !(s.gangDue m && (s.core m).ctl.did == 0)
/-- A core goes on to its next cycle: `moves`, with its gang's clock; the cycles after a taken transfer pass with that (R120). -/
def Core.nextCycle (moves : Bool) (k : Core) : Core :=
  { k.engineTakes with ctl := { k.engineTakes.ctl with
    did := 0, stall := k.ctl.stall - (if moves then 1 else 0), gclock := k.ctl.gclock + (if moves && k.ctl.gpos == 0 then 1 else 0) } }
/-- The turn is nobody's: no cluster is in its cycle. -/
def noTurn : Nat := 1040
/-- A cycle of a cluster ends: its cores are counted, and the part of a tick that it took is added (R6, R307, R359, R363; log 1). -/
def State.cycleEnds (s : State) (cl : Nat) : State :=
  let cs := s.heldIn cl
  let marks := cs.map fun c => (c, s.idleCode c, decide ((s.teamOf c).gang ≤ 1) || s.gangMoves c)
  let s := marks.foldl (fun (s : State) m => s.markHeld m.1 m.2.1) s
  let s := cs.foldl State.timingEvents (s.classify cl)
  let s := marks.foldl (fun (s : State) m => s.onCore m.1 fun k => (k.countCycle (s.counted m.1) (s.routineRuns m.1)).nextCycle m.2.2) s
  let s := (s.channels.filter fun e => e.2.home == cl && !e.2.fresh.isEmpty).foldl (fun (s : State) e =>
    s.onChannel e.1 fun ch => { ch with fresh := [] }) s
  { s.onCluster cl fun x => { x with cycle := x.cycle + 1, frac := x.frac + 1000 } with turn := noTurn }
/-- The turn goes to the next core of the cluster that a team holds, and behind the last one to the end of its cycle. -/
def State.passTurn (s : State) : State :=
  { s with turn := ((s.heldIn (s.turn / 64)).find? fun c => decide (s.turn < c)).getD (1024 + s.turn / 64) }
/-- The cluster whose cycle is next: of those that have one left in this tick, the one that is least far in it, the lowest number
among equals (R6; log 1). -/
def State.nextCluster (s : State) : Option Nat :=
  ((List.range 16).filter fun cl => decide ((s.cluster cl).frac < (s.cluster cl).freq)).foldl (fun best cl =>
    match best with
    | none => some cl
    | some b => if (s.cluster cl).frac * (s.cluster b).freq < (s.cluster b).frac * (s.cluster cl).freq then some cl else some b) none
/-- A cluster begins a cycle. -/
def State.beginCycle (s : State) (cl : Nat) : State := { s with turn := (s.heldIn cl).headD (1024 + cl) }

/-- Events one after the other. -/
def runEvents : List Instr → State → Host.Outcome State Fault Refusal
  | [], s => .next s
  | i :: is, s => andThen (exec i s) (runEvents is)
/-- What happens by itself at a time-base value (R292, R363, R377). -/
def timedEvents (now : Nat) : List Instr :=
  (if now % 100000 = 0 then [.sensorPoll] else []) ++ (if now % 64 = 0 then [.dispatchStep] else []) ++
  (if now % 10000 = 0 then (List.range 16).map Instr.windowSample else [])
/-- Copies that are incomplete as the time base reaches their promise (R176). -/
def Core.promisesPass (now : Nat) (k : Core) : Core :=
  if k.copies.isEmpty then k
  else
    { k with copies := k.copies.map fun x =>
        if !x.complete && !x.taken && x.stopped.isNone && decide (x.promise ≤ now) then { x with late := true } else x }
/-- One tick of the time base (R6, R34, R176, R355). -/
def State.tick (s : State) : Host.Outcome State Fault Refusal :=
  let older := fun (x : Team) => if x.isResident then { x with since := x.since + 1, residentTicks := x.residentTicks + 1 } else x
  let s := { s with now := s.now + 1, teams := s.teams.map fun (e : Nat × Team) => (e.1, older e.2) }
  let s := { s with cores := s.cores.map fun (e : Nat × Core) => (e.1, if (s.teamOf e.1).isResident then e.2.promisesPass s.now else e.2) }
  runEvents (timedEvents s.now) s.wakeParked

/-- What a core's engines can do next. -/
def flightEvent (c : Nat) (f : Flight) : Instr :=
  match f.what with
  | .load _ _ => .loadDataArrival c f.id
  | .atomic _ _ _ => .atomicPerform c f.id
  | .store _ _ _ _ => if f.live then .storePerform c f.id else .hostWriteCompletion c f.id
  | .tldw _ _ => .tldwBlockWrite c f.id
  | .cell _ _ _ _ _ => .cellStamp c f.id
  | .ltin _ => .latchArrival c f.id
  | _ => .vectorResultWrite c
def copyEvents (c : Nat) (x : Copy) : List Instr := [.copyResumption c x.id, .copyCompletion c x.id, .copyFault c x.id]
def matrixEvents (c : Nat) (m : Mx) : List Instr :=
  match m.run with
  | some r => if r.ended then [.routineEnd c] else [.sequencerStep c]
  | none => if m.queue.isEmpty then [] else [.mzroWrite c, .routineStart c]
def waitEvents (c : Nat) : List Instr := [.memberResume c, .waitResolve c]
def State.engineEvents (s : State) (c : Nat) : List Instr :=
  let k := s.core c
  List.flatten [k.flights.map (flightEvent c), k.copies.flatMap (copyEvents c), matrixEvents c k.mx, [Instr.promise c],
    if k.ctl.wait.isSome then waitEvents c else []]
/-- What the supervisor does for a core that stands stopped (R235, R246, R266, R281; log 14). -/
def State.serviceEvents (s : State) (c : Nat) : List Instr :=
  match s.isStopped c, (s.core c).ctl.supervisor with
  | true, some t =>
    (if t.cause = cCTFULL then [.conflictSpill (t.frs.getD 1 0).toNat 64]
     else if t.cause = cCOLDTXT then [.coldtxtService c s.topFrame true]
     else if t.cause = cMEMUE ∧ t.frs.getD 1 0 = 3 then [.frameRetire (t.frs.getD 0 0).toNat s.topFrame false]
     else []) ++
    (if s.handlerTakes c t.cause then [.supervisorTrapEntry c] else []) ++ [.endTeam (s.core c).ctl.team t.cause]
  | _, _ => []
/-- A copy that has stopped for good ends the team of a core that will take no trap (R175, R235). -/
def State.strandedCopies (s : State) (c : Nat) : List Instr :=
  if (s.core c).ctl.mode == .ended then
    (s.core c).copies.filterMap fun x => x.fault.map fun f => .endTeam (s.core c).ctl.team f.1
  else []
/-- What can happen to a team. -/
def State.teamEvents (s : State) (t : Nat) : List Instr :=
  [.teamCompletion t, .preEmption t] ++
  (match (s.team t).yreq with | some dl => if dl < s.now then [.yieldDeadlineExpiry t] else [] | none => [])
/-- What a running command does next. -/
def State.commandEvents (s : State) (q : Nat) : List Instr :=
  match (s.queue q).run with
  | none => []
  | some r =>
    (match cmdOp r.words with
     | 1 => [.launch q]
     | 2 => [.copy q]
     | 3 => [.signal q]
     | 4 => [.wait q]
     | 5 => [.loadFolio q, .unloadFolio q]
     | 6 => [.powerCap q]
     | _ => [.queryIdentity q, .queryQueueState q, .queryCounts q]) ++ [.commandCompletion q]
/-- What a reduction, a grid and a cluster can do next. -/
def reductionEvents (key : Nat) (r : Reduction) : List Instr := r.rounds.flatMap fun d => [Instr.rootDelivery key d.1, .cancelRequest key d.1]
def gridEvents (g : Nat) (x : Grid) : List Instr := if x.posts.isEmpty then [.kernelBoundary g] else [.instantClose g, .kernelBoundary g]
def clusterEvents (cl : Nat) (x : Cluster) : List Instr :=
  if x.grants.isEmpty && x.change.isNone && x.held.isNone then []
  else [.grantStep cl, .voltageStep cl, .frequencyStep cl, .heldRequestStart cl]
def State.staleSlices (s : State) : List Nat := ((s.granules.filter fun e => s.staleEntry e.2 && !e.2.spilled).map fun e => s.homeSlice (e.1 * 64)).eraseDups
/-- Deadlines are tested at the end of a cluster's cycle (R183). -/
def State.deadlineEvents (s : State) : List Instr :=
  if 1024 ≤ s.turn then
    ((s.heldIn (s.turn - 1024)).filter fun c => (s.core c).ctl.wait.isSome).flatMap fun c => [.markerDeadlineExpiry c, .deadlineExpiry c]
  else []
/-- What is due at the present time-base value and has not happened at it: a start sets it to a value without a tick (R292, R377). -/
def State.valueEvents (s : State) : List Instr :=
  (if s.now % 100000 = 0 ∧ s.polled ≠ some s.now then [.sensorPoll] else []) ++
  (if s.now % 64 = 0 ∧ s.stepped ≠ some s.now then [.dispatchStep] else [])
/-- Everything that the policy tries between two issues, in its order. -/
def State.candidates (s : State) : List Instr :=
  let cs := s.heldCores
  List.flatten [s.valueEvents, cs.flatMap s.engineEvents, s.barriers.map fun b => Instr.barrierCompletion b.1, s.clusters.flatMap fun e => clusterEvents e.1 e.2,
    (List.range s.packets.length).map Instr.nodeOperandArrival, s.reductions.flatMap fun r => reductionEvents r.1 r.2,
    (List.range s.copyqs.length).map Instr.copyQueueServe, s.staleSlices.map Instr.staleReclaim, cs.flatMap s.serviceEvents,
    cs.flatMap s.strandedCopies, s.teams.flatMap fun e => s.teamEvents e.1, s.teams.map fun e => Instr.parkReclaim e.1,
    s.teams.map fun e => Instr.quantumExpiry e.1,
    (match s.nextResident with | some t => [Instr.residency t, Instr.swapIn t] | none => []),
    s.grids.flatMap fun e => gridEvents e.1 e.2, s.queues.flatMap fun e => s.commandEvents e.1, s.deadlineEvents]
/-- An event that changes the machine. -/
def State.tryEvent (s : State) (i : Instr) : Option (Host.Outcome State Fault Refusal) :=
  match exec i s with
  | .next t => if t = s then none else some (.next t)
  | o => some o
/-- The first thing that the engines, the supervisor or the dispatcher can do; after a trip there is none (R378). -/
def State.ownEvent (s : State) : Option (Host.Outcome State Fault Refusal) :=
  if s.tripped then none else s.candidates.findSome? s.tryEvent
/-- The default policy: what can happen by itself happens, a tick passes when every cluster's cycles in it have, and the cores of
the cluster that is in its cycle issue in turn (log 1, 2). -/
def State.policy (s : State) : Host.Outcome State Fault Refusal :=
  match s.ownEvent with
  | some o => o
  | none =>
    if s.turn < 1024 then
      if s.mayIssue s.turn then andThen s.issueTurn fun t => .next t.passTurn else .next s.passTurn
    else if s.turn < noTurn then .next (s.cycleEnds (s.turn - 1024))
    else
      match s.nextCluster with
      | some cl => .next (s.beginCycle cl)
      | none => ((List.range 16).foldl (fun (s : State) cl => s.onCluster cl fun x => { x with frac := x.frac - x.freq }) s).tick
/-- The agenda may let a core issue: no core of a higher number of its cluster has issued in this cycle (R275; log 2). -/
def State.inOrder (s : State) (c : Nat) : Bool := !((s.heldIn (clusterOf c)).any fun d => decide (c < d) && (s.core d).ctl.did == 1)
/-- A row of the table that is an issue: bundles are fetched (R74, R77), so that no entry of the agenda makes one of it. -/
def isIssue (i : Instr) : Bool :=
  (encode i).isSome || match i with | .stickyReissue _ => true | .illegalOpcode _ _ => true | _ => false
/-- An entry of the agenda. -/
def State.perform (a : Act) (s : State) : Host.Outcome State Fault Refusal :=
  match a with
  | .issue c => let s := { s with turn := c }; if s.mayIssue c && s.inOrder c then s.issueTurn else .next s
  | .event i => if isIssue i then .next s else exec i s
  | .tick 0 => .next s
  | .tick 1 => s.tick
  | .tick (n + 2) => { s with agenda := .tick (n + 1) :: s.agenda }.tick
  | .cycle cl => .next (s.cycleEnds cl)
  | .engineBusy c e n => .next (s.onCore c fun k => { k with engBusy := k.engBusy.put 0 e n })
  | .hostWrite a bs => .next (s.hostStore a bs)
  | .pin sl n => .next (s.pinSlice sl n)
  | .sliceEvict g => .next { s with hostLines := assocDel s.hostLines g }
  | .dataAttr chk => .next { s with dataChk := chk }
  | .coldEvict ctx va => .next (s.evictCold ctx va)
  | .readings l => .next { s with readings := l }
  | .startInput k t => .next { s with startFail := k, trained := t }
  | .flash key l => .next { s with firmwareKey := key, flash := l }
  | .corrected c src a b y => .next (s.onCore c (Core.correct src a b y))
  | .parityError c tbl i => .next (s.parityError c tbl i)
  | .badAccess c m a x => let s := { s with turn := c }; .next (if s.mayIssue c && s.inOrder c then s.inGang c (fun s c => s.badIssue c m a x) else s)
/-- One step of the machine (log 2). -/
def State.advance (s : State) : Host.Outcome State Fault Refusal :=
  match s.agenda with
  | a :: r => State.perform a { s with agenda := r }
  | [] => s.policy

/-- Where a placed word's bundle stands, and the tables that map the first 64 GiB of HBM to themselves (log 4). -/
def placedPc : Nat := 0x10000
def placedRoot : Nat := 0x20000
def placedTable : Nat := 0x30000
/-- A level-1 entry that maps 64 GiB at address 0 for every access (R336, R337). -/
def placedLeaf : Nat := 2 ^ 63 + 2 ^ 62 + 2 ^ 39 + 2 ^ 38 + 2 ^ 37
/-- Core 0 stands resident in a team of its own at a bundle of the one operation word `w` in slot `x`, and issues next
(log 4). -/
def State.withText (s : State) (x : Slot) (w : Word) : State :=
  let s := { s with agenda := [.issue 0], tripped := false, contexts := s.contexts.put 0 0 (wordN (2 ^ 63 + placedRoot)) }
  let s := s.onGrid 0 fun g => { g with alive := true, ctx := 0 }
  let s := s.onTeam 0 fun t => { t with mode := .resident, grid := 0, size := 1, gang := 1, cluster := 0, base := 0, leaving := false }
  let s := s.onCore 0 fun k =>
    let k := launchViews.foldl (fun k v => k.setCsr v.1 v.2) k
    { k with regs := { k.regs with rw := [], rc := [] },
             ctl := { k.ctl with mode := .run, team := 0, pos := 0, gpos := 0, pc := placedPc, rep := 0, dmask := 0, wait := none,
                                 owed := [], stall := 0, did := 0 } }
  let h : Header := { kind := 0, mask := 2 ^ x.maskBit, rep := 0, sig := 0 }
  let text := cellsOf placedPc 8 h.word.toNat ++ cellsOf (placedPc + 8) 8 w.toNat
  let tables := cellsOf placedRoot 8 (2 ^ 63 + placedTable / 65536) ++ cellsOf placedTable 8 placedLeaf
  { s with mem := Memory.writeCells s.mem (text ++ tables) }
/-- A table word stands where the machine fetches next. -/
def State.placeWord (s : State) (nbits w : Nat) : State :=
  let w' := if nbits < 64 then w % 2 ^ nbits else w % 2 ^ 64
  s.withText (tableSlot w') (BitVec.ofNat 64 w')

end Sys2Proof.Machine
end

