-- ==== Sys2Proof/Machine/Step.lean ====
section
/-! DEFINITION. One step of the machine, and the placing of a word where the next step fetches. -/
namespace Sys2Proof.Machine

/-- One step: the head of the agenda, or what the default policy does (log 2). -/
def step (s : State) : Host.Outcome State Fault Refusal := s.advance
/-- `s` with an operation word of the opcode table placed as the only word of the bundle that the next step issues (log 4). -/
def State.withFetchWord (s : State) (nbits w : Nat) : State := s.placeWord nbits w

end Sys2Proof.Machine
end

