-- ==== Sys2Proof/Safety.lean ====
section
/-! DEFINITION. The terms in which claims are made: when an instruction alone in its bundle passes the steps of R97, and what
a step leaves as it was. -/
namespace Sys2Proof.Machine

/-- The machine after what precedes an issue of the core whose turn it is: results that are due have landed (R112). -/
def State.landed (s : State) : State := (s.beforeIssue s.turn).2
/-- The native bundle of one operation at the program counter of the core whose turn it is. -/
def State.soleFrame (s : State) : Frame := { h := (s.landed.core s.turn).ctl.pc, len := 16 }
/-- The operation `i` as the slot of such a bundle issues it. -/
def State.soleOp (s : State) (i : Instr) (x : Slot) (w : Word) : SlotOp :=
  slotOpOf i x w (slotOp i) ((s.landed.core s.turn).ctl.pc + 8)
/-- The machine in which the steps of R97 are taken: where the operation names a channel's head, its stale cells are gone
(R310). -/
def State.prepared (s : State) (i : Instr) : State :=
  match encode i with
  | none => s
  | some (x, w) => s.landed.freshenOps s.turn [s.soleOp i x w]
/-- The core whose turn it is stands at an issue, and `i`, alone in its bundle, passes the steps of R97 before execution:
no trap is owed, nothing holds it, its fields and slot are right, its clocks agree and the activity budget suffices. -/
def State.passes (s : State) (i : Instr) : Bool :=
  match encode i with
  | none => false
  | some (x, w) =>
    s.atIssue s.turn && (s.beforeIssue s.turn).1.isNone && s.landed.heldBy s.turn [s.soleOp i x w] == 0 &&
    ((s.prepared i).checkSteps s.turn s.soleFrame [s.soleOp i x w]).isNone
/-- The guard clock of `i` is present and its stage predicate holds (R16). -/
def State.guards (s : State) (i : Instr) : Bool :=
  match encode i with
  | none => false
  | some (x, w) => (s.soleOp i x w).live ((s.prepared i).core s.turn)
/-- `i` passes the steps before execution and executes. -/
def State.clears (s : State) (i : Instr) : Bool := s.passes i && s.guards i

/-- What an operation alone in its bundle does at the commit: latch loads, its own effects, and the heads it consumes. -/
def State.soleOut (s : State) (i : Instr) (x : Slot) (w : Word) (o : Out) : Out :=
  let l := latchLoads (s.soleOp i x w) ((s.soleOp i x w).vals (s.prepared i) s.turn)
  { o with effs := l ++ o.effs ++ (headsRead (s.prepared i) s.turn [s.soleOp i x w]).map fun key => Eff.consume key ((s.prepared i).channel key).rs }

/-- A core but for the log and the clock of its gang's bundles, which the core at position 0 keeps for all (R19, R20). -/
def Core.unlogged (k : Core) : Core := { k with ctl := { k.ctl with glog := [], gclock := 0, gsave := 0 } }
/-- Only core c of the machine has changed, but for the log and the clock of its gang's bundles. -/
structure OnlyCore (c : Nat) (s t : State) : Prop where
  rest : t = { s with cores := t.cores }
  others : ∀ d, d ≠ c → (t.core d).unlogged = (s.core d).unlogged
/-- A core but for its copies and the views of its scratchpad that they write through. -/
def Core.uncopied (k : Core) : Core :=
  { k.unlogged with copies := [], ctl := { k.unlogged.ctl with writtenLin := [], writtenSwz := [] } }
/-- The sources of `i`, alone in its bundle, as they read at its issue; that all of them can be read; the value of one; and
the channels whose heads they name. -/
def State.sources (s : State) (i : Instr) : List SrcVal :=
  match encode i with
  | none => []
  | some (x, w) => (s.soleOp i x w).vals (s.prepared i) s.turn
def State.readable (s : State) (i : Instr) : Bool := (s.sources i).all fun v => v.err.isNone
def State.source (s : State) (i : Instr) (n : Nat) : Nat := vval (s.sources i) n
def State.headsOf (s : State) (i : Instr) : List Nat :=
  match encode i with
  | none => []
  | some (x, w) => headsRead (s.prepared i) s.turn [s.soleOp i x w]
/-- The guard clock of an instruction (R84). -/
def guardOf (i : Instr) : Nat :=
  match encode i with
  | none => 31
  | some (_, w) => bits w.toNat 55 51
/-- The core whose turn it is, as the steps of R97 find it. -/
def State.issuer (s : State) (i : Instr) : Core := (s.prepared i).core s.turn

/-- No copy of any core is still to write memory. -/
def State.copiesDone (s : State) : Prop := ∀ e ∈ s.cores, ∀ x ∈ e.2.copies, x.complete = true
/-- The machine `u` that an issue of core c from `s` has come to, with what its checks entered in conflict records confirmed, as
at a commit (R275). -/
def State.confirmed (s : State) (c : Nat) (u : State) : State := u.onRecords (changedRecords s.records u.records) (Record.confirm c)

/-- The core stands at the bundle behind the one of 16 bytes that it has issued, and does not wait. -/
structure MovedOn (k k' : Core) : Prop where
  pc : k'.ctl.pc = k.ctl.pc + 16
  rep : k'.ctl.rep = 0
  wait : k'.ctl.wait = none
  mode : k'.ctl.mode = k.ctl.mode
/-- Of core k everything is in k' as it was, but for the register file of scalar registers with their tags, the input
latches, the operations in flight, what this cycle adds to the performance counters, and the place in the program. -/
structure CoreKept (k k' : Core) : Prop where
  csr : ∀ n, k'.csr n = k.csr n
  rs : k'.regs.rs = k.regs.rs
  gtag : k'.regs.gtag = k.regs.gtag
  cells : k'.regs.cells = k.regs.cells
  clocks : k'.regs.clocks = k.regs.clocks
  mx : k'.mx = k.mx
  l1 : k'.l1 = k.l1
  wbuf : k'.wbuf = k.wbuf
  copies : k'.copies = k.copies
  team : k'.ctl.team = k.ctl.team
  owed : k'.ctl.owed = k.ctl.owed
  level : k'.ctl.level = k.ctl.level
/-- The same, but for the control registers that `p` names as well. -/
structure CoreKeptBut (p : Nat → Prop) (k k' : Core) : Prop where
  csr : ∀ n, ¬p n → k'.csr n = k.csr n
  rs : k'.regs.rs = k.regs.rs
  gtag : k'.regs.gtag = k.regs.gtag
  cells : k'.regs.cells = k.regs.cells
  clocks : k'.regs.clocks = k.regs.clocks
  mx : k'.mx = k.mx
  l1 : k'.l1 = k.l1
  wbuf : k'.wbuf = k.wbuf
  copies : k'.copies = k.copies
  team : k'.ctl.team = k.ctl.team
  owed : k'.ctl.owed = k.ctl.owed
/-- Every scalar register but those of `ds`, and its tag, is as it was. -/
def ScalarKept (ds : List Nat) (k k' : Core) : Prop := ∀ n, n ∉ ds → k'.sreg n = k.sreg n ∧ k'.stag n = k.stag n
/-- Register d holds x with clock tag g; s0 reads zero with tag k31 whatever is written to it (R113, R220). -/
def Holds (k : Core) (d : Nat) (x : Word) (g : Nat) : Prop :=
  if d = 0 then k.sreg 0 = 0 ∧ k.stag 0 = 31 else k.sreg d = x ∧ k.stag d = g

end Sys2Proof.Machine
end

