-- ==== Sys2Proof/Certificates/Slice0/Obligations.lean ====
section
/-! DEFINITION. The statements for the provers: what the spec's rules say of the machine, each an `Obligations.<Name>`. -/
namespace Sys2Proof.Claims
open Sys2Proof.Machine

/-- An operation of one scalar result that is readable at once: register d takes v of the core's registers, with the guard
as its tag, and nothing else of the machine changes. -/
def GivesScalar (i : Instr) (d : BitVec 6) (v : Core → Word) : Prop :=
  ∀ s, s.clears i = true → ∃ t, exec i s = .next t ∧ OnlyCore s.turn (s.prepared i) t ∧
    CoreKept (s.issuer i) (t.core s.turn) ∧ MovedOn (s.issuer i) (t.core s.turn) ∧
    ScalarKept [d.toNat] (s.issuer i) (t.core s.turn) ∧ Holds (t.core s.turn) d.toNat (v (s.issuer i)) (guardOf i)
/-- Register forms of three registers, and immediate forms. -/
def Alu (mk : Head → SR → Instr) (v : Word → Word → Word → Word) : Prop :=
  ∀ h f, GivesScalar (mk h f) f.sd fun k => v (k.sreg f.sa.toNat) (k.sreg f.sb.toNat) (k.sreg f.sc.toNat)
def AluImm (mk : Head → SI → Instr) (v : Word → BitVec 32 → Word) : Prop :=
  ∀ h f, GivesScalar (mk h f) f.sd fun k => v (k.sreg f.sa.toNat) f.imm
/-- An operation of a longer latency: its result is in flight, due `lat` cycles after the issue. -/
def AluLater (mk : Head → SR → Instr) (lat : Nat) (v : Word → Word → Word) : Prop :=
  ∀ h f s, s.clears (mk h f) = true → ∃ t, exec (mk h f) s = .next t ∧ OnlyCore s.turn (s.prepared (mk h f)) t ∧
    CoreKept (s.issuer (mk h f)) (t.core s.turn) ∧ MovedOn (s.issuer (mk h f)) (t.core s.turn) ∧
    ScalarKept [] (s.issuer (mk h f)) (t.core s.turn) ∧
    (t.core s.turn).flights = (s.issuer (mk h f)).flights ++
      [{ id := (s.issuer (mk h f)).ctl.seq, guard := guardOf (mk h f),
         what := .sres f.sd.toNat (v ((s.issuer (mk h f)).sreg f.sa.toNat) ((s.issuer (mk h f)).sreg f.sb.toNat))
           ((s.prepared (mk h f)).cycleOf s.turn + lat) }]
/-- A signed word as an integer, and a Boolean as a word. -/
def int (x : Word) : Int := x.toInt
def flag (p : Prop) [Decidable p] : Word := if p then 1 else 0

end Sys2Proof.Claims
open Sys2Proof Sys2Proof.Machine Sys2Proof.Claims

/-- R113-R115: the operations of the register and immediate tables that are readable at once. -/
def Obligations.ScalarResults : Prop :=
  Alu .add (fun a b _ => a + b) ∧ Alu .sub (fun a b _ => a - b) ∧ Alu .and (fun a b _ => a &&& b) ∧ Alu .or (fun a b _ => a ||| b) ∧
  Alu .xor (fun a b _ => a ^^^ b) ∧ Alu .andn (fun a b _ => a &&& ~~~b) ∧
  Alu .shl (fun a b _ => a <<< (b.toNat % 64)) ∧ Alu .shr (fun a b _ => a >>> (b.toNat % 64)) ∧
  Alu .sra (fun a b _ => BitVec.ofInt 64 (int a / 2 ^ (b.toNat % 64))) ∧
  Alu .min (fun a b _ => if int a ≤ int b then a else b) ∧ Alu .max (fun a b _ => if int a ≤ int b then b else a) ∧
  Alu .minn (fun a b _ => if a.toNat ≤ b.toNat then a else b) ∧ Alu .maxn (fun a b _ => if a.toNat ≤ b.toNat then b else a) ∧
  Alu .seq (fun a b _ => flag (a = b)) ∧ Alu .sne (fun a b _ => flag (a ≠ b)) ∧
  Alu .slt (fun a b _ => flag (int a < int b)) ∧ Alu .sltn (fun a b _ => flag (a.toNat < b.toNat)) ∧
  Alu .sel (fun a b c => if a = 0 then c else b) ∧
  Alu .clz (fun a _ _ => BitVec.ofNat 64 (if a = 0 then 64 else 63 - Nat.log2 a.toNat)) ∧
  Alu .popc (fun a _ _ => BitVec.ofNat 64 ((List.range 64).countP fun j => a.getLsbD j)) ∧
  AluImm .addi (fun a x => a + x.signExtend 64) ∧ AluImm .andi (fun a x => a &&& x.signExtend 64) ∧
  AluImm .ori (fun a x => a ||| x.zeroExtend 64) ∧ AluImm .xori (fun a x => a ^^^ x.zeroExtend 64) ∧
  AluImm .shli (fun a x => a <<< (x.toNat % 64)) ∧ AluImm .shri (fun a x => a >>> (x.toNat % 64)) ∧
  AluImm .srai (fun a x => BitVec.ofInt 64 (int a / 2 ^ (x.toNat % 64))) ∧
  AluImm .slti (fun a x => flag (int a < x.toInt)) ∧ AluImm .sltni (fun a x => flag (a.toNat < x.toNat)) ∧
  AluImm .li (fun _ x => x.signExtend 64) ∧ AluImm .lih (fun a x => BitVec.ofNat 64 (x.toNat * 2 ^ 32 + a.toNat % 2 ^ 32)) ∧
  AluImm .addx (fun a x => (a + x.signExtend 64) &&& 0x00FFFFFFFFFFFFFF)

/-- R114, R47: multiplication is readable three cycles after its issue and division twenty; a divisor of zero gives all
ones and the dividend. -/
def Obligations.LongResults : Prop :=
  AluLater .mul 3 (fun a b => a * b) ∧
  AluLater .mulh 3 (fun a b => BitVec.ofInt 64 (int a * int b / 2 ^ 64)) ∧
  AluLater .mulhn 3 (fun a b => BitVec.ofNat 64 (a.toNat * b.toNat / 2 ^ 64)) ∧
  AluLater .div 20 (fun a b => if b = 0 then BitVec.allOnes 64 else BitVec.ofInt 64 ((int a).tdiv (int b))) ∧
  AluLater .divn 20 (fun a b => if b = 0 then BitVec.allOnes 64 else BitVec.ofNat 64 (a.toNat / b.toNat)) ∧
  AluLater .rem 20 (fun a b => if b = 0 then a else BitVec.ofInt 64 ((int a).tmod (int b))) ∧
  AluLater .remn 20 (fun a b => if b = 0 then a else BitVec.ofNat 64 (a.toNat % b.toNat))

namespace Sys2Proof.Claims

/-- The slot bit of an instruction in FMASK (R233). -/
def slotBit (i : Instr) : Nat :=
  match encode i with
  | none => 0
  | some (x, _) => 2 ^ x.maskBit
/-- `i`, alone in its bundle, faults in the execution step with a cause and detail words (R97, R232-R234). -/
def Traps (i : Instr) (s : State) (cause : Nat) (frs : List Word) : Prop :=
  exec i s = .next ((s.prepared i).faultIssue s.turn s.soleFrame { cause := cause, step := 6, fmask := slotBit i, frs := frs })
/-- Only core c has changed, but for the claims of the conflict checker, the free-value counter and the log of its gang. -/
structure OnlyCoreAndClaims (c : Nat) (s t : State) : Prop where
  rest : t = { s with cores := t.cores, granules := t.granules, handoffs := t.handoffs, records := t.records, freeCtr := t.freeCtr }
  others : ∀ d, d ≠ c → (t.core d).unlogged = (s.core d).unlogged
/-- The address of `LDS` and `STS` at a first issue (R116). -/
def scalarEa (k : Core) (base : BitVec 6) (f : SI) : Nat := (k.sreg base.toNat + f.imm.signExtend 64).toNat
/-- Size code and bytes of `LDS` and `STS` (R116). -/
def sizeCode (f : SI) : Nat := f.fn.toNat / 4 % 4
def sizeBytes (f : SI) : Nat := 2 ^ sizeCode f
/-- The value that `LDS` delivers from n loaded bytes: sign-extended or zero-extended (R116). -/
def extended (f : SI) (v : Nat) : Word :=
  if f.fn.toNat / 2 % 2 = 1 then BitVec.ofInt 64 (sextN v (8 * sizeBytes f)) else BitVec.ofNat 64 v
/-- The core holds its own scratchpad at a physical address (R117, R249). -/
def allLocal (c : Nat) (ps : List (Nat × Nat × Page)) : Prop := ∀ q ∈ ps, isLocal c (servedPa c q.2.2) = true

end Sys2Proof.Claims

/-- R112, R81: a scalar result that is due lands in its register with its guard as the tag; one that is not due stays in
flight, and one that a later write has replaced is discarded. -/
def Sys2Proof.Claims.ScalarResultLands : Prop :=
  ∀ (k : Core) (f : Flight) (d : Nat) (x : Word) (due n : Nat), k.flights = [f] → f.what = .sres d x due →
    (n < due → k.landDue n false = k) ∧
    (due ≤ n → f.live = true → Holds (k.landDue n false) d x f.guard ∧ ScalarKept [d] k (k.landDue n false) ∧
      (k.landDue n false).flights = [] ∧ CoreKept k (k.landDue n false)) ∧
    (due ≤ n → f.live = false → k.landDue n false = { k with flights := [] })

/-- R119: `NOP` in any slot, whatever its guard, only moves the core on. R118: `MPW` writes a matrix parameter. R132: `CHK`
of equal values does nothing, and of others traps DUPMIS with both. -/
def Obligations.NopMpwChk : Prop :=
  (∀ x r s, s.passes (.nop x r) = true → ∃ t, exec (.nop x r) s = .next t ∧ OnlyCore s.turn (s.prepared (.nop x r)) t ∧
    CoreKept (s.issuer (.nop x r)) (t.core s.turn) ∧ MovedOn (s.issuer (.nop x r)) (t.core s.turn) ∧
    ScalarKept [] (s.issuer (.nop x r)) (t.core s.turn) ∧ (t.core s.turn).flights = (s.issuer (.nop x r)).flights) ∧
  (∀ h f s, s.clears (.mpw h f) = true → ∃ t, exec (.mpw h f) s = .next t ∧ OnlyCore s.turn (s.prepared (.mpw h f)) t ∧
    CoreKeptBut (· = csrMP + f.sd.toNat) (s.issuer (.mpw h f)) (t.core s.turn) ∧ MovedOn (s.issuer (.mpw h f)) (t.core s.turn) ∧
    ScalarKept [] (s.issuer (.mpw h f)) (t.core s.turn) ∧
    (t.core s.turn).mp f.sd.toNat = (s.issuer (.mpw h f)).sreg f.sa.toNat) ∧
  (∀ h f s, s.clears (.chk h f) = true →
    let k := s.issuer (.chk h f)
    (k.sreg f.sa.toNat = k.sreg f.sb.toNat → ∃ t, exec (.chk h f) s = .next t ∧ OnlyCore s.turn (s.prepared (.chk h f)) t ∧
      CoreKept k (t.core s.turn) ∧ MovedOn k (t.core s.turn) ∧ ScalarKept [] k (t.core s.turn)) ∧
    (k.sreg f.sa.toNat ≠ k.sreg f.sb.toNat →
      Traps (.chk h f) s cDUPMIS [0, k.sreg f.sa.toNat, k.sreg f.sb.toNat]))

/-- R116, R117: `LDS` from the core's own scratchpad delivers the bytes at once, extended as its field says; from elsewhere
the value is in flight and a load is outstanding (R360). `v.2` is the machine in which the load has read: on an unchecked page
outstanding copies may have gone on (R169), and where none is outstanding nothing but the core and the checker's claims has
changed. That the value is fixed at the issue is the model's reading (log 5). -/
def Sys2Proof.Claims.ScalarLoads : Prop :=
  ∀ h f s ps s2, s.clears (.lds h f) = true →
    let c := s.turn
    let k := s.issuer (.lds h f)
    let ea := scalarEa k f.sa f
    let n := sizeBytes f
    ea % n = 0 → (s.prepared (.lds h f)).reach c ea n .read (sizeCode f) .read = .ok (ps, s2) →
    let v := s2.loadValue c ea n ps false false
    (allLocal c ps → ∃ t, exec (.lds h f) s = .next t ∧ OnlyCore c ((s.prepared (.lds h f)).confirmed c v.2) t ∧ CoreKept (v.2.core c) (t.core c) ∧
      MovedOn k (t.core c) ∧ ScalarKept [f.sd.toNat] k (t.core c) ∧
      Holds (t.core c) f.sd.toNat (extended f v.1) (guardOf (.lds h f)) ∧
      (s.copiesDone → OnlyCoreAndClaims c (s.prepared (.lds h f)) t ∧ CoreKept k (t.core c))) ∧
    (¬allLocal c ps → k.out 0 < 256 → ∃ t, exec (.lds h f) s = .next t ∧ OnlyCore c ((s.prepared (.lds h f)).confirmed c v.2) t ∧
      MovedOn k (t.core c) ∧ ScalarKept [] k (t.core c) ∧ (t.core c).out 0 = k.out 0 + 1 ∧
      (t.core c).flights = k.flights ++
        [{ id := k.ctl.seq, guard := guardOf (.lds h f), what := .load (.sreg f.sd.toNat) (extended f v.1).toNat,
           src := ps.map fun q => (servedPa c q.2.2, q.2.1, q.1 - ea) }])

/-- R117, R4, R249: what a load of the core's own scratchpad reads: the bytes that stand there, the lowest address first,
through either view, as long as the core has not written them through the other view and no copy still writes memory. -/
def Sys2Proof.Claims.LocalLoadReadsBytes : Prop :=
  ∀ (s : State) (c va n : Nat) (p : Page) (by_ na swz : Bool) (o : Nat),
    placeOf (servedPa c p) = some (.spad c swz, o) →
    (s.core c).ctl.writtenLin = [] → (s.core c).ctl.writtenSwz = [] → s.copiesDone →
    (∀ j, j < n → (placeOf (servedPa c p + j)).isSome = true) →
    s.loadValue c va n [(va, n, p)] by_ na =
      ((List.range n).foldl (fun v j => v + (Memory.byte s.mem ((placeOf (servedPa c p + j)).getD (.hbm, 0)).2).toNat * 256 ^ j) 0, s)
/-- R116, R117: `LDS`, and the bytes that a local load reads. -/
def Obligations.Loads : Prop := ScalarLoads ∧ LocalLoadReadsBytes

namespace Sys2Proof.Claims

/-- Memory `m'` is memory `m` with cells written one after the other: the last one at an address stays. -/
def WritesCells (m m' : List Host.Cell) (cs : List (Nat × Byte)) : Prop :=
  ∀ a, Memory.byte m' a = match cs.reverse.find? fun q => q.1 == a with
    | some q => q.2
    | none => Memory.byte m a
/-- m bytes of a page that a store reaches without a first-level line: memory that the core does not cache, or a scratchpad
through the view that `sw` names. -/
def Straight (sw : Bool) (pa m : Nat) (p : Page) : Prop :=
  (p.home ≠ 0 ∨ p.alloc ≠ 2) ∧ ∃ pl, (pl = .hbm ∨ pl = .host ∨ pl = .pinned ∨ ∃ d, pl = .spad d sw) ∧
    ∀ j, j < m → ∃ o, placeOf (pa + j) = some (pl, o)
/-- The core has written its scratchpad through neither view since the last join, and holds no first-level line (R252). -/
def Unmarked (k : Core) : Prop := k.ctl.writtenLin = [] ∧ k.ctl.writtenSwz = [] ∧ k.l1 = []
/-- A page of HBM that the core caches at first level, written back or through as `wt` says (R253, R337). -/
def CachedHbm (wt : Bool) (pa n : Nat) (p : Page) : Prop :=
  p.home = 0 ∧ p.alloc = 2 ∧ p.wt = wt ∧ p.pa < 4 * dieBytes ∧ 0 < n ∧ pa % 128 + n ≤ 128 ∧ pa + n ≤ 4 * dieBytes
/-- The first-level line of `pa` holds n bytes `v` from `pa` on, dirty ones if `d`; its other bytes, and which of them are dirty, are as
they were, and those of a line that was not there are as in memory `m` and clean (R253). -/
def LineHolds (m : List Host.Cell) (k k' : Core) (pa n : Nat) (d : Bool) (v : Nat → Byte) : Prop :=
  ∃ x, l1Find k'.l1 (pa / 128) = some x ∧ ∀ i < 128,
    let old := l1Find k.l1 (pa / 128)
    let was := match old with | some y => (byteOf y.data.toNat i, bit y.dirty i) | none => (Memory.byte m (pa / 128 * 128 + i), false)
    if pa % 128 ≤ i ∧ i < pa % 128 + n then byteOf x.data.toNat i = v (i - pa % 128) ∧ bit x.dirty i = (d || was.2)
    else byteOf x.data.toNat i = was.1 ∧ bit x.dirty i = was.2
/-- The first-level lines that a line at `pa` displaces from its set of four: none if it is there or the set has room, and else the
line of lowest EVP that was used least recently (R253). -/
def displaced (k : Core) (pa : Nat) : Option L1Line :=
  let set := k.l1.filter fun x => x.pa / 128 % 128 == pa / 128 % 128
  if (l1Find k.l1 (pa / 128)).isSome ∨ set.length < 4 then none
  else (set.filter fun x => set.all fun y => decide (x.evp ≤ y.evp)).getLast?
/-- The core caches lines of HBM only. -/
def HbmLines (k : Core) : Prop := ∀ x ∈ k.l1, x.pa + 128 ≤ 4 * dieBytes ∧ x.evp ≤ 3
/-- A store of n bytes `v` to a page that the core caches: written back, the bytes stand dirty in the first-level line, of memory nothing
changes but the dirty bytes of a line that is displaced, and a load of the core reads the bytes back; written through, they stand in
memory, and in the line if that was there (R169, R253). -/
def CachedStore (s t : State) (c : Nat) (k : Core) (p : Page) (n : Nat) (v : Nat) : Prop :=
  let pa := servedPa c p
  let new := fun (j : Nat) => BitVec.ofNat 8 (v / 256 ^ j)
  (CachedHbm false pa n p → HbmLines k →
    LineHolds s.mem k (t.core c) pa n true new ∧ (t.pageRead c p false false n).1 = v % 256 ^ n ∧
    match displaced k pa with
    | none => (∀ a, Memory.byte t.mem a = Memory.byte s.mem a) ∧ ∀ x ∈ k.l1, x.pa / 128 ≠ pa / 128 → x ∈ (t.core c).l1
    | some y => WritesCells s.mem t.mem y.dirtyCells ∧ ∀ x ∈ k.l1, x.pa ≠ y.pa → x ∈ (t.core c).l1) ∧
  (CachedHbm true pa n p →
    WritesCells s.mem t.mem ((List.range n).map fun j => (pa + j, new j)) ∧
    ((l1Find k.l1 (pa / 128)).isSome = true → LineHolds s.mem k (t.core c) pa n false new) ∧
    ((l1Find k.l1 (pa / 128)).isSome = false → (t.core c).l1 = k.l1))

end Sys2Proof.Claims

/-- R116, R117, R249: `STS` to the core's own scratchpad writes the low bytes of the register, the lowest first, through
either view, and no other byte of memory. -/
def Sys2Proof.Claims.LocalStores : Prop :=
  ∀ h f s p s2 swz o, s.clears (.sts h f) = true →
    let c := s.turn
    let k := s.issuer (.sts h f)
    let ea := scalarEa k f.sa f
    let n := sizeBytes f
    let pa := servedPa c p
    ea % n = 0 → (s.prepared (.sts h f)).reach c ea n .write (sizeCode f) .write = .ok ([(ea, n, p)], s2) →
    placeOf pa = some (.spad c swz, o) → pa % 16 + n ≤ 16 → k.ctl.writtenLin = [] → k.ctl.writtenSwz = [] →
    (∀ j, j < n → (placeOf (pa + j)).isSome = true) →
    ∃ t, exec (.sts h f) s = .next t ∧ MovedOn k (t.core c) ∧ ScalarKept [] k (t.core c) ∧
      (∀ m, (t.core c).csr m = k.csr m) ∧ (∀ d, d ≠ c → (t.core d).unlogged = (s.landed.core d).unlogged) ∧
      (∀ j, j < n → Memory.byte t.mem ((placeOf (pa + j)).getD (.hbm, 0)).2 = BitVec.ofNat 8 ((k.sreg f.sd.toNat).toNat / 256 ^ j)) ∧
      (∀ a, (∀ j, j < n → ((placeOf (pa + j)).getD (.hbm, 0)).2 ≠ a) → Memory.byte t.mem a = Memory.byte (s.prepared (.sts h f)).mem a)

/-- R169, R253, R360: `STS` to HBM that the core does not cache goes to its home at once, as one store in flight. That it
reaches its home at the commit is the model's choice (log 5). -/
def Sys2Proof.Claims.HomeStores : Prop :=
  ∀ h f s p s2, s.clears (.sts h f) = true →
    let c := s.turn
    let k := s.issuer (.sts h f)
    let ea := scalarEa k f.sa f
    let n := sizeBytes f
    let pa := servedPa c p
    ea % n = 0 → (s.prepared (.sts h f)).reach c ea n .write (sizeCode f) .write = .ok ([(ea, n, p)], s2) →
    pa % n = 0 → pa + n ≤ 4 * dieBytes → p.pa < 4 * dieBytes → (p.home ≠ 0 ∨ p.alloc ≠ 2) → k.l1 = [] → k.out 1 < 256 →
    ∃ t, exec (.sts h f) s = .next t ∧ MovedOn k (t.core c) ∧ ScalarKept [] k (t.core c) ∧
      (t.core c).out 1 = k.out 1 + 1 ∧ (∀ d, d ≠ c → (t.core d).unlogged = (s.landed.core d).unlogged) ∧
      (t.core c).flights = k.flights ++
        [{ id := k.ctl.seq, guard := guardOf (.sts h f),
           what := .store [pa / 128] false (match p.latch with | some l => [clusterOf c * 256 + l] | none => []) false }] ∧
      (∀ j, j < n → Memory.byte t.mem (pa + j) = BitVec.ofNat 8 ((k.sreg f.sd.toNat).toNat / 256 ^ j)) ∧
      (∀ a, a < pa ∨ pa + n ≤ a → Memory.byte t.mem a = Memory.byte (s.prepared (.sts h f)).mem a)
/-- R116, R117, R169, R253: `STS` through a page of HBM that the core caches at first level: its line takes the bytes, and one store is
in flight. -/
def Sys2Proof.Claims.CachedStores : Prop :=
  ∀ h f s p s2 wt, s.clears (.sts h f) = true →
    let c := s.turn
    let k := s.issuer (.sts h f)
    let ea := scalarEa k f.sa f
    let n := sizeBytes f
    ea % n = 0 → (s.prepared (.sts h f)).reach c ea n .write (sizeCode f) .write = .ok ([(ea, n, p)], s2) →
    CachedHbm wt (servedPa c p) n p → k.out 1 < 256 →
    ∃ t, exec (.sts h f) s = .next t ∧ MovedOn k (t.core c) ∧ ScalarKept [] k (t.core c) ∧
      (t.core c).out 1 = k.out 1 + 1 ∧ (∀ d, d ≠ c → (t.core d).unlogged = (s.landed.core d).unlogged) ∧
      (t.core c).flights = k.flights ++
        [{ id := k.ctl.seq, guard := guardOf (.sts h f),
           what := .store [servedPa c p / 128] false (match p.latch with | some l => [clusterOf c * 256 + l] | none => []) false }] ∧
      CachedStore (s.prepared (.sts h f)) t c k p n (k.sreg f.sd.toNat).toNat
/-- R117, R249, R253: `STS` to storage that the core reaches without a first-level line: HBM, host memory, pinned storage of a slice, or a
scratchpad, of another core too. The bytes stand there, the lowest address first, and no other byte of memory changes; a store outside the
core's own scratchpad is in flight. That it reaches its home at the commit is the model's choice (log 5). -/
def Sys2Proof.Claims.StraightStores : Prop :=
  ∀ h f s p s2 sw, s.clears (.sts h f) = true →
    let c := s.turn
    let k := s.issuer (.sts h f)
    let ea := scalarEa k f.sa f
    let n := sizeBytes f
    let pa := servedPa c p
    ea % n = 0 → (s.prepared (.sts h f)).reach c ea n .write (sizeCode f) .write = .ok ([(ea, n, p)], s2) →
    Straight sw pa n p → Unmarked k → k.out 1 < 256 →
    ∃ t, exec (.sts h f) s = .next t ∧ MovedOn k (t.core c) ∧ ScalarKept [] k (t.core c) ∧
      (∀ d, d ≠ c → (t.core d).unlogged = (s.landed.core d).unlogged) ∧
      (t.core c).out 1 = k.out 1 + (if isLocal c pa then 0 else 1) ∧ (isLocal c pa = true → (t.core c).flights = k.flights) ∧
      WritesCells (s.prepared (.sts h f)).mem t.mem ((List.range n).map fun j =>
        (((placeOf (pa + j)).getD (.hbm, 0)).2, BitVec.ofNat 8 ((k.sreg f.sd.toNat).toNat / 256 ^ j)))
/-- R116, R117, R169, R249, R253: `STS` to the core's own scratchpad, to HBM that the core does not cache and that it caches, to host
memory and to another core's scratchpad. -/
def Obligations.Stores : Prop := LocalStores ∧ HomeStores ∧ CachedStores ∧ StraightStores

/-- R250: granule g of a scratchpad stands in row g div 48; its linear view names bank g mod 48 of the row and its swizzled view
bank (g mod 48 + 5 r) mod 48; linear bank b of row r is swizzled index (b − 5 r) mod 48; row 0 is the same in both; and a
scratchpad has 393,216 bytes. -/
def Obligations.ScratchpadViews : Prop :=
  ∀ c o, c < 1024 → o < 0x80000 →
    let r := o / 16 / 48
    let i := o / 16 % 48
    let cell := fun (b : Nat) => spadBase c + (r * 48 + b) * 16 + o % 16
    (o < 393216 → r < 512 ∧
      placeOf (spadBase c + o) = some (.spad c false, cell i) ∧
      placeOf (spadBase c + 0x20000000 + o) = some (.spad c true, cell ((i + 5 * r) % 48)) ∧
      placeOf (spadBase c + 0x20000000 + ((r * 48 + (((i : Int) - 5 * r) % 48).toNat) * 16 + o % 16)) = some (.spad c true, cell i) ∧
      (r = 0 → cell ((i + 5 * r) % 48) = cell i) ∧
      ∀ o' < 393216, placeOf (spadBase c + 0x20000000 + o') = placeOf (spadBase c + 0x20000000 + o) → o' = o) ∧
    (393216 ≤ o → placeOf (spadBase c + o) = none ∧ placeOf (spadBase c + 0x20000000 + o) = none)

namespace Sys2Proof.Claims

/-- The atomics of R210 with their opcodes; `red`: a reduction atomic of R276; `ret`: one that returns the old value. `s3` is
the machine in which it reads: on an unchecked page outstanding copies may have gone on (R169). -/
def Atomic (mk : Head → SR → Instr) (opc : Nat) (red ret three : Bool) : Prop :=
  ∀ h f s p s2, s.clears (mk h f) = true →
    let i := mk h f
    let c := s.turn
    let k := s.issuer i
    let ea := (k.sreg f.sa.toNat).toNat
    let sz := f.fn.toNat % 4
    let w := 2 ^ sz
    let pa := servedPa c p
    ea % w = 0 → (s.prepared i).reach c ea w .atomic sz (if red then .red opc (f.fn.toNat / 4 % 8) sz else .write) = .ok ([(ea, w, p)], s2) →
    let s3 := if p.chk then s2 else s2.copyMix c ea w
    let old := s3.homeRead pa w
    let new := atomicValue opc w old (k.sreg f.sb.toNat).toNat (if three then (k.sreg f.sc.toNat).toNat else 0)
    pa % w = 0 → pa + w ≤ 4 * dieBytes → k.l1 = [] → k.out 3 < 64 →
    ∃ t, exec i s = .next t ∧ MovedOn k (t.core c) ∧ ScalarKept [] k (t.core c) ∧
      (∀ d, d ≠ c → (t.core d).unlogged = (s3.core d).unlogged) ∧
      (∀ j, j < w → Memory.byte t.mem (pa + j) = BitVec.ofNat 8 (new / 256 ^ j)) ∧
      (∀ a, a < pa ∨ pa + w ≤ a → Memory.byte t.mem a = Memory.byte s3.mem a) ∧
      (s.copiesDone → s3 = s2 ∧ s2.mem = (s.prepared i).mem ∧ ∀ d, d ≠ c → s2.core d = s.landed.core d) ∧
      (t.core c).out 3 = k.out 3 + 1 ∧ (ret = true → (t.core c).txp = true) ∧ (ret = false → (t.core c).txp = k.txp) ∧
      (t.core c).flights = k.flights ++
        [{ id := k.ctl.seq, guard := guardOf i,
           what := .atomic (if ret then .sreg f.sd.toNat else .none) (wordN old) (f.fn.toNat / 32) }]

end Sys2Proof.Claims

/-- R210, R211: an atomic on HBM reads and writes its word in one step; the old value of a returning one is in flight. That
this step is the atomic's issue is the model's choice (log 5). -/
def Sys2Proof.Claims.Atomics : Prop :=
  Atomic .aadd 0x70 true false false ∧ Atomic .amin 0x71 true false false ∧ Atomic .amax 0x72 true false false ∧
  Atomic .aand 0x73 true false false ∧ Atomic .aor 0x74 true false false ∧ Atomic .axor 0x75 true false false ∧
  Atomic .aaddr 0x76 false true false ∧ Atomic .axch 0x77 false true false ∧ Atomic .acas 0x78 false true true

/-- R210: what each atomic makes of the old value and its operands, in words of w bytes. -/
def Sys2Proof.Claims.AtomicValues : Prop :=
  ∀ w old b cmp, (w = 4 ∨ w = 8) → old < 256 ^ w → b < 2 ^ 64 → cmp < 2 ^ 64 →
    let m := 256 ^ w
    let x := b % m
    atomicValue 0x70 w old b cmp = (old + b) % m ∧ atomicValue 0x76 w old b cmp = (old + b) % m ∧
    atomicValue 0x73 w old b cmp = old &&& x ∧ atomicValue 0x74 w old b cmp = old ||| x ∧ atomicValue 0x75 w old b cmp = old ^^^ x ∧
    atomicValue 0x77 w old b cmp = x ∧ (atomicValue 0x78 w old b cmp = if old = cmp % m then x else old) ∧
    sextN (atomicValue 0x71 w old b cmp) (8 * w) = min (sextN old (8 * w)) (sextN b (8 * w)) ∧
    sextN (atomicValue 0x72 w old b cmp) (8 * w) = max (sextN old (8 * w)) (sextN b (8 * w)) ∧
    atomicValue 0x71 w old b cmp < m ∧ atomicValue 0x72 w old b cmp < m
/-- R210, R211: what each atomic does, and the values of them. -/
def Obligations.AtomicAccesses : Prop := Atomics ∧ AtomicValues

/-- R116, R211: an access that is not aligned to its size traps ALIGN with its address, kind and size (R210, R234). -/
def Obligations.MisalignedTraps : Prop :=
  (∀ h f s, s.clears (.lds h f) = true → scalarEa (s.issuer (.lds h f)) f.sa f % sizeBytes f ≠ 0 →
    Traps (.lds h f) s cALIGN [wordN (scalarEa (s.issuer (.lds h f)) f.sa f), wordN (1 + 256 * sizeCode f)]) ∧
  (∀ h f s, s.clears (.sts h f) = true → scalarEa (s.issuer (.sts h f)) f.sa f % sizeBytes f ≠ 0 →
    Traps (.sts h f) s cALIGN [wordN (scalarEa (s.issuer (.sts h f)) f.sa f), wordN (2 + 256 * sizeCode f)]) ∧
  (∀ mk ∈ [Instr.aadd, .amin, .amax, .aand, .aor, .axor, .aaddr, .axch, .acas], ∀ h f s, s.clears (mk h f) = true →
    ((s.issuer (mk h f)).sreg f.sa.toNat).toNat % 2 ^ (f.fn.toNat % 4) ≠ 0 →
    Traps (mk h f) s cALIGN [(s.issuer (mk h f)).sreg f.sa.toNat, wordN (3 + 256 * (f.fn.toNat % 4))])

namespace Sys2Proof.Claims

/-- A taken transfer of `i` to a target: the core stands at the target, its own cycle and two more are to pass before the next
issue (R120), and of the registers only what `link` says has changed. -/
def Goes (i : Instr) (s : State) (target : Nat) (link : Option Word) (p : Nat → Prop) : Prop :=
  ∃ t, exec i s = .next t ∧ OnlyCore s.turn (s.prepared i) t ∧ (t.core s.turn).ctl.pc = target ∧ (t.core s.turn).ctl.rep = 0 ∧
    (t.core s.turn).ctl.stall = 3 ∧ (t.core s.turn).ctl.mode = (s.issuer i).ctl.mode ∧
    CoreKeptBut p (s.issuer i) (t.core s.turn) ∧
    (match link with
     | none => ScalarKept [] (s.issuer i) (t.core s.turn)
     | some x => ScalarKept [63] (s.issuer i) (t.core s.turn) ∧ Holds (t.core s.turn) 63 x (guardOf i))
/-- The target's header is fetched and is of one of the kinds, with the signature where one is asked for (R75). -/
def Accepts (i : Instr) (s : State) (target : Nat) (kinds : List Nat) (sig : Option Nat) : Prop :=
  target % 8 = 0 ∧ ∃ w, (s.prepared i).fetchWord s.turn target = .ok w ∧ bits w.toNat 63 60 = 0xF ∧ bits w.toNat 59 56 ∈ kinds ∧
    (sig = none ∨ sig = some (bits w.toNat 31 0))
/-- The target of a direct transfer: the header's address plus eight times the immediate (R89). -/
def aheadTarget (i : Instr) (s : State) (f : BR) : Nat :=
  (BitVec.ofInt 64 ((s.issuer i).ctl.pc + f.imm.toInt * 8)).toNat
/-- The target of `CALL`: 64-byte units from the header's address rounded down (R89). -/
def padTarget (i : Instr) (s : State) (f : BR) : Nat :=
  (BitVec.ofInt 64 (((s.issuer i).ctl.pc / 64 * 64 : Nat) + (f.sa ++ f.cc ++ f.ex : BitVec 16).toInt * 64)).toNat
/-- The gang lets the transfer pass: no other member has issued this bundle before, as none has of a core that has no gang (R19,
R125). -/
def leads (i : Instr) (s : State) : Prop := (s.prepared i).gangEntry s.turn (s.issuer i).ctl.issued = none
/-- The condition of `BR` by its code (R89). -/
def Condition (cc : BitVec 3) (a : Int) : Prop :=
  match cc.toNat with
  | 0 => a = 0 | 1 => a ≠ 0 | 2 => a < 0 | 3 => 0 ≤ a | 4 => a ≤ 0 | _ => 0 < a
/-- The control registers of the modulo loop (R123, R124). -/
def loopRegs (n : Nat) : Prop := n = csrLC ∨ n = csrPRD ∨ (csrB ≤ n ∧ n < csrB + 8)

end Sys2Proof.Claims

/-- R75, R89, R120, R121: the transfers, taken, to a target that accepts them. -/
def Sys2Proof.Claims.TransfersTaken : Prop :=
  (∀ h f s, s.clears (.br h f) = true → leads (.br h f) s → Condition f.cc (int ((s.issuer (.br h f)).sreg f.sa.toNat)) →
    Accepts (.br h f) s (aheadTarget (.br h f) s f) [0, 1, 2, 3, 4, 5] none →
    Goes (.br h f) s (aheadTarget (.br h f) s f) none fun _ => False) ∧
  (∀ h f s, s.clears (.jmp h f) = true → leads (.jmp h f) s → Accepts (.jmp h f) s (aheadTarget (.jmp h f) s f) [0, 1, 2, 3, 4, 5] none →
    Goes (.jmp h f) s (aheadTarget (.jmp h f) s f) none fun _ => False) ∧
  (∀ h f s, s.clears (.jmpr h f) = true → leads (.jmpr h f) s →
    Accepts (.jmpr h f) s ((s.issuer (.jmpr h f)).sreg f.sa.toNat).toNat [1] none →
    Goes (.jmpr h f) s ((s.issuer (.jmpr h f)).sreg f.sa.toNat).toNat none fun _ => False) ∧
  (∀ h f s, s.clears (.call h f) = true → leads (.call h f) s →
    Accepts (.call h f) s (padTarget (.call h f) s f) [2] (some f.imm.toNat) →
    Goes (.call h f) s (padTarget (.call h f) s f) (some (wordN ((s.issuer (.call h f)).ctl.pc + 16))) fun _ => False) ∧
  (∀ h f s, s.clears (.callr h f) = true → leads (.callr h f) s →
    Accepts (.callr h f) s ((s.issuer (.callr h f)).sreg f.sa.toNat).toNat [2] (some f.imm.toNat) →
    Goes (.callr h f) s ((s.issuer (.callr h f)).sreg f.sa.toNat).toNat (some (wordN ((s.issuer (.callr h f)).ctl.pc + 16)))
      fun _ => False) ∧
  (∀ h f s, s.clears (.ret h f) = true → leads (.ret h f) s → Accepts (.ret h f) s ((s.issuer (.ret h f)).sreg 63).toNat [3] none →
    Goes (.ret h f) s ((s.issuer (.ret h f)).sreg 63).toNat none fun _ => False)

/-- A target that is not accepted makes `i` trap CFI: with the target and the word that stands there, or, where it is no multiple
of 8, with a second word of 0, which is the model's reading (R75, R234; log 25). -/
def Sys2Proof.Claims.RefusesTarget (i : Instr) (s : State) (target : Nat) (kinds : List Nat) (sig : Option Nat) : Prop :=
  (target % 8 ≠ 0 → Traps i s cCFI [wordN target, 0]) ∧
  (target % 8 = 0 → ∀ w, (s.prepared i).fetchWord s.turn target = .ok w →
    ¬(bits w.toNat 63 60 = 0xF ∧ bits w.toNat 59 56 ∈ kinds ∧ (sig = none ∨ sig = some (bits w.toNat 31 0))) →
    Traps i s cCFI [wordN target, w])

/-- R121: `BR` whose condition does not hold goes on to the next bundle. R75: a target, direct or in a register, that is no
multiple of 8, is no header of an accepted kind, or carries another signature, traps CFI with the target and its word; the second
word of a target that is no multiple of 8 is the model's reading (log 25). -/
def Sys2Proof.Claims.TransfersRefused : Prop :=
  (∀ h f s, s.clears (.br h f) = true → leads (.br h f) s → ¬Condition f.cc (int ((s.issuer (.br h f)).sreg f.sa.toNat)) →
    ∃ t, exec (.br h f) s = .next t ∧ OnlyCore s.turn (s.prepared (.br h f)) t ∧ CoreKept (s.issuer (.br h f)) (t.core s.turn) ∧
      MovedOn (s.issuer (.br h f)) (t.core s.turn) ∧ ScalarKept [] (s.issuer (.br h f)) (t.core s.turn) ∧
      (t.core s.turn).ctl.stall = 0) ∧
  (∀ h f s, s.clears (.br h f) = true → Condition f.cc (int ((s.issuer (.br h f)).sreg f.sa.toNat)) →
    RefusesTarget (.br h f) s (aheadTarget (.br h f) s f) [0, 1, 2, 3, 4, 5] none) ∧
  (∀ h f s, s.clears (.jmp h f) = true → RefusesTarget (.jmp h f) s (aheadTarget (.jmp h f) s f) [0, 1, 2, 3, 4, 5] none) ∧
  (∀ h f s, s.clears (.loop h f) = true → 1 < (s.issuer (.loop h f)).csrBits csrLC 60 0 →
    RefusesTarget (.loop h f) s (aheadTarget (.loop h f) s f) [0, 1, 2, 3, 4, 5] none) ∧
  (∀ h f s, s.clears (.call h f) = true → RefusesTarget (.call h f) s (padTarget (.call h f) s f) [2] (some f.imm.toNat)) ∧
  (∀ h f s, s.clears (.jmpr h f) = true → RefusesTarget (.jmpr h f) s ((s.issuer (.jmpr h f)).sreg f.sa.toNat).toNat [1] none) ∧
  (∀ h f s, s.clears (.callr h f) = true →
    RefusesTarget (.callr h f) s ((s.issuer (.callr h f)).sreg f.sa.toNat).toNat [2] (some f.imm.toNat)) ∧
  (∀ h f s, s.clears (.ret h f) = true → RefusesTarget (.ret h f) s ((s.issuer (.ret h f)).sreg 63).toNat [3] none)
/-- R120, R121, R75: transfers of control, taken and refused. -/
def Obligations.Transfers : Prop := TransfersTaken ∧ TransfersRefused

/-- R123: `LPSET` loads the loop counter with its stages and the passes to run, and the stage predicates; the core goes on with
the body. A stage count of 0 is ILLOP. -/
def Obligations.LoopSetup : Prop :=
  (∀ h f s, s.clears (.lpset h f) = true →
    let k := s.issuer (.lpset h f)
    let n := (k.sreg f.sa.toNat).toNat
    let st := f.ex.toNat % 8
    ∃ t, exec (.lpset h f) s = .next t ∧ OnlyCore s.turn (s.prepared (.lpset h f)) t ∧ MovedOn k (t.core s.turn) ∧
      CoreKeptBut (fun m => m = csrLC ∨ m = csrPRD) k (t.core s.turn) ∧ ScalarKept [] k (t.core s.turn) ∧
      (t.core s.turn).csrBits csrLC 63 61 = st ∧ (t.core s.turn).csrBits csrLC 60 0 = (if n = 0 then 0 else min (n + st - 1) (2 ^ 61 - 1)) ∧
      ((t.core s.turn).pred 1 = true ↔ 0 < n) ∧ ∀ j, 2 ≤ j → j < 8 → (t.core s.turn).pred j = false) ∧
  (∀ (h : Head) (f : BR), f.ex.toNat % 8 = 0 → decodeSlot h.slot (h.pack 0x37 ++ f.pack) = .error .illop)

/-- R124: `LOOP` goes round while passes are left, rotating the bases and shifting the predicates, and falls through at the
last pass. -/
def Obligations.ModuloLoop : Prop :=
  (∀ h f s, s.clears (.loop h f) = true → leads (.loop h f) s →
    let k := s.issuer (.loop h f)
    let st := k.csrBits csrLC 63 61
    let p := k.csrBits csrLC 60 0
    (p ≤ 1 → ∃ t, exec (.loop h f) s = .next t ∧ OnlyCore s.turn (s.prepared (.loop h f)) t ∧ MovedOn k (t.core s.turn) ∧
      CoreKeptBut loopRegs k (t.core s.turn) ∧ ScalarKept [] k (t.core s.turn) ∧
      (t.core s.turn).csrBits csrLC 60 0 = 0 ∧ (t.core s.turn).csrBits csrLC 63 61 = st ∧ (t.core s.turn).csr csrPRD = 0 ∧
      ∀ j < 8, (t.core s.turn).csr (csrB + j) = k.csr (csrB + j)) ∧
    (1 < p → Accepts (.loop h f) s (aheadTarget (.loop h f) s f) [0, 1, 2, 3, 4, 5] none →
      Goes (.loop h f) s (aheadTarget (.loop h f) s f) none loopRegs ∧
      ∀ t, exec (.loop h f) s = .next t →
        (t.core s.turn).csrBits csrLC 60 0 = p - 1 ∧ (t.core s.turn).csrBits csrLC 63 61 = st ∧
        (∀ j < 8, (t.core s.turn).csr (csrB + j) = k.csr (csrB + (j + 7) % 8)) ∧
        (∀ j, 2 ≤ j → j < 8 → (t.core s.turn).pred j = bit (k.csr csrPRD).toNat (j - 1)) ∧
        ((t.core s.turn).pred 1 = true ↔ st < p)))

/-- R126, R127: `END` ends the core; `YLD` yields it where a yield is requested, and is no effect elsewhere. -/
def Obligations.EndAndYield : Prop :=
  (∀ h f s, s.clears (.endOp h f) = true → ∃ t, exec (.endOp h f) s = .next t ∧ OnlyCore s.turn (s.prepared (.endOp h f)) t ∧
    CoreKept (s.issuer (.endOp h f)) (t.core s.turn) ∧ ScalarKept [] (s.issuer (.endOp h f)) (t.core s.turn) ∧
    (t.core s.turn).ctl.mode = .ended) ∧
  (∀ h f s, s.clears (.yld h f) = true → ∃ t, exec (.yld h f) s = .next t ∧ OnlyCore s.turn (s.prepared (.yld h f)) t ∧
    CoreKept (s.issuer (.yld h f)) (t.core s.turn) ∧ ScalarKept [] (s.issuer (.yld h f)) (t.core s.turn) ∧
    (t.core s.turn).ctl.pc = (s.issuer (.yld h f)).ctl.pc + 16 ∧
    (t.core s.turn).ctl.mode =
      if bit ((s.issuer (.yld h f)).csr csrTSTAT).toNat 2 then .yielded else (s.issuer (.yld h f)).ctl.mode)

/-- R129, R133, R358: `CSRR` and `TBR` read a register and the time base; reading a cycle counter or the time base sets TXP. -/
def Obligations.RegisterReads : Prop :=
  (∀ h f s, s.clears (.csrr h f) = true →
    let k := s.issuer (.csrr h f)
    ∃ t, exec (.csrr h f) s = .next t ∧ OnlyCore s.turn (s.prepared (.csrr h f)) t ∧ CoreKeptBut (· = csrTSTAT) k (t.core s.turn) ∧
      MovedOn k (t.core s.turn) ∧ ScalarKept [f.sd.toNat] k (t.core s.turn) ∧
      Holds (t.core s.turn) f.sd.toNat
        (if f.csr = 0 then wordN s.turn
         else if f.csr = 0x100 then wordN (s.prepared (.csrr h f)).now
         else if 0x120 ≤ f.csr.toNat ∧ f.csr.toNat ≤ 0x127 then
           ((s.prepared (.csrr h f)).cluster (s.turn / 64)).srh.getD (f.csr.toNat - 0x120) 0
         else if f.csr = 0x128 then wordN ((s.prepared (.csrr h f)).cluster (s.turn / 64)).drpk
         else k.csr f.csr.toNat) (guardOf (.csrr h f)) ∧
      (t.core s.turn).csr csrTSTAT =
        if f.csr.toNat < 0x100 ∧ f.csr ≠ 0x0C0 ∨ f.csr = 0x118 then k.csr csrTSTAT else k.csr csrTSTAT ||| 1) ∧
  (∀ h f s, s.clears (.tbr h f) = true →
    let k := s.issuer (.tbr h f)
    ∃ t, exec (.tbr h f) s = .next t ∧ OnlyCore s.turn (s.prepared (.tbr h f)) t ∧ CoreKeptBut (· = csrTSTAT) k (t.core s.turn) ∧
      MovedOn k (t.core s.turn) ∧ ScalarKept [f.sd.toNat] k (t.core s.turn) ∧
      Holds (t.core s.turn) f.sd.toNat (wordN (s.prepared (.tbr h f)).now) (guardOf (.tbr h f)) ∧
      (t.core s.turn).csr csrTSTAT = k.csr csrTSTAT ||| 1)

namespace Sys2Proof.Claims

/-- A register that programs write plainly: of the read-write class, without a refused value and without a side effect of its
own (R128, R129, R227). -/
def plainRegister (n : Nat) : Bool :=
  csrClass n == .rw && n != csrTSTAT && n != csrPMEV && !(decide (0x060 ≤ n) && decide (n ≤ 0x09F))
/-- The value that a register write forms (R129). -/
def formed (k : CsrOp) (old x : Word) : Word :=
  match k with
  | .write => x
  | .set => old ||| x
  | .clear => old &&& ~~~x
def Writes (mk : Head → XF → Instr) (op : CsrOp) : Prop :=
  ∀ h f s, s.clears (mk h f) = true → plainRegister f.csr.toNat = true →
    let k := s.issuer (mk h f)
    ∃ t, exec (mk h f) s = .next t ∧ OnlyCore s.turn (s.prepared (mk h f)) t ∧ CoreKeptBut (· = f.csr.toNat) k (t.core s.turn) ∧
      MovedOn k (t.core s.turn) ∧ ScalarKept [] k (t.core s.turn) ∧
      (t.core s.turn).csr f.csr.toNat = formed op (k.csr f.csr.toNat) (k.sreg f.sa.toNat) &&& csrMask f.csr.toNat

end Sys2Proof.Claims

/-- R129, R7: `CSRW`, `CSRS` and `CSRC` write, set and clear bits of a register; its res-z bits stay zero. -/
def Sys2Proof.Claims.RegisterWrites : Prop := Writes .csrw .write ∧ Writes .csrs .set ∧ Writes .csrc .clear

/-- R128: a write of a read-only register, or of a handler register outside a handler, traps PERM. -/
def Sys2Proof.Claims.RegisterWriteRefused : Prop :=
  ∀ p ∈ [(Instr.csrw, CsrOp.write), (.csrs, .set), (.csrc, .clear)], ∀ h f s, s.clears (p.1 h f) = true →
    (csrClass f.csr.toNat = .ro ∨ csrClass f.csr.toNat = .ho ∧ (s.issuer (p.1 h f)).handler = false) →
    Traps (p.1 h f) s cPERM []
/-- R128, R129: writes of control registers, taken and refused. -/
def Obligations.ControlRegisterWrites : Prop := RegisterWrites ∧ RegisterWriteRefused

namespace Sys2Proof.Claims

/-- The core is alone in its gang. -/
def alone (s : State) (c : Nat) : Prop := (s.teamOf c).gang = 1 ∧ (s.core c).ctl.gpos = 0
/-- The fault record of R232-R234 and R236: the trapped bundle, the bundle that issues next, cause, FRM and the detail words. -/
structure Recorded (k : Core) (fra tepc cause frm : Nat) (frs : List Word) : Prop where
  fra : k.csr csrFRA = wordN (bits fra 55 3 * 8)
  tepc : k.csr csrTEPC = wordN (bits tepc 55 3 * 8)
  cause : k.csr csrTCAUSE = wordN cause
  frm : k.csr csrFRM = wordN frm
  frs : ∀ j < 8, k.csr (csrFRS + j) = frs.getD j 0
/-- FRM (R233): FMASK, DMASK, step and repetition index. -/
def frm (fmask dmask step rep : Nat) : Nat := (fmask % 64) * 2 ^ 21 + (dmask % 64) * 2 ^ 15 + (step % 8) * 2 ^ 12 + (rep % 64) * 2 ^ 6
/-- The registers that taking a trap writes. -/
def trapRegs (n : Nat) : Prop := n = csrTCAUSE ∨ n = csrTEPC ∨ n = csrFRA ∨ n = csrFRM ∨ (csrFRS ≤ n ∧ n < csrFRS + 8) ∨ n = csrTSTAT

end Sys2Proof.Claims

/-- R232-R236: taking a trap in a core alone in its gang. Outside a handler the fault record is written, the trapped bundle
standing as the one to issue next where the trap precedes it; then the core stops for the supervisor, or, where its domain
selects the handler, it goes to the handler's pad with its re-issue state saved. In a handler the core stops and its record
stays. -/
def Obligations.TrapEntry : Prop :=
  ∀ s c t fra tepc rep dmask, alone s c →
    let k := s.core c
    let u := s.takeTrap c t fra tepc rep dmask
    let k' := u.core c
    OnlyCore c s u ∧ CoreKeptBut trapRegs k k' ∧ ScalarKept [] k k' ∧
    (k.handler = true → k'.ctl.mode = .stopped ∧ k'.ctl.supervisor = some t ∧ k'.ctl.pc = k.ctl.pc ∧
      ∀ n, k'.csr n = k.csr n) ∧
    (k.handler = false → s.goesToHandler c t.cause = false →
      Recorded k' fra (if t.step = 0 then tepc else fra) t.cause (frm t.fmask dmask t.step rep) t.frs ∧
      k'.ctl.mode = .stopped ∧ k'.ctl.supervisor = some t ∧ k'.ctl.pc = k.ctl.pc ∧ k'.handler = false) ∧
    (k.handler = false → s.goesToHandler c t.cause = true →
      ∀ w, s.fetchWord c (bits (k.csr csrTVEC).toNat 55 3 * 8) = .ok w → bits w.toNat 63 60 = 0xF → bits w.toNat 59 56 = 5 →
      Recorded k' fra (if t.step = 0 then tepc else fra) t.cause (frm t.fmask dmask t.step rep) t.frs ∧
      k'.ctl.mode = .run ∧ k'.ctl.pc = bits (k.csr csrTVEC).toNat 55 3 * 8 ∧ k'.ctl.rep = 0 ∧ k'.handler = true ∧
      ∃ sh, k'.ctl.shadow = some sh ∧ sh.rw = k.regs.rw ∧ sh.rc = k.regs.rc ∧ sh.latch = k.regs.latch)

/-- R130: `TRAP` commits, and then the core takes SWTRAP with the code in FRS[0]; the bundle behind it is the one that issues
next. -/
def Sys2Proof.Claims.SoftwareTrap : Prop :=
  ∀ h f s, s.clears (.trap h f) = true → alone s.landed s.turn →
    let k := s.issuer (.trap h f)
    k.handler = false →
    ∃ t, exec (.trap h f) s = .next t ∧ OnlyCore s.turn (s.prepared (.trap h f)) t ∧ ScalarKept [] k (t.core s.turn) ∧
      CoreKeptBut trapRegs k (t.core s.turn) ∧
      ((s.prepared (.trap h f)).goesToHandler s.turn cSWTRAP = false →
        Recorded (t.core s.turn) k.ctl.pc (k.ctl.pc + 16) cSWTRAP 0 [wordN f.imm.toNat] ∧
        (t.core s.turn).ctl.mode = .stopped ∧ (t.core s.turn).ctl.pc = k.ctl.pc + 16) ∧
      ((s.prepared (.trap h f)).goesToHandler s.turn cSWTRAP = true →
        ∀ w, (s.prepared (.trap h f)).fetchWord s.turn (bits (k.csr csrTVEC).toNat 55 3 * 8) = .ok w →
          bits w.toNat 63 60 = 0xF → bits w.toNat 59 56 = 5 →
        Recorded (t.core s.turn) k.ctl.pc (k.ctl.pc + 16) cSWTRAP 0 [wordN f.imm.toNat] ∧
        (t.core s.turn).ctl.mode = k.ctl.mode ∧ (t.core s.turn).handler = true ∧
        (t.core s.turn).ctl.pc = bits (k.csr csrTVEC).toNat 55 3 * 8)

/-- R131, R239, R75: `ERET` in a handler resumes at TEPC, with the saved re-issue state, and at the saved repetition where the
trapped bundle issues again; a TEPC that holds no header traps CFI, and outside a handler it traps PERM. -/
def Sys2Proof.Claims.HandlerReturn : Prop :=
  ∀ h f s, s.clears (.eret h f) = true →
    let k := s.issuer (.eret h f)
    let tepc := bits (k.csr csrTEPC).toNat 55 3 * 8
    (k.handler = false → Traps (.eret h f) s cPERM []) ∧
    (k.handler = true → ∀ w, (s.prepared (.eret h f)).fetchWord s.turn tepc = .ok w →
      ¬(bits w.toNat 63 60 = 0xF ∧ bits w.toNat 59 56 ≤ 5) → Traps (.eret h f) s cCFI [wordN tepc, w]) ∧
    (k.handler = true → k.ctl.nested = none → Accepts (.eret h f) s tepc [0, 1, 2, 3, 4, 5] none → ∃ t, exec (.eret h f) s = .next t ∧ OnlyCore s.turn (s.prepared (.eret h f)) t ∧
      ScalarKept [] k (t.core s.turn) ∧ CoreKeptBut (· = csrTSTAT) k (t.core s.turn) ∧ (t.core s.turn).handler = false ∧
      (t.core s.turn).ctl.mode = (match k.ctl.shadow with | some sh => sh.later | none => k.ctl.later) ∧
      (t.core s.turn).ctl.pc = tepc ∧
      (t.core s.turn).ctl.rep = (if bits (k.csr csrTEPC).toNat 55 3 = bits (k.csr csrFRA).toNat 55 3 ∧ bits (k.csr csrFRM).toNat 14 12 ≠ 0
        then bits (k.csr csrFRM).toNat 11 6 else 0) ∧
      ∀ sh, k.ctl.shadow = some sh → (t.core s.turn).regs.rw = sh.rw ∧ (t.core s.turn).regs.rc = sh.rc ∧
        (t.core s.turn).regs.latch = sh.latch)
/-- R130, R131, R239: the software trap and the return from a handler. -/
def Obligations.TrapsAndReturns : Prop := SoftwareTrap ∧ HandlerReturn

namespace Sys2Proof.Claims

/-- What an operation on clocks or cells leaves of its core: control registers but those of `p`, the register space and the
scalar registers. -/
def RegsKept (p : Nat → Prop) (k k' : Core) : Prop :=
  (∀ n, ¬p n → k'.csr n = k.csr n) ∧ k'.regs.rs = k.regs.rs ∧ k'.regs.gtag = k.regs.gtag ∧
  k'.mx = k.mx ∧ k'.l1 = k.l1 ∧ k'.wbuf = k.wbuf ∧ k'.copies = k.copies ∧ k'.flights = k.flights ∧ ScalarKept [] k k'

end Sys2Proof.Claims

/-- R187, R334: `CLKD` defines a clock: a periodic one is present in the instants of its phase, an ON clock is not known until
it is evaluated, and a union names its two parents. R188: `CLKE` evaluates an ON clock that is not known, and no other. -/
def Obligations.ClockDefinition : Prop :=
  (∀ h f s, s.clears (.clkd h f) = true →
    let k := s.issuer (.clkd h f)
    let n := bits f.imm.toNat 21 17
    ∃ t, exec (.clkd h f) s = .next t ∧ OnlyCore s.turn (s.prepared (.clkd h f)) t ∧ MovedOn k (t.core s.turn) ∧
      RegsKept (fun _ => False) k (t.core s.turn) ∧ (t.core s.turn).regs.cells = k.regs.cells ∧
      (∀ m, m ≠ n → (t.core s.turn).clock m = k.clock m) ∧
      (bits f.imm.toNat 23 22 = 0 → (t.core s.turn).present n =
        some (decide (k.ic % bits f.imm.toNat 16 9 = bits f.imm.toNat 8 1))) ∧
      (bits f.imm.toNat 23 22 = 1 → (t.core s.turn).present n = none ∧
        bits ((t.core s.turn).clock n) 27 23 = bits f.imm.toNat 16 12 ∧ bits ((t.core s.turn).clock n) 22 17 = f.sa.toNat ∧
        bits ((t.core s.turn).clock n) 16 16 = bits f.imm.toNat 11 11) ∧
      (bits f.imm.toNat 23 22 = 2 → bits ((t.core s.turn).clock n) 31 30 = 3 ∧
        bits ((t.core s.turn).clock n) 27 23 = bits f.imm.toNat 16 12 ∧ bits ((t.core s.turn).clock n) 22 18 = bits f.imm.toNat 11 7)) ∧
  (∀ h f s, s.clears (.clke h f) = true →
    let k := s.issuer (.clke h f)
    let n := bits f.imm.toNat 4 0
    let w := k.clock n
    n ≠ 0 → n ≠ 31 → bits w 31 30 = 2 →
    ∃ t, exec (.clke h f) s = .next t ∧ OnlyCore s.turn (s.prepared (.clke h f)) t ∧ MovedOn k (t.core s.turn) ∧
      RegsKept (fun _ => False) k (t.core s.turn) ∧ (t.core s.turn).regs.cells = k.regs.cells ∧
      (∀ m, m ≠ n → (t.core s.turn).clock m = k.clock m) ∧
      (bit w 29 = true → (t.core s.turn).clock n = w) ∧
      (bit w 29 = false → (t.core s.turn).present n = some
        ((k.present (bits w 27 23)).getD false && decide ((k.sreg (bits w 22 17)).toNat % 2 = bits w 16 16))))

/-- R192-R194: `DLYR` reads a cell's committed value; `DLYW` writes an unbound cell at once under k31, and binds it to its
guard otherwise, the value pending. R195: `INST` ends the instant. -/
def Obligations.DelayCells : Prop :=
  (∀ h f, GivesScalar (.dlyr h f) f.sd fun k => (k.cell f.sa.toNat).committed) ∧
  (∀ h f s, s.clears (.dlyw h f) = true →
    let k := s.issuer (.dlyw h f)
    let d := k.cell f.sa.toNat
    ∃ t, exec (.dlyw h f) s = .next t ∧ OnlyCore s.turn (s.prepared (.dlyw h f)) t ∧ MovedOn k (t.core s.turn) ∧
      RegsKept (fun _ => False) k (t.core s.turn) ∧ (t.core s.turn).regs.clocks = k.regs.clocks ∧
      (∀ m, m ≠ f.sa.toNat → (t.core s.turn).cell m = k.cell m) ∧
      (t.core s.turn).cell f.sa.toNat =
        if d.clock = none ∧ guardOf (.dlyw h f) = 31 then { d with committed := k.sreg f.sb.toNat }
        else { d with clock := some (guardOf (.dlyw h f)), pending := k.sreg f.sb.toNat, written := true }) ∧
  (∀ h f s, s.clears (.inst h f) = true →
    let k := s.issuer (.inst h f)
    ∃ t, exec (.inst h f) s = .next t ∧ OnlyCore s.turn (s.prepared (.inst h f)) t ∧ MovedOn k (t.core s.turn) ∧
      RegsKept (· = csrIC) k (t.core s.turn) ∧
      (t.core s.turn).csr csrIC = wordN (k.ic + ((s.prepared (.inst h f)).teamOf s.turn).period) ∧
      (∀ n, (t.core s.turn).clock n = if bits (k.clock n) 31 30 = 2 then setBits (k.clock n) 29 29 0 else k.clock n) ∧
      (∀ n, (t.core s.turn).cell n =
        match (k.cell n).clock with
        | none => k.cell n
        | some ck => { k.cell n with
            committed := if (k.cell n).written && (k.present ck).getD false then (k.cell n).pending else (k.cell n).committed,
            written := false }))

namespace Sys2Proof.Claims

/-- The first n lanes of w bytes of a vector, and the flags, are as `g` gives them; the lanes above are zero (R134, R138). -/
def LanesAre (v : Line) (fl w n : Nat) (g : Nat → Nat × Flags) : Prop :=
  (∀ j < n, laneN v.toNat w j = (g j).1 % 2 ^ (8 * w)) ∧ (∀ j, n ≤ j → laneN v.toNat w j = 0) ∧
  (∀ b, bit fl b = true ↔ ∃ j < n, bit (g j).2 b = true)
/-- A vector operation whose sources read and whose destination resolves to `a`: its result, of n lanes of w bytes, is in
flight for `lat` cycles, and nothing else of the machine changes but a channel whose head it reads. -/
def GivesVector (i : Instr) (s : State) (vd : BitVec 12) (lat w n : Nat) (g : Nat → Nat × Flags) : Prop :=
  s.readable i = true → ∀ a, (s.issuer i).resolve vd.toNat 128 true 0 0 = .ok a →
    ∃ t v fl u, exec i s = .next t ∧ LanesAre v fl w n g ∧ (s.headsOf i = [] → OnlyCore s.turn (s.prepared i) t) ∧
      CoreKept (s.issuer i) (t.core s.turn) ∧ MovedOn (s.issuer i) (t.core s.turn) ∧ ScalarKept [] (s.issuer i) (t.core s.turn) ∧
      (t.core s.turn).flights = (s.issuer i).flights ++
        [{ id := (s.issuer i).ctl.seq, guard := guardOf i,
           what := .vres a v (2 ^ 128 - 1) fl ((s.prepared i).cycleOf s.turn + lat) u }]
/-- A lane of a source. -/
def lanesrc (i : Instr) (s : State) (n w j : Nat) : Nat := laneN (s.source i n) w j
/-- Class F on n lanes (R137, R138, R141): the exact result of a lane, delivered to D. -/
def FloatRow (mk : Head → V2 → Instr) (lat : Nat) (g : Nat → XVal → XVal → XVal × Flags) : Prop :=
  ∀ h f s, s.clears (mk h f) = true →
    let p := (s.issuer (mk h f)).pair h.slot f.fp
    let m := modeOf p f.rm
    GivesVector (mk h f) s f.vd lat p.d.wid p.count fun j =>
      let r := g m (p.a.value (lanesrc (mk h f) s 0 p.a.wid j)) (p.a.value (lanesrc (mk h f) s 1 p.a.wid j))
      let c := voutF p.d (satV2 p f.fn) m r.1
      (c.1, r.2 ||| c.2)
/-- The same where an operation raises no flag at all, not even that of the conversion to D (R141). -/
def PickRow (mk : Head → V2 → Instr) (g : XVal → XVal → XVal) : Prop :=
  ∀ h f s, s.clears (mk h f) = true →
    let p := (s.issuer (mk h f)).pair h.slot f.fp
    GivesVector (mk h f) s f.vd 2 p.d.wid p.count fun j =>
      ((voutF p.d (satV2 p f.fn) (modeOf p f.rm)
        (g (p.a.value (lanesrc (mk h f) s 0 p.a.wid j)) (p.a.value (lanesrc (mk h f) s 1 p.a.wid j)))).1, 0)
def FloatRow3 (mk : Head → V3 → Instr) (g : Nat → XVal → XVal → XVal → XVal × Flags) : Prop :=
  ∀ h f s, s.clears (mk h f) = true →
    let p := (s.issuer (mk h f)).pair h.slot f.fp
    GivesVector (mk h f) s f.vd 4 p.d.wid p.count fun j =>
      let at_ := fun n => p.a.value (lanesrc (mk h f) s n p.a.wid j)
      let r := g p.rm (at_ 0) (at_ 1) (at_ 2)
      let c := voutF p.d (satV3 p) p.rm r.1
      (c.1, r.2 ||| c.2)
/-- The functions of R63 on n lanes; their FP32 methods where A is FP32 (R142). -/
def FunRow (mk : Head → V2 → Instr) (q : Fun) : Prop :=
  ∀ h f s, s.clears (mk h f) = true →
    let p := (s.issuer (mk h f)).pair h.slot f.fp
    let m := modeOf p f.rm
    GivesVector (mk h f) s f.vd 12 p.d.wid p.count fun j =>
      let r := q.eval (p.a == .fp32 && q != .sqrt) m (p.a.value (lanesrc (mk h f) s 0 p.a.wid j))
      let c := voutF p.d (satV2 p f.fn) m r.1
      (c.1, r.2 ||| c.2)
/-- Class I on n lanes (R143): the exact integer of a lane, delivered to D. -/
def IntRow (mk : Head → V2 → Instr) (lat : Nat) (g : Fmt → Nat → Nat → Int) : Prop :=
  ∀ h f s, s.clears (mk h f) = true →
    let p := (s.issuer (mk h f)).pair h.slot f.fp
    GivesVector (mk h f) s f.vd lat p.d.wid p.count fun j =>
      voutI p.d (satV2 p f.fn) 0 (g p.a (lanesrc (mk h f) s 0 p.a.wid j) (lanesrc (mk h f) s 1 p.a.wid j))
/-- Lanes of the width of A, without flags (R144, R146, R148). -/
def LaneRow (mk : Head → V2 → Instr) (lat : Nat) (g : V2 → Fmt → (Nat → Nat) → (Nat → Nat) → Nat → Nat) : Prop :=
  ∀ h f s, s.clears (mk h f) = true →
    let a := ((s.issuer (mk h f)).pair h.slot f.fp).a
    GivesVector (mk h f) s f.vd lat a.wid (128 / a.wid) fun j =>
      (g f a (lanesrc (mk h f) s 0 a.wid) (lanesrc (mk h f) s 1 a.wid) j, 0)
/-- All 1,024 bits (R144, R147). -/
def BitsRow (mk : Head → V2 → Instr) (g : Nat → Nat → Nat) : Prop :=
  ∀ h f s, s.clears (mk h f) = true →
    GivesVector (mk h f) s f.vd 2 128 1 fun _ => (g (s.source (mk h f) 0) (s.source (mk h f) 1), 0)
/-- A shift of a lane of n bits by k, where k may be n or more (R144). -/
def shl (n x k : Nat) : Nat := if n ≤ k then 0 else x * 2 ^ k % 2 ^ n
def shr (n x k : Nat) : Nat := if n ≤ k then 0 else x / 2 ^ k
def sra (n x k : Nat) : Nat := ((sextN x n / 2 ^ min k n) % 2 ^ n).toNat

end Sys2Proof.Claims

/-- R137, R138, R141: the operations of class F of one and two sources. -/
def Obligations.VectorFloat : Prop :=
  FloatRow .vadd 4 (fun m a b => a.add m b) ∧ FloatRow .vsub 4 (fun m a b => a.add m b.neg) ∧
  FloatRow .vmul 4 (fun _ a b => a.mul b) ∧ FloatRow .vdiv 12 (fun _ a b => a.div b) ∧
  PickRow .vmin XVal.minv ∧ PickRow .vmax XVal.maxv ∧
  FloatRow .vabs 2 (fun _ a _ => (a.abs, 0)) ∧ FloatRow .vneg 2 (fun _ a _ => (a.neg, 0)) ∧
  FloatRow .vrnd 4 (fun m a _ => roundIntegral m a)

/-- R141: the operations of three sources, of class F, and `VCLMP` of either class. -/
def Obligations.VectorFused : Prop :=
  FloatRow3 .vfma (fun m a b c => XVal.fma m a b c) ∧ FloatRow3 .vfms (fun m a b c => XVal.fma m a b c.neg) ∧
  ∀ h f s, s.clears (.vclmp h f) = true →
    let p := (s.issuer (.vclmp h f)).pair h.slot f.fp
    GivesVector (.vclmp h f) s f.vd 4 p.d.wid p.count fun j =>
      let x := fun n => lanesrc (.vclmp h f) s n p.a.wid j
      ((if p.classF then voutF p.d (satV3 p) p.rm (((p.a.value (x 0)).maxv (p.a.value (x 1))).minv (p.a.value (x 2)))
        else voutI p.d (satV3 p) 0 (min (max (readAs p.a (x 0)) (readAs p.a (x 1))) (readAs p.a (x 2)))).1, 0)

/-- R63-R67, R142: the functions of one operand. -/
def Obligations.VectorFunctions : Prop :=
  FunRow .vsqrt .sqrt ∧ FunRow .vrcp .rcp ∧ FunRow .vrsq .rsq ∧ FunRow .vex2 .ex2 ∧ FunRow .vlg2 .lg2 ∧ FunRow .vtnh .tnh

/-- R143: the operations of class I. -/
def Obligations.VectorInteger : Prop :=
  IntRow .viadd 2 (fun t a b => readAs t a + readAs t b) ∧ IntRow .visub 2 (fun t a b => readAs t a - readAs t b) ∧
  IntRow .vimul 4 (fun t a b => readAs t a * readAs t b) ∧ IntRow .vimin 2 (fun t a b => min (readAs t a) (readAs t b)) ∧
  IntRow .vimax 2 (fun t a b => max (readAs t a) (readAs t b)) ∧
  IntRow .vclz 2 (fun t a _ => if a = 0 then (8 * t.wid : Nat) else (8 * t.wid - 1 - Nat.log2 a : Nat)) ∧
  IntRow .vpopc 2 (fun t a _ => ((List.range (8 * t.wid)).countP fun j => a.testBit j : Nat))

/-- R144, R146-R148: bits, shifts, comparison, selection and movement of lanes. -/
def Obligations.VectorLanes : Prop :=
  BitsRow .vand (fun a b => a &&& b) ∧ BitsRow .vor (fun a b => a ||| b) ∧ BitsRow .vxor (fun a b => a ^^^ b) ∧
  BitsRow .vmov (fun a _ => a) ∧
  LaneRow .vshl 2 (fun _ t a b j => shl (8 * t.wid) (a j) (b j)) ∧ LaneRow .vshr 2 (fun _ t a b j => shr (8 * t.wid) (a j) (b j)) ∧
  LaneRow .vsra 2 (fun _ t a b j => sra (8 * t.wid) (a j) (b j)) ∧
  LaneRow .vcmp 2 (fun f t a b j =>
    if (if t.isFloat then cmpF f.fn.toNat (t.value (a j)) (t.value (b j)) else cmpI f.fn.toNat (readAs t (a j)) (readAs t (b j)))
    then 2 ^ (8 * t.wid) - 1 else 0) ∧
  LaneRow .vperm 6 (fun _ t a b j => a (b j % (128 / t.wid))) ∧
  LaneRow .vshf 6 (fun f t a b j =>
    let q := shufflePat f.fn.toNat (128 / t.wid) j
    if q.1 = 0 then a q.2 else b q.2) ∧
  (∀ h f s, s.clears (.vsel h f) = true →
    let w := ((s.issuer (.vsel h f)).pair h.slot f.fp).a.wid
    GivesVector (.vsel h f) s f.vd 2 w (128 / w) fun j =>
      (if lanesrc (.vsel h f) s 2 w j ≠ 0 then lanesrc (.vsel h f) s 0 w j else lanesrc (.vsel h f) s 1 w j, 0)) ∧
  (∀ h f s, s.clears (.vbcst h f) = true →
    let w := ((s.issuer (.vbcst h f)).pair h.slot f.fp).d.wid
    GivesVector (.vbcst h f) s f.vd 2 w (128 / w) fun _ => (s.source (.vbcst h f) 0, 0)) ∧
  (∀ h f s, s.clears (.vli h f) = true →
    let d := ((s.issuer (.vli h f)).pair h.slot f.fp).d
    GivesVector (.vli h f) s f.vd 2 d.wid (128 / d.wid) fun _ =>
      (match d with
       | .fp64 => (ovf .fp64 0 (Fmt.fp32.value f.imm.toNat)).1
       | .int true 8 => (f.imm.signExtend 64).toNat
       | _ => f.imm.toNat, 0))

/-- R145, R149-R152: conversion, reductions over lanes, block quantisation and the noise of `VEPS`. That `VRMAX` of a floating A
with an integer D converts the maximum by R58 is the model's reading (log 29). -/
def Obligations.VectorConversions : Prop :=
  (∀ h f s, s.clears (.vcvt h f) = true →
    let p := (s.issuer (.vcvt h f)).pair h.slot f.fp
    GivesVector (.vcvt h f) s f.vd 4 p.d.wid p.count fun j =>
      match p.a, p.d with
      | .int sg w, d => voutI d (satV2 p f.fn) (modeOf p f.rm) (readInt sg w (lanesrc (.vcvt h f) s 0 p.a.wid j))
      | t, .int sg w => toIntType sg w (modeOf p f.rm) (t.value (lanesrc (.vcvt h f) s 0 p.a.wid j))
      | t, d => voutF d (satV2 p f.fn) (modeOf p f.rm) (t.value (lanesrc (.vcvt h f) s 0 p.a.wid j))) ∧
  (∀ h f s, s.clears (.vrsum h f) = true →
    let p := (s.issuer (.vrsum h f)).pair h.slot f.fp
    let l := (List.range (128 / p.a.wid)).map (lanesrc (.vrsum h f) s 0 p.a.wid)
    (p.classF = true → GivesVector (.vrsum h f) s f.vd 6 128 1 fun _ =>
      ((ovf p.d (modeOf p f.rm) (treeSum p.d (modeOf p f.rm) 8 (l.map p.a.value) 0).1).1,
       (treeSum p.d (modeOf p f.rm) 8 (l.map p.a.value) 0).2)) ∧
    (p.classF = false → GivesVector (.vrsum h f) s f.vd 6 128 1 fun _ => (((l.map (readAs p.a)).sum % 2 ^ (8 * p.d.wid)).toNat, 0))) ∧
  (∀ h f s, s.clears (.vrmax h f) = true →
    let p := (s.issuer (.vrmax h f)).pair h.slot f.fp
    let l := (List.range (128 / p.a.wid)).map (lanesrc (.vrmax h f) s 0 p.a.wid)
    GivesVector (.vrmax h f) s f.vd 6 128 1 fun _ =>
      match p.a, p.d with
      | .int _ _, d => ((maxOfI (l.map (readAs p.a)) % 2 ^ (8 * d.wid)).toNat, 0)
      | t, .int sg w => toIntType sg w (modeOf p f.rm) (maxOf (l.map t.value))
      | t, d => ovf d (modeOf p f.rm) (maxOf (l.map t.value))) ∧
  (∀ h f s, s.clears (.vscan h f) = true →
    let p := (s.issuer (.vscan h f)).pair h.slot f.fp
    let l := (List.range p.count).map (lanesrc (.vscan h f) s 0 p.a.wid)
    (p.classF = true → GivesVector (.vscan h f) s f.vd 6 128 1 fun _ =>
      (ofLanes p.d.wid (scanF p.d (modeOf p f.rm) (l.map p.a.value) none).1, (scanF p.d (modeOf p f.rm) (l.map p.a.value) none).2)) ∧
    (p.classF = false → GivesVector (.vscan h f) s f.vd 6 p.d.wid p.count fun j =>
      ((((l.take (j + 1)).map (readAs p.a)).sum % 2 ^ (8 * p.d.wid)).toNat, 0))) ∧
  (∀ h f s, s.clears (.vqnt h f) = true →
    let p := (s.issuer (.vqnt h f)).pair h.slot f.fp
    let q := quantise p.d ((List.range 32).map fun j => p.a.value (lanesrc (.vqnt h f) s 0 p.a.wid j))
    GivesVector (.vqnt h f) s f.vd 6 128 1 fun _ => (ofLanes 1 (q.2.1 ++ [q.1]), q.2.2)) ∧
  (∀ h f s, s.clears (.vdqnt h f) = true →
    let p := (s.issuer (.vdqnt h f)).pair h.slot f.fp
    GivesVector (.vdqnt h f) s f.vd 6 p.d.wid 32 fun j =>
      blkDec (lanesrc (.vdqnt h f) s 0 1 j) (lanesrc (.vdqnt h f) s 0 1 32) p.a p.d (modeOf p f.rm)) ∧
  (∀ h f s, s.clears (.veps h f) = true →
    GivesVector (.veps h f) s f.vd 6 4 32 fun j =>
      ((ovf .fp32 0 (epsHash (s.source (.veps h f) 0) (s.source (.veps h f) 1) (s.source (.veps h f) 2 + j))).1, 0))

/-- R189-R191: `WHEN` samples its source; `MRG` takes the source that its selector names, where the clock of that one is
present; `PMRG` takes va where its clock is present, and vb otherwise. -/
def Obligations.VectorMerges : Prop :=
  (∀ h f s, s.clears (.when h f) = true → GivesVector (.when h f) s f.vd 2 128 1 fun _ => (s.source (.when h f) 0, 0)) ∧
  (∀ h f s, s.clears (.mrg h f) = true →
    let j := if (s.source (.mrg h f) 2) % 2 = 1 then 0 else 1
    let t := ((s.sources (.mrg h f)).getD j { val := 0, tag := 31 }).tag
    (t = 31 ∨ (s.issuer (.mrg h f)).present t = some true) →
    GivesVector (.mrg h f) s f.vd 2 128 1 fun _ => (s.source (.mrg h f) j, 0)) ∧
  (∀ h f s, s.clears (.pmrg h f) = true →
    let t := ((s.sources (.pmrg h f)).getD 0 { val := 0, tag := 31 }).tag
    GivesVector (.pmrg h f) s f.vd 2 128 1 fun _ =>
      (if t = 31 ∨ (s.issuer (.pmrg h f)).present t = some true then s.source (.pmrg h f) 0 else s.source (.pmrg h f) 1, 0))

/-- R136, R139: `VCFG` sets one format pair of its unit's register, and no other. R153: `VCHK` of equal vectors does nothing,
and of others traps DUPMIS at the first 8-byte lane that differs. -/
def Obligations.VectorSetup : Prop :=
  (∀ h f s, s.clears (.vcfg h f) = true →
    let k := s.issuer (.vcfg h f)
    let n := csrVCF + if h.slot = .v1 then 1 else 0
    let p := f.imm.toNat / 2 ^ 30
    ∃ t, exec (.vcfg h f) s = .next t ∧ OnlyCore s.turn (s.prepared (.vcfg h f)) t ∧ CoreKeptBut (· = n) k (t.core s.turn) ∧
      MovedOn k (t.core s.turn) ∧ ScalarKept [] k (t.core s.turn) ∧
      ∀ q < 4, bits ((t.core s.turn).csr n).toNat (16 * q + 15) (16 * q) =
        if q = p then f.imm.toNat / 2 ^ 15 % 2 ^ 15 * 2 else bits (k.csr n).toNat (16 * q + 15) (16 * q)) ∧
  (∀ h f s, s.clears (.vchk h f) = true → s.readable (.vchk h f) = true →
    let a := lanesrc (.vchk h f) s 0 8
    let b := lanesrc (.vchk h f) s 1 8
    ((∀ j < 16, a j = b j) → ∃ t, exec (.vchk h f) s = .next t ∧ (s.headsOf (.vchk h f) = [] → OnlyCore s.turn (s.prepared (.vchk h f)) t) ∧
      CoreKept (s.issuer (.vchk h f)) (t.core s.turn) ∧ MovedOn (s.issuer (.vchk h f)) (t.core s.turn) ∧
      ScalarKept [] (s.issuer (.vchk h f)) (t.core s.turn)) ∧
    (∀ j < 16, (∀ l < j, a l = b l) → a j ≠ b j →
      Traps (.vchk h f) s cDUPMIS [wordN (8 * j), wordN (a j), wordN (b j)]))

/-- R55, R81, R112, R138, R220, R225: a vector result that is due is written with its guard's tag, and its flags are ORed into FPST; a
granule that a write issued later has touched keeps the tag which that gave it. -/
def Sys2Proof.Claims.VectorResultLands : Prop :=
  ∀ (k : Core) (f : Flight) (a : Nat) (x : Line) (fl due u n : Nat), k.flights = [f] → f.what = .vres a x (2 ^ 128 - 1) fl due u →
    (n < due → k.landDue n true = k) ∧
    (due ≤ n → (k.landDue n true).space a 128 = x.toNat ∧ (k.landDue n true).flights = [] ∧
      (k.landDue n true).csr csrFPST = k.csr csrFPST ||| wordN (fl % 64) ∧
      (∀ b, b < a ∨ a + 128 ≤ b → (k.landDue n true).space b 1 = k.space b 1) ∧
      (∀ g, g ∈ granulesOf a 128 → (k.landDue n true).gtag g = if touched f.skip g then k.gtag g else f.guard) ∧
      (∀ g, g ∉ granulesOf a 128 → (k.landDue n true).gtag g = k.gtag g) ∧ ScalarKept [] k (k.landDue n true))
/-- R81, R112, R55, R138: results of exposed latency land when they are due, a scalar result as in `ScalarResultLands` and a
vector result as in `VectorResultLands`. -/
def Obligations.ResultsLand : Prop := ScalarResultLands ∧ VectorResultLands

namespace Sys2Proof.Claims

/-- `i` issues and its wait ends at once with a status (R9, R182, R185): the status stands in register st, ESCN is 0, the core
goes on, and no other core has changed. -/
def Resolves (i : Instr) (s : State) (st : BitVec 6) (code detail mask : Nat) (q : State → Prop) : Prop :=
  (s.issuer i).ctl.back = none → ∃ t, exec i s = .next t ∧ MovedOn (s.issuer i) (t.core s.turn) ∧
    ScalarKept [st.toNat] (s.issuer i) (t.core s.turn) ∧
    Holds (t.core s.turn) st.toNat (statusWord code detail mask) (guardOf i) ∧ (t.core s.turn).csr csrESCN = 0 ∧
    (∀ d, d ≠ s.turn → (t.core d).unlogged = ((s.prepared i).core d).unlogged) ∧ q t
/-- `i` issues and waits: its bundle has not committed, so the registers and the program counter stand, and its wait for
`kind` has no outcome yet (R77, R186). -/
def StandsWaiting (i : Instr) (s : State) (kind : WaitKind) (q : State → Prop) : Prop :=
  (s.issuer i).ctl.back = none → ∃ t w x, exec i s = .next t ∧ (t.core s.turn).ctl.wait = some w ∧ w.waits = [x] ∧ x.kind = kind ∧
    x.out = none ∧ (t.core s.turn).ctl.pc = (s.issuer i).ctl.pc ∧ (t.core s.turn).regs = (s.issuer i).regs ∧ q t
/-- Number and key of the channel that a `CHWR`, `CHRD` or `CHRDY` names. -/
def chanKey (i : Instr) (s : State) (f : WF) : Nat := (s.prepared i).channelKey s.turn (f.imm.toNat / 2 ^ 12 % 256)
def chanElem (f : WF) : Nat := f.imm.toNat % 2 ^ 12

end Sys2Proof.Claims

/-- R197, R29, R196, R307: `CHWR` into a free cell claims it: the element's bytes and the instant are in flight to the
consumer, the sequence number and the last stamp move on, and the status is OK with the cells occupied. A second value for
an instant is DENIED; with no free cell the bundle waits. R198: `ABSN` claims a cell for a marker without a status. -/
def Obligations.ChannelWrites : Prop :=
  (∀ h f s, s.clears (.chwr h f) = true → s.readable (.chwr h f) = true →
    let p := s.prepared (.chwr h f)
    let k := s.issuer (.chwr h f)
    let key := chanKey (.chwr h f) s f
    let e := k.elemSize (chanElem f)
    p.channelFault s.turn (f.imm.toNat / 2 ^ 12 % 256) true (some e) = none → k.out 1 < 256 →
    ((k.ic : Int) ≤ (p.channel key).lw → Resolves (.chwr h f) s f.st stDENIED 0 0 fun t => (t.channel key).ws = (p.channel key).ws) ∧
    ((p.channel key).lw < (k.ic : Int) → p.cellFree key = true →
      Resolves (.chwr h f) s f.st stOK 0 ((p.channel key).ws + 1 - (p.channel key).rs) fun t =>
        (t.channel key).ws = (p.channel key).ws + 1 ∧ (t.channel key).lw = k.ic ∧ (t.core s.turn).out 1 = k.out 1 + 1 ∧
        ∃ g ∈ (t.core s.turn).flights, g.what =
          .cell key ((p.channel key).ws % max (p.channel key).depth 1) (bytesOf (s.source (.chwr h f) 3) e) k.ic true) ∧
    ((p.channel key).lw < (k.ic : Int) → p.cellFree key = false →
      StandsWaiting (.chwr h f) s (.chwr key (bytesOf (s.source (.chwr h f) 3) e)) fun t => (t.channel key).ws = (p.channel key).ws)) ∧
  (∀ h f s, s.clears (.absn h f) = true →
    let p := s.prepared (.absn h f)
    let k := s.issuer (.absn h f)
    let key := p.channelKey s.turn (f.imm.toNat % 256)
    p.channelFault s.turn (f.imm.toNat % 256) true none = none → (p.channel key).lw < (k.ic : Int) → p.cellFree key = true →
    k.ctl.back = none →
    ∃ t, exec (.absn h f) s = .next t ∧ MovedOn k (t.core s.turn) ∧ ScalarKept [] k (t.core s.turn) ∧
      (∀ d, d ≠ s.turn → (t.core d).unlogged = (p.core d).unlogged) ∧ (t.core s.turn).csr csrESCN = k.csr csrESCN ∧
      (t.channel key).ws = (p.channel key).ws + 1 ∧ (t.channel key).lw = k.ic ∧
      ∃ g ∈ (t.core s.turn).flights, g.what = .cell key ((p.channel key).ws % max (p.channel key).depth 1) [] k.ic false)

/-- R199, R306: `CHRD` of a value of this instant copies it to its element and consumes the cell; `CHRDY` leaves it. A marker
of this instant, or a value of a later one, proves absence; an empty channel makes the bundle wait. A cell of an earlier instant is
discarded first, and the status counts it. -/
def Obligations.ChannelReads : Prop :=
  (∀ h f s a d, s.clears (.chrd h f) = true →
    let p := s.prepared (.chrd h f)
    let k := s.issuer (.chrd h f)
    let key := chanKey (.chrd h f) s f
    let n := k.elemSize (chanElem f)
    k.resolve (chanElem f) n true 0 0 = .ok d → p.channelFault s.turn (f.imm.toNat / 2 ^ 12 % 256) false (some n) = none →
    p.headCell key = some a → p.cellFull a = true →
    (p.cellStamp a = k.ic → p.cellPres a = true → Resolves (.chrd h f) s f.st stOK 0 (p.occupied key - 1) fun t =>
      (t.core s.turn).space d n = p.cellData key ∧ (t.channel key).rs = (p.channel key).rs + 1 ∧ t.cellFull a = false) ∧
    (p.cellStamp a = k.ic → p.cellPres a = false → Resolves (.chrd h f) s f.st stABSENT 0 (p.occupied key - 1) fun t =>
      (t.core s.turn).regs.rs = k.regs.rs ∧ (t.channel key).rs = (p.channel key).rs + 1) ∧
    (k.ic < p.cellStamp a → Resolves (.chrd h f) s f.st stABSENT 0 (p.occupied key) fun t =>
      (t.core s.turn).regs.rs = k.regs.rs ∧ (t.channel key).rs = (p.channel key).rs)) ∧
  (∀ h f s a, s.clears (.chrdy h f) = true →
    let p := s.prepared (.chrdy h f)
    let k := s.issuer (.chrdy h f)
    let key := chanKey (.chrdy h f) s f
    let stays := fun (t : State) => (t.core s.turn).regs.rs = k.regs.rs ∧ (t.channel key).rs = (p.channel key).rs ∧ t.mem = p.mem
    p.channelFault s.turn (f.imm.toNat / 2 ^ 12 % 256) false none = none → p.headCell key = some a →
    (p.cellFull a = true → p.cellStamp a = k.ic → p.cellPres a = true → Resolves (.chrdy h f) s f.st stOK 0 (p.occupied key) stays) ∧
    (p.cellFull a = true → p.cellStamp a = k.ic → p.cellPres a = false → Resolves (.chrdy h f) s f.st stABSENT 0 (p.occupied key) stays) ∧
    (p.cellFull a = true → k.ic < p.cellStamp a → Resolves (.chrdy h f) s f.st stABSENT 0 (p.occupied key) stays) ∧
    (p.cellFull a = false → StandsWaiting (.chrdy h f) s (.chrd key none) stays)) ∧
  (∀ h f s a b d, s.clears (.chrd h f) = true →
    let p := s.prepared (.chrd h f)
    let k := s.issuer (.chrd h f)
    let key := chanKey (.chrd h f) s f
    let n := k.elemSize (chanElem f)
    let q := p.consumeCell key
    k.resolve (chanElem f) n true 0 0 = .ok d → p.channelFault s.turn (f.imm.toNat / 2 ^ 12 % 256) false (some n) = none →
    p.headCell key = some a → p.cellFull a = true → p.cellStamp a < k.ic →
    q.headCell key = some b → q.cellFull b = true → q.cellStamp b = k.ic → q.cellPres b = true →
    Resolves (.chrd h f) s f.st stOK 1 (q.occupied key - 1) fun t =>
      (t.core s.turn).space d n = q.cellData key ∧ (t.channel key).rs = (p.channel key).rs + 2) ∧
  (∀ h f s a b, s.clears (.chrdy h f) = true →
    let p := s.prepared (.chrdy h f)
    let k := s.issuer (.chrdy h f)
    let key := chanKey (.chrdy h f) s f
    let q := p.consumeCell key
    p.channelFault s.turn (f.imm.toNat / 2 ^ 12 % 256) false none = none →
    p.headCell key = some a → p.cellFull a = true → p.cellStamp a < k.ic →
    q.headCell key = some b → q.cellFull b = true → q.cellStamp b = k.ic → q.cellPres b = true →
    Resolves (.chrdy h f) s f.st stOK 1 (q.occupied key) fun t =>
      (t.core s.turn).regs.rs = k.regs.rs ∧ (t.channel key).rs = (p.channel key).rs + 1 ∧ t.mem = q.mem) ∧
  (∀ h f s a d, s.clears (.chrd h f) = true →
    let p := s.prepared (.chrd h f)
    let k := s.issuer (.chrd h f)
    let n := k.elemSize (chanElem f)
    k.resolve (chanElem f) n true 0 0 = .ok d → p.channelFault s.turn (f.imm.toNat / 2 ^ 12 % 256) false (some n) = none →
    p.headCell (chanKey (.chrd h f) s f) = some a → p.cellFull a = false →
    StandsWaiting (.chrd h f) s (.chrd (chanKey (.chrd h f) s f) (some d)) fun _ => True)

namespace Sys2Proof.Claims

/-- The barrier object that an operation names: in its field, or with REG in a register (R200). -/
def Names (i : Instr) (s : State) (f : WF) (o : Nat) : Prop :=
  (s.prepared i).barrierOf s.turn ((if bit f.imm.toNat 7 then ((s.issuer i).sreg f.sa.toNat).toNat else f.imm.toNat) % 128) = some o ∧
  (s.prepared i).isMember s.turn o = true
/-- The release time of core c in an object has come (R26). -/
def Released (s : State) (c o : Nat) : Prop := ∃ r ∈ (s.barrier o).release, r.1 = c ∧ r.2.1 ≤ s.now ∧ r.2.2 ≤ s.cycleOf c
/-- Arrivals of the core in an object. -/
def Arrived (s : State) (c o : Nat) : Prop := ∃ a ∈ (s.barrier o).arrivals, a.1 = c

end Sys2Proof.Claims

/-- R201-R203: `BARA` adds the core's arrival, `BARX` withdraws it. `BARW` returns OK once the core's release time has come,
and DENIED where the core has no arrival; `BAR` arrives and waits, and one that is issued again after its arrival resumes at
its release time. An object that the core is not a member of traps PERM (R200). Which arrivals a status counts is the model's
reading (log 27). -/
def Obligations.Barriers : Prop :=
  (∀ h f s o, s.clears (.bara h f) = true → Names (.bara h f) s f o →
    ∃ t, exec (.bara h f) s = .next t ∧ MovedOn (s.issuer (.bara h f)) (t.core s.turn) ∧
      CoreKept (s.issuer (.bara h f)) (t.core s.turn) ∧ ScalarKept [] (s.issuer (.bara h f)) (t.core s.turn) ∧
      (∀ d, d ≠ s.turn → (t.core d).unlogged = ((s.prepared (.bara h f)).core d).unlogged) ∧ Arrived t s.turn o ∧
      ∀ a ∈ ((s.prepared (.bara h f)).barrier o).arrivals, a ∈ (t.barrier o).arrivals) ∧
  (∀ h f s o, s.clears (.barx h f) = true → Names (.barx h f) s f o →
    ∃ t, exec (.barx h f) s = .next t ∧ MovedOn (s.issuer (.barx h f)) (t.core s.turn) ∧
      CoreKept (s.issuer (.barx h f)) (t.core s.turn) ∧ ScalarKept [] (s.issuer (.barx h f)) (t.core s.turn) ∧
      (∀ d, d ≠ s.turn → (t.core d).unlogged = ((s.prepared (.barx h f)).core d).unlogged) ∧ ¬Arrived t s.turn o ∧
      (t.barrier o).release = ((s.prepared (.barx h f)).barrier o).release) ∧
  (∀ h f s o, s.clears (.barw h f) = true → Names (.barw h f) s f o →
    (Released (s.prepared (.barw h f)) s.turn o →
      Resolves (.barw h f) s f.st stOK 0 ((s.prepared (.barw h f)).barrier o).members.length fun t => ¬∃ r ∈ (t.barrier o).release, r.1 = s.turn) ∧
    ((s.prepared (.barw h f)).hasArrived s.turn o = false →
      Resolves (.barw h f) s f.st stDENIED 0 ((s.prepared (.barw h f)).arrivals o) fun t => t.barrier o = (s.prepared (.barw h f)).barrier o)) ∧
  (∀ h f s o, s.clears (.bar h f) = true → Names (.bar h f) s f o →
    (bit (s.issuer (.bar h f)).ctl.dmask h.slot.maskBit = true → Released (s.prepared (.bar h f)) s.turn o →
      Resolves (.bar h f) s f.st stOK 0 ((s.prepared (.bar h f)).barrier o).members.length fun t => ¬∃ r ∈ (t.barrier o).release, r.1 = s.turn) ∧
    (bit (s.issuer (.bar h f)).ctl.dmask h.slot.maskBit = false → ¬Arrived (s.prepared (.bar h f)) s.turn o →
      StandsWaiting (.bar h f) s (.bar o) fun t => Arrived t s.turn o)) ∧
  (∀ mk ∈ [Instr.bara, .barx, .barw, .bar], ∀ h f s o, s.clears (mk h f) = true →
    (s.prepared (mk h f)).barrierOf s.turn ((if bit f.imm.toNat 7 then ((s.issuer (mk h f)).sreg f.sa.toNat).toNat else f.imm.toNat) % 128) = some o →
    (s.prepared (mk h f)).isMember s.turn o = false → Traps (mk h f) s cPERM [])

/-- R204: `LTAR` arms a latch, `LTIN` sends the core's arrival, which is in flight, and `LTWT` of a passed latch returns OK with
its arrivals. An arming of a latch that holds arrivals, and an arrival at one that is unarmed, has passed or has its count of arrivals, those in flight counted, trap LATCHOVR. -/
def Obligations.Latches : Prop :=
  (∀ h f s, s.clears (.ltar h f) = true →
    let l := s.turn / 64 * 256 + f.imm.toNat % 256
    let x := (s.prepared (.ltar h f)).latch l
    (x.n = 0 ∨ x.a = 0 ∨ x.passed = true → ∃ t, exec (.ltar h f) s = .next t ∧ MovedOn (s.issuer (.ltar h f)) (t.core s.turn) ∧
      CoreKept (s.issuer (.ltar h f)) (t.core s.turn) ∧ ScalarKept [] (s.issuer (.ltar h f)) (t.core s.turn) ∧
      (∀ d, d ≠ s.turn → (t.core d).unlogged = ((s.prepared (.ltar h f)).core d).unlogged) ∧ (∀ m, m ≠ l → t.latch m = (s.prepared (.ltar h f)).latch m) ∧
      (t.latch l).n = f.imm.toNat / 2 ^ 8 % 2 ^ 7 ∧ (t.latch l).a = 0 ∧ (t.latch l).passed = false) ∧
    (x.n ≠ 0 → 0 < x.a → x.passed = false →
      Traps (.ltar h f) s cLATCHOVR [wordN (f.imm.toNat % 256), wordN (x.n + x.a * 2 ^ 8)])) ∧
  (∀ h f s, s.clears (.ltin h f) = true →
    let l := s.turn / 64 * 256 + f.imm.toNat % 256
    let x := (s.prepared (.ltin h f)).latch l
    (x.n ≠ 0 → x.passed = false → x.a + (s.prepared (.ltin h f)).ltinFlying l ≠ x.n →
      ∃ t, exec (.ltin h f) s = .next t ∧ MovedOn (s.issuer (.ltin h f)) (t.core s.turn) ∧
        CoreKept (s.issuer (.ltin h f)) (t.core s.turn) ∧ ScalarKept [] (s.issuer (.ltin h f)) (t.core s.turn) ∧
        (∀ d, d ≠ s.turn → (t.core d).unlogged = ((s.prepared (.ltin h f)).core d).unlogged) ∧ (t.latch l).a = x.a ∧
        (t.core s.turn).flights = (s.issuer (.ltin h f)).flights ++
          [{ id := (s.issuer (.ltin h f)).ctl.seq, guard := guardOf (.ltin h f), what := .ltin l }]) ∧
    (x.n = 0 ∨ x.passed = true ∨ x.a + (s.prepared (.ltin h f)).ltinFlying l = x.n → Traps (.ltin h f) s cLATCHOVR [wordN (f.imm.toNat % 256), wordN (x.n + x.a * 2 ^ 8)])) ∧
  (∀ h f s, s.clears (.ltwt h f) = true →
    let l := s.turn / 64 * 256 + f.imm.toNat % 256
    let x := (s.prepared (.ltwt h f)).latch l
    (x.passed = true → Resolves (.ltwt h f) s f.st stOK 0 x.a fun t => (t.latch l).passed = true ∧ t.mem = (s.prepared (.ltwt h f)).mem) ∧
    (x.passed = false → StandsWaiting (.ltwt h f) s (.ltwt l) fun _ => True))

/-- R205-R208, R340, R373, R375: `DRN` and `WAITC` whose classes have drained return OK; `SLEEP` whose time has come writes nothing; `PWRA` at or
below the level held returns OK, above the region's share DENIED; otherwise it joins the cluster's queue, is granted at once
where nobody is before it and the cluster's budget has room, and waits while the first of the queue finds none; `PWRR` releases
the grant. -/
def Obligations.DrainsAndPower : Prop :=
  (∀ h f s, s.clears (.drn h f) = true →
    let k := s.issuer (.drn h f)
    let scope := f.imm.toNat % 8
    let m := f.imm.toNat / 8 % 16
    ((∀ j < 4, m.testBit j = true → k.drained j scope k.ctl.seq = true) → Resolves (.drn h f) s f.st stOK 0 m fun _ => True) ∧
    ((∃ j < 4, m.testBit j = true ∧ k.drained j scope k.ctl.seq = false) → StandsWaiting (.drn h f) s (.drn scope m k.ctl.seq) fun _ => True)) ∧
  (∀ h f s, s.clears (.waitc h f) = true →
    let k := s.issuer (.waitc h f)
    let n := fun (j : Nat) => f.imm.toNat / 2 ^ (5 * j) % 32
    let holds := fun (j cls : Nat) => n j = 31 ∨ k.out cls ≤ n j
    (holds 0 0 ∧ holds 1 1 ∧ holds 2 2 ∧ holds 3 4 → Resolves (.waitc h f) s f.st stOK 0 k.countsWord fun _ => True) ∧
    (¬(holds 0 0 ∧ holds 1 1 ∧ holds 2 2 ∧ holds 3 4) → StandsWaiting (.waitc h f) s (.waitc (n 0) (n 1) (n 2) (n 3)) fun _ => True)) ∧
  (∀ h f s, s.clears (.sleep h f) = true →
    let k := s.issuer (.sleep h f)
    let u := (k.sreg f.sa.toNat).toNat
    k.ctl.back = none →
    (u ≤ (s.prepared (.sleep h f)).now → ∃ t, exec (.sleep h f) s = .next t ∧ OnlyCoreAndClaims s.turn (s.prepared (.sleep h f)) t ∧
      MovedOn k (t.core s.turn) ∧ ScalarKept [] k (t.core s.turn) ∧ (∀ n, (t.core s.turn).csr n = k.csr n)) ∧
    ((s.prepared (.sleep h f)).now < u → StandsWaiting (.sleep h f) s (.sleep u) fun _ => True)) ∧
  (∀ h f s, s.clears (.pwra h f) = true →
    let k := s.issuer (.pwra h f)
    let n := f.imm.toNat % 8
    let share := bits ((s.prepared (.pwra h f)).teamRegion s.turn 3 3) 31 29
    (n ≤ k.ctl.level → Resolves (.pwra h f) s f.st stOK 0 k.ctl.level fun t => (t.core s.turn).ctl.level = k.ctl.level) ∧
    (k.ctl.level < n → share < n → Resolves (.pwra h f) s f.st stDENIED 0 k.ctl.level fun t => (t.core s.turn).ctl.level = k.ctl.level) ∧
    let p := s.prepared (.pwra h f)
    let cl := p.cluster (s.turn / 64)
    (k.ctl.level < n → n ≤ share → cl.grants = [] → p.grantSum (s.turn / 64) + budget n ≤ cl.cal + budget k.ctl.level →
      Resolves (.pwra h f) s f.st stOK 0 n fun t => (t.core s.turn).ctl.level = n ∧ (t.cluster (s.turn / 64)).grants = []) ∧
    (k.ctl.level < n → n ≤ share → ∀ g r, cl.ask s.turn n = g :: r →
      cl.cal + budget (p.core g.1).heldLevel < p.grantSum (s.turn / 64) + budget g.2.1 →
      StandsWaiting (.pwra h f) s (.pwra n) fun t =>
        (t.core s.turn).ctl.level = k.ctl.level ∧ (t.cluster (s.turn / 64)).grants = g :: r)) ∧
  (∀ h f s, s.clears (.pwrr h f) = true →
    ∃ t, exec (.pwrr h f) s = .next t ∧ OnlyCore s.turn (s.prepared (.pwrr h f)) t ∧
      MovedOn (s.issuer (.pwrr h f)) (t.core s.turn) ∧ CoreKeptBut (fun _ => False) (s.issuer (.pwrr h f)) (t.core s.turn) ∧
      ScalarKept [] (s.issuer (.pwrr h f)) (t.core s.turn) ∧ (t.core s.turn).ctl.level = 0)

/-- R209, R299: `CPOST` posts its record into the grid while its bucket has room, numbering it, and waits otherwise. R179, R323:
`RPKT` sends the contributor's next round on its way. R180, R323: `RRCV` of a delivered round writes its element, ORs its
flags and returns OK with every contributor in the mask. -/
def Obligations.PostsAndReductions : Prop :=
  (∀ h f s pa, s.clears (.cpost h f) = true → s.readable (.cpost h f) = true →
    let p := s.prepared (.cpost h f)
    let k := s.issuer (.cpost h f)
    let va := (k.sreg f.sa.toNat).toNat
    let g := (p.teamOf s.turn).grid
    let r : Post := { payload := bytesOf (s.source (.cpost h f) 3) 64, addr := va, bucket := p.bucketOf pa,
                      entry := (k.sreg f.sb.toNat).toNat % 2 ^ 32, instant := k.ic, core := s.turn, seq := k.ctl.posts }
    64 ≤ k.elemSize (f.imm.toNat % 2 ^ 12) → p.physOf s.turn va = some pa → p.bucketFree s.turn (p.bucketOf pa) = true →
    Resolves (.cpost h f) s f.st stOK 0 k.ctl.posts fun t =>
      (t.grid g).posts = (p.grid g).posts ++ [r] ∧ (t.core s.turn).ctl.posts = k.ctl.posts + 1) ∧
  (∀ h f s pa, s.clears (.cpost h f) = true → s.readable (.cpost h f) = true →
    let p := s.prepared (.cpost h f)
    let k := s.issuer (.cpost h f)
    let va := (k.sreg f.sa.toNat).toNat
    64 ≤ k.elemSize (f.imm.toNat % 2 ^ 12) → p.physOf s.turn va = some pa → p.bucketFree s.turn (p.bucketOf pa) = false →
    StandsWaiting (.cpost h f) s (.cpost { payload := bytesOf (s.source (.cpost h f) 3) 64, addr := va, bucket := p.bucketOf pa,
                                           entry := (k.sreg f.sb.toNat).toNat % 2 ^ 32, instant := 0, core := s.turn, seq := 0 }) fun t =>
      (t.grid (p.teamOf s.turn).grid).posts = (p.grid (p.teamOf s.turn).grid).posts ∧ (t.core s.turn).ctl.posts = k.ctl.posts) ∧
  (∀ h f s r j, s.clears (.rpkt h f) = true → s.readable (.rpkt h f) = true →
    let p := s.prepared (.rpkt h f)
    let k := s.issuer (.rpkt h f)
    let key := (p.teamOf s.turn).grid * 65536 + (k.sreg f.sa.toNat).toNat % 65536
    k.elemSize f.rr.toNat = 128 → assoc p.reductions key = some r → p.memberIx s.turn r.contributors = some j →
    ∃ t, exec (.rpkt h f) s = .next t ∧ MovedOn k (t.core s.turn) ∧ CoreKept k (t.core s.turn) ∧ ScalarKept [] k (t.core s.turn) ∧
      (∀ d, d ≠ s.turn → (t.core d).unlogged = (p.core d).unlogged) ∧
      t.packets = p.packets ++ [(key, r.sent.get 0 j, j, BitVec.ofNat 1024 (s.source (.rpkt h f) 0), 0)] ∧
      (assoc t.reductions key).map (fun x => x.sent.get 0 j) = some (r.sent.get 0 j + 1)) ∧
  (∀ h f s r i a v fl, s.clears (.rrcv h f) = true →
    let p := s.prepared (.rrcv h f)
    let k := s.issuer (.rrcv h f)
    let key := (p.teamOf s.turn).grid * 65536 + (k.sreg f.sa.toNat).toNat % 65536
    let d := r.round (r.asked.get 0 i)
    k.elemSize (f.imm.toNat % 2 ^ 12) = 128 → k.resolve (f.imm.toNat % 2 ^ 12) 128 true 0 0 = .ok a →
    assoc p.reductions key = some r → p.memberIx s.turn r.receivers = some i →
    d.cancelled = none → d.result = some (v, fl) → d.delivered = true →
    Resolves (.rrcv h f) s f.st stOK 0 (2 ^ r.contributors.length - 1) fun t =>
      (t.core s.turn).space a 128 = v.toNat ∧ (t.core s.turn).csr csrFPST = k.csr csrFPST ||| wordN (fl % 64) ∧
      (assoc t.reductions key).map (fun x => x.asked.get 0 i) = some (r.asked.get 0 i + 1))

namespace Sys2Proof.Claims

/-- Every part of an access lies in the core's own scratchpad. -/
def ownPad (c : Nat) (r : Reached) : Bool := r.all fun g => (remotePieces c g.2).isEmpty
/-- The address in s[sa] at a first issue (R169). -/
def elementEa (k : Core) (f : CF) : Nat := (k.sreg f.sa.toNat).toNat
/-- An element is loaded from the given parts of memory (R117, R169, R170): from the core's own scratchpad at once, and
otherwise in flight as one load. `v.2` is the machine in which it has read: on unchecked pages outstanding copies may have gone
on (R169). Its value is fixed at the issue (log 5). -/
def LoadsElement (i : Instr) (f : CF) (s : State) (segs : List Seg) (size : Nat) : Prop :=
  ∀ a r s2 (x : Ctx), s.headsOf i = [] → x.c = s.turn → x.earlier = [] →
    let c := s.turn
    let k := s.issuer i
    let n := k.elemSize f.rr.toNat
    k.resolve f.rr.toNat n true 0 0 = .ok a → (s.prepared i).reachSegs c segs .read size .read = .ok (r, s2) →
    let v := s2.loadSegs x f r
    (ownPad c r = true → ∃ t, exec i s = .next t ∧ MovedOn k (t.core c) ∧ ScalarKept [] k (t.core c) ∧
      OnlyCore c ((s.prepared i).confirmed c v.2) t ∧ (∀ m, (t.core c).csr m = k.csr m) ∧
      (t.core c).space a n = v.1 % 2 ^ (8 * n) ∧ (∀ b, b < a ∨ a + n ≤ b → (t.core c).space b 1 = k.space b 1) ∧
      ∀ g ∈ granulesOf a n, (t.core c).gtag g = guardOf i) ∧
    (ownPad c r = false → k.out 0 < 256 → ∃ t, exec i s = .next t ∧ MovedOn k (t.core c) ∧
      ScalarKept [] k (t.core c) ∧ OnlyCore c ((s.prepared i).confirmed c v.2) t ∧ (t.core c).regs.rs = k.regs.rs ∧ (t.core c).out 0 = k.out 0 + 1 ∧
      (t.core c).flights = k.flights ++
        [{ id := k.ctl.seq, guard := guardOf i, what := .load (.space a n) v.1,
           src := r.flatMap fun g => g.2.map fun q => (servedPa c q.2.2, q.2.1, g.1.1 + (q.1 - g.1.2.1)) }]) ∧
    (s.copiesDone → (∀ x ∈ k.l1, x.dirty = 0) → v.2.mem = s2.mem) ∧
    (s.copiesDone → ∀ d, d ≠ c → v.2.core d = s.landed.core d)

/-- The storage cells of the bytes of `v` that an access of parts of an element meets, in the order of the stores. -/
def segCells (c v : Nat) (r : Reached) : List (Nat × Byte) :=
  r.flatMap fun g => g.2.flatMap fun q => (List.range q.2.1).map fun j =>
    (((placeOf (servedPa c q.2.2 + j)).getD (.hbm, 0)).2, BitVec.ofNat 8 (v / 256 ^ (g.1.1 + (q.1 - g.1.2.1) + j)))
/-- An element, source 0 of `i`, is stored to the given parts of memory (R117, R169, R170, R360). -/
def StoresElement (i : Instr) (s : State) (segs : List Seg) (size : Nat) : Prop :=
  ∀ r s2 sw, s.readable i = true → s.headsOf i = [] →
    let c := s.turn
    let k := s.issuer i
    (s.prepared i).reachSegs c segs .write size .write = .ok (r, s2) →
    (∀ g ∈ r, ∀ q ∈ g.2, Straight sw (servedPa c q.2.2) q.2.1 q.2.2) → Unmarked k → k.out 1 < 256 →
    ∃ t, exec i s = .next t ∧ MovedOn k (t.core c) ∧ ScalarKept [] k (t.core c) ∧ (∀ d, d ≠ c → (t.core d).unlogged = (s.landed.core d).unlogged) ∧
      (t.core c).regs.rs = k.regs.rs ∧ (t.core c).out 1 = k.out 1 + (if ownPad c r then 0 else 1) ∧
      (∀ m, m ≠ csrOUT + 1 → (t.core c).csr m = k.csr m) ∧
      WritesCells (s.prepared i).mem t.mem (segCells c (s.source i 0) r)

end Sys2Proof.Claims

/-- R169, R170, R172: `TLD` and `GATH` load an element, whole, row by row, or lane by lane at its offsets. R171: `TLDW` loads
raw bytes for the weight buffer, which are in flight as one load. An element below 128 bytes gathers the lanes it holds (log
32). -/
def Obligations.ElementLoads : Prop :=
  (∀ h f s segs, s.clears (.tld h f) = true →
    let k := s.issuer (.tld h f)
    tileSegs f (s.sources (.tld h f)) (elementEa k f) (k.elemSize f.rr.toNat) = .ok segs → LoadsElement (.tld h f) f s segs 0) ∧
  (∀ h f s, s.clears (.gath h f) = true → s.readable (.gath h f) = true →
    let k := s.issuer (.gath h f)
    elementEa k f % laneWidth f = 0 →
    LoadsElement (.gath h f) f s (laneSegs f (k.elemSize f.rr.toNat) (elementEa k f) (s.source (.gath h f) 0)) (laneSize f)) ∧
  (∀ h f s ps s2, s.clears (.tldw h f) = true →
    let c := s.turn
    let k := s.issuer (.tldw h f)
    let ea := elementEa k f
    let off := (k.sreg f.sb.toNat).toNat
    let n := (k.sreg f.sc.toNat).toNat
    ea % 16 = 0 → off % 16 = 0 → n % 16 = 0 → n ≤ 98304 → (s.prepared (.tldw h f)).reachPages c ea n .read 0 = .ok ps →
    (∀ q ∈ ps, inAperture q.2.2 = false) → (s.prepared (.tldw h f)).checkPieces c .read 0 .read ps = .ok s2 → k.out 0 < 256 →
    let v := s2.loadValue c ea n ps (f.bypass == 1) (f.noAlloc == 1)
    ∃ t, exec (.tldw h f) s = .next t ∧ MovedOn k (t.core c) ∧ ScalarKept [] k (t.core c) ∧
      OnlyCore c ((s.prepared (.tldw h f)).confirmed c v.2) t ∧ (t.core c).wbuf = k.wbuf ∧ (t.core c).out 0 = k.out 0 + 1 ∧
      (t.core c).flights = k.flights ++
        [{ id := k.ctl.seq, guard := guardOf (.tldw h f), what := .tldw (off % 98304) (bytesOf v.1 n),
           src := ps.map fun q => (servedPa c q.2.2, q.2.1, q.1 - ea) }])

/-- R169, R170, R253: an element of a `TST` without a hint goes as one part, within one line, through a page of HBM that the core caches. -/
def Sys2Proof.Claims.CachedElements : Prop :=
  ∀ h f s s2 e a p wt, s.clears (.tst h f) = true →
    let i : Instr := .tst h f
    let c := s.turn
    let k := s.issuer i
    let n := k.elemSize f.rr.toNat
    s.readable i = true → s.headsOf i = [] → f.bypass = 0 → f.noAlloc = 0 →
    tileSegs f (s.sources i) (elementEa k f) n = .ok [(0, e, n)] →
    (s.prepared i).reachSegs c [(0, e, n)] .write 0 .write = .ok ([((0, e, n), [(a, n, p)])], s2) → a = e →
    CachedHbm wt (servedPa c p) n p → k.out 1 < 256 →
    ∃ t, exec i s = .next t ∧ MovedOn k (t.core c) ∧ ScalarKept [] k (t.core c) ∧ (∀ d, d ≠ c → (t.core d).unlogged = (s.landed.core d).unlogged) ∧
      (t.core c).regs.rs = k.regs.rs ∧ (t.core c).out 1 = k.out 1 + 1 ∧ CachedStore (s.prepared i) t c k p n (s.source i 0)

/-- R169, R170, R172: `TST` and `SCAT` store an element; where two lanes share an address the higher one stays. R173: `MCST`
stores to the replica that serves the core and to every other one. That an element below 128 bytes scatters the lanes it holds (log
32), and that bytes reach their home at the commit (log 5), are the model's. R253: in a page that the core caches the bytes of a `TST`
stand in the first-level line. -/
def Obligations.ElementStores : Prop :=
  (∀ h f s segs, s.clears (.tst h f) = true →
    let k := s.issuer (.tst h f)
    tileSegs f (s.sources (.tst h f)) (elementEa k f) (k.elemSize f.rr.toNat) = .ok segs → StoresElement (.tst h f) s segs 0) ∧
  (∀ h f s, s.clears (.scat h f) = true →
    let k := s.issuer (.scat h f)
    elementEa k f % laneWidth f = 0 →
    StoresElement (.scat h f) s (laneSegs f (k.elemSize f.rr.toNat) (elementEa k f) (s.source (.scat h f) 4)) (laneSize f)) ∧
  (∀ h f s p s2 sw, s.clears (.mcst h f) = true → s.readable (.mcst h f) = true → s.headsOf (.mcst h f) = [] →
    let c := s.turn
    let k := s.issuer (.mcst h f)
    let ea := elementEa k f
    let n := k.elemSize f.rr.toNat
    let pas := (List.range 4).filterMap fun j => replicaOf c j p
    ea % 16 = 0 → (s.prepared (.mcst h f)).reachPages c ea n .write 0 = .ok [(ea, n, p)] →
    (s.prepared (.mcst h f)).checkReplicas c [(ea, n, p)] = .ok s2 → (∀ pa ∈ pas, Straight sw pa n p) → Unmarked k → k.out 1 + 4 ≤ 256 →
    ∃ t, exec (.mcst h f) s = .next t ∧ MovedOn k (t.core c) ∧ ScalarKept [] k (t.core c) ∧ (∀ d, d ≠ c → (t.core d).unlogged = (s.landed.core d).unlogged) ∧
      WritesCells (s.prepared (.mcst h f)).mem t.mem (pas.flatMap fun pa => (List.range n).map fun j =>
        (((placeOf (pa + j)).getD (.hbm, 0)).2, BitVec.ofNat 8 (s.source (.mcst h f) 0 / 256 ^ j)))) ∧
  CachedElements

namespace Sys2Proof.Claims

/-- The 128-byte lines of a range, as far as its pages have a table entry (R178). -/
def rangeLines (s : State) (c ea n : Nat) : List Nat :=
  ((piecesOf ea n).filterMap fun q => (s.pageOf c q.1).map fun p =>
    (List.range ((servedPa c p % 128 + q.2 + 127) / 128)).map (servedPa c p / 128 + ·)).flatten

end Sys2Proof.Claims

/-- R174, R311: `CPY` starts a copy: its ID and its promise stand in two registers, NEXTID and the count of copies rise. R177,
R315: `CPYQ` appends a packet to the queue at its address, or answers all ones. R178: `PFCH` fills a first-level line of a
page that is cached there and leaves alone what does not translate or is not cached; `FLSH` writes back and invalidates the
first-level lines of its range, or has the slices write theirs back: of device memory a slice holds no line of its own in the model,
so that `PFCH` and `FLSH` of slice scope leave it as it is (log 17). That write-backs, and the packet of a `CPYQ`, are made at the
issue is the model's choice (log 5). -/
def Obligations.CopiesAndCaches : Prop :=
  (∀ h f s s1 s2, s.clears (.cpy h f) = true →
    let c := s.turn
    let p := s.prepared (.cpy h f)
    let k := s.issuer (.cpy h f)
    let dst := (k.sreg f.sa.toNat).toNat
    let src := (k.sreg f.sb.toNat).toNat
    let n := (k.sreg f.sc.toNat).toNat
    let id := (k.csr csrNEXTID).toNat
    let rr := f.rr.toNat % 64
    src % 16 = 0 → dst % 16 = 0 → n % 16 = 0 → n < 2 ^ 40 → src < 2 ^ 56 → dst < 2 ^ 56 →
    (∀ q ∈ piecesOf src n, ∀ pa o, p.physOf c q.1 = some pa → placeOf pa ≠ some (.aperture, o)) →
    p.checkCopy c src n .copySrc id .read = .ok s1 → s1.checkCopy c dst n .copyDst id (.cwrite id) = .ok s2 → k.out 2 < 1024 →
    ∃ t l cp, exec (.cpy h f) s = .next t ∧ MovedOn k (t.core c) ∧ ScalarKept [f.sd.toNat, rr] k (t.core c) ∧
      (∀ d, d ≠ c → (t.core d).uncopied = (s.landed.core d).uncopied) ∧
      (s.copiesDone → ∀ d, d ≠ c → (t.core d).unlogged = (s.landed.core d).unlogged) ∧
      Holds (t.core c) rr (wordN (s2.promiseOf c dst src n k.copies).2) (guardOf (.cpy h f)) ∧
      (f.sd.toNat ≠ rr → Holds (t.core c) f.sd.toNat (k.csr csrNEXTID) (guardOf (.cpy h f))) ∧
      (t.core c).csr csrNEXTID = k.csr csrNEXTID + 1 ∧ (t.core c).out 2 = k.out 2 + (if n = 0 then 0 else 1) ∧
      (t.core c).copies = l ++ [cp] ∧ l.map (fun x => x.id) = k.copies.map (fun x => x.id) ∧ cp.id = id ∧ cp.dst = dst ∧ cp.src = src ∧
      cp.len = n ∧ cp.promise = (s2.promiseOf c dst src n k.copies).2 ∧ cp.complete = (n == 0) ∧ cp.done = 0 ∧ cp.taken = false) ∧
  (∀ h f s p s2 s3, s.clears (.cpyq h f) = true → s.readable (.cpyq h f) = true → s.headsOf (.cpyq h f) = [] →
    let c := s.turn
    let k := s.issuer (.cpyq h f)
    let ea := elementEa k f
    ea % 64 = 0 → 64 ≤ k.elemSize f.rr.toNat → k.l1 = [] → k.out 1 < 256 →
    (s.prepared (.cpyq h f)).reach c ea 64 .atomic 3 .write = .ok ([(ea, 64, p)], s2) → s2.slotReach c p = .ok s3 →
    let q := s3.queueAppend c ea (bytesOf (s.source (.cpyq h f) 0) 64)
    ∃ t, exec (.cpyq h f) s = .next t ∧ MovedOn k (t.core c) ∧ ScalarKept [f.sd.toNat] k (t.core c) ∧
      (∀ d, d ≠ c → (t.core d).unlogged = (s.landed.core d).unlogged) ∧ t.mem = q.2.mem ∧ Holds (t.core c) f.sd.toNat q.1 (guardOf (.cpyq h f)) ∧
      (t.core c).out 1 = k.out 1 + (if q.1 = BitVec.allOnes 64 then 0 else 1)) ∧
  (∀ (s : State) c desc data p, data.length = 64 → s.translate (s.ctxOf c) desc .read = .ok p → (s.core c).l1 = [] → servedPa c p + 64 ≤ 4 * dieBytes →
    let w := fun (j : Nat) => s.homeRead (servedPa c p + 8 * j) 8
    let n := 2 ^ bits (w 1) 4 0
    (n ≤ (w 2 + 2 ^ 64 - w 3) % 2 ^ 64 → (s.queueAppend c desc data).1 = BitVec.allOnes 64 ∧ (s.queueAppend c desc data).2.mem = s.mem) ∧
    ((w 2 + 2 ^ 64 - w 3) % 2 ^ 64 < n →
      let u := s.homeStore c (cellsOf (servedPa c p + 16) 8 (w 2 + 1))
      (s.queueAppend c desc data).1 = wordN (w 2) ∧ u.homeRead (servedPa c p + 16) 8 = (w 2 + 1) % 2 ^ 64 ∧
      ∀ y, u.translate (u.ctxOf c) (bits (w 0) 55 0 + (w 2 % n) * 64) .write = .ok y → servedPa c y + 64 ≤ 4 * dieBytes →
        ∀ j < 64, Memory.byte (s.queueAppend c desc data).2.mem (servedPa c y + j) =
          if 40 ≤ j ∧ j < 48 then BitVec.ofNat 8 (w 2 / 256 ^ (j - 40)) else data.getD j 0)) ∧
  (∀ h f s, s.clears (.pfch h f) = true →
    let c := s.turn
    let p := s.prepared (.pfch h f)
    let k := s.issuer (.pfch h f)
    (∀ e, p.translate (p.ctxOf c) (elementEa k f) .read = .error e → ∃ t, exec (.pfch h f) s = .next t ∧ OnlyCore c p t ∧
      CoreKept k (t.core c) ∧ MovedOn k (t.core c) ∧ ScalarKept [] k (t.core c)) ∧
    (∀ y, p.translate (p.ctxOf c) (elementEa k f) .read = .ok y → y.home = 0 → y.alloc = 2 → f.sco = 0 → servedPa c y < 4 * dieBytes →
      y.pa < 4 * dieBytes →
      ∃ t, exec (.pfch h f) s = .next t ∧ MovedOn k (t.core c) ∧ ScalarKept [] k (t.core c) ∧ (t.core c).regs.rs = k.regs.rs ∧
        (∀ d, d ≠ c → (t.core d).unlogged = (s.landed.core d).unlogged) ∧ ∃ x ∈ (t.core c).l1, x.pa / 128 = servedPa c y / 128) ∧
    (∀ y, p.translate (p.ctxOf c) (elementEa k f) .read = .ok y →
      y.home ≠ 0 ∨ y.alloc = 0 ∨ f.sco = 0 ∧ y.alloc = 1 ∨ f.sco = 1 ∧ servedPa c y < 4 * dieBytes →
      ∃ t, exec (.pfch h f) s = .next t ∧ OnlyCore c p t ∧ CoreKept k (t.core c) ∧ MovedOn k (t.core c) ∧ ScalarKept [] k (t.core c))) ∧
  (∀ h f s, s.clears (.flsh h f) = true →
    let c := s.turn
    let p := s.prepared (.flsh h f)
    let k := s.issuer (.flsh h f)
    let lines := rangeLines p c (elementEa k f) (k.sreg f.sc.toNat).toNat
    k.out 1 < 256 →
    ∃ t, exec (.flsh h f) s = .next t ∧ MovedOn k (t.core c) ∧ ScalarKept [] k (t.core c) ∧ (t.core c).regs.rs = k.regs.rs ∧
      (∀ d, d ≠ c → (t.core d).unlogged = (s.landed.core d).unlogged) ∧
      (t.core c).l1 = (if f.sco = 1 then k.l1 else k.l1.filter fun x => !lines.contains (x.pa / 128)) ∧
      t.mem = (if f.sco = 1 then p.mem else ((k.l1.filter fun x => lines.contains (x.pa / 128)).foldl State.writeBack p).mem) ∧
      (t.core c).out 1 = k.out 1 + (if lines = [] then 0 else 1))

namespace Sys2Proof.Claims

/-- What an operation of the matrix unit leaves of its core. -/
def KeptButMx (p : Nat → Prop) (k k' : Core) : Prop :=
  (∀ n, ¬p n → k'.csr n = k.csr n) ∧ k'.regs.rs = k.regs.rs ∧ k'.regs.gtag = k.regs.gtag ∧
  k'.regs.cells = k.regs.cells ∧ k'.regs.clocks = k.regs.clocks ∧ k'.l1 = k.l1 ∧ k'.wbuf = k.wbuf ∧ k'.copies = k.copies ∧
  k'.flights = k.flights ∧ ScalarKept [] k k'
/-- `i` joins the command queue of the matrix unit as an entry (R154, R159). -/
def Enqueues (i : Instr) (s : State) (e : MxEntry) : Prop :=
  (s.issuer i).out 4 < 5 → ∃ t, exec i s = .next t ∧ OnlyCore s.turn (s.prepared i) t ∧ MovedOn (s.issuer i) (t.core s.turn) ∧
    KeptButMx (· = csrOUT + 4) (s.issuer i) (t.core s.turn) ∧ (t.core s.turn).out 4 = (s.issuer i).out 4 + 1 ∧
    (t.core s.turn).mx = { (s.issuer i).mx with queue := (s.issuer i).mx.queue ++ [e] }

end Sys2Proof.Claims

/-- R157-R159: `MCALL` queues its routine with the parameters and windows of its issue; R160: `MZRO` queues an element to be
zeroed. R156, R166, R168: `MCFG` sets the format setting, and `MACT`, `MSTP` and `MRTN` write the activation table, a block of
the store and the routine table. -/
def Obligations.MatrixOps : Prop :=
  (∀ h f s, s.clears (.mcall h f) = true →
    let k := s.issuer (.mcall h f)
    ∀ x w, encode (.mcall h f) = some (x, w) →
      Enqueues (.mcall h f) s { word := w, wc := (List.range 8).map k.mp, win := windowsOf (k.mx.routines.get 0 f.ri.toNat) k.mp,
                                guard := guardOf (.mcall h f), before := k.ctl.seq }) ∧
  (∀ h f s a, s.clears (.mzro h f) = true →
    let k := s.issuer (.mzro h f)
    let n := k.elemSize f.rr.toNat
    k.resolve f.rr.toNat n true 0 0 = .ok a →
    ∀ x w, encode (.mzro h f) = some (x, w) →
      Enqueues (.mzro h f) s { word := w, wc := [], win := { a := (0, 0), acc := (0, 0), bias := (0, 0), q := (0, 0), w := (0, 0) },
                               guard := guardOf (.mzro h f), zero := some (a, n), before := k.ctl.seq }) ∧
  (∀ h f s acf, s.clears (.mcfg h f) = true →
    let k := s.issuer (.mcfg h f)
    let v := (k.sreg f.sa.toNat).toNat
    mcfgAcf (bits v 5 0) (bits v 11 6) (bits v 17 12) (bit v 18) = some acf →
    ∃ t, exec (.mcfg h f) s = .next t ∧ OnlyCore s.turn (s.prepared (.mcfg h f)) t ∧ MovedOn k (t.core s.turn) ∧
      KeptButMx (· = csrMCF) k (t.core s.turn) ∧ (t.core s.turn).mx = k.mx ∧
      (t.core s.turn).csr csrMCF = wordN (v % 2 ^ 19 + acf * 2 ^ 19)) ∧
  (∀ h f s, s.clears (.mact h f) = true → s.readable (.mact h f) = true →
    let k := s.issuer (.mact h f)
    let v := s.source (.mact h f) 0
    let lo := Fmt.fp32.value (laneN v 4 0)
    let hi := Fmt.fp32.value (laneN v 4 1)
    lo.isNaN = false → lo.isInf = false → hi.isNaN = false → hi.isInf = false → lo.lt hi = true →
    ∃ t, exec (.mact h f) s = .next t ∧ OnlyCore s.turn (s.prepared (.mact h f)) t ∧ MovedOn k (t.core s.turn) ∧
      KeptButMx (fun _ => False) k (t.core s.turn) ∧ (t.core s.turn).mx.act.get 0 f.ri.toNat = v ∧
      (∀ m, m ≠ f.ri.toNat → (t.core s.turn).mx.act.get 0 m = k.mx.act.get 0 m) ∧
      (t.core s.turn).mx.queue = k.mx.queue ∧ (t.core s.turn).mx.routines = k.mx.routines ∧ (t.core s.turn).mx.store = k.mx.store) ∧
  (∀ h f s, s.clears (.mstp h f) = true → s.readable (.mstp h f) = true →
    let k := s.issuer (.mstp h f)
    let word := fun (j : Nat) => wordN (laneN (s.source (.mstp h f) 0) 8 j)
    (∀ j < 16, stepOk (word j) = true) →
    ∃ t, exec (.mstp h f) s = .next t ∧ OnlyCore s.turn (s.prepared (.mstp h f)) t ∧ MovedOn k (t.core s.turn) ∧
      KeptButMx (fun _ => False) k (t.core s.turn) ∧
      (∀ m, (t.core s.turn).mx.store.get 0 m = if m / 16 = f.ri.toNat then word (m % 16) else k.mx.store.get 0 m) ∧
      (t.core s.turn).mx.queue = k.mx.queue ∧ (t.core s.turn).mx.routines = k.mx.routines ∧ (t.core s.turn).mx.act = k.mx.act) ∧
  (∀ h f s, s.clears (.mrtn h f) = true →
    let k := s.issuer (.mrtn h f)
    routineOk (k.sreg f.sa.toNat) = true →
    ∃ t, exec (.mrtn h f) s = .next t ∧ OnlyCore s.turn (s.prepared (.mrtn h f)) t ∧ MovedOn k (t.core s.turn) ∧
      KeptButMx (fun _ => False) k (t.core s.turn) ∧
      (∀ m, (t.core s.turn).mx.routines.get 0 m = if m = f.ri.toNat then k.sreg f.sa.toNat else k.mx.routines.get 0 m) ∧
      (t.core s.turn).mx.queue = k.mx.queue ∧ (t.core s.turn).mx.store = k.mx.store ∧ (t.core s.turn).mx.act = k.mx.act)

namespace Sys2Proof.Claims

/-- The re-issue that slot x alone makes at the program counter (R77). -/
def again (s : State) (x : Slot) : SlotOp :=
  (s.landed.core s.turn).slotIssue x ((s.landed.core s.turn).word x.ix) ((s.landed.core s.turn).count x.ix) (s.landed.core s.turn).ctl.pc
/-- The machine in which its steps are taken. -/
def againIn (s : State) (x : Slot) : State := s.landed.freshenOps s.turn [again s x]
/-- The core whose turn it is stands at an issue in which slot x re-issues, and that passes the steps of R97 and executes. -/
def Reissues (s : State) (x : Slot) : Prop :=
  s.atIssue s.turn = true ∧ (s.core s.turn).word x.ix ≠ 0 ∧ (s.beforeIssue s.turn).1 = none ∧ s.landed.heldBy s.turn [again s x] = 0 ∧
  (againIn s x).checkSteps s.turn { h := (s.landed.core s.turn).ctl.pc, len := 8 } [again s x] = none ∧
  (again s x).live ((againIn s x).core s.turn) = true
/-- A scalar register field after n issues: it has moved by n times its signed stride (R78). -/
def stepped (k : Core) (r : BitVec 6) (j n : Nat) : Nat :=
  (((r.toNat : Int) + n * sextN ((k.csr csrSDS).toNat / 256 ^ j % 256) 8) % 64).toNat

end Sys2Proof.Claims

/-- R76-R78: a header without words re-issues a slot's word with its register fields stepped by the slot's strides; here `ADD`,
issued n times before. R96, R97: an opcode that the part does not have traps ILLOP in the decode step. -/
def Obligations.ReissueAndIllegal : Prop :=
  (∀ (h : Head) (f : SR) s w, encode (.add h f) = some (.s, w) → (s.landed.core s.turn).word Slot.s.ix = w → Reissues s .s →
    let k := s.landed.core s.turn
    let n := k.count Slot.s.ix
    ∃ t, exec (.stickyReissue .s) s = .next t ∧ OnlyCore s.turn (againIn s .s) t ∧ CoreKept k (t.core s.turn) ∧
      (t.core s.turn).ctl.pc = k.ctl.pc + 8 ∧ (t.core s.turn).ctl.rep = 0 ∧
      ScalarKept [stepped k f.sd 3 n] k (t.core s.turn) ∧
      Holds (t.core s.turn) (stepped k f.sd 3 n) (k.sreg (stepped k f.sa 2 n) + k.sreg (stepped k f.sb 1 n)) h.gk.toNat ∧
      (t.core s.turn).word Slot.s.ix = w ∧ (t.core s.turn).count Slot.s.ix = n + 1) ∧
  (∀ (h : Head) (w : Word) s, s.atIssue s.turn = true → bits w.toNat 63 60 ≠ 0xF → opcodeClass (bits w.toNat 63 56) = none →
    (s.beforeIssue s.turn).1 = none →
    exec (.illegalOpcode h w) s = .next (s.landed.faultIssue s.turn { h := (s.landed.core s.turn).ctl.pc, len := 16 }
      { cause := cILLOP, step := 3, fmask := 2 ^ h.slot.maskBit, frs := [w, wordN ((s.landed.core s.turn).ctl.pc + 8)] })) ∧
  (∀ i s, s.passes i = true → s.guards i = false → (slotOp i).nop = false → (slotOp i).nullified = (fun _ _ => []) →
    (slotOp i).pre = (fun _ _ => []) → (slotOp i).transfer = false →
    ∃ t, exec i s = .next t ∧ OnlyCore s.turn (s.prepared i) t ∧ CoreKept (s.issuer i) (t.core s.turn) ∧
      MovedOn (s.issuer i) (t.core s.turn) ∧ ScalarKept [] (s.issuer i) (t.core s.turn) ∧
      (t.core s.turn).flights = (s.issuer i).flights)

namespace Sys2Proof.Claims

/-- Control register n of core c takes v, and nothing else of the machine changes. -/
def Sets (i : Instr) (s : State) (c n : Nat) (v : Word) : Prop :=
  ∃ t, exec i s = .next t ∧ OnlyCore c s t ∧ (t.core c).csr n = v ∧ (∀ m, m ≠ n → (t.core c).csr m = (s.core c).csr m) ∧
    t.core c = { s.core c with regs := { (s.core c).regs with csr := (t.core c).regs.csr } }
/-- A value formed by a register write, its res-z bits cleared. -/
def kept (s : State) (c : Nat) (k : CsrOp) (n : Nat) (x : Word) : Word := formed k ((s.core c).csr n) x &&& csrMask n

end Sys2Proof.Claims

/-- R129, R217, R222, R223, R231, R361, R362: the register writes that have rows of their own, and what refuses them. A
refused value leaves the machine as it is (log 3). -/
def Obligations.RegisterEvents : Prop :=
  (∀ c k (n : BitVec 3) x s, viewOk (kept s c k (csrVW + n.toNat) x) = true →
    Sets (.viewRegisterWrite c k n x) s c (csrVW + n.toNat) (kept s c k (csrVW + n.toNat) x)) ∧
  (∀ c k (n : BitVec 3) x s, viewOk (kept s c k (csrVW + n.toNat) x) = false → exec (.viewRegisterWrite c k n x) s = .next s) ∧
  (∀ c (i : BitVec 5) s, bit ((s.core c).csr (csrVWL + i.toNat)).toNat 63 = true →
    viewOk ((s.core c).csr (csrVWL + i.toNat) &&& csrMask csrVW) = true →
    Sets (.vwlPresetLoad c i) s c (csrVW + bits ((s.core c).csr (csrVWL + i.toNat)).toNat 46 44)
      ((s.core c).csr (csrVWL + i.toNat) &&& csrMask csrVW)) ∧
  (∀ c k x s, Sets (.tstatWrite c k x) s c csrTSTAT
    (if k ≠ .clear ∧ x.toNat % 2 = 1 then (s.core c).csr csrTSTAT ||| 1 else (s.core c).csr csrTSTAT)) ∧
  (∀ c k x s, Sets (.prdWrite c k x) s c csrPRD (kept s c k csrPRD x)) ∧
  (∀ c k x s, (∀ j < 4, bits (kept s c k csrPMEV x).toNat (8 * j + 7) (8 * j) ≤ 14) →
    Sets (.pmevWrite c k x) s c csrPMEV (kept s c k csrPMEV x)) ∧
  (∀ c k (n : BitVec 2) x s, Sets (.pmcWrite c k n x) s c (csrPMC + n.toNat) (formed k ((s.core c).csr (csrPMC + n.toNat)) x)) ∧
  (∀ c k (n : BitVec 12) x s, plainRegister n.toNat = true → n.toNat ≠ csrPRD →
    n.toNat < csrPMC ∨ csrPMC + 4 ≤ n.toNat →
    Sets (.registerWrite c k n x) s c n.toNat (kept s c k n.toNat x))

namespace Sys2Proof.Claims

/-- An operation in flight of core c ends: it is gone, its class has one less outstanding, and nothing else of the machine
changes but this core. -/
def Ends (i : Instr) (s : State) (c id cls : Nat) (q : Core → Core → Prop) : Prop :=
  ∃ t, exec i s = .next t ∧ OnlyCore c s t ∧ (∀ g ∈ (t.core c).flights, g.id ≠ id) ∧
    (0 < (s.core c).out cls → (t.core c).out cls = (s.core c).out cls - 1) ∧ (t.core c).ctl = (s.core c).ctl ∧ q (s.core c) (t.core c)

end Sys2Proof.Claims

/-- R81, R112, R138: results of an exposed latency that are due land. R170, R211: a load's data and an atomic's old value arrive in their
register or element with the guard as tag, and the count falls; what a later write has replaced is discarded (R81). R253, R259, R268: a store performs; one to host memory once its completion returns. R171: a `TLDW` writes the bytes of
the weight buffer that no later one has written, block by block: a block that an earlier `MCALL` marks waits, the others are written,
and with the last block the load ends. That an event that is not enabled changes nothing is the model's choice (log 3). -/
def Sys2Proof.Claims.ResultsArrive : Prop :=
  (∀ c s, ∃ t, exec (.vectorResultWrite c) s = .next t ∧ OnlyCore c s t ∧
    t.core c = ((s.core c).landDue (s.cycleOf c) false).landDue (s.cycleOf c) true) ∧
  (∀ c id s f r x, (s.core c).flight id = some f → f.what = .load (.sreg r) x → f.live = true →
    Ends (.loadDataArrival c id) s c id 0 fun k k' => Holds k' r (wordN x) f.guard ∧ ScalarKept [r] k k' ∧ k'.regs.rs = k.regs.rs) ∧
  (∀ c id s f r x, (s.core c).flight id = some f → f.what = .load (.sreg r) x → f.live = false →
    Ends (.loadDataArrival c id) s c id 0 fun k k' => ScalarKept [] k k' ∧ k'.regs.rs = k.regs.rs) ∧
  (∀ c id s f a n x, (s.core c).flight id = some f → f.what = .load (.space a n) x →
    Ends (.loadDataArrival c id) s c id 0 fun k k' => ScalarKept [] k k' ∧
      (∀ j < n, k'.space (a + j) 1 = if f.skip.any (fun r => decide (r.1 ≤ a + j ∧ a + j < r.1 + r.2)) then k.space (a + j) 1
        else x / 256 ^ j % 256) ∧
      (∀ b, b < a ∨ a + n ≤ b → k'.space b 1 = k.space b 1) ∧ (f.skip = [] → ∀ g ∈ granulesOf a n, k'.gtag g = f.guard)) ∧
  (∀ c id s f r x scope, (s.core c).flight id = some f → f.what = .atomic (.sreg r) x scope → f.live = true →
    Ends (.atomicPerform c id) s c id 3 fun k k' => Holds k' r x f.guard ∧ ScalarKept [r] k k') ∧
  (∀ c id s f x scope, (s.core c).flight id = some f → f.what = .atomic .none x scope →
    Ends (.atomicPerform c id) s c id 3 fun k k' => ScalarKept [] k k') ∧
  (∀ c id s f ls lt far, (s.core c).flight id = some f → f.what = .store ls false lt far → f.live = true → (s.core c).l1 = [] →
    Ends (.storePerform c id) s c id 1 fun k k' => k'.regs.rs = k.regs.rs ∧ ScalarKept [] k k') ∧
  (∀ c id s f ls lt far, (s.core c).flight id = some f → f.what = .store ls true lt far → f.live = true → (s.core c).l1 = [] →
    ∃ t, exec (.storePerform c id) s = .next t ∧ OnlyCore c s t ∧ (∀ j, (t.core c).csr j = (s.core c).csr j) ∧
      ∃ g, (t.core c).flight id = some g ∧ g.live = false ∧ g.what = f.what) ∧
  (∀ c id s f ls lt far, (s.core c).flight id = some f → f.what = .store ls true lt far → f.live = false →
    Ends (.hostWriteCompletion c id) s c id 1 fun k k' => k'.regs.rs = k.regs.rs ∧ ScalarKept [] k k') ∧
  (∀ c id s f off data, (s.core c).flight id = some f → f.what = .tldw off data → off < 98304 → off + data.length ≤ 98304 →
    let written := fun (t : State) (b : Nat) => linesRead (t.core c).wbuf b 1 =
      if off ≤ b ∧ b < off + data.length ∧ f.hasWritten b = false ∧ (s.core c).blockMarked f.id (b / 1024) = false then (data.getD (b - off) 0).toNat
      else linesRead (s.core c).wbuf b 1
    ((s.core c).blockHeld f off data.length = true →
      ∃ t, exec (.tldwBlockWrite c id) s = .next t ∧ OnlyCore c s t ∧ (t.core c).ctl = (s.core c).ctl ∧ (t.core c).out 0 = (s.core c).out 0 ∧
        ((t.core c).flight id).map (fun g => g.what) = some f.what ∧ ∀ b, written t b) ∧
    ((s.core c).blockHeld f off data.length = false → Ends (.tldwBlockWrite c id) s c id 0 fun k k' =>
      ∀ b, linesRead k'.wbuf b 1 = if off ≤ b ∧ b < off + data.length ∧ f.hasWritten b = false then (data.getD (b - off) 0).toNat
        else linesRead k.wbuf b 1))

/-- R204: an `LTIN` arrives once the core's earlier stores to the latch's handoff pages have performed; the latch passes at
its count. R197, R305: a claimed cell's data and header reach the consumer's ring, stamp, FULL and, for a value, present.
That an event that is not enabled changes nothing is the model's choice (log 3). -/
def Sys2Proof.Claims.LatchAndCellArrivals : Prop :=
  (∀ c id s f l, (s.core c).flight id = some f → f.what = .ltin l →
    (∀ g ∈ (s.core c).flights, g.id < id → g.live = true → ∀ ls hst ts far, g.what = .store ls hst ts far → l ∉ ts) →
    ∃ t, exec (.latchArrival c id) s = .next t ∧ (∀ d, d ≠ c → t.core d = s.core d) ∧ (∀ g ∈ (t.core c).flights, g.id ≠ id) ∧
      (t.latch l).n = (s.latch l).n ∧ (t.latch l).a = (s.latch l).a + 1 ∧
      ((t.latch l).passed = true ↔ (s.latch l).passed = true ∨ (s.latch l).a + 1 = (s.latch l).n) ∧
      ∀ m, m ≠ l → t.latch m = s.latch m) ∧
  (∀ c id s f l g ls hst ts far, (s.core c).flight id = some f → f.what = .ltin l → g ∈ (s.core c).flights → g.id < id → g.live = true →
    g.what = .store ls hst ts far → l ∈ ts → exec (.latchArrival c id) s = .next s) ∧
  (∀ c id s f key ring data stamp pres a, (s.core c).flight id = some f → f.what = .cell key ring data stamp pres →
    s.cellPlace (s.channel key) ring = some a → data.length ≤ (s.channel key).cell → stamp < 2 ^ 64 →
    ∃ t, exec (.cellStamp c id) s = .next t ∧ (∀ d, d ≠ c → t.core d = s.core d) ∧ (∀ g ∈ (t.core c).flights, g.id ≠ id) ∧
      (0 < (s.core c).out 1 → pres = true → (t.core c).out 1 = (s.core c).out 1 - 1) ∧
      t.cellStamp a = stamp ∧ t.cellFull a = true ∧ t.cellPres a = pres ∧
      (∀ j < data.length, Memory.byte t.mem (a + 16 + j) = data.getD j 0) ∧
      ∀ b, b < a ∨ a + 16 + data.length ≤ b → Memory.byte t.mem b = Memory.byte s.mem b)
/-- R225, R268, R197, R204, R305, R360: what is in flight arrives, as `ResultsArrive` and `LatchAndCellArrivals` say. -/
def Obligations.DataArrive : Prop := ResultsArrive ∧ LatchAndCellArrivals

namespace Sys2Proof.Claims

/-- A copy whose destination is one range of HBM that nothing has written since, and of which no byte is done. -/
def PlainCopy (s : State) (c : Nat) (x : Copy) (p : Page) : Prop :=
  piecesOf x.dst x.len = [(x.dst, x.len)] ∧ s.translate (s.ctxOf c) x.dst .copyDst = .ok p ∧ servedPa c p + x.len ≤ 4 * dieBytes ∧
  x.skip = [] ∧ x.todo = [] ∧ x.done = 0 ∧ x.data.length = x.len ∧ 0 < x.len

end Sys2Proof.Claims

/-- R174: the last byte of a copy performs, its count falls and CPWM advances. R175: at a page that fails a copy stops, and
the trap is owed to the core's next issue; the supervisor resumes it with its promise moved by the stop, once its pages and the
checker admit it (R274). R176: a copy that was incomplete at its promise owes PROMISE, once. That a copy performs in one event, and that an event that is not enabled changes nothing, are
the model's choices (log 3, log 5). -/
def Obligations.CopyEvents : Prop :=
  (∀ c id s x p, (s.core c).copy id = some x → x.complete = false → x.stopped = none → (s.copyReach c x).2 = none → PlainCopy s c x p →
    (s.core c).l1 = [] →
    ∃ t, exec (.copyCompletion c id) s = .next t ∧ (∀ d, d ≠ c → t.core d = s.core d) ∧
      (∀ j < x.len, Memory.byte t.mem (servedPa c p + j) = x.data.getD j 0) ∧
      (∀ a, a < servedPa c p ∨ servedPa c p + x.len ≤ a → Memory.byte t.mem a = Memory.byte s.mem a) ∧
      (∀ y ∈ (t.core c).copies, y.id = id → y.complete = true) ∧
      (0 < (s.core c).out 2 → (t.core c).out 2 = (s.core c).out 2 - 1) ∧ (t.core c).csr csrCPWM = (t.core c).watermark) ∧
  (∀ c id s x n a k e, (s.core c).copy id = some x → x.complete = false → x.stopped = none → x.todo = [] →
    s.copyReach c x = (n, some (a, k, e)) →
    ∃ t, exec (.copyFault c id) s = .next t ∧ (∀ d, d ≠ c → t.core d = s.core d) ∧
      (t.core c).ctl.owed = (s.core c).ctl.owed ++ [{ cause := e, step := 7, frs := copyFrs a k id n }] ∧
      ∀ y ∈ (t.core c).copies, y.id = id → y.stopped = some s.now ∧ y.done = n) ∧
  (∀ c id s x u, (s.core c).copy id = some x → x.stopped = some u →
    let m := (s.copyAdmit c x).2.copyMore c x
    (s.copyAdmit c x).1 = none →
    x.done < (m.2.copyReach c { ((m.2.core c).copy id).getD x with data := x.data ++ m.1 }).1 →
    ∃ t, exec (.copyResumption c id) s = .next t ∧
      ∀ y ∈ (t.core c).copies, y.id = id → y.stopped = none ∧ y.fault = none ∧ y.done = x.done ∧ y.promise = x.promise + (s.now - u)) ∧
  (∀ c s x, (s.core c).copies = [x] → x.late = true ∨ (x.complete = false ∧ x.promise ≤ s.now) → x.taken = false → x.stopped = none →
    ∃ t, exec (.promise c) s = .next t ∧ OnlyCore c s t ∧ (t.core c).copies = [{ x with taken := true }] ∧
      (t.core c).ctl.owed = (s.core c).ctl.owed ++ [{ cause := cPROMISE, step := 7, frs := [wordN x.id, wordN x.promise, wordN x.done] }]) ∧
  (∀ c s, (∀ x ∈ (s.core c).copies, (x.late = false ∧ (x.complete = true ∨ s.now < x.promise)) ∨ x.taken = true ∨ x.stopped ≠ none) →
    exec (.promise c) s = .next s)

namespace Sys2Proof.Claims

/-- The leaf entries that map the frame of an address, where they can map another one. -/
def frameLeaves (s : State) (a frame : Nat) : List (Nat × Nat × Nat) :=
  (s.contexts.flatMap fun d => if bit d.2.toNat 63 then s.leaves 4 0 (bits d.2.toNat 47 16 * 2 ^ 16) else []).filter fun l =>
    decide (bits l.2.1 31 0 ≤ a / 65536) && decide (a / 65536 < bits l.2.1 31 0 + l.2.2 / 65536) && frame % (l.2.2 / 65536) == 0
/-- The waiting bundle of core c commits, its one wait `x` ended with an outcome: the core stands at the bundle that issues
next, and the status is in its register (R9, R77, R183). -/
def Commits (c : Nat) (s t : State) (w : Waiting) (x : Wait) (code detail mask : Nat) : Prop :=
  (t.core c).ctl.pc = w.next ∧ (t.core c).ctl.rep = w.rep ∧ (t.core c).ctl.wait = none ∧
  Holds (t.core c) x.st (statusWord code detail mask) x.guard ∧ ScalarKept [x.st] (s.core c) (t.core c)
/-- Core c waits with one wait and nothing else to do at the commit. -/
def WaitsFor (s : State) (c : Nat) (w : Waiting) (x : Wait) : Prop :=
  s.isWaiting c = true ∧ (s.core c).ctl.wait = some w ∧ w.waits = [x] ∧ (∀ e ∈ w.effs, e.2.2 = [] ∧ e.1 = x.slot) ∧ w.effs.length = 1 ∧
  x.out = none
/-- The count of consecutive timeouts and its limit (R185). -/
def nextEscn (k : Core) : Nat := min ((k.csr csrESCN).toNat + 1) 65535
def escalates (s : State) (c : Nat) (x : Wait) : Prop :=
  x.esc = true ∨ bits (s.teamRegion c 7 5) 63 48 ≠ 0 ∧ bits (s.teamRegion c 7 5) 63 48 ≤ nextEscn (s.core c)

/-- A request for level n of core d fits in what its cluster allows (R375). -/
def fits (s : State) (cl d n : Nat) : Bool := decide (s.grantSum cl + budget n ≤ (s.cluster cl).cal + budget (s.core d).heldLevel)
/-- The wait is no `PWRA`, or it is one whose request stands first in its cluster's queue, or the first request there does not fit (R375). -/
def firstAsked (s : State) (c : Nat) (x : Wait) : Prop :=
  ∀ n d m e l, x.kind = .pwra n → (s.cluster (clusterOf c)).grants = (d, m, e) :: l → (d = c ∧ m = n) ∨ fits s (clusterOf c) d m = false
/-- The outcome with which a wait with a status ends as its condition is looked at: code, detail and mask; none while it does not hold
(R183, R184, R196, R197, R199, R202, R204-R206, R299, R323, R375). -/
def outcome (s : State) (c : Nat) (x : Wait) : Option (Nat × Nat × Nat) :=
  let k := s.core c
  match x.kind with
  | .chwr key _ =>
    if (k.ic : Int) ≤ (s.channel key).lw then some (stDENIED, 0, 0)
    else if s.cellFree key then some (stOK, 0, (s.claimCell c key).occupied key) else none
  | .chrd key dst =>
    let u := s.discardStale key k.ic ((s.channel key).depth + 1)
    let n := min (x.stale + u.1) 255
    match u.2.headCell key with
    | none => none
    | some a =>
      if u.2.cellFull a = false then none
      else if k.ic < u.2.cellStamp a then some (stABSENT, n, u.2.occupied key)
      else some (if u.2.cellPres a then stOK else stABSENT, n, u.2.occupied key - (if dst.isSome then 1 else 0))
  | .bar o =>
    if (s.barrier o).release.any (fun r => r.1 == c && decide (r.2.1 ≤ s.now) && decide (r.2.2 ≤ s.cycleOf c)) then
      some (stOK, 0, (s.barrier o).members.length) else none
  | .ltwt l => if (s.latch l).passed then some (stOK, 0, (s.latch l).a) else none
  | .drn scope mask before => if k.drainedMask scope mask before = mask then some (stOK, 0, mask) else none
  | .waitc ld sd cp mx =>
    if [(ld, 0), (sd, 1), (cp, 2), (mx, 4)].all (fun q => q.1 == 31 || decide (k.out q.2 ≤ q.1)) then some (stOK, 0, k.countsWord) else none
  | .pwra n => if (s.cluster (clusterOf c)).grants.head?.any (fun g => g.1 == c && g.2.1 == n) && fits s (clusterOf c) c n then some (stOK, 0, n) else none
  | .cpost q => if s.bucketFree c q.bucket then some (stOK, 0, k.ctl.posts) else none
  | .rrcv key _ =>
    match assoc s.reductions key with
    | none => none
    | some r =>
      match s.memberIx c r.receivers with
      | none => none
      | some i =>
        let d := r.round (r.asked.get 0 i)
        match d.cancelled with
        | some j =>
          if j = everyReceiver ∧ i ∉ d.asking then none
          else some (if j = i ∨ j = everyReceiver then stTIMEOUT else stCANCELLED, 0, d.arrived)
        | none => if d.result.isSome ∧ d.delivered then some (stOK, 0, 2 ^ r.contributors.length - 1) else none
  | .absn _ => none
  | .sleep _ => none
/-- The outcome with which a wait ends as its deadline passes before its condition holds (R184); a member of a reduction asks its root and
goes on to wait (R324), as does a member of a barrier that is released. -/
def lapse (s : State) (c : Nat) (x : Wait) : Option (Nat × Nat × Nat) :=
  let k := s.core c
  match x.kind with
  | .chwr key _ => some (stTIMEOUT, 0, (s.channel key).depth)
  | .chrd key _ =>
    let u := s.discardStale key k.ic ((s.channel key).depth + 1)
    some (stTIMEOUT, min (x.stale + u.1) 255, u.2.occupied key)
  | .bar o => if (s.barrier o).release.any fun r => r.1 == c then none else some (stTIMEOUT, 0, s.arrivals o)
  | .ltwt l => some (stTIMEOUT, 0, (s.latch l).a)
  | .drn scope mask before => some (stPARTIAL, 0, k.drainedMask scope mask before)
  | .waitc .. => some (stTIMEOUT, 0, k.countsWord)
  | .pwra _ => some (stTIMEOUT, 0, k.ctl.level)
  | .cpost _ => some (stFULL, 0, 0)
  | .rrcv .. => none
  | .absn _ => none
  | .sleep _ => none
/-- Event `i` ends the one wait of core c with an outcome: the bundle commits. One that is no timeout sets ESCN to 0; a timeout raises it by
1 and sets TXP, and where it escalates ESCAL is taken behind the commit, and the core stops for the supervisor (R183-R185, R235). -/
def Ended (i : Instr) (c : Nat) (s : State) (w : Waiting) (x : Wait) (o : Nat × Nat × Nat) : Prop :=
  (isTimeout o.1 = false → ∃ t, exec i s = .next t ∧ Commits c s t w x o.1 o.2.1 o.2.2 ∧ (t.core c).csr csrESCN = 0 ∧
    (t.core c).ctl.mode = (s.core c).ctl.mode ∧ ∀ n, x.kind = .pwra n → (t.core c).ctl.level = n) ∧
  (isTimeout o.1 = true → ¬escalates s c x → ∃ t, exec i s = .next t ∧ Commits c s t w x o.1 o.2.1 o.2.2 ∧
    (t.core c).csr csrESCN = wordN (nextEscn (s.core c)) ∧ (t.core c).txp = true ∧ (t.core c).ctl.mode = (s.core c).ctl.mode) ∧
  (isTimeout o.1 = true → escalates s c x → alone s c → (s.core c).handler = false → ∃ t, exec i s = .next t ∧
    Commits c s t w x o.1 o.2.1 o.2.2 ∧ (t.core c).csr csrESCN = 0 ∧ (t.core c).ctl.mode = .stopped ∧
    Recorded (t.core c) w.fra w.next cESCAL 0 [statusWord o.1 o.2.1 o.2.2, wordN (nextEscn (s.core c)), x.word])
/-- Event `i` leaves core c waiting, with its registers as they were. -/
def StillWaits (i : Instr) (c : Nat) (s : State) : Prop :=
  ∃ t, exec i s = .next t ∧ (t.core c).regs = (s.core c).regs ∧ (t.core c).ctl.pc = (s.core c).ctl.pc ∧
    ∃ v, (t.core c).ctl.wait = some v ∧ ∀ y ∈ v.waits, y.out = none

end Sys2Proof.Claims

/-- R182-R186: the one wait of a bundle ends with its outcome once its condition holds, be its deadline past or not; before, it goes on to
wait until its deadline, which ends it as R184 says, and a member of a reduction asks its root (R324). That holds of `CHWR`, `CHRD`,
`CHRDY`, the barriers, `LTWT`, `DRN`, `WAITC`, `PWRA`, `CPOST` and `RRCV`. `SLEEP` and `ABSN` end without a status (R198, R207), and a
marker's deadline gives ESCAL without a commit (R198). What is tentative is confirmed at the commit, or the bundle is taken back and keeps
its wait (R186, R242, R275). -/
def Obligations.WaitsEnd : Prop :=
  (∀ c s w x, WaitsFor s c w x → (∀ key, x.kind ≠ .absn key) → (∀ n, x.kind ≠ .sleep n) → firstAsked s c x →
    match outcome s c x with
    | some o => Ended (.waitResolve c) c s w x o ∧ Ended (.deadlineExpiry c) c s w x o
    | none => StillWaits (.waitResolve c) c s ∧ (s.expired c w x = false → StillWaits (.deadlineExpiry c) c s) ∧
      (s.expired c w x = true → match lapse s c x with
        | some o => Ended (.deadlineExpiry c) c s w x o
        | none => StillWaits (.deadlineExpiry c) c s)) ∧
  (∀ c s w x key a r i, WaitsFor s c w x → x.kind = .rrcv key a → outcome s c x = none → s.expired c w x = true →
    assoc s.reductions key = some r → s.memberIx c r.receivers = some i →
    ∃ t, exec (.deadlineExpiry c) s = .next t ∧ ∃ r', assoc t.reductions key = some r' ∧ i ∈ (r'.round (r.asked.get 0 i)).asking) ∧
  (∀ c s w x, WaitsFor s c w x →
    let due := match x.kind with
      | .sleep n => n ≤ s.now
      | .absn key => ((s.core c).ic : Int) ≤ (s.channel key).lw ∨ s.cellFree key = true
      | _ => False
    due → ∃ t, exec (.waitResolve c) s = .next t ∧ (t.core c).ctl.pc = w.next ∧ (t.core c).ctl.rep = w.rep ∧ (t.core c).ctl.wait = none ∧
      (t.core c).ctl.mode = (s.core c).ctl.mode ∧ ScalarKept [] (s.core c) (t.core c) ∧ (t.core c).csr csrESCN = (s.core c).csr csrESCN) ∧
  (∀ c s w x n, WaitsFor s c w x → x.kind = .sleep n → s.now < n → StillWaits (.waitResolve c) c s ∧ StillWaits (.deadlineExpiry c) c s) ∧
  (∀ c s w x key, WaitsFor s c w x → x.kind = .absn key → s.cellFree key = false → (s.channel key).lw < ((s.core c).ic : Int) →
    s.expired c w x = true → alone s c → (s.core c).handler = false →
    ∃ t, exec (.markerDeadlineExpiry c) s = .next t ∧ (t.core c).ctl.wait = none ∧ (t.core c).ctl.pc = (s.core c).ctl.pc ∧
      (t.core c).ctl.mode = .stopped ∧ (t.core c).txp = true ∧ (t.core c).csr csrESCN = 0 ∧ (t.core c).csr csrTCAUSE = wordN cESCAL ∧
      (t.core c).csr csrFRS = statusWord stTIMEOUT 0 0 ∧ (t.core c).csr (csrFRS + 1) = (s.core c).csr csrESCN) ∧
  (∀ c s w x l, s.isWaiting c = true → (s.core c).ctl.wait = some w → w.waits = [x] → w.effs = [] → x.kind = .ltwt l → x.out.isSome = true →
    ∃ t, exec (.conflictEntryConfirm c true) s = .next t ∧ (t.core c).ctl.wait = none ∧ (t.core c).ctl.pc = w.next ∧
      ∀ u ∈ w.undo, ∀ e, assoc t.granules u.1 = some e → ∀ y ∈ e.tent, y.1 ≠ c) ∧
  (∀ c s w dl, s.isWaiting c = true → (s.core c).ctl.wait = some w → (s.teamOf c).yreq = some dl → dl ≤ s.now →
    ∃ t, exec (.conflictEntryConfirm c false) s = .next t ∧ (t.core c).ctl.wait = none ∧ (t.core c).ctl.pc = (s.core c).ctl.pc ∧
      (t.core c).ctl.back = some { pc := (s.core c).ctl.pc, rep := (s.core c).ctl.rep, t0 := w.t0, rt0 := w.rt0, waits := w.waits } ∧ (t.core c).regs = (s.core c).regs)

/-- R26, R201, R202, R272: a phase in which every member's arrival counts completes: the next phase opens without arrivals
and each member has its release time; a team barrier flips its team's parity (R280). A member resumes when its time has come.
That an event that is not enabled changes nothing is the model's choice (log 3). -/
def Obligations.BarrierPhases : Prop :=
  (∀ o s, s.phaseComplete o = true →
    ∃ t, exec (.barrierCompletion o) s = .next t ∧ (t.barrier o).phase = (s.barrier o).phase + 1 ∧ (t.barrier o).arrivals = [] ∧
      (t.barrier o).members = (s.barrier o).members ∧
      (∀ m ∈ (s.barrier o).members,
        let skew := (s.core m.1).ctl.gpos * (s.teamOf m.1).skew
        (if (s.barrier o).inTicks then (m.1, s.now + m.2 * (s.barrier o).spacing, s.cycleOf m.1 + skew)
          else (m.1, s.now, s.cycleOf m.1 + m.2 * (s.barrier o).spacing + skew)) ∈ (t.barrier o).release) ∧
      ∀ u, (s.barrier o).owner = u + 1 → (t.team u).parity = (s.team u).parity + 1) ∧
  (∀ o s, s.phaseComplete o = false → exec (.barrierCompletion o) s = .next s) ∧
  (∀ c s w x o, WaitsFor s c w x → x.kind = .bar o → Released s c o →
    ∃ t, exec (.memberResume c) s = .next t ∧ Commits c s t w x stOK 0 (s.barrier o).members.length ∧ (t.core c).csr csrESCN = 0 ∧
      ¬∃ r ∈ (t.barrier o).release, r.1 = c) ∧
  (∀ c s w x o, WaitsFor s c w x → x.kind = .bar o → ¬Released s c o → exec (.memberResume c) s = .next s)

namespace Sys2Proof.Claims

/-- The products of a chunk for a partial sum, the m-th behind the present chunk pointers: those with an element outside the loaded
staging are +0 (R60, R162). -/
def products (k : Core) (r : Routine) (i j m : Nat) : List (XVal × XVal) :=
  let c := chunkOf (mcfFmt k 5 0)
  (List.range c).map fun t =>
    let a := (r.ka + m) * c + t
    let b := (r.kb + m) * c + t
    if r.loadedA ≤ a ∨ r.loadedB ≤ b then (.fin false 0 0, .fin false 0 0)
    else ((mcfFmt k 5 0).value (r.stA.get 0 (i * 8192 + a)), unpackVal (r.stB.get (0, 0, 0) (b * 128 + j)))
/-- A partial sum after m chunks (R61, R162). -/
def macSum (k : Core) (r : Routine) (i j : Nat) : Nat → Nat
  | 0 => r.p i j
  | m + 1 => (chunkStep (accFmt k) (macSum k r i j m) (products k r i j m)).1
/-- The address of an element of a step's block, whose rows have the stride of its descriptor (R157, R162). -/
def elementAt (r : Routine) (w i j wid : Nat) : Nat :=
  let d := r.wc.getD (stP w) 0
  descAddr d + stA16 w + i * descStride d + j * wid
/-- A partial sum behind the bias and the activation of a `CHN` step (R69, R164). -/
def chained (k : Core) (r : Routine) (w i j : Nat) : Nat :=
  let acc := accFmt k
  let d := r.wc.getD (stP w) 0
  let b := k.winRead r.entry.win.bias (descAddr d + j * acc.wid) acc.wid
  let x := if bit w 0 && cmdBIAS r.entry.word then (ovf acc 0 ((acc.value (r.p i j)).add 0 (acc.value b)).1).1 else r.p i j
  if bit w 1 && cmdACT r.entry.word then (activation k (cmdATAB r.entry.word) x).1 else x
/-- Byte t of block j of a row's requantised codes: 32 codes, 0 for a column that is none, the scale, and zeros (R59, R164). -/
def requantised (k : Core) (r : Routine) (i j t : Nat) : Nat :=
  let q := quantise (mcfFmt k 17 12)
    ((List.range 32).map fun t => if 32 * j + t < r.nc then (accFmt k).value (r.p i (32 * j + t)) else .fin false 0 0)
  if t < 32 then (if 32 * j + t < r.nc then q.2.1.getD t 0 else 0) else if t = 32 then q.1 else 0
/-- A block of n × m elements of wid bytes, byte t of element (i, j) at `cell i j t`, has been written through a window: where no
other byte of the block falls on it a byte stands there, but in the fixed block and where a later write has the byte; every other byte
of the register space is as it was (R81, R158, R214). -/
def WindowWritten (k k' : Core) (win : Nat × Nat) (skip : List (Nat × Nat)) (cell : Nat → Nat → Nat → Nat) (n m wid : Nat)
    (v : Nat → Nat → Nat → Nat) : Prop :=
  let at_ := fun (i j t : Nat) => windowAddr win (cell i j t) % 131072
  let taken := fun (b : Nat) => b < 0x1000 ∨ ∃ q ∈ skip, q.1 ≤ b ∧ b < q.1 + q.2
  (∀ b, win.2 = 0 ∨ taken b ∨ (∀ i < n, ∀ j < m, ∀ t < wid, at_ i j t ≠ b) → k'.space b 1 = k.space b 1) ∧
  (win.2 ≠ 0 → ∀ i < n, ∀ j < m, ∀ t < wid, ¬taken (at_ i j t) →
    (∀ i' < n, ∀ j' < m, ∀ t' < wid, at_ i' j' t' = at_ i j t → i' = i ∧ j' = j ∧ t' = t) →
    k'.space (at_ i j t) 1 = v i j t % 256)

end Sys2Proof.Claims

/-- R159-R165: the matrix unit starts the head of its queue, takes its step words one at a time, and at END retags, ORs the
flags and lowers its count; a queued `MZRO` zeroes its element in its turn. The kinds of step: ALDA stages A, BLDW stages B once no
earlier `TLDW` still owes weight bytes, MAC accumulates its chunks, ACCW reads the sums in or writes them out, CHN applies its stages,
and LOOP, PADD, BNDY and END control the routine. An access that straddles a window's end is the model's choice (log 48). -/
def Obligations.MatrixEvents : Prop :=
  (∀ c s e, (s.core c).mxReady = some e → e.zero = none → s.halting c = false →
    ∃ t r, exec (.routineStart c) s = .next t ∧ OnlyCore c s t ∧ (t.core c).mx.run = some r ∧ r.entry = e ∧ r.wc = e.wc ∧
      r.step = bits ((s.core c).mx.routines.get 0 (bits e.word.toNat 47 40)).toNat 63 52 ∧ r.lc = List.replicate 8 0 ∧ r.ended = false ∧
      (t.core c).mx.queue = (s.core c).mx.queue.drop 1) ∧
  (∀ c s r, (s.core c).mx.run = some r → r.ended = false → (r.bndy = true → s.halting c = false) →
    let k := s.core c
    let w := (k.mx.store.get 0 r.step).toNat
    let af := mcfFmt k 5 0
    let acc := (accFmt k).wid
    ∃ t r', exec (.sequencerStep c) s = .next t ∧ OnlyCore c s t ∧ (t.core c).mx.run = some r' ∧ r'.entry = r.entry ∧
      (bits w 63 60 = 9 → r'.ended = true ∧ r'.wc = r.wc) ∧
      (bits w 63 60 = 8 → r'.bndy = true ∧ r'.step = (r.step + 1) % 4096 ∧ r'.wc = r.wc) ∧
      (bits w 63 60 = 7 → r'.step = (r.step + 1) % 4096 ∧
        r'.wc = r.wc.set (stP w) (wordI ((r.wc.getD (stP w) 0).toInt + sextN (bits w 31 0) 32))) ∧
      (bits w 63 60 = 6 → let n := r.lc.getD (bits w 56 54) 0 + 1
        (n < bits w 31 0 → r'.lc = r.lc.set (bits w 56 54) n ∧ (r'.step : Int) = ((r.step : Int) + sextN (stA16 w) 16) % 4096) ∧
        (bits w 31 0 ≤ n → r'.lc = r.lc.set (bits w 56 54) 0 ∧ r'.step = (r.step + 1) % 4096)) ∧
      (bits w 63 60 = 0 → r' = { r with bndy := false, step := (r.step + 1) % 4096 } ∧ t.core c = { k with mx := (t.core c).mx }) ∧
      (bits w 63 60 ≤ 5 → bits w 63 60 ≠ 2 → r'.step = (r.step + 1) % 4096 ∧ r'.wc = r.wc) ∧
      (bits w 63 60 ≠ 4 → bits w 63 60 ≠ 5 → (t.core c).regs.rs = k.regs.rs) ∧ (t.core c).regs.gtag = k.regs.gtag ∧
      (bits w 63 60 = 1 → r'.nr = stRows w ∧ r'.ka = 0 ∧ r'.loadedA = stChunks w * chunkOf af ∧
        ∀ i < stRows w, ∀ j < stChunks w * chunkOf af,
          r'.stA.get 0 (i * 8192 + j) = k.winRead r.entry.win.a (elementAt r w i j af.wid) af.wid) ∧
      (bits w 63 60 = 2 → bldwWaits k r = true → r' = { r with bndy := false }) ∧
      (bits w 63 60 = 2 → bldwWaits k r = false → r'.step = (r.step + 1) % 4096 ∧ r'.wc = r.wc ∧ r'.nc = stRows w ∧ r'.kb = 0 ∧
        r'.loadedB = stChunks w * chunkOf af ∧
        (stRows w ≤ 96 → ∀ i < stChunks w * chunkOf af, ∀ j < stRows w,
          unpackVal (r'.stB.get (0, 0, 0) (i * 128 + j)) = (bldwValue k r w i j).1)) ∧
      (bits w 63 60 = 3 → r'.ka = r.ka + stRows w ∧ r'.kb = r.kb + stRows w ∧
        (r.nc ≤ 96 → ∀ i < r.nr, ∀ j < r.nc, r'.p i j = macSum k r i j (stRows w))) ∧
      (bits w 63 60 = 4 → bit w 8 = true → r.nc ≤ 96 → (t.core c).regs.rs = k.regs.rs ∧ ∀ i < stRows w, ∀ j < r.nc,
        r'.p i j = if cmdACC r.entry.word then k.winRead r.entry.win.acc (elementAt r w i j acc) acc else 0) ∧
      (bits w 63 60 = 4 → bit w 8 = false → r'.part = r.part ∧
        WindowWritten k (t.core c) r.entry.win.acc r.entry.skip (fun i j x => elementAt r w i j acc + x) (stRows w) r.nc acc
          fun i j x => r.p i j / 256 ^ x) ∧
      (bits w 63 60 = 5 → r.nc ≤ 96 → (∀ i < r.nr, ∀ j < r.nc, r'.p i j = chained k r w i j) ∧
        (bit w 2 = false ∨ cmdRQ r.entry.word = false → (t.core c).regs.rs = k.regs.rs) ∧
        (bit w 2 = true → cmdRQ r.entry.word = true →
          WindowWritten k (t.core c) r.entry.win.q r.entry.skip
            (fun i j x => descAddr (r.wc.getD 7 0) + i * descStride (r.wc.getD 7 0) + 40 * j + x) r.nr ((r.nc + 31) / 32) 40
            fun i j x => requantised k r' i j x))) ∧
  (∀ c s r, (s.core c).mx.run = some r → r.ended = true →
    ∃ t, exec (.routineEnd c) s = .next t ∧ OnlyCore c s t ∧ (t.core c).mx.run = none ∧
      (t.core c).csr csrFPST = (s.core c).csr csrFPST ||| wordN (r.flags % 64) ∧
      (0 < (s.core c).out 4 → (t.core c).out 4 = (s.core c).out 4 - 1) ∧ (t.core c).regs.rs = (s.core c).regs.rs ∧
      (∀ g ∈ retagged r.entry, (t.core c).gtag g = r.entry.guard) ∧ ∀ g, g ∉ retagged r.entry → (t.core c).gtag g = (s.core c).gtag g) ∧
  (∀ c s e a n, (s.core c).mxReady = some e → e.zero = some (a, n) → e.skip = [] → s.halting c = false →
    ∃ t, exec (.mzroWrite c) s = .next t ∧ OnlyCore c s t ∧ (t.core c).space a n = 0 ∧
      (∀ b, b < a ∨ a + n ≤ b → (t.core c).space b 1 = (s.core c).space b 1) ∧ (∀ g ∈ granulesOf a n, (t.core c).gtag g = e.guard) ∧
      (0 < (s.core c).out 4 → (t.core c).out 4 = (s.core c).out 4 - 1) ∧ (t.core c).mx.queue = (s.core c).mx.queue.drop 1)

namespace Sys2Proof.Claims

/-- What a core is to be behind its stop or its handler (R126, R127, R239). -/
def behind (k : Core) : Mode := match k.ctl.shadow with | some sh => sh.later | none => k.ctl.later

end Sys2Proof.Claims

/-- R280, R281: the stale entries of a slice's table are folded, each into the record of its page, what is tentative in an entry as
tentative there, and every other entry stays, a spilled one too; spilled entries leave the table, and the cores that met it full go on.
R306: the supervisor moves a channel's home, in two steps between which producers wait, and the tables of the granted clusters name the
new one (R346). R254, R255, R273: a kernel boundary writes back and invalidates every cache, discards the conflict entries of the kernel
and resets the latches of its clusters. When a boundary is performed, and the supervisor's policy, are the model's choices (log 14, log
37). -/
def Obligations.ConflictEvents : Prop :=
  (∀ sl s, (s.granules.map Prod.fst).Nodup →
    let folds := fun (e : Nat × Granule) => s.staleEntry e.2 = true ∧ e.2.spilled = false ∧ s.homeSlice (e.1 * 64) = sl
    ∃ t, exec (.staleReclaim sl) s = .next t ∧ t = { s with granules := t.granules, records := t.records } ∧
      (∀ e, e ∈ t.granules ↔ e ∈ s.granules ∧ ¬folds e) ∧
      ∀ n,
        let r := s.records.get {} n
        let r' := t.records.get {} n
        let gives := fun (u : Nat) (p : List (Nat × Nat) × Nat × Bool → Prop) =>
          ∃ e ∈ s.granules, folds e ∧ s.recordKey e.1 = n ∧ ∃ q ∈ e.2.folds, q.2.1 = u ∧ p q
        r'.spilled = r.spilled ∧ (∀ u, u ∈ r'.teams ↔ u ∈ r.teams ∨ gives u fun q => q.1 = []) ∧
        (∀ u, u ∈ r'.writers ↔ u ∈ r.writers ∨ gives u fun q => q.1 = [] ∧ q.2.2 = true) ∧
        (∀ u, u ∈ r'.all ↔ u ∈ r.all ∨ gives u fun _ => True) ∧ (∀ u, u ∈ r'.allWriters ↔ u ∈ r.allWriters ∨ gives u fun q => q.2.2 = true) ∧
        (∀ x ∈ r.tent, x ∈ r'.tent) ∧
        ((∀ e ∈ s.granules, folds e → s.recordKey e.1 = n → e.2.tent = []) → r'.tent = r.tent)) ∧
  (∀ e : Granule, e.tent = [] → ∃ w, e.folds = [([], e.team, w)] ∧ (w = true ↔ ∀ cs, e.live ≠ .rd cs)) ∧
  (∀ e : Granule, ∀ x ∈ e.tent, ([(x.1, x.2.1)], x.2.2.2.1, x.2.2.1.writes) ∈ e.folds) ∧
  (∀ sl n s c tr, s.stoppedBy c cCTFULL = some tr → tr.frs.getD 1 0 = wordN sl → alone s c → (s.core c).ctl.nested = none →
    behind (s.core c) ≠ .stopped →
    (∀ u, s.spillRoom (s.rcbOf (s.team u)) n = true) → (s.granules.filter fun e => s.homeSlice (e.1 * 64) == sl).length ≤ n →
    ∃ t, exec (.conflictSpill sl n) s = .next t ∧ (t.core c).ctl.mode = behind (s.core c) ∧ (t.core c).ctl.supervisor = none ∧
      (t.core c).ctl.pc = bits ((s.core c).csr csrTEPC).toNat 55 3 * 8 ∧ t.granules.length = s.granules.length ∧
      ∀ e ∈ t.granules, s.homeSlice (e.1 * 64) = sl → e.2.spilled = true) ∧
  (∀ g ch cl s, (s.channel (g * 256 + ch)).valid = true → (s.team (s.channel (g * 256 + ch)).cteam).mode = .out →
    cl ∈ regionClusters s (s.grid g).rcb →
    ∃ t, exec (.channelEntryMove g ch cl) s = .next t ∧ (∀ key, key ≠ g * 256 + ch → t.channel key = s.channel key) ∧ t.mem = s.mem ∧
      t.cores = s.cores ∧
      ((s.channel (g * 256 + ch)).moving = false → t.channel (g * 256 + ch) = { s.channel (g * 256 + ch) with moving := true } ∧
        t.cellFree (g * 256 + ch) = false ∧ t.chantab = s.chantab) ∧
      ((s.channel (g * 256 + ch)).moving = true →
        t.channel (g * 256 + ch) = { s.channel (g * 256 + ch) with home := cl, moving := false } ∧
        ∀ k ∈ regionClusters s (s.grid g).rcb, let e := t.chantab.get {} (k * 256 + (g * 256 + ch) % 256)
          e.valid = true ∧ e.homec = cl ∧ (e.fwd = true ↔ k ≠ cl))) ∧
  (∀ g s q, q ∈ s.queues.map Prod.fst → g ∈ s.boundariesFor q →
    ∃ t, exec (.kernelBoundary g) s = .next t ∧ t.hostLines = [] ∧ (∀ c, (t.core c).l1 = []) ∧
      (∀ e ∈ t.granules, e.2.team / 65536 ≠ g) ∧ (∀ e ∈ s.granules, e.2.team / 65536 ≠ g → e ∈ t.granules) ∧
      (∀ e ∈ t.records, ∀ u ∈ e.2.teams, u / 65536 ≠ g) ∧
      (∀ e ∈ gridTeams s g, ∀ l < 256, t.latch (e.2.cluster * 256 + l) = {}) ∧ (t.grid g).finished = false ∧
      (∀ c, (t.core c).regs = (s.core c).regs) ∧
      ((s.cores.map Prod.fst).Nodup → (∀ e ∈ s.cores, ∀ x ∈ e.2.l1, x.pa + 128 ≤ 4 * dieBytes) →
        WritesCells s.mem t.mem (s.cores.flatMap fun e => e.2.l1.flatMap L1Line.dirtyCells)))

namespace Sys2Proof.Claims

/-- Where the entry of a level for an address stands in the tables of a context (R335, R336). -/
def entryAt (s : State) (ctx va lvl : Nat) : Option Nat :=
  let d := (s.contexts.get 0 ctx).toNat
  if bit d 63 then (s.tableAt va lvl 0 (bits d 47 16 * 2 ^ 16)).map fun b => b + 8 * bits va (55 - 10 * lvl) (46 - 10 * lvl) else none
/-- Every folio's pages together, all cold pieces mapped, lie within the memory quota of a region and of those above it (R24, R266). -/
def withinQuota (s : State) (a : Nat) : Prop :=
  ∀ b ∈ s.above a, (s.folios.map fun f => (f.2.pages.map Prod.snd).sum).sum + (32 * s.spilledIn b + 65535) / 65536 ≤ bits (s.region b 2 2) 47 0

end Sys2Proof.Claims

/-- R20, R239: the supervisor resumes a stopped core from its record. R235, R236: it enters the handler on the core's behalf,
or ends the team. R246: an uncorrectable error owes MEMUE to the core's next issue, and 8 bytes of memory are zero in the load that has
read them; that 8 bytes of the register space are zero from then on is the model's choice (log 53). R266: a cold piece is mapped: its
table entry names the frame, its bytes stand there, and the cores that wait for it go on; where its quota has room nothing else of
memory changes. R257: the page of a retired frame moves with its bytes to another frame, which its entry names, and cores stopped by a
clean error go on. The supervisor's policy and how a page moves are the model's choices (log 14, log 41). -/
def Obligations.SupervisorEvents : Prop :=
  (∀ c s, s.isStopped c = true → alone s c → (s.core c).ctl.nested = none →
    ∃ t, exec (.supervisorResume c) s = .next t ∧ OnlyCore c s t ∧ (t.core c).ctl.mode = behind (s.core c) ∧ (t.core c).ctl.supervisor = none ∧
      (t.core c).ctl.pc = bits ((s.core c).csr csrTEPC).toNat 55 3 * 8 ∧ (t.core c).handler = false ∧ ScalarKept [] (s.core c) (t.core c)) ∧
  (∀ c s tr w, s.isStopped c = true → alone s c → (s.core c).ctl.supervisor = some tr → bit ((s.core c).csr csrTVEC).toNat 0 = true →
    (s.core c).handler = false → s.fetchWord c (bits ((s.core c).csr csrTVEC).toNat 55 3 * 8) = .ok w →
    bits w.toNat 63 60 = 0xF → bits w.toNat 59 56 = 5 →
    ∃ t, exec (.supervisorTrapEntry c) s = .next t ∧ OnlyCore c s t ∧ (t.core c).ctl.mode = .run ∧ (t.core c).handler = true ∧
      (t.core c).ctl.pc = bits ((s.core c).csr csrTVEC).toNat 55 3 * 8 ∧ (t.core c).csr csrTCAUSE = (s.core c).csr csrTCAUSE) ∧
  (∀ u cause s, s.mayEnd u cause = true → (s.grid (s.team u).grid).result = 0 →
    ∃ t, exec (.endTeam u cause) s = .next t ∧ (t.team u).mode = .ended cause ∧ (∀ c ∈ (s.team u).cores, (t.core c).ctl.mode = .idle) ∧
      (t.grid (s.team u).grid).ended = (s.grid (s.team u).grid).ended ∧
      ((s.grid (s.team u).grid).fteam = none → (t.grid (s.team u).grid).fteam = some ((s.team u).index, cause))) ∧
  (∀ c s tr p bs frame, s.stoppedBy c cCOLDTXT = some tr → s.coldPiece (s.ctxOf c) (tr.frs.getD 0 0).toNat = some (p, bs) →
    frame < 4 * dieBytes / 65536 → alone s c → (s.core c).ctl.nested = none → behind (s.core c) ≠ .stopped →
    ∃ t, exec (.coldtxtService c frame true) s = .next t ∧ (t.core c).ctl.mode = behind (s.core c) ∧
      (t.core c).ctl.pc = bits ((s.core c).csr csrTEPC).toNat 55 3 * 8 ∧
      ∀ es : List Nat, (List.range 4).map (entryAt s (s.ctxOf c) ((tr.frs.getD 0 0).toNat / 65536 * 65536)) = es.map some →
        (∀ e ∈ es, e + 8 ≤ frame * 65536 ∨ frame * 65536 + 65536 ≤ e) → withinQuota s (s.rcbOf (s.teamOf c)) →
        Memory.read t.mem (es.getD 3 0) 8 = pteOf frame 0 false false false true ∧
        (∀ j < 65536, Memory.byte t.mem (frame * 65536 + j) = bs.getD j 0) ∧
        ∀ a, (a < frame * 65536 ∨ frame * 65536 + 65536 ≤ a) → (a < es.getD 3 0 ∨ es.getD 3 0 + 8 ≤ a) →
          Memory.byte t.mem a = Memory.byte s.mem a) ∧
  (∀ c m a s, ∃ t, exec (.memue c m a) s = .next t ∧ (∀ d, d ≠ c → t.core d = s.core d) ∧ t.mem = s.mem ∧
    (t.core c).ctl.owed = (s.core c).ctl.owed ++ [{ cause := cMEMUE, step := 7, frs := [wordN a, wordN m.toNat] }] ∧
    (m = 0 → (t.core c).space (a / 8 * 8 % 131072) 8 = 0 ∧
      ∀ b, b < a / 8 * 8 % 131072 ∨ a / 8 * 8 % 131072 + 8 ≤ b → (t.core c).space b 1 = (s.core c).space b 1) ∧
    ∀ f d x p n, m = 3 → (s.core c).flights = [f] → f.what = .load d x → f.src = [(p, n, 0)] →
      ∃ y, (t.core c).flights = [{ f with what := .load d y }] ∧
        ∀ i < n, byteOf y i = (if a / 8 * 8 ≤ p + i ∧ p + i < a / 8 * 8 + 8 then 0 else byteOf x i)) ∧
  (∀ c a frame s tr, s.stoppedBy c cMEMUE = some tr → tr.frs.getD 1 0 = 3 → (tr.frs.getD 0 0).toNat / 65536 = a / 65536 → alone s c →
    (s.core c).ctl.nested = none → behind (s.core c) ≠ .stopped →
    ∃ t, exec (.frameRetire a frame true) s = .next t ∧ (t.core c).ctl.mode = behind (s.core c) ∧
      (t.core c).ctl.pc = bits ((s.core c).csr csrTEPC).toNat 55 3 * 8) ∧
  (∀ a frame clean s l, frameLeaves s a frame = [l] → frame < 2 ^ 32 →
    ∃ t, exec (.frameRetire a frame clean) s = .next t ∧ Memory.read t.mem l.1 8 = setBits l.2.1 31 0 frame ∧
      t.contexts = s.contexts ∧ a / 65536 ∈ t.retired ∧
      (Memory.wf s.mem = true → (∀ e ∈ s.cores, ∀ x ∈ e.2.l1, x.dirty = 0) → (l.1 + 8 ≤ frame * 65536 ∨ frame * 65536 + l.2.2 ≤ l.1) →
        ∀ j < l.2.2, Memory.byte t.mem (frame * 65536 + j) = Memory.byte s.mem (bits l.2.1 31 0 * 65536 + j)))

namespace Sys2Proof.Claims

/-- Block p of a team's image (R342), and that the image lies in HBM. -/
def imageAt (s : State) (u slot p : Nat) : Nat := s.imageBase (s.rcbOf (s.team u)) slot + p * 0x200000
def imageInHbm (s : State) (u slot : Nat) : Prop := imageAt s u slot 0 + 0x8100000 ≤ 4 * dieBytes
/-- A core stands as block b of a team image has it: place, activity level, scalar registers with their tags, and clocks (R213, R242,
R243, R376). -/
def StandsAs (k : Core) (m : List Host.Cell) (b : Nat) : Prop :=
  k.ctl.pc = Memory.read m (b + 0x98880) 8 ∧ k.csr csrIC = wordN (Memory.read m (b + 0x98020) 8) ∧
  k.ctl.level = Memory.read m (b + 0x988F0) 8 ∧
  (∀ r, 0 < r → r < 64 → (k.sreg r).toNat = Memory.read m (b + 8 * r) 8 ∧ k.stag r = (Memory.byte m (b + 0x600 + r)).toNat) ∧
  ∀ i < 32, k.clock i = Memory.read m (b + 0x98800 + 4 * i) 4

end Sys2Proof.Claims

/-- R21, R216, R228, R288, R295: a waiting team takes free cores: each stands at its entry with its initial instant, the
address of its scratchpad and its number. R241: a yield request; R126: its deadline forces the pre-emption. R297: a quantum's
end requests a yield once no parked team is left to reclaim (R33), and the parked team of the lowest index goes at once. R242,
R243: a team that leaves is out with an image, its cores idle and its registers and activity levels in the image in memory, where the
table entries that its scratchpads lose do not lie in it, and it comes back as the image has it. R127: a team completes when every core has ended and performed. The address of a scratchpad, the layout of the
image's core state, and what becomes of a yield request when no image slot is free are the model's choices (log 9, log 19,
log 48). -/
def Obligations.TeamEvents : Prop :=
  (∀ u s cl base bn, s.nextResident = some u → (s.team u).mode = .waiting → s.placeTeam u = some (cl, base, bn) →
    (∀ f, assoc s.folios (s.grid (s.team u).grid).folio = some f → f.views.length ≤ 32) →
    ∃ t, exec (.residency u) s = .next t ∧ (t.team u).mode = .resident ∧ (t.team u).cluster = cl ∧ (t.team u).base = base ∧
      u ∉ t.residency ∧ ∀ p < (s.team u).size,
        let k := t.core (cl * 64 + base + p)
        k.ctl.mode = .run ∧ k.ctl.team = u ∧ k.ctl.pos = p ∧ k.ctl.pc = (s.team u).entry ∧ k.csr csrIC = wordN (s.team u).ic0 ∧
        k.sreg 1 = wordN (spadVa u (t.team u) p) ∧ k.csr csrTEAM = wordN ((s.team u).index * 2 ^ 32 + 0x60 + bn) ∧ k.flights = []) ∧
  (∀ u dl s, (s.team u).isResident = true → (s.team u).yreq = none → (s.team u).leaving = false →
    ∃ t, exec (.yieldRequest u dl) s = .next t ∧ (t.team u).yreq = some dl ∧
      ∀ c ∈ (s.team u).cores, bit ((t.core c).csr csrTSTAT).toNat 2 = true ∧ (t.core c).csr csrYDL = wordN dl) ∧
  (∀ u dl s, (s.team u).isResident = true → (s.team u).yreq = some dl → (s.team u).leaving = false → dl ≤ s.now → s.allYielded u = false →
    ∃ t, exec (.yieldDeadlineExpiry u) s = .next t ∧ (t.team u).leaving = true ∧ (t.team u).parked = s.isParked u ∧
      ∀ c ∈ (s.team u).cores, (t.core c).ctl.wait = none ∧ (t.core c).ctl.pc = (s.core c).ctl.pc) ∧
  (∀ u s, (s.team u).isResident = true → (s.team u).yreq = none → (s.team u).leaving = false → s.quantum u ≤ (s.team u).since →
    s.regionWaits (s.rcbOf (s.team u)) = true → s.parkedIn (s.rcbOf (s.team u)) = [] →
    ∃ t, exec (.quantumExpiry u) s = .next t ∧ (t.team u).yreq = some (s.now + s.quantum u / 8) ∧
      ∀ c ∈ (s.team u).cores, bit ((t.core c).csr csrTSTAT).toNat 2 = true) ∧
  (∀ u s, s.isParked u = true → s.regionWaits (s.rcbOf (s.team u)) = true → s.canLeave u = true →
    (∀ v ∈ s.parkedIn (s.rcbOf (s.team u)), (s.teamRank u).1 < (s.teamRank v).1 ∨
      (s.teamRank u).1 = (s.teamRank v).1 ∧ (s.teamRank u).2 ≤ (s.teamRank v).2) →
    ∃ t, exec (.parkReclaim u) s = .next t ∧ (t.team u).leaving = true ∧ (t.team u).parked = true ∧
      ∀ c ∈ (s.team u).cores, (t.core c).ctl.wait = none) ∧
  (∀ u s slot, (s.team u).isResident = true → (s.team u).leaving = true → (s.team u).slot = some slot →
    s.sends u = false → (∀ c ∈ (s.team u).cores, (s.core c).quiet = true) →
    ∃ t im, exec (.preEmption u) s = .next t ∧ (t.team u).mode = .out ∧ (t.team u).slot = some slot ∧ (t.team u).image = some im ∧
      im.cores.length = (s.team u).size ∧ (∀ c ∈ (s.team u).cores, (t.core c).ctl.mode = .idle) ∧
      ((s.team u).parked = false → u ∈ t.residency) ∧
      (∀ p < (s.team u).size, ∀ k, im.cores[p]? = some k → k.ctl.pc = (s.core ((s.team u).coreAt p)).ctl.pc ∧
        ScalarKept [] (s.core ((s.team u).coreAt p)) k) ∧
      ((s.team u).size ≤ 64 → ∀ p < (s.team u).size, (∀ e ∈ (s.core ((s.team u).coreAt p)).regs.rs, 32 ≤ e.1) →
        let w := s.saveTeam u slot
        let k := s.core ((s.team u).coreAt p)
        let spared := fun (a : Nat) => Memory.read (w.mapSpads u false).mem a 8 = Memory.read w.mem a 8
        (∀ r < 64, spared (imageAt s u slot p + 8 * r) → Memory.read t.mem (imageAt s u slot p + 8 * r) 8 = (k.sreg r).toNat) ∧
        (spared (imageAt s u slot p + 0x98880) → Memory.read t.mem (imageAt s u slot p + 0x98880) 8 = k.ctl.pc % 2 ^ 64) ∧
        (spared (imageAt s u slot p + 0x988F0) → Memory.read t.mem (imageAt s u slot p + 0x988F0) 8 = k.heldLevel % 2 ^ 64))) ∧
  (∀ u s, (s.team u).isResident = true → (s.team u).leaving = true → (s.team u).slot = none → s.freeSlot (s.rcbOf (s.team u)) = none →
    ∃ t, exec (.preEmption u) s = .next t ∧ (t.team u).isResident = true ∧ (t.team u).leaving = false ∧ (t.team u).yreq = none ∧
      ∀ c ∈ (s.team u).cores, bit ((t.core c).csr csrTSTAT).toNat 2 = false) ∧
  (∀ u s cl base bn im, s.nextResident = some u → (s.team u).mode = .out → s.placeTeam u = some (cl, base, bn) → (s.team u).image = some im →
    imageInHbm s u ((s.team u).slot.getD 0) →
    ∃ t, exec (.swapIn u) s = .next t ∧ (t.team u).mode = .resident ∧ (t.team u).image = none ∧ u ∉ t.residency ∧
      ∀ p k, p < 64 → im.cores[p]? = some k →
        StandsAs (t.core (cl * 64 + base + p)) s.mem (imageAt s u ((s.team u).slot.getD 0) p) ∧
        (t.core (cl * 64 + base + p)).copies = k.copies ∧ (t.core (cl * 64 + base + p)).flights = k.flights ∧
        (t.core (cl * 64 + base + p)).ctl.mode = (if k.ctl.mode = .yielded then .run else k.ctl.mode)) ∧
  (∀ u s, (s.team u).isResident = true → (∀ c ∈ (s.team u).cores, (s.core c).ctl.mode = .ended ∧ (s.core c).performed = true) →
    s.sends u = false → (s.grid (s.team u).grid).result = 0 →
    ∃ t, exec (.teamCompletion u) s = .next t ∧ (t.team u).mode = .done ∧ (∀ c ∈ (s.team u).cores, (t.core c).ctl.mode = .idle) ∧
      (t.grid (s.team u).grid).ended = (s.grid (s.team u).grid).ended + 1)

namespace Sys2Proof.Claims

/-- A running command's outcome (R283). -/
def Finishes (i : Instr) (s : State) (q status detail value : Nat) (g : State → Prop) : Prop :=
  ∃ t, exec i s = .next t ∧ g t ∧
    (t.queue q).run = (s.queue q).run.map fun r => { r with fin := true, status := status, detail := detail, value := value }

end Sys2Proof.Claims

/-- R31, R300: an instant closes once every team of the grid has left it, and a valid record of it creates a team that starts
in the next instant. R22, R287, R288: a launch creates its grid and its waiting teams; one that names no folio is refused.
R352-R354: a folio that passes its checks is loaded under a handle; one that does not is refused with its code; a folio that
no launch uses is unloaded; loads and unloads of one context take effect in the order of their starts (R353). The numbers of handles and grids and the value of an unload are the model's choices (log 9). -/
def Obligations.GridsAndFolios : Prop :=
  (∀ g s, (s.grid g).alive = true → (s.grid g).posts = [] → (∀ e ∈ gridTeams s g, s.passed e.2 (s.grid g).closed = true) →
    ∃ t, exec (.instantClose g) s = .next t ∧ (t.grid g).closed = (s.grid g).closed + 1 ∧ t.teams = s.teams) ∧
  (∀ g s p f y, (s.grid g).alive = true → (s.grid g).posts = [p] → (s.grid g).closed ≤ p.instant → assoc s.folios (s.grid g).folio = some f →
    f.entries[bits p.entry 15 0]? = some y → (∀ e ∈ gridTeams s g, s.passed e.2 p.instant = true) →
    let n := bits p.entry 22 16
    let gs := 2 ^ bits p.entry 26 24
    bit p.entry 31 = false → bit p.entry 27 = false → bit p.entry 23 = false → bits p.entry 26 24 ≤ 4 → n ≠ 0 → n ≤ 64 → n % gs = 0 →
    n ≤ regionCores s (s.grid g).rcb →
    let u := g * 65536 + (s.grid g).created
    ∃ t, exec (.instantClose g) s = .next t ∧ (t.grid g).closed = p.instant + 1 ∧ (t.grid g).posts = [] ∧ (t.grid g).created = (s.grid g).created + 1 ∧
      (t.team u).mode = .waiting ∧ (t.team u).size = n ∧ (t.team u).gang = gs ∧ (t.team u).entry = y.va ∧ (t.team u).ic0 = p.instant + 1 ∧
      (t.team u).block = p.block ∧ u ∈ t.residency) ∧
  (∀ q s r f e, s.running q 1 = some r → r.grid = none → s.boundariesFor q = [] →
    let b := cmdBody r.words
    let teams := bits (b 1) 15 0 + 1
    let n := bits (b 1) 22 16
    assoc s.folios (bits (b 0) 31 0) = some f → f.entries[bits (b 0) 63 48]? = some e → f.ctx = (s.queue q).ctx →
    (∃ m, f.since = some m ∧ m ≤ r.order) → n ≤ regionCores s (s.queue q).rcb → s.chanList f teams n = some [] → s.barList f teams n (regionClusters s (s.queue q).rcb) = some [] →
    s.redList f teams n = some [] →
    ∃ t, exec (.launch q) s = .next t ∧
      let g := s.freeGrid
      (t.queue q).run = some { r with grid := some g } ∧ (t.grid g).alive = true ∧ (t.grid g).created = teams ∧ (t.grid g).queue = q ∧
      ∀ j < teams, (t.team (g * 65536 + j)).mode = .waiting ∧ (t.team (g * 65536 + j)).index = j ∧ (t.team (g * 65536 + j)).size = n ∧
        (t.team (g * 65536 + j)).entry = e.va ∧ (t.team (g * 65536 + j)).ic0 = bits (b 1) 63 48 ∧
        (t.team (g * 65536 + j)).period = bits (b 1) 47 32 ∧ g * 65536 + j ∈ t.residency) ∧
  (∀ q s r, s.running q 1 = some r → r.grid = none → s.boundariesFor q = [] → assoc s.folios (bits (cmdBody r.words 0) 31 0) = none →
    Finishes (.launch q) s q 1 2 0 fun t => t.teams = s.teams) ∧
  (∀ q s r bs h u, s.running q 5 = some r → bit (cmdBody r.words 2) 8 = false →
    s.sysRead (s.queue q).ctx (cmdBody r.words 0) (cmdBody r.words 1) = some bs → s.load q (bits (cmdBody r.words 2) 7 0) bs = .ok (h, u) →
    s.loadsBefore q = false →
    Finishes (.loadFolio q) s q 0 0 h fun t => assoc s.folios h = none ∧ (assoc t.folios h).isSome = true ∧
      t.mem = (u.writeLeafVas (s.queue q).ctx (cmdBody r.words 0) h bs).mem) ∧
  (∀ q s, s.loadsBefore q = true → exec (.loadFolio q) s = .next s ∧ exec (.unloadFolio q) s = .next s) ∧
  (∀ q s r bs e, s.running q 5 = some r → bit (cmdBody r.words 2) 8 = false →
    s.sysRead (s.queue q).ctx (cmdBody r.words 0) (cmdBody r.words 1) = some bs → s.refusal (bits (cmdBody r.words 2) 7 0) bs = some e →
    s.loadsBefore q = false →
    Finishes (.loadFolio q) s q 1 4 e fun t => t.folios = s.folios ∧ t.mem = s.mem) ∧
  (∀ q s r f, s.running q 5 = some r → bit (cmdBody r.words 2) 8 = true → assoc s.folios (cmdBody r.words 3) = some f →
    f.ctx = bits (cmdBody r.words 2) 7 0 → s.loadsBefore q = false →
    (s.folioBusy (cmdBody r.words 3) = false →
      Finishes (.unloadFolio q) s q 0 0 (cmdBody r.words 3) fun t => assoc t.folios (cmdBody r.words 3) = none) ∧
    (s.folioBusy (cmdBody r.words 3) = true → Finishes (.unloadFolio q) s q 1 4 10 fun t => t.folios = s.folios))

namespace Sys2Proof.Claims

/-- A queue is ready (R292). -/
def readyNow (s : State) (q : Nat) : Bool :=
  let x := s.queue q
  x.valid && x.run.isNone && (x.cmds.head?.any fun ws => (!x.halt || isResume ws) && s.depsHold ws)
/-- The time since which a queue's waiting counts in this step, and whether the step promotes it (R293). -/
def waitsSince (s : State) (q : Nat) : Nat := if readyNow s q && !(s.queue q).wasReady then s.now else (s.queue q).since
def promotes (s : State) (q : Nat) : Bool :=
  readyNow s q && decide (s.queueBound q ≤ s.now - waitsSince s q) && decide ((s.queue q).elev < 7)
/-- The level of a queue at the choice of this step (R293). -/
def levelNow (s : State) (q : Nat) : Nat := (s.queue q).elev + if promotes s q then 1 else 0
/-- The heads of a queue and its place at a dispatch step: no head completes without starting (R285, R290). -/
def Undropped (s : State) (q : Nat) : Prop :=
  let x := s.queue q
  x.valid = true → x.run = none → ∀ ws ∈ x.cmds.head?,
    (x.halt = true → isResume ws = true) ∧
    (x.halt = false → s.depsHold ws = false → ∀ a, x.headAt = some a → s.now < a + bits (cmdWord ws 5) 47 0)
/-- A step is due (R292), and the queues stand in the order of their numbers. -/
def StepDue (s : State) : Prop :=
  s.now % 64 = 0 ∧ s.stepped ≠ some s.now ∧ s.tripped = false ∧ (s.queues.map Prod.fst).Pairwise (· < ·)
/-- The head of queue q completes without starting, with a record of a status (R285, R289, R290); behind it a signal with RESUME may
start. -/
def HeadDropped (s : State) (q status : Nat) (ws : List Word) (rest : List (List Word)) : Prop :=
  ∃ t w, exec .dispatchStep s = .next t ∧ ⟨.host (s.queue q).host q, w⟩ ∈ t.outbox ∧ w.length = 8 ∧
    w.getD 0 0 = wordN (cmdOp ws * 2 ^ 56 + status * 2 ^ 48 + bits (cmdWord ws 0) 31 0) ∧ w.getD 2 0 = 0 ∧
    w.getD 1 0 = wordN (q * 2 ^ 52 + ((s.queue q).count + 1) % 2 ^ 48) ∧ w.getD 6 0 = wordN s.now ∧ w.getD 7 0 = wordN s.now ∧
    (t.queue q).count = ((s.queue q).count + 1) % 2 ^ 48 ∧ (t.queue q).halt = true ∧
    ((t.queue q).cmds = rest ∧ (t.queue q).run = none ∨
      ∃ r l, rest = r :: l ∧ isResume r = true ∧ (t.queue q).cmds = l ∧ (t.queue q).run.map Running.words = some r)

end Sys2Proof.Claims

/-- R284, R292, R293: a dispatch step starts the head of one ready queue: of the highest level, to which a queue past its bound has just
risen, the one of the largest share, and among equals the lowest; shares, levels and times follow. A malformed command is refused. -/
def Sys2Proof.Claims.DispatchChoice : Prop :=
  (∀ s q ws rest, StepDue s → (∀ p, Undropped s p) → readyNow s q = true → (s.queue q).cmds = ws :: rest →
    let w := fun (p : Nat) => (s.queueWeight p : Int)
    let atLevel := fun (p : Nat) => readyNow s p && levelNow s p == levelNow s q
    (∀ p, readyNow s p = true → levelNow s p ≤ levelNow s q) →
    (∀ p, p ≠ q → atLevel p = true → (s.queue p).cur + w p < (s.queue q).cur + w q ∨ (s.queue p).cur + w p = (s.queue q).cur + w q ∧ q < p) →
    let bad := badHeader ws || !bodyOk ws
    ∃ t, exec .dispatchStep s = .next t ∧
      (t.queue q).run = some { words := ws, start := s.now, order := s.order, fin := bad, status := if bad then 1 else 0, detail := if bad then 1 else 0 } ∧
      (t.queue q).cmds = rest ∧ (t.queue q).elev = (s.queue q).prio ∧ (t.queue q).since = s.now ∧
      (t.queue q).cur = (s.queue q).cur + w q - (((s.queues.map Prod.fst).filter atLevel).map w).sum ∧
      ∀ p, p ≠ q → t.queue p = { s.queue p with
        elev := levelNow s p, since := if promotes s p then s.now else waitsSince s p, wasReady := readyNow s p,
        cur := (s.queue p).cur + if atLevel p then w p else 0 }) ∧
  (∀ s, StepDue s → (∀ p, Undropped s p) → (∀ p, readyNow s p = false) →
    ∃ t, exec .dispatchStep s = .next t ∧ ∀ p, t.queue p = { s.queue p with wasReady := false })
/-- R285, R290: a halted queue's head completes CANCELLED, and one whose dependences do not hold as its DDL passes TIMEOUT; either sets
HALT. -/
def Sys2Proof.Claims.DispatchDrops : Prop :=
  (∀ s q ws rest, StepDue s → (s.queue q).valid = true → (s.queue q).run = none → (s.queue q).cmds = ws :: rest → (s.queue q).halt = true →
    isResume ws = false → HeadDropped s q 3 ws rest) ∧
  (∀ s q ws rest a, StepDue s → (∀ p, p ≠ q → Undropped s p) → (s.queue q).valid = true → (s.queue q).run = none → (s.queue q).cmds = ws :: rest →
    (s.queue q).halt = false → s.depsHold ws = false → (s.queue q).headAt = some a → a + bits (cmdWord ws 5) 47 0 ≤ s.now →
    HeadDropped s q 4 ws rest)

/-- R282-R286, R289, R290, R379, R390: a command message joins its queue; the dispatcher starts a ready head of the
queue that R292 and R293 choose, and drops heads as R285 and R290 say; each command has its effect and outcome, and completes with one record and COUNT one higher; a cap that is set waits for its changes; a signal with RESUME clears HALT as it
completes. That an event that is not enabled changes nothing, and by how much a lower cap lowers a cluster's point and allowance,
are the model's choices (log 3, log 14), and so is the layout of query item 2, one word of 8 bytes a queue (log 42). No region is given
less than its PFLR. -/
def Obligations.CommandEvents : Prop :=
  DispatchChoice ∧ DispatchDrops ∧
  (∀ q ws s, s.ready = true → (s.queue q).valid = true → ws.length = 16 → (s.queue q).cmds.length < 64 → s.ports.length < 8 →
    ∃ t, exec (.commandArrival q ws) s = .next t ∧ (t.queue q).cmds = (s.queue q).cmds ++ [ws] ∧ (∀ p, p ≠ q → t.queue p = s.queue p) ∧
      t.mem = s.mem ∧ t.cores = s.cores) ∧
  (∀ q ws s, (s.queue q).valid = false ∨ s.ready = false → exec (.commandArrival q ws) s = .next s) ∧
  (∀ s, s.stepped = some s.now → exec .dispatchStep s = .next s) ∧
  (∀ q x ws rest s, s.now % 64 = 0 → s.stepped ≠ some s.now → s.tripped = false → s.queues = [(q, x)] → x.valid = true → x.run = none → x.halt = false →
    x.cmds = ws :: rest → s.depsHold ws = true → badHeader ws = false → bodyOk ws = true →
    ∃ t, exec .dispatchStep s = .next t ∧ (t.queue q).run = some { words := ws, start := s.now, order := s.order } ∧ (t.queue q).cmds = rest ∧
      (t.queue q).elev = x.prio) ∧
  (∀ q s r bs u, s.running q 2 = some r →
    let ctx := (s.queue q).ctx
    let n := cmdBody r.words 2
    s.goodPrefix ctx (cmdBody r.words 0) n .read = n → s.goodPrefix ctx (cmdBody r.words 1) n .write = n →
    s.sysRead ctx (cmdBody r.words 0) n = some bs → s.sysWrite ctx (cmdBody r.words 1) bs = some u →
    Finishes (.copy q) s q 0 0 n fun t => t.mem = u.mem) ∧
  (∀ q s r u, s.running q 3 = some r → cmdBody r.words 0 ≠ 0 →
    s.sysWrite (s.queue q).ctx (cmdBody r.words 0) (bytesOf (cmdBody r.words 1) 8) = some u →
    Finishes (.signal q) s q 0 0 0 fun t => t.mem = u.mem ∧ (t.queue q).halt = (s.queue q).halt) ∧
  (∀ q s r bs, s.running q 4 = some r → s.sysRead (s.queue q).ctx (cmdBody r.words 0) 8 = some bs →
    (cmdBody r.words 1 ≤ ofBytes bs → Finishes (.wait q) s q 0 0 (ofBytes bs) fun t => t.mem = s.mem) ∧
    (ofBytes bs < cmdBody r.words 1 → r.start + cmdBody r.words 2 ≤ s.now →
      Finishes (.wait q) s q 4 0 (ofBytes bs) fun t => t.mem = s.mem) ∧
    (ofBytes bs < cmdBody r.words 1 → s.now < r.start + cmdBody r.words 2 → exec (.wait q) s = .next s)) ∧
  (∀ q s r, s.running q 6 = some r → r.acted = false →
    (s.powerFloor ≤ cmdBody r.words 0 → min (cmdBody r.words 0) Config.thermalPower < s.cap →
      ∃ t, exec (.powerCap q) s = .next t ∧ t.cap = min (cmdBody r.words 0) Config.thermalPower ∧
        (∀ cl < 16, (t.cluster cl).cal ≤ (s.cluster cl).cal ∧ (t.cluster cl).freq = (s.cluster cl).freq) ∧
        ∀ a, s.rootRegion = some a → ∀ k ∈ s.childrenOf a, ∃ n, assoc t.power k = some n ∧ s.floorOf k ≤ n) ∧
    (s.powerFloor ≤ cmdBody r.words 0 → s.cap ≤ min (cmdBody r.words 0) Config.thermalPower →
      (∀ c ∈ s.clusters, c.2.change = none ∧ c.2.held = none) →
      Finishes (.powerCap q) s q 0 0 (min (cmdBody r.words 0) Config.thermalPower) fun t =>
        t.cap = min (cmdBody r.words 0) Config.thermalPower) ∧
    (cmdBody r.words 0 < s.powerFloor → Finishes (.powerCap q) s q 1 5 s.powerFloor fun t => t.cap = s.cap)) ∧
  (∀ q s r, s.running q 6 = some r → r.acted = true →
    (s.changing = true → exec (.powerCap q) s = .next s) ∧
    (s.changing = false → Finishes (.powerCap q) s q 0 0 (min (cmdBody r.words 0) Config.thermalPower) fun t => t.cap = s.cap)) ∧
  (∀ q s r ch u, s.querying q 0 = some r → s.sysRead (s.queue q).ctx (cmdBody r.words 1) 32 = some ch →
    s.sysWrite (s.queue q).ctx (cmdBody r.words 1) (s.identityRecord ch) = some u →
    Finishes (.queryIdentity q) s q 0 0 (s.identityRecord ch).length fun t => t.mem = u.mem) ∧
  (∀ q s r u, s.querying q 1 = some r →
    let x := s.queue (cmdBody r.words 2)
    s.sysWrite (s.queue q).ctx (cmdBody r.words 1) (bytesOf x.qs0 8 ++ bytesOf x.qs1 8) = some u →
    Finishes (.queryQueueState q) s q 0 0 16 fun t => t.mem = u.mem) ∧
  (∀ q s r u, s.querying q 2 = some r →
    s.sysWrite (s.queue q).ctx (cmdBody r.words 1) ((List.range 4096).flatMap fun j => bytesOf (s.queue j).count 8) = some u →
    Finishes (.queryCounts q) s q 0 0 32768 fun t => t.mem = u.mem) ∧
  (∀ q s r, (s.queue q).run = some r → s.tripped = false → r.grid = none → r.fin = true →
    ∃ t w, exec (.commandCompletion q) s = .next t ∧ t.outbox = s.outbox ++ [⟨.host (s.queue q).host q, w⟩] ∧ w.length = 8 ∧
      w.getD 0 0 = wordN (cmdOp r.words * 2 ^ 56 + r.status * 2 ^ 48 + r.detail * 2 ^ 40 + bits (cmdWord r.words 0) 31 0) ∧
      w.getD 2 0 = wordN r.value ∧ w.getD 6 0 = wordN r.start ∧ w.getD 7 0 = wordN s.now ∧
      (t.queue q).count = ((s.queue q).count + 1) % 2 ^ 48 ∧ (t.queue q).run = none ∧
      ((t.queue q).halt = true ↔ ((s.queue q).halt = true ∧ ¬(isResume r.words = true ∧ r.status = 0)) ∨ r.status ≠ 0) ∧ t.mem = s.mem) ∧
  (∀ q prio ctx rcb en s, q < 4096 → ∃ t, exec (.queueConfiguration q prio ctx rcb en) s = .next t ∧ (t.queue q).valid = en.isSome ∧
    (t.queue q).host = en.getD (s.queue q).host ∧
    (t.queue q).prio = prio.toNat ∧ (t.queue q).elev = prio.toNat ∧ (t.queue q).ctx = ctx.toNat ∧ (t.queue q).rcb = rcb.toNat ∧
    (t.queue q).count = (s.queue q).count ∧ (t.queue q).cmds = (s.queue q).cmds ∧ ∀ p, p ≠ q → t.queue p = s.queue p)

/-- R367-R370, R375, R377, R378, R363: an operating-point request starts, is refused with its reason, or is held; a change
steps its voltage by 5 mV and its frequency by 25 MHz; the allowance of a cluster grants its first request that fits; sensors
take their readings and states, once at each value; and each window end shifts in a sample. That an event that is not enabled changes nothing is
the model's choice (log 3). -/
def Obligations.PowerEvents : Prop :=
  (∀ cl x s, bit x.toNat 63 = true → cl < 16 → (s.cluster cl).change = none → (s.cluster cl).held = none →
    let v := bits x.toNat 31 16
    let f := bits x.toNat 47 32
    (pointInRange v f = true → vfloor f ≤ v → (s.cluster cl).freq < f → (s.sensor cl).state ≠ 2 →
      ∃ t, exec (.cprRequest cl x) s = .next t ∧
        (t.cluster cl).change = some (v, f, s.now + (if (s.cluster cl).volt < v then 200 else 100)) ∧ (t.cluster cl).freq = (s.cluster cl).freq) ∧
    (pointInRange v f = false → ∃ t, exec (.cprRequest cl x) s = .next t ∧ (t.cluster cl).code = 5 ∧ (t.cluster cl).detail = 3 ∧
      (t.cluster cl).change = none) ∧
    (pointInRange v f = true → v < vfloor f → ∃ t, exec (.cprRequest cl x) s = .next t ∧ (t.cluster cl).code = 5 ∧
      (t.cluster cl).detail = 1 ∧ (t.cluster cl).change = none)) ∧
  (∀ cl x s, cl < 16 → ∃ t, exec (.cprRequest cl x) s = .next t ∧ (t.cluster cl).cprFreq = bits x.toNat 47 32 ∧
    (t.cluster cl).cprVolt = bits x.toNat 31 16 ∧
    (bit x.toNat 63 = false → t.cluster cl = { s.cluster cl with cprFreq := bits x.toNat 47 32, cprVolt := bits x.toNat 31 16 }) ∧
    (bit x.toNat 63 = true → (s.cluster cl).change.isSome = true →
      t.cluster cl = { s.cluster cl with cprFreq := bits x.toNat 47 32, cprVolt := bits x.toNat 31 16, held := some x })) ∧
  (∀ cl x s, (s.cluster cl).held = some x → (s.cluster cl).change = none → (s.cluster cl).changed < s.now →
    bits x.toNat 31 16 = (s.cluster cl).volt → bits x.toNat 47 32 = (s.cluster cl).freq →
    pointInRange (s.cluster cl).volt (s.cluster cl).freq = true → vfloor (s.cluster cl).freq ≤ (s.cluster cl).volt →
    ∃ t, exec (.heldRequestStart cl) s = .next t ∧ (t.cluster cl).held = none ∧ (t.cluster cl).change = none ∧ (t.cluster cl).code = 0 ∧
      (t.cluster cl).changed = s.now) ∧
  (∀ cl s vt ft d, (s.cluster cl).change = some (vt, ft, d) → d ≤ s.now →
    (changeNext vt ft (s.cluster cl).volt (s.cluster cl).freq = some true →
      ∃ t, exec (.voltageStep cl) s = .next t ∧ (t.cluster cl).freq = (s.cluster cl).freq ∧
        (t.cluster cl).volt = (if (s.cluster cl).volt < vt then min vt ((s.cluster cl).volt + 5) else max vt ((s.cluster cl).volt - 5))) ∧
    (changeNext vt ft (s.cluster cl).volt (s.cluster cl).freq = some false →
      ∃ t, exec (.frequencyStep cl) s = .next t ∧ (t.cluster cl).volt = (s.cluster cl).volt ∧
        (t.cluster cl).freq = (if (s.cluster cl).freq < ft then min ft ((s.cluster cl).freq + 25) else max ft ((s.cluster cl).freq - 25)))) ∧
  (∀ n x s, n < 48 →
    let f := fun (h l : Nat) => bits x.toNat h l
    (f 35 32 ≠ 0 → f 15 8 < f 23 16 → f 23 16 < f 31 24 → ∃ t, exec (.tthWrite n x) s = .next t ∧
      t.sensor n = { s.sensor n with hyst := f 35 32, trip := f 31 24, thr := f 23 16, notice := f 15 8 } ∧
      ∀ m, m ≠ n → t.sensor m = s.sensor m) ∧
    (f 35 32 = 0 ∨ f 23 16 ≤ f 15 8 ∨ f 31 24 ≤ f 23 16 → exec (.tthWrite n x) s = .next s)) ∧
  (∀ cl x s, cl < 16 → ∃ t, exec (.calWrite cl x) s = .next t ∧ t.cluster cl = { s.cluster cl with cal := x.toNat % 2 ^ 24 } ∧
    ∀ m, m ≠ cl → t.cluster m = s.cluster m) ∧
  (∀ cl s c n cyc w x, (s.cluster cl).grants = [(c, n, cyc)] → WaitsFor s c w x → x.kind = .pwra n →
    (s.grantSum cl + budget n ≤ (s.cluster cl).cal + budget (s.core c).heldLevel →
      ∃ t, exec (.grantStep cl) s = .next t ∧ Commits c s t w x stOK 0 n ∧ (t.core c).ctl.level = n ∧ (t.cluster cl).grants = []) ∧
    ((s.cluster cl).cal + budget (s.core c).heldLevel < s.grantSum cl + budget n → exec (.grantStep cl) s = .next s)) ∧
  (∀ s, s.polled = some s.now → exec .sensorPoll s = .next s) ∧
  (∀ s, s.now % 100000 = 0 → s.polled ≠ some s.now → ∃ t, exec .sensorPoll s = .next t ∧
    (∀ n < 48, t.sensor n = (s.sensor n).poll (s.readings.getD n (s.sensor n).temp)) ∧
    (t.tripped = true ↔ s.tripped = true ∨ ∃ n < 48, (t.sensor n).state = 3) ∧
    ∀ cl < 16, (t.cluster cl).freq = if (t.sensor cl).state = 2 then max 600 ((s.cluster cl).freq - 25) else (s.cluster cl).freq) ∧
  (∀ cl s, cl < 16 → s.now % 10000 = 0 → s.now ≠ 0 →
    let c := s.cluster cl
    (∀ x, c.srh.head? = some x → bits x.toNat 47 32 ≠ (s.now / 10000 - 1) % 65536) →
    ∃ t, exec (.windowSample cl) s = .next t ∧
      (t.cluster cl).srh = (wordN (((s.now / 10000 - 1) % 65536) * 2 ^ 32 + min 65535 (65536 * c.stalled / max 1 (c.issuing + c.stalled)) * 2 ^ 16 +
        min 65535 (65536 * (c.issuing + c.stalled) / max 1 (c.issuing + c.stalled + c.idle))) :: c.srh).take 8 ∧
      (t.cluster cl).issuing = 0 ∧ (t.cluster cl).stalled = 0 ∧ (t.cluster cl).idle = 0)

namespace Sys2Proof.Claims

/-- What a node gives for the operand that arrives at a side and the one held at the other (R320, R321). -/
def nodeGives (r : Reduction) (side : Nat) (v w : Line) : Line × Flags :=
  if side = 0 then nodeOp r.op (fmtOf r.fmt) v w else nodeOp r.op (fmtOf r.fmt) w v
/-- A round of a reduction instance, where the instance is known. -/
def roundOf (s : State) (key round : Nat) : Option Round := (assoc s.reductions key).map fun r => r.round round
/-- The message of a list of bytes. -/
def message (bs : List Byte) : List Word := bs.map fun b => BitVec.ofNat 64 b.toNat
/-- Bytes of memory outside n bytes from an address are unchanged. -/
def BytesKept (s t : State) (a n : Nat) : Prop := ∀ b, b < a ∨ a + n ≤ b → Memory.byte t.mem b = Memory.byte s.mem b

end Sys2Proof.Claims

/-- R321-R325: an operand that arrives at a node is held, or meets the one held at the other side and their sum or extremum
goes on; the value of the last place is the round's result; outside the window it is dropped. A complete round reaches its
receivers; a round that a deadline cancels is cancelled for its receiver, and COMPLETE wins. R331-R333: the root member's
packet brings a collective's result; a packet that does not fit is dropped. R364: a dropped packet of a leaf counts in the
cluster whose router holds its node. Where a collective's dropped packet is counted is the model's choice (log 21). -/
def Obligations.Reductions : Prop :=
  (∀ k s key round place v fl r, s.packets[k]? = some (key, round, place, v, fl) → assoc s.reductions key = some r → r.accepts round = true →
    (∀ node side, treeDest r.chain r.contributors.length 64 8 place = some (node, side) →
      (assoc (r.round round).held (node * 2 + (1 - side)) = none →
        ∃ t d, exec (.nodeOperandArrival k) s = .next t ∧ t.packets = s.packets.eraseIdx k ∧ roundOf t key round = some d ∧
          d.held = (r.round round).held ++ [(node * 2 + side, v, fl)] ∧
          d.contrib = (r.round round).contrib ++ (if place < 64 then [(place, v)] else [])) ∧
      (∀ w gl, assoc (r.round round).held (node * 2 + (1 - side)) = some (w, gl) →
        ∃ t d, exec (.nodeOperandArrival k) s = .next t ∧ roundOf t key round = some d ∧ assoc d.held (node * 2 + (1 - side)) = none ∧
          t.packets = s.packets.eraseIdx k ++
            [(key, round, node, (nodeGives r side v w).1, fl ||| gl ||| (nodeGives r side v w).2)])) ∧
    (treeDest r.chain r.contributors.length 64 8 place = none → r.sys = none →
      ∃ t d, exec (.nodeOperandArrival k) s = .next t ∧ roundOf t key round = some d ∧
        d.result = some (v, fl ||| (r.round round).lflags) ∧ t.outbox = s.outbox)) ∧
  (∀ k s key round place v fl r, s.packets[k]? = some (key, round, place, v, fl) → assoc s.reductions key = some r → r.accepts round = false →
    ∃ t, exec (.nodeOperandArrival k) s = .next t ∧ t.packets = s.packets.eraseIdx k ∧ t.reductions = s.reductions ∧ t.cores = s.cores ∧
      ∀ node side e, place < 64 → treeDest r.chain r.contributors.length 64 8 place = some (node, side) → s.nodeAt key node = some e →
        (t.cluster (e / 1024)).drpk = min ((s.cluster (e / 1024)).drpk + 1) (2 ^ 48 - 1)) ∧
  (∀ key round s d x, roundOf s key round = some d → d.result = some x → d.cancelled = none → d.delivered = false →
    ∃ t e, exec (.rootDelivery key round) s = .next t ∧ roundOf t key round = some e ∧ e.delivered = true ∧ e.result = some x ∧ t.cores = s.cores) ∧
  (∀ key round s r i rest, assoc s.reductions key = some r → (r.round round).asking = i :: rest → (r.round round).cancelled = none →
    ((r.round round).result = none → r.sys = none → ∃ t e, exec (.cancelRequest key round) s = .next t ∧ roundOf t key round = some e ∧
      e.cancelled = some i ∧ e.held = [] ∧ t.cores = s.cores) ∧
    (∀ x, (r.round round).result = some x → ∃ t e, exec (.cancelRequest key round) s = .next t ∧ roundOf t key round = some e ∧
      e.cancelled = none ∧ e.result = some x ∧ e.asking = [])) ∧
  (∀ ws v s key r n self chain d, s.reductions = [(key, r)] →
    let h := (ws.getD 0 0).toNat
    let g := (ws.getD 1 0).toNat
    r.sys = some (bits h 63 48, n, self, chain, d) → 0 < r.win →
    (collectiveOk h = true → bits h 33 23 = self → bits g 63 32 = collectiveHash (bits h 63 48) n chain r.op r.fmt →
      r.base % 2 ^ 32 = bits g 31 0 → (r.round r.base).cancelled = none → bits h 47 45 = 1 →
      ∃ t e, exec (.collectivePacket ws v) s = .next t ∧ roundOf t key r.base = some e ∧
        e.result = some (v, bits h 17 13 ||| (r.round r.base).lflags) ∧ t.cores = s.cores) ∧
    (collectiveOk h = false → ∃ t, exec (.collectivePacket ws v) s = .next t ∧ t.reductions = s.reductions ∧ t.packets = s.packets ∧
      t.cores = s.cores)) ∧
  (∀ ws v s, s.reductions = [] → exec (.collectivePacket ws v) s = .next s)

/-- R316: an engine serves the packet of the next slot of its queue, writes its status word and then the read index; a slot
that does not hold it is left. R335, R338: a descriptor and a page-table entry take the values that are written. R340, R343:
a region control block that keeps its map and its limits is installed in the tree and in device memory, without its res-z bits
(R7), and a format region that keeps its own; others are not. R389: remote accesses read and write a context's memory. R391: the sideband answers with the bytes of its image. R388: a
port goes down and up. R381, R382: a cold start leaves device memory zero and every core idle; a warm start keeps HBM; either measures the
images that it starts (R383, R385). What
breaks a map changes nothing (log 3); what a start leaves of the host's side, the cap of 2,400 W that it leaves, and when an image of
the flash stops a start are the model's choices (log 44, log 14, log 54). -/
def Obligations.PackageEvents : Prop :=
  (∀ k s cl ctx d q b, s.copyqs[k]? = some (cl, ctx, d) → s.sysRead ctx d 32 = some q →
    let rd := word8 q 24
    let a := bits (word8 q 0) 55 0 + rd % 2 ^ bits (word8 q 8) 4 0 * 64
    let p := fun i => word8 b (8 * i)
    s.sysRead ctx a 64 = some b →
    (p 5 ≠ rd → exec (.copyQueueServe k) s = .next s) ∧
    (p 5 = rd → bits (p 3) 55 0 = 0 → ∀ done code u v w, s.runPacket ctx p = (done, code, u) →
      u.sysWrite ctx (a + 48) (bytesOf (done * 2 ^ 16 + code) 8) = some v → v.sysWrite ctx (d + 24) (bytesOf ((rd + 1) % 2 ^ 64) 8) = some w →
      exec (.copyQueueServe k) s = .next w)) ∧
  (∀ ctx x s, ctx < 256 → ∃ t, exec (.contextDescriptorWrite ctx x) s = .next t ∧
    t = { s with contexts := t.contexts } ∧ t.contexts.get 0 ctx = x &&& 0x8000FFFFFFFF0000 ∧ ∀ y, y ≠ ctx → t.contexts.get 0 y = s.contexts.get 0 y) ∧
  (∀ ctx va lvl pte s base, lvl ≤ 3 → bit (s.contexts.get 0 ctx).toNat 63 = true → s.pteOk lvl pte.toNat = true →
    s.tableAt va lvl 0 (bits (s.contexts.get 0 ctx).toNat 47 16 <<< 16) = some base →
    let a := base + 8 * bits va (55 - 10 * lvl) (46 - 10 * lvl)
    ∃ t, exec (.pageInvalidation ctx va lvl pte) s = .next t ∧ t = { s with mem := t.mem } ∧
      Memory.read t.mem a 8 = (if bit pte.toNat 62 then pte.toNat else bits pte.toNat 63 62 * 2 ^ 62 + bits pte.toNat 31 0) ∧ BytesKept s t a 8) ∧
  (∀ a ws s, let node := rcbNode ws
    let rs := assocSet s.regions a node
    let ok := rcbOk a node && s.treeOk rs && !(s.grids.any fun g => g.2.alive && { s with regions := rs }.within g.2.rcb a)
    (ok = true → ∃ t, exec (.regionInstall a ws) s = .next t ∧ t = { s with regions := t.regions, mem := t.mem } ∧
      assoc t.regions a = some node ∧ (∀ b, b ≠ a → assoc t.regions b = assoc s.regions b) ∧
      (∀ i < 16, Memory.read t.mem (a + 8 * i) 8 = (node.getD i 0).toNat) ∧ BytesKept s t a 128) ∧
    (ok = false → exec (.regionInstall a ws) s = .next s)) ∧
  (∀ mc n ws s, mc < 8 → n < 64 →
    let shared := fun (e : Nat × List Word) => e.1 ≠ mc * 64 + n ∧ ∃ r q, formatRegion ws = some r ∧ formatRegion e.2 = some q ∧
      meets r.base r.size q.base q.size = true
    ((s.grids.all fun g => !g.2.alive) = true → formatOk mc ws = true → (∀ e ∈ s.formats, ¬shared e) →
      ∃ t, exec (.formatRegionWrite mc n ws) s = .next t ∧ t = { s with formats := t.formats } ∧ t.formats.get [] (mc * 64 + n) = ws ∧
        ∀ m, m ≠ mc * 64 + n → t.formats.get [] m = s.formats.get [] m) ∧
    (formatOk mc ws = false ∨ (∃ e ∈ s.formats, shared e) ∨ (s.grids.any fun g => g.2.alive) = true → exec (.formatRegionWrite mc n ws) s = .next s)) ∧
  (∀ off n s, exec (.sidebandRead off n) s = .next { s with outbox := s.outbox ++ [⟨.board, message ((s.sideband.drop off).take n)⟩] }) ∧
  (∀ ctx va s, s.ready = true → s.ports.length < 8 →
    (∀ n bs data, s.sysRead ctx va n = some bs → exec (.uetRmaAccess ctx (.read n) va data) s = .next { s with outbox := s.outbox ++ [⟨.requester, message bs⟩] }) ∧
    (∀ data t, s.sysWrite ctx va data = some t → exec (.uetRmaAccess ctx .write va data) s = .next t) ∧
    (∀ e d data old t, va % 8 = 0 → s.sysRead ctx va 8 = some old → s.sysWrite ctx va (bytesOf d.toNat 8) = some t →
      exec (.uetRmaAccess ctx (.compareSwap e d) va data) s =
        .next (let u := if ofBytes old = e.toNat then t else s
               { u with outbox := u.outbox ++ [⟨.requester, message old⟩] }))) ∧
  (∀ p s, p < 8 → ∃ t, exec (.portDown p) s = .next t ∧ t = { s with ports := t.ports } ∧ p ∈ t.ports) ∧
  (∀ p s, ∃ t, exec (.portUp p) s = .next t ∧ t = { s with ports := t.ports } ∧ p ∉ t.ports ∧ ∀ x, x ≠ p → (x ∈ t.ports ↔ x ∈ s.ports)) ∧
  (∀ s, s.failingStep = 0 → ∃ t, exec .coldStart s = .next t ∧ t.ready = true ∧ t.now = 0 ∧ t.cores = [] ∧ t.teams = [] ∧ t.queues = [] ∧
    t.contexts = [] ∧ t.folios = [] ∧ t.regions = [] ∧ t.clusters = [] ∧ t.sensors = [] ∧ t.tripped = false ∧ t.cap = 2400 ∧
    t.ports = [] ∧ t.warm = false ∧ t.booted = s.flash ∧ t.starts = (s.starts + 1) % 2 ^ 48 ∧ ∀ c ∈ t.mem, 4 * dieBytes ≤ c.1 ∧ ¬(0x700000000000 ≤ c.1 ∧ c.1 < 0x800000000000)) ∧
  (∀ s, s.failingStep = 0 → s.tripped = false → (∀ n < 48, (s.sensor n).state ≠ 3) → s.trained = true → (s.cores.map Prod.fst).Nodup → ∃ t, exec .warmStart s = .next t ∧ t.ready = true ∧ t.now = 0 ∧
    t.warm = true ∧ t.booted = s.flash ∧ t.teams = [] ∧ t.queues = [] ∧ t.contexts = [] ∧ t.starts = (s.starts + 1) % 2 ^ 48 ∧ t.mem = s.mem ∧
    ∀ c, (t.core c).wbuf = (s.core c).wbuf ∧ (t.core c).ctl.mode = .idle) ∧
  (∀ s n, s.tripped = true ∨ (n < 48 ∧ (s.sensor n).state = 3) → exec .warmStart s = .next s)

/-- R370: a request written while a change is in progress is held, shown by PEND, and a later one replaces it; the held
request starts, with its checks, in a later tick than the one in which the change completed, and not while a change is in
progress. A change is never abandoned: no request takes it away, and its steps end it only where voltage and frequency are
the target's. That an event that is not enabled changes nothing is the model's choice (log 3). -/
def Obligations.HeldRequests : Prop :=
  (∀ cl x s ch, cl < 16 → bit x.toNat 63 = true → (s.cluster cl).change = some ch → (s.cluster cl).code < 256 →
    (s.cluster cl).detail < 256 → (s.cluster cl).volt < 2 ^ 16 → (s.cluster cl).freq < 2 ^ 16 → ∃ t, exec (.cprRequest cl x) s = .next t ∧
    (t.cluster cl).held = some x ∧ bit (t.cluster cl).cps.toNat 62 = true ∧ (t.cluster cl).change = some ch) ∧
  (∀ cl s x, (s.cluster cl).held = some x → (s.cluster cl).change = none →
    ((s.cluster cl).changed < s.now →
      exec (.heldRequestStart cl) s = .next ((s.onCluster cl fun c => { c with held := none }).startRequest cl x)) ∧
    (s.now ≤ (s.cluster cl).changed → exec (.heldRequestStart cl) s = .next s)) ∧
  (∀ cl s ch, (s.cluster cl).change = some ch → exec (.heldRequestStart cl) s = .next s) ∧
  (∀ cl s t vt ft d, (s.cluster cl).change = some (vt, ft, d) →
    exec (.voltageStep cl) s = .next t ∨ exec (.frequencyStep cl) s = .next t →
    (∃ e, (t.cluster cl).change = some (vt, ft, e)) ∨ ((t.cluster cl).volt = vt ∧ (t.cluster cl).freq = ft))

/-- R381, R377, R367, R355, R282, R335: what a cold start leaves, which is where the machine begins: device memory zero, the
time base zero, every cluster at 2,250 MHz and 715 mV, the sensors' thresholds at their resets, no core, queue, context or
region in use, and the module ready. That the registers of a core that no team has held are zero is the model's choice (log
44). -/
def Obligations.ResetState : Prop :=
  (∀ a, a < 4 * dieBytes ∨ (0x700000000000 ≤ a ∧ a < 0x800000000000) → Memory.byte State.reset.mem a = 0) ∧
  State.reset.now = 0 ∧ State.reset.ready = true ∧ State.reset.tripped = false ∧ State.reset.folios = [] ∧ State.reset.regions = [] ∧
  (∀ cl, (State.reset.cluster cl).freq = 2250 ∧ (State.reset.cluster cl).volt = 715 ∧ (State.reset.cluster cl).cal = 786432 ∧
    (State.reset.cluster cl).drpk = 0 ∧ (State.reset.cluster cl).change = none) ∧
  (∀ n, (State.reset.sensor n).hyst = 5 ∧ (State.reset.sensor n).state = 0 ∧
    (State.reset.sensor n).trip = (if n < 16 then 120 else 105) ∧ (State.reset.sensor n).thr = (if n < 16 then 105 else 95) ∧
    (State.reset.sensor n).notice = if n < 16 then 95 else 85) ∧
  (∀ c, (State.reset.core c).ctl.mode = .idle ∧ (State.reset.core c).csr csrCYC = 0 ∧ (State.reset.core c).csr csrSTL = 0 ∧
    (∀ d, (State.reset.core c).sreg d = 0 ∧ (State.reset.core c).stag d = 31) ∧ ∀ a n, (State.reset.core c).space a n = 0) ∧
  (∀ q, (State.reset.queue q).valid = false ∧ (State.reset.queue q).count = 0 ∧ (State.reset.queue q).run = none) ∧
  (∀ x, State.reset.contexts.get 0 x = 0) ∧ (∀ l, (State.reset.latch l).n = 0 ∧ (State.reset.latch l).a = 0 ∧ (State.reset.latch l).passed = false) ∧
  ∀ o, (State.reset.barrier o).members = [] ∧ (State.reset.barrier o).phase = 0

/-- The memory that reset leaves is in canonical form. -/
def Obligations.ResetMemoryCanonical : Prop := Memory.wf State.reset.mem = true
/-- Every step keeps the memory's canonical form. -/
def Obligations.StepKeepsMemoryCanonical : Prop := ∀ s t, Memory.wf s.mem = true → step s = .next t → Memory.wf t.mem = true
/-- R12, R96, R97: every operation and event has an effect, a trap among them, in every state: no instruction stops the
machine, and neither does a step. -/
def Obligations.NeverStops : Prop := (∀ i s, ∃ t, exec i s = .next t) ∧ ∀ s, ∃ t, step s = .next t

/-- The core issues for itself: it has no gang, or its issue brings no trap that others of its gang could share (R237). -/
def Sys2Proof.Claims.byItself (s : State) (c : Nat) : Prop :=
  (s.teamOf c).gang ≤ 1 ∨ ((s.issueBundle c).core c).trapId = none ∨ ((s.issueBundle c).core c).trapId = (s.core c).trapId
/-- R73, R74, R77, R84: where the bytes at a core's program counter are a plain header that names one slot and a word that
decodes, and no other slot re-issues, the core's issue runs exactly the decoded operation; a bundle of more operations is
issued whole. What the agenda orders comes first (a field of the model: log 2), one entry a step; without one, a core
whose turn it is issues, and the turn passes on. R18: an entry that would let a core issue out of its turn, or that
names an operation word in place of an event, does nothing. -/
def Obligations.StepRuns : Prop :=
  (∀ (s : State) c (x : Slot) hw h w i, s.fetchWord c (s.core c).ctl.pc = .ok hw → decodeHeader hw = some h → h.kind = 0 → h.rep = 0 → h.mask = 2 ^ x.maskBit →
    s.fetchWord c ((s.core c).ctl.pc + 8) = .ok w → decodeSlot x w = .ok i → (s.core c).ctl.rep = 0 → (s.core c).regs.rw = [] →
    s.soleInstr c = some i) ∧
  (∀ (s : State) c rest, let u : State := { s with agenda := rest, turn := c }
    u.mayIssue c = true → u.inOrder c = true → byItself u c →
    (∀ i, u.soleInstr c = some i → step { s with agenda := .issue c :: rest } = exec i u) ∧
    (u.soleInstr c = none → step { s with agenda := .issue c :: rest } = .next (u.issueBundle c))) ∧
  (∀ (s : State) c rest, let u : State := { s with agenda := rest, turn := c }
    u.mayIssue c = false ∨ u.inOrder c = false → step { s with agenda := .issue c :: rest } = .next u) ∧
  (∀ (s : State) i rest, (isIssue i = false → step { s with agenda := .event i :: rest } = exec i { s with agenda := rest }) ∧
    (isIssue i = true → step { s with agenda := .event i :: rest } = .next { s with agenda := rest })) ∧
  (∀ (s : State) i, s.agenda = [] → s.ownEvent = none → s.turn < 1024 → s.mayIssue s.turn = true → byItself s s.turn →
    s.soleInstr s.turn = some i → step s = andThen (exec i s) fun t => .next t.passTurn) ∧
  (∀ (s : State) o, s.agenda = [] → s.ownEvent = some o → step s = o)

/-- Words written out from the encodings of R84-R95, each with the operation it stands for. -/
def Obligations.DecodeWords : Prop :=
  decodeSlot .v0 0x8200029001010100 = .ok (.vmul { slot := .v0, gk := 0, gs := 0 }
    { vd := 0x029, va := 0x001, vb := 0x010, fp := 0, ha := 0, hb := 1, rm := 0, fn := 0 }) ∧
  decodeSlot .s 0x29001C0089ABCDEF = .ok (.li { slot := .s, gk := 0, gs := 0 } { sd := 7, sa := 0, fn := 0, imm := 0x89ABCDEF }) ∧
  decodeSlot .s 0x3000288000000028 = .ok (.br { slot := .s, gk := 0, gs := 0 } { sa := 10, cc := 1, ex := 0, imm := 0x28 }) ∧
  decodeSlot .s 0x2D00144A00000010 = .ok (.lds { slot := .s, gk := 0, gs := 0 } { sd := 5, sa := 4, fn := 0xA, imm := 0x10 }) ∧
  decodeSlot .m 0xB000038000000000 = .ok (.mcall { slot := .m, gk := 0, gs := 0 }
    { ri := 3, acc := 1, pert := 0, trb := 0, bias := 0, act := 0, atab := 0, rq := 0, rr := 0, sa := 0, sb := 0, lo := 0 }) ∧
  decodeSlot .s 0x6100244028000080 = .ok (.barw { slot := .s, gk := 0, gs := 0 } { st := 9, dl := 0x10, esc := 0, sa := 5, sb := 0, imm := 0x80 }) ∧
  decodeSlot .s 0x4000240011000000 = .ok (.csrr { slot := .s, gk := 0, gs := 0 } { sd := 9, sa := 0, csr := 0x011, imm := 0 }) ∧
  decodeSlot .s 0x1C00000000000000 = .error .illop ∧ decodeSlot .v0 0x29001C0089ABCDEF = .error .illslot ∧
  decodeSlot .s 0xF000000000000000 = .error .illbun

/-- R84-R96: encoding and decoding agree. A word that decodes is the word of the operation it gives, and the word of an
operation whose fields are well-formed, in a slot its opcode is legal in, decodes to that operation with every operand. -/
def Obligations.EncodeDecode : Prop :=
  (∀ i x w c b, encode i = some (x, w) → i.formOk = true → opcodeClass (bits w.toNat 63 56) = some (c, b) → c.has x = true → decodeSlot x w = .ok i) ∧
  (∀ x w i, decodeSlot x w = .ok i → encode i = some (x, w) ∧ i.formOk = true)
end

