-- ==== Sys2Proof/Laws/State.lean ====
section
/-! SUPPORT. Laws of tables and of the accessors of the state: what a read gives after a write, and what a write leaves. -/
namespace Sys2Proof

@[simp] theorem Table.get_insert {α : Type} (d : α) (t : Table α) (k : Nat) (v : α) (j : Nat) :
    Table.get d (Table.insert k v t) j = if j = k then v else Table.get d t j := by
  induction t with
  | nil => simp only [Table.insert, Table.get, eq_comm]
  | cons e r ih =>
    obtain ⟨i, x⟩ := e
    simp only [Table.insert]
    split
    · simp only [Table.get, eq_comm]
    · split
      · next h => subst h; by_cases e : k = j <;> simp [Table.get, e, Ne.symm]
      · next h =>
        by_cases e : i = j
        · have : j ≠ k := by omega
          simp [Table.get, e, this]
        · simp [Table.get, ih, e]
@[simp] theorem Table.get_erase {α : Type} (d : α) (t : Table α) (k j : Nat) :
    Table.get d (Table.erase k t) j = if j = k then d else Table.get d t j := by
  induction t with
  | nil => simp [Table.erase, Table.get]
  | cons e r ih =>
    obtain ⟨i, x⟩ := e
    simp only [Table.erase]
    split
    · next h =>
      subst h; rw [ih]
      by_cases e : i = j
      · simp [e]
      · simp [Table.get, e, Ne.symm e]
    · next h =>
      by_cases e : i = j
      · have : j ≠ k := by omega
        simp [Table.get, e, this]
      · simp [Table.get, ih, e]
/-- A table reads what was put into it, and nothing else of it has changed. -/
@[simp] theorem Table.get_put {α : Type} [DecidableEq α] (d : α) (t : Table α) (k : Nat) (v : α) (j : Nat) :
    Table.get d (Table.put d t k v) j = if j = k then v else Table.get d t j := by
  unfold Table.put
  split
  · next h => subst h; simp
  · simp

end Sys2Proof
namespace Sys2Proof.Machine


/-! `setCore`. -/
@[simp] theorem State.core_setCore (s : State) (c : Nat) (k : Core) (j : Nat) :
    (s.setCore c k).core j = if j = c then k else s.core j := by
  simp [State.setCore, State.core]
@[simp] theorem State.agenda_setCore (s : State) (c : Nat) (k : Core) : (s.setCore c k).agenda = s.agenda := rfl
@[simp] theorem State.turn_setCore (s : State) (c : Nat) (k : Core) : (s.setCore c k).turn = s.turn := rfl
@[simp] theorem State.now_setCore (s : State) (c : Nat) (k : Core) : (s.setCore c k).now = s.now := rfl
@[simp] theorem State.polled_setCore (s : State) (c : Nat) (k : Core) : (s.setCore c k).polled = s.polled := rfl
@[simp] theorem State.stepped_setCore (s : State) (c : Nat) (k : Core) : (s.setCore c k).stepped = s.stepped := rfl
@[simp] theorem State.chantab_setCore (s : State) (c : Nat) (k : Core) : (s.setCore c k).chantab = s.chantab := rfl
@[simp] theorem State.routers_setCore (s : State) (c : Nat) (k : Core) : (s.setCore c k).routers = s.routers := rfl
@[simp] theorem State.pins_setCore (s : State) (c : Nat) (k : Core) : (s.setCore c k).pins = s.pins := rfl
@[simp] theorem State.installs_setCore (s : State) (c : Nat) (k : Core) : (s.setCore c k).installs = s.installs := rfl
@[simp] theorem State.dataChk_setCore (s : State) (c : Nat) (k : Core) : (s.setCore c k).dataChk = s.dataChk := rfl
@[simp] theorem State.retired_setCore (s : State) (c : Nat) (k : Core) : (s.setCore c k).retired = s.retired := rfl
@[simp] theorem State.order_setCore (s : State) (c : Nat) (k : Core) : (s.setCore c k).order = s.order := rfl
@[simp] theorem State.interrupts_setCore (s : State) (c : Nat) (k : Core) : (s.setCore c k).interrupts = s.interrupts := rfl
@[simp] theorem State.freeCtr_setCore (s : State) (c : Nat) (k : Core) : (s.setCore c k).freeCtr = s.freeCtr := rfl
@[simp] theorem State.mem_setCore (s : State) (c : Nat) (k : Core) : (s.setCore c k).mem = s.mem := rfl
@[simp] theorem State.teams_setCore (s : State) (c : Nat) (k : Core) : (s.setCore c k).teams = s.teams := rfl
@[simp] theorem State.grids_setCore (s : State) (c : Nat) (k : Core) : (s.setCore c k).grids = s.grids := rfl
@[simp] theorem State.residency_setCore (s : State) (c : Nat) (k : Core) : (s.setCore c k).residency = s.residency := rfl
@[simp] theorem State.clusters_setCore (s : State) (c : Nat) (k : Core) : (s.setCore c k).clusters = s.clusters := rfl
@[simp] theorem State.barriers_setCore (s : State) (c : Nat) (k : Core) : (s.setCore c k).barriers = s.barriers := rfl
@[simp] theorem State.latches_setCore (s : State) (c : Nat) (k : Core) : (s.setCore c k).latches = s.latches := rfl
@[simp] theorem State.channels_setCore (s : State) (c : Nat) (k : Core) : (s.setCore c k).channels = s.channels := rfl
@[simp] theorem State.granules_setCore (s : State) (c : Nat) (k : Core) : (s.setCore c k).granules = s.granules := rfl
@[simp] theorem State.handoffs_setCore (s : State) (c : Nat) (k : Core) : (s.setCore c k).handoffs = s.handoffs := rfl
@[simp] theorem State.records_setCore (s : State) (c : Nat) (k : Core) : (s.setCore c k).records = s.records := rfl
@[simp] theorem State.hostLines_setCore (s : State) (c : Nat) (k : Core) : (s.setCore c k).hostLines = s.hostLines := rfl
@[simp] theorem State.queues_setCore (s : State) (c : Nat) (k : Core) : (s.setCore c k).queues = s.queues := rfl
@[simp] theorem State.contexts_setCore (s : State) (c : Nat) (k : Core) : (s.setCore c k).contexts = s.contexts := rfl
@[simp] theorem State.folios_setCore (s : State) (c : Nat) (k : Core) : (s.setCore c k).folios = s.folios := rfl
@[simp] theorem State.regions_setCore (s : State) (c : Nat) (k : Core) : (s.setCore c k).regions = s.regions := rfl
@[simp] theorem State.formats_setCore (s : State) (c : Nat) (k : Core) : (s.setCore c k).formats = s.formats := rfl
@[simp] theorem State.copyqs_setCore (s : State) (c : Nat) (k : Core) : (s.setCore c k).copyqs = s.copyqs := rfl
@[simp] theorem State.reductions_setCore (s : State) (c : Nat) (k : Core) : (s.setCore c k).reductions = s.reductions := rfl
@[simp] theorem State.packets_setCore (s : State) (c : Nat) (k : Core) : (s.setCore c k).packets = s.packets := rfl
@[simp] theorem State.sensors_setCore (s : State) (c : Nat) (k : Core) : (s.setCore c k).sensors = s.sensors := rfl
@[simp] theorem State.readings_setCore (s : State) (c : Nat) (k : Core) : (s.setCore c k).readings = s.readings := rfl
@[simp] theorem State.tripped_setCore (s : State) (c : Nat) (k : Core) : (s.setCore c k).tripped = s.tripped := rfl
@[simp] theorem State.cap_setCore (s : State) (c : Nat) (k : Core) : (s.setCore c k).cap = s.cap := rfl
@[simp] theorem State.ports_setCore (s : State) (c : Nat) (k : Core) : (s.setCore c k).ports = s.ports := rfl
@[simp] theorem State.warm_setCore (s : State) (c : Nat) (k : Core) : (s.setCore c k).warm = s.warm := rfl
@[simp] theorem State.starts_setCore (s : State) (c : Nat) (k : Core) : (s.setCore c k).starts = s.starts := rfl
@[simp] theorem State.failStep_setCore (s : State) (c : Nat) (k : Core) : (s.setCore c k).failStep = s.failStep := rfl
@[simp] theorem State.ready_setCore (s : State) (c : Nat) (k : Core) : (s.setCore c k).ready = s.ready := rfl
@[simp] theorem State.startFail_setCore (s : State) (c : Nat) (k : Core) : (s.setCore c k).startFail = s.startFail := rfl
@[simp] theorem State.trained_setCore (s : State) (c : Nat) (k : Core) : (s.setCore c k).trained = s.trained := rfl
@[simp] theorem State.outbox_setCore (s : State) (c : Nat) (k : Core) : (s.setCore c k).outbox = s.outbox := rfl
@[simp] theorem State.flash_setCore (s : State) (c : Nat) (k : Core) : (s.setCore c k).flash = s.flash := rfl
@[simp] theorem State.booted_setCore (s : State) (c : Nat) (k : Core) : (s.setCore c k).booted = s.booted := rfl
@[simp] theorem State.firmwareKey_setCore (s : State) (c : Nat) (k : Core) : (s.setCore c k).firmwareKey = s.firmwareKey := rfl
@[simp] theorem State.fuses_setCore (s : State) (c : Nat) (k : Core) : (s.setCore c k).fuses = s.fuses := rfl
@[simp] theorem State.power_setCore (s : State) (c : Nat) (k : Core) : (s.setCore c k).power = s.power := rfl
@[simp] theorem State.sideband_setCore (s : State) (c : Nat) (k : Core) : (s.setCore c k).sideband = s.sideband := rfl
@[simp] theorem State.frames_setCore (s : State) (c : Nat) (k : Core) : (s.setCore c k).frames = s.frames := rfl
@[simp] theorem State.team_setCore (s : State) (c : Nat) (k : Core) (j : Nat) : (s.setCore c k).team j = s.team j := rfl
@[simp] theorem State.grid_setCore (s : State) (c : Nat) (k : Core) (j : Nat) : (s.setCore c k).grid j = s.grid j := rfl
@[simp] theorem State.cluster_setCore (s : State) (c : Nat) (k : Core) (j : Nat) : (s.setCore c k).cluster j = s.cluster j := rfl
@[simp] theorem State.queue_setCore (s : State) (c : Nat) (k : Core) (j : Nat) : (s.setCore c k).queue j = s.queue j := rfl
@[simp] theorem State.barrier_setCore (s : State) (c : Nat) (k : Core) (j : Nat) : (s.setCore c k).barrier j = s.barrier j := rfl
@[simp] theorem State.latch_setCore (s : State) (c : Nat) (k : Core) (j : Nat) : (s.setCore c k).latch j = s.latch j := rfl
@[simp] theorem State.channel_setCore (s : State) (c : Nat) (k : Core) (j : Nat) : (s.setCore c k).channel j = s.channel j := rfl

/-! `onCore`. -/
@[simp] theorem State.core_onCore (s : State) (c : Nat) (f : Core → Core) (j : Nat) :
    (s.onCore c f).core j = if j = c then f (s.core c) else s.core j := by
  simp [State.onCore, State.core, State.setCore]
@[simp] theorem State.agenda_onCore (s : State) (c : Nat) (f : Core → Core) : (s.onCore c f).agenda = s.agenda := rfl
@[simp] theorem State.turn_onCore (s : State) (c : Nat) (f : Core → Core) : (s.onCore c f).turn = s.turn := rfl
@[simp] theorem State.now_onCore (s : State) (c : Nat) (f : Core → Core) : (s.onCore c f).now = s.now := rfl
@[simp] theorem State.polled_onCore (s : State) (c : Nat) (f : Core → Core) : (s.onCore c f).polled = s.polled := rfl
@[simp] theorem State.stepped_onCore (s : State) (c : Nat) (f : Core → Core) : (s.onCore c f).stepped = s.stepped := rfl
@[simp] theorem State.chantab_onCore (s : State) (c : Nat) (f : Core → Core) : (s.onCore c f).chantab = s.chantab := rfl
@[simp] theorem State.routers_onCore (s : State) (c : Nat) (f : Core → Core) : (s.onCore c f).routers = s.routers := rfl
@[simp] theorem State.pins_onCore (s : State) (c : Nat) (f : Core → Core) : (s.onCore c f).pins = s.pins := rfl
@[simp] theorem State.installs_onCore (s : State) (c : Nat) (f : Core → Core) : (s.onCore c f).installs = s.installs := rfl
@[simp] theorem State.dataChk_onCore (s : State) (c : Nat) (f : Core → Core) : (s.onCore c f).dataChk = s.dataChk := rfl
@[simp] theorem State.retired_onCore (s : State) (c : Nat) (f : Core → Core) : (s.onCore c f).retired = s.retired := rfl
@[simp] theorem State.order_onCore (s : State) (c : Nat) (f : Core → Core) : (s.onCore c f).order = s.order := rfl
@[simp] theorem State.interrupts_onCore (s : State) (c : Nat) (f : Core → Core) : (s.onCore c f).interrupts = s.interrupts := rfl
@[simp] theorem State.freeCtr_onCore (s : State) (c : Nat) (f : Core → Core) : (s.onCore c f).freeCtr = s.freeCtr := rfl
@[simp] theorem State.mem_onCore (s : State) (c : Nat) (f : Core → Core) : (s.onCore c f).mem = s.mem := rfl
@[simp] theorem State.teams_onCore (s : State) (c : Nat) (f : Core → Core) : (s.onCore c f).teams = s.teams := rfl
@[simp] theorem State.grids_onCore (s : State) (c : Nat) (f : Core → Core) : (s.onCore c f).grids = s.grids := rfl
@[simp] theorem State.residency_onCore (s : State) (c : Nat) (f : Core → Core) : (s.onCore c f).residency = s.residency := rfl
@[simp] theorem State.clusters_onCore (s : State) (c : Nat) (f : Core → Core) : (s.onCore c f).clusters = s.clusters := rfl
@[simp] theorem State.barriers_onCore (s : State) (c : Nat) (f : Core → Core) : (s.onCore c f).barriers = s.barriers := rfl
@[simp] theorem State.latches_onCore (s : State) (c : Nat) (f : Core → Core) : (s.onCore c f).latches = s.latches := rfl
@[simp] theorem State.channels_onCore (s : State) (c : Nat) (f : Core → Core) : (s.onCore c f).channels = s.channels := rfl
@[simp] theorem State.granules_onCore (s : State) (c : Nat) (f : Core → Core) : (s.onCore c f).granules = s.granules := rfl
@[simp] theorem State.handoffs_onCore (s : State) (c : Nat) (f : Core → Core) : (s.onCore c f).handoffs = s.handoffs := rfl
@[simp] theorem State.records_onCore (s : State) (c : Nat) (f : Core → Core) : (s.onCore c f).records = s.records := rfl
@[simp] theorem State.hostLines_onCore (s : State) (c : Nat) (f : Core → Core) : (s.onCore c f).hostLines = s.hostLines := rfl
@[simp] theorem State.queues_onCore (s : State) (c : Nat) (f : Core → Core) : (s.onCore c f).queues = s.queues := rfl
@[simp] theorem State.contexts_onCore (s : State) (c : Nat) (f : Core → Core) : (s.onCore c f).contexts = s.contexts := rfl
@[simp] theorem State.folios_onCore (s : State) (c : Nat) (f : Core → Core) : (s.onCore c f).folios = s.folios := rfl
@[simp] theorem State.regions_onCore (s : State) (c : Nat) (f : Core → Core) : (s.onCore c f).regions = s.regions := rfl
@[simp] theorem State.formats_onCore (s : State) (c : Nat) (f : Core → Core) : (s.onCore c f).formats = s.formats := rfl
@[simp] theorem State.copyqs_onCore (s : State) (c : Nat) (f : Core → Core) : (s.onCore c f).copyqs = s.copyqs := rfl
@[simp] theorem State.reductions_onCore (s : State) (c : Nat) (f : Core → Core) : (s.onCore c f).reductions = s.reductions := rfl
@[simp] theorem State.packets_onCore (s : State) (c : Nat) (f : Core → Core) : (s.onCore c f).packets = s.packets := rfl
@[simp] theorem State.sensors_onCore (s : State) (c : Nat) (f : Core → Core) : (s.onCore c f).sensors = s.sensors := rfl
@[simp] theorem State.readings_onCore (s : State) (c : Nat) (f : Core → Core) : (s.onCore c f).readings = s.readings := rfl
@[simp] theorem State.tripped_onCore (s : State) (c : Nat) (f : Core → Core) : (s.onCore c f).tripped = s.tripped := rfl
@[simp] theorem State.cap_onCore (s : State) (c : Nat) (f : Core → Core) : (s.onCore c f).cap = s.cap := rfl
@[simp] theorem State.ports_onCore (s : State) (c : Nat) (f : Core → Core) : (s.onCore c f).ports = s.ports := rfl
@[simp] theorem State.warm_onCore (s : State) (c : Nat) (f : Core → Core) : (s.onCore c f).warm = s.warm := rfl
@[simp] theorem State.starts_onCore (s : State) (c : Nat) (f : Core → Core) : (s.onCore c f).starts = s.starts := rfl
@[simp] theorem State.failStep_onCore (s : State) (c : Nat) (f : Core → Core) : (s.onCore c f).failStep = s.failStep := rfl
@[simp] theorem State.ready_onCore (s : State) (c : Nat) (f : Core → Core) : (s.onCore c f).ready = s.ready := rfl
@[simp] theorem State.startFail_onCore (s : State) (c : Nat) (f : Core → Core) : (s.onCore c f).startFail = s.startFail := rfl
@[simp] theorem State.trained_onCore (s : State) (c : Nat) (f : Core → Core) : (s.onCore c f).trained = s.trained := rfl
@[simp] theorem State.outbox_onCore (s : State) (c : Nat) (f : Core → Core) : (s.onCore c f).outbox = s.outbox := rfl
@[simp] theorem State.flash_onCore (s : State) (c : Nat) (f : Core → Core) : (s.onCore c f).flash = s.flash := rfl
@[simp] theorem State.booted_onCore (s : State) (c : Nat) (f : Core → Core) : (s.onCore c f).booted = s.booted := rfl
@[simp] theorem State.firmwareKey_onCore (s : State) (c : Nat) (f : Core → Core) : (s.onCore c f).firmwareKey = s.firmwareKey := rfl
@[simp] theorem State.fuses_onCore (s : State) (c : Nat) (f : Core → Core) : (s.onCore c f).fuses = s.fuses := rfl
@[simp] theorem State.power_onCore (s : State) (c : Nat) (f : Core → Core) : (s.onCore c f).power = s.power := rfl
@[simp] theorem State.sideband_onCore (s : State) (c : Nat) (f : Core → Core) : (s.onCore c f).sideband = s.sideband := rfl
@[simp] theorem State.frames_onCore (s : State) (c : Nat) (f : Core → Core) : (s.onCore c f).frames = s.frames := rfl
@[simp] theorem State.team_onCore (s : State) (c : Nat) (f : Core → Core) (j : Nat) : (s.onCore c f).team j = s.team j := rfl
@[simp] theorem State.grid_onCore (s : State) (c : Nat) (f : Core → Core) (j : Nat) : (s.onCore c f).grid j = s.grid j := rfl
@[simp] theorem State.cluster_onCore (s : State) (c : Nat) (f : Core → Core) (j : Nat) : (s.onCore c f).cluster j = s.cluster j := rfl
@[simp] theorem State.queue_onCore (s : State) (c : Nat) (f : Core → Core) (j : Nat) : (s.onCore c f).queue j = s.queue j := rfl
@[simp] theorem State.barrier_onCore (s : State) (c : Nat) (f : Core → Core) (j : Nat) : (s.onCore c f).barrier j = s.barrier j := rfl
@[simp] theorem State.latch_onCore (s : State) (c : Nat) (f : Core → Core) (j : Nat) : (s.onCore c f).latch j = s.latch j := rfl
@[simp] theorem State.channel_onCore (s : State) (c : Nat) (f : Core → Core) (j : Nat) : (s.onCore c f).channel j = s.channel j := rfl

/-! `setTeam`. -/
@[simp] theorem State.team_setTeam (s : State) (t : Nat) (x : Team) (j : Nat) :
    (s.setTeam t x).team j = if j = t then x else s.team j := by
  simp [State.setTeam, State.team]
@[simp] theorem State.agenda_setTeam (s : State) (t : Nat) (x : Team) : (s.setTeam t x).agenda = s.agenda := rfl
@[simp] theorem State.turn_setTeam (s : State) (t : Nat) (x : Team) : (s.setTeam t x).turn = s.turn := rfl
@[simp] theorem State.now_setTeam (s : State) (t : Nat) (x : Team) : (s.setTeam t x).now = s.now := rfl
@[simp] theorem State.polled_setTeam (s : State) (t : Nat) (x : Team) : (s.setTeam t x).polled = s.polled := rfl
@[simp] theorem State.stepped_setTeam (s : State) (t : Nat) (x : Team) : (s.setTeam t x).stepped = s.stepped := rfl
@[simp] theorem State.chantab_setTeam (s : State) (t : Nat) (x : Team) : (s.setTeam t x).chantab = s.chantab := rfl
@[simp] theorem State.routers_setTeam (s : State) (t : Nat) (x : Team) : (s.setTeam t x).routers = s.routers := rfl
@[simp] theorem State.pins_setTeam (s : State) (t : Nat) (x : Team) : (s.setTeam t x).pins = s.pins := rfl
@[simp] theorem State.installs_setTeam (s : State) (t : Nat) (x : Team) : (s.setTeam t x).installs = s.installs := rfl
@[simp] theorem State.dataChk_setTeam (s : State) (t : Nat) (x : Team) : (s.setTeam t x).dataChk = s.dataChk := rfl
@[simp] theorem State.retired_setTeam (s : State) (t : Nat) (x : Team) : (s.setTeam t x).retired = s.retired := rfl
@[simp] theorem State.order_setTeam (s : State) (t : Nat) (x : Team) : (s.setTeam t x).order = s.order := rfl
@[simp] theorem State.interrupts_setTeam (s : State) (t : Nat) (x : Team) : (s.setTeam t x).interrupts = s.interrupts := rfl
@[simp] theorem State.freeCtr_setTeam (s : State) (t : Nat) (x : Team) : (s.setTeam t x).freeCtr = s.freeCtr := rfl
@[simp] theorem State.mem_setTeam (s : State) (t : Nat) (x : Team) : (s.setTeam t x).mem = s.mem := rfl
@[simp] theorem State.cores_setTeam (s : State) (t : Nat) (x : Team) : (s.setTeam t x).cores = s.cores := rfl
@[simp] theorem State.grids_setTeam (s : State) (t : Nat) (x : Team) : (s.setTeam t x).grids = s.grids := rfl
@[simp] theorem State.residency_setTeam (s : State) (t : Nat) (x : Team) : (s.setTeam t x).residency = s.residency := rfl
@[simp] theorem State.clusters_setTeam (s : State) (t : Nat) (x : Team) : (s.setTeam t x).clusters = s.clusters := rfl
@[simp] theorem State.barriers_setTeam (s : State) (t : Nat) (x : Team) : (s.setTeam t x).barriers = s.barriers := rfl
@[simp] theorem State.latches_setTeam (s : State) (t : Nat) (x : Team) : (s.setTeam t x).latches = s.latches := rfl
@[simp] theorem State.channels_setTeam (s : State) (t : Nat) (x : Team) : (s.setTeam t x).channels = s.channels := rfl
@[simp] theorem State.granules_setTeam (s : State) (t : Nat) (x : Team) : (s.setTeam t x).granules = s.granules := rfl
@[simp] theorem State.handoffs_setTeam (s : State) (t : Nat) (x : Team) : (s.setTeam t x).handoffs = s.handoffs := rfl
@[simp] theorem State.records_setTeam (s : State) (t : Nat) (x : Team) : (s.setTeam t x).records = s.records := rfl
@[simp] theorem State.hostLines_setTeam (s : State) (t : Nat) (x : Team) : (s.setTeam t x).hostLines = s.hostLines := rfl
@[simp] theorem State.queues_setTeam (s : State) (t : Nat) (x : Team) : (s.setTeam t x).queues = s.queues := rfl
@[simp] theorem State.contexts_setTeam (s : State) (t : Nat) (x : Team) : (s.setTeam t x).contexts = s.contexts := rfl
@[simp] theorem State.folios_setTeam (s : State) (t : Nat) (x : Team) : (s.setTeam t x).folios = s.folios := rfl
@[simp] theorem State.regions_setTeam (s : State) (t : Nat) (x : Team) : (s.setTeam t x).regions = s.regions := rfl
@[simp] theorem State.formats_setTeam (s : State) (t : Nat) (x : Team) : (s.setTeam t x).formats = s.formats := rfl
@[simp] theorem State.copyqs_setTeam (s : State) (t : Nat) (x : Team) : (s.setTeam t x).copyqs = s.copyqs := rfl
@[simp] theorem State.reductions_setTeam (s : State) (t : Nat) (x : Team) : (s.setTeam t x).reductions = s.reductions := rfl
@[simp] theorem State.packets_setTeam (s : State) (t : Nat) (x : Team) : (s.setTeam t x).packets = s.packets := rfl
@[simp] theorem State.sensors_setTeam (s : State) (t : Nat) (x : Team) : (s.setTeam t x).sensors = s.sensors := rfl
@[simp] theorem State.readings_setTeam (s : State) (t : Nat) (x : Team) : (s.setTeam t x).readings = s.readings := rfl
@[simp] theorem State.tripped_setTeam (s : State) (t : Nat) (x : Team) : (s.setTeam t x).tripped = s.tripped := rfl
@[simp] theorem State.cap_setTeam (s : State) (t : Nat) (x : Team) : (s.setTeam t x).cap = s.cap := rfl
@[simp] theorem State.ports_setTeam (s : State) (t : Nat) (x : Team) : (s.setTeam t x).ports = s.ports := rfl
@[simp] theorem State.warm_setTeam (s : State) (t : Nat) (x : Team) : (s.setTeam t x).warm = s.warm := rfl
@[simp] theorem State.starts_setTeam (s : State) (t : Nat) (x : Team) : (s.setTeam t x).starts = s.starts := rfl
@[simp] theorem State.failStep_setTeam (s : State) (t : Nat) (x : Team) : (s.setTeam t x).failStep = s.failStep := rfl
@[simp] theorem State.ready_setTeam (s : State) (t : Nat) (x : Team) : (s.setTeam t x).ready = s.ready := rfl
@[simp] theorem State.startFail_setTeam (s : State) (t : Nat) (x : Team) : (s.setTeam t x).startFail = s.startFail := rfl
@[simp] theorem State.trained_setTeam (s : State) (t : Nat) (x : Team) : (s.setTeam t x).trained = s.trained := rfl
@[simp] theorem State.outbox_setTeam (s : State) (t : Nat) (x : Team) : (s.setTeam t x).outbox = s.outbox := rfl
@[simp] theorem State.flash_setTeam (s : State) (t : Nat) (x : Team) : (s.setTeam t x).flash = s.flash := rfl
@[simp] theorem State.booted_setTeam (s : State) (t : Nat) (x : Team) : (s.setTeam t x).booted = s.booted := rfl
@[simp] theorem State.firmwareKey_setTeam (s : State) (t : Nat) (x : Team) : (s.setTeam t x).firmwareKey = s.firmwareKey := rfl
@[simp] theorem State.fuses_setTeam (s : State) (t : Nat) (x : Team) : (s.setTeam t x).fuses = s.fuses := rfl
@[simp] theorem State.power_setTeam (s : State) (t : Nat) (x : Team) : (s.setTeam t x).power = s.power := rfl
@[simp] theorem State.sideband_setTeam (s : State) (t : Nat) (x : Team) : (s.setTeam t x).sideband = s.sideband := rfl
@[simp] theorem State.frames_setTeam (s : State) (t : Nat) (x : Team) : (s.setTeam t x).frames = s.frames := rfl
@[simp] theorem State.core_setTeam (s : State) (t : Nat) (x : Team) (j : Nat) : (s.setTeam t x).core j = s.core j := rfl
@[simp] theorem State.grid_setTeam (s : State) (t : Nat) (x : Team) (j : Nat) : (s.setTeam t x).grid j = s.grid j := rfl
@[simp] theorem State.cluster_setTeam (s : State) (t : Nat) (x : Team) (j : Nat) : (s.setTeam t x).cluster j = s.cluster j := rfl
@[simp] theorem State.queue_setTeam (s : State) (t : Nat) (x : Team) (j : Nat) : (s.setTeam t x).queue j = s.queue j := rfl
@[simp] theorem State.barrier_setTeam (s : State) (t : Nat) (x : Team) (j : Nat) : (s.setTeam t x).barrier j = s.barrier j := rfl
@[simp] theorem State.latch_setTeam (s : State) (t : Nat) (x : Team) (j : Nat) : (s.setTeam t x).latch j = s.latch j := rfl
@[simp] theorem State.channel_setTeam (s : State) (t : Nat) (x : Team) (j : Nat) : (s.setTeam t x).channel j = s.channel j := rfl

/-! `onTeam`. -/
@[simp] theorem State.team_onTeam (s : State) (t : Nat) (f : Team → Team) (j : Nat) :
    (s.onTeam t f).team j = if j = t then f (s.team t) else s.team j := by
  simp [State.onTeam, State.team, State.setTeam]
@[simp] theorem State.agenda_onTeam (s : State) (t : Nat) (f : Team → Team) : (s.onTeam t f).agenda = s.agenda := rfl
@[simp] theorem State.turn_onTeam (s : State) (t : Nat) (f : Team → Team) : (s.onTeam t f).turn = s.turn := rfl
@[simp] theorem State.now_onTeam (s : State) (t : Nat) (f : Team → Team) : (s.onTeam t f).now = s.now := rfl
@[simp] theorem State.polled_onTeam (s : State) (t : Nat) (f : Team → Team) : (s.onTeam t f).polled = s.polled := rfl
@[simp] theorem State.stepped_onTeam (s : State) (t : Nat) (f : Team → Team) : (s.onTeam t f).stepped = s.stepped := rfl
@[simp] theorem State.chantab_onTeam (s : State) (t : Nat) (f : Team → Team) : (s.onTeam t f).chantab = s.chantab := rfl
@[simp] theorem State.routers_onTeam (s : State) (t : Nat) (f : Team → Team) : (s.onTeam t f).routers = s.routers := rfl
@[simp] theorem State.pins_onTeam (s : State) (t : Nat) (f : Team → Team) : (s.onTeam t f).pins = s.pins := rfl
@[simp] theorem State.installs_onTeam (s : State) (t : Nat) (f : Team → Team) : (s.onTeam t f).installs = s.installs := rfl
@[simp] theorem State.dataChk_onTeam (s : State) (t : Nat) (f : Team → Team) : (s.onTeam t f).dataChk = s.dataChk := rfl
@[simp] theorem State.retired_onTeam (s : State) (t : Nat) (f : Team → Team) : (s.onTeam t f).retired = s.retired := rfl
@[simp] theorem State.order_onTeam (s : State) (t : Nat) (f : Team → Team) : (s.onTeam t f).order = s.order := rfl
@[simp] theorem State.interrupts_onTeam (s : State) (t : Nat) (f : Team → Team) : (s.onTeam t f).interrupts = s.interrupts := rfl
@[simp] theorem State.freeCtr_onTeam (s : State) (t : Nat) (f : Team → Team) : (s.onTeam t f).freeCtr = s.freeCtr := rfl
@[simp] theorem State.mem_onTeam (s : State) (t : Nat) (f : Team → Team) : (s.onTeam t f).mem = s.mem := rfl
@[simp] theorem State.cores_onTeam (s : State) (t : Nat) (f : Team → Team) : (s.onTeam t f).cores = s.cores := rfl
@[simp] theorem State.grids_onTeam (s : State) (t : Nat) (f : Team → Team) : (s.onTeam t f).grids = s.grids := rfl
@[simp] theorem State.residency_onTeam (s : State) (t : Nat) (f : Team → Team) : (s.onTeam t f).residency = s.residency := rfl
@[simp] theorem State.clusters_onTeam (s : State) (t : Nat) (f : Team → Team) : (s.onTeam t f).clusters = s.clusters := rfl
@[simp] theorem State.barriers_onTeam (s : State) (t : Nat) (f : Team → Team) : (s.onTeam t f).barriers = s.barriers := rfl
@[simp] theorem State.latches_onTeam (s : State) (t : Nat) (f : Team → Team) : (s.onTeam t f).latches = s.latches := rfl
@[simp] theorem State.channels_onTeam (s : State) (t : Nat) (f : Team → Team) : (s.onTeam t f).channels = s.channels := rfl
@[simp] theorem State.granules_onTeam (s : State) (t : Nat) (f : Team → Team) : (s.onTeam t f).granules = s.granules := rfl
@[simp] theorem State.handoffs_onTeam (s : State) (t : Nat) (f : Team → Team) : (s.onTeam t f).handoffs = s.handoffs := rfl
@[simp] theorem State.records_onTeam (s : State) (t : Nat) (f : Team → Team) : (s.onTeam t f).records = s.records := rfl
@[simp] theorem State.hostLines_onTeam (s : State) (t : Nat) (f : Team → Team) : (s.onTeam t f).hostLines = s.hostLines := rfl
@[simp] theorem State.queues_onTeam (s : State) (t : Nat) (f : Team → Team) : (s.onTeam t f).queues = s.queues := rfl
@[simp] theorem State.contexts_onTeam (s : State) (t : Nat) (f : Team → Team) : (s.onTeam t f).contexts = s.contexts := rfl
@[simp] theorem State.folios_onTeam (s : State) (t : Nat) (f : Team → Team) : (s.onTeam t f).folios = s.folios := rfl
@[simp] theorem State.regions_onTeam (s : State) (t : Nat) (f : Team → Team) : (s.onTeam t f).regions = s.regions := rfl
@[simp] theorem State.formats_onTeam (s : State) (t : Nat) (f : Team → Team) : (s.onTeam t f).formats = s.formats := rfl
@[simp] theorem State.copyqs_onTeam (s : State) (t : Nat) (f : Team → Team) : (s.onTeam t f).copyqs = s.copyqs := rfl
@[simp] theorem State.reductions_onTeam (s : State) (t : Nat) (f : Team → Team) : (s.onTeam t f).reductions = s.reductions := rfl
@[simp] theorem State.packets_onTeam (s : State) (t : Nat) (f : Team → Team) : (s.onTeam t f).packets = s.packets := rfl
@[simp] theorem State.sensors_onTeam (s : State) (t : Nat) (f : Team → Team) : (s.onTeam t f).sensors = s.sensors := rfl
@[simp] theorem State.readings_onTeam (s : State) (t : Nat) (f : Team → Team) : (s.onTeam t f).readings = s.readings := rfl
@[simp] theorem State.tripped_onTeam (s : State) (t : Nat) (f : Team → Team) : (s.onTeam t f).tripped = s.tripped := rfl
@[simp] theorem State.cap_onTeam (s : State) (t : Nat) (f : Team → Team) : (s.onTeam t f).cap = s.cap := rfl
@[simp] theorem State.ports_onTeam (s : State) (t : Nat) (f : Team → Team) : (s.onTeam t f).ports = s.ports := rfl
@[simp] theorem State.warm_onTeam (s : State) (t : Nat) (f : Team → Team) : (s.onTeam t f).warm = s.warm := rfl
@[simp] theorem State.starts_onTeam (s : State) (t : Nat) (f : Team → Team) : (s.onTeam t f).starts = s.starts := rfl
@[simp] theorem State.failStep_onTeam (s : State) (t : Nat) (f : Team → Team) : (s.onTeam t f).failStep = s.failStep := rfl
@[simp] theorem State.ready_onTeam (s : State) (t : Nat) (f : Team → Team) : (s.onTeam t f).ready = s.ready := rfl
@[simp] theorem State.startFail_onTeam (s : State) (t : Nat) (f : Team → Team) : (s.onTeam t f).startFail = s.startFail := rfl
@[simp] theorem State.trained_onTeam (s : State) (t : Nat) (f : Team → Team) : (s.onTeam t f).trained = s.trained := rfl
@[simp] theorem State.outbox_onTeam (s : State) (t : Nat) (f : Team → Team) : (s.onTeam t f).outbox = s.outbox := rfl
@[simp] theorem State.flash_onTeam (s : State) (t : Nat) (f : Team → Team) : (s.onTeam t f).flash = s.flash := rfl
@[simp] theorem State.booted_onTeam (s : State) (t : Nat) (f : Team → Team) : (s.onTeam t f).booted = s.booted := rfl
@[simp] theorem State.firmwareKey_onTeam (s : State) (t : Nat) (f : Team → Team) : (s.onTeam t f).firmwareKey = s.firmwareKey := rfl
@[simp] theorem State.fuses_onTeam (s : State) (t : Nat) (f : Team → Team) : (s.onTeam t f).fuses = s.fuses := rfl
@[simp] theorem State.power_onTeam (s : State) (t : Nat) (f : Team → Team) : (s.onTeam t f).power = s.power := rfl
@[simp] theorem State.sideband_onTeam (s : State) (t : Nat) (f : Team → Team) : (s.onTeam t f).sideband = s.sideband := rfl
@[simp] theorem State.frames_onTeam (s : State) (t : Nat) (f : Team → Team) : (s.onTeam t f).frames = s.frames := rfl
@[simp] theorem State.core_onTeam (s : State) (t : Nat) (f : Team → Team) (j : Nat) : (s.onTeam t f).core j = s.core j := rfl
@[simp] theorem State.grid_onTeam (s : State) (t : Nat) (f : Team → Team) (j : Nat) : (s.onTeam t f).grid j = s.grid j := rfl
@[simp] theorem State.cluster_onTeam (s : State) (t : Nat) (f : Team → Team) (j : Nat) : (s.onTeam t f).cluster j = s.cluster j := rfl
@[simp] theorem State.queue_onTeam (s : State) (t : Nat) (f : Team → Team) (j : Nat) : (s.onTeam t f).queue j = s.queue j := rfl
@[simp] theorem State.barrier_onTeam (s : State) (t : Nat) (f : Team → Team) (j : Nat) : (s.onTeam t f).barrier j = s.barrier j := rfl
@[simp] theorem State.latch_onTeam (s : State) (t : Nat) (f : Team → Team) (j : Nat) : (s.onTeam t f).latch j = s.latch j := rfl
@[simp] theorem State.channel_onTeam (s : State) (t : Nat) (f : Team → Team) (j : Nat) : (s.onTeam t f).channel j = s.channel j := rfl

/-! `onGrid`. -/
@[simp] theorem State.grid_onGrid (s : State) (g : Nat) (f : Grid → Grid) (j : Nat) :
    (s.onGrid g f).grid j = if j = g then f (s.grid g) else s.grid j := by
  simp [State.onGrid, State.grid]
@[simp] theorem State.agenda_onGrid (s : State) (g : Nat) (f : Grid → Grid) : (s.onGrid g f).agenda = s.agenda := rfl
@[simp] theorem State.turn_onGrid (s : State) (g : Nat) (f : Grid → Grid) : (s.onGrid g f).turn = s.turn := rfl
@[simp] theorem State.now_onGrid (s : State) (g : Nat) (f : Grid → Grid) : (s.onGrid g f).now = s.now := rfl
@[simp] theorem State.polled_onGrid (s : State) (g : Nat) (f : Grid → Grid) : (s.onGrid g f).polled = s.polled := rfl
@[simp] theorem State.stepped_onGrid (s : State) (g : Nat) (f : Grid → Grid) : (s.onGrid g f).stepped = s.stepped := rfl
@[simp] theorem State.chantab_onGrid (s : State) (g : Nat) (f : Grid → Grid) : (s.onGrid g f).chantab = s.chantab := rfl
@[simp] theorem State.routers_onGrid (s : State) (g : Nat) (f : Grid → Grid) : (s.onGrid g f).routers = s.routers := rfl
@[simp] theorem State.pins_onGrid (s : State) (g : Nat) (f : Grid → Grid) : (s.onGrid g f).pins = s.pins := rfl
@[simp] theorem State.installs_onGrid (s : State) (g : Nat) (f : Grid → Grid) : (s.onGrid g f).installs = s.installs := rfl
@[simp] theorem State.dataChk_onGrid (s : State) (g : Nat) (f : Grid → Grid) : (s.onGrid g f).dataChk = s.dataChk := rfl
@[simp] theorem State.retired_onGrid (s : State) (g : Nat) (f : Grid → Grid) : (s.onGrid g f).retired = s.retired := rfl
@[simp] theorem State.order_onGrid (s : State) (g : Nat) (f : Grid → Grid) : (s.onGrid g f).order = s.order := rfl
@[simp] theorem State.interrupts_onGrid (s : State) (g : Nat) (f : Grid → Grid) : (s.onGrid g f).interrupts = s.interrupts := rfl
@[simp] theorem State.freeCtr_onGrid (s : State) (g : Nat) (f : Grid → Grid) : (s.onGrid g f).freeCtr = s.freeCtr := rfl
@[simp] theorem State.mem_onGrid (s : State) (g : Nat) (f : Grid → Grid) : (s.onGrid g f).mem = s.mem := rfl
@[simp] theorem State.cores_onGrid (s : State) (g : Nat) (f : Grid → Grid) : (s.onGrid g f).cores = s.cores := rfl
@[simp] theorem State.teams_onGrid (s : State) (g : Nat) (f : Grid → Grid) : (s.onGrid g f).teams = s.teams := rfl
@[simp] theorem State.residency_onGrid (s : State) (g : Nat) (f : Grid → Grid) : (s.onGrid g f).residency = s.residency := rfl
@[simp] theorem State.clusters_onGrid (s : State) (g : Nat) (f : Grid → Grid) : (s.onGrid g f).clusters = s.clusters := rfl
@[simp] theorem State.barriers_onGrid (s : State) (g : Nat) (f : Grid → Grid) : (s.onGrid g f).barriers = s.barriers := rfl
@[simp] theorem State.latches_onGrid (s : State) (g : Nat) (f : Grid → Grid) : (s.onGrid g f).latches = s.latches := rfl
@[simp] theorem State.channels_onGrid (s : State) (g : Nat) (f : Grid → Grid) : (s.onGrid g f).channels = s.channels := rfl
@[simp] theorem State.granules_onGrid (s : State) (g : Nat) (f : Grid → Grid) : (s.onGrid g f).granules = s.granules := rfl
@[simp] theorem State.handoffs_onGrid (s : State) (g : Nat) (f : Grid → Grid) : (s.onGrid g f).handoffs = s.handoffs := rfl
@[simp] theorem State.records_onGrid (s : State) (g : Nat) (f : Grid → Grid) : (s.onGrid g f).records = s.records := rfl
@[simp] theorem State.hostLines_onGrid (s : State) (g : Nat) (f : Grid → Grid) : (s.onGrid g f).hostLines = s.hostLines := rfl
@[simp] theorem State.queues_onGrid (s : State) (g : Nat) (f : Grid → Grid) : (s.onGrid g f).queues = s.queues := rfl
@[simp] theorem State.contexts_onGrid (s : State) (g : Nat) (f : Grid → Grid) : (s.onGrid g f).contexts = s.contexts := rfl
@[simp] theorem State.folios_onGrid (s : State) (g : Nat) (f : Grid → Grid) : (s.onGrid g f).folios = s.folios := rfl
@[simp] theorem State.regions_onGrid (s : State) (g : Nat) (f : Grid → Grid) : (s.onGrid g f).regions = s.regions := rfl
@[simp] theorem State.formats_onGrid (s : State) (g : Nat) (f : Grid → Grid) : (s.onGrid g f).formats = s.formats := rfl
@[simp] theorem State.copyqs_onGrid (s : State) (g : Nat) (f : Grid → Grid) : (s.onGrid g f).copyqs = s.copyqs := rfl
@[simp] theorem State.reductions_onGrid (s : State) (g : Nat) (f : Grid → Grid) : (s.onGrid g f).reductions = s.reductions := rfl
@[simp] theorem State.packets_onGrid (s : State) (g : Nat) (f : Grid → Grid) : (s.onGrid g f).packets = s.packets := rfl
@[simp] theorem State.sensors_onGrid (s : State) (g : Nat) (f : Grid → Grid) : (s.onGrid g f).sensors = s.sensors := rfl
@[simp] theorem State.readings_onGrid (s : State) (g : Nat) (f : Grid → Grid) : (s.onGrid g f).readings = s.readings := rfl
@[simp] theorem State.tripped_onGrid (s : State) (g : Nat) (f : Grid → Grid) : (s.onGrid g f).tripped = s.tripped := rfl
@[simp] theorem State.cap_onGrid (s : State) (g : Nat) (f : Grid → Grid) : (s.onGrid g f).cap = s.cap := rfl
@[simp] theorem State.ports_onGrid (s : State) (g : Nat) (f : Grid → Grid) : (s.onGrid g f).ports = s.ports := rfl
@[simp] theorem State.warm_onGrid (s : State) (g : Nat) (f : Grid → Grid) : (s.onGrid g f).warm = s.warm := rfl
@[simp] theorem State.starts_onGrid (s : State) (g : Nat) (f : Grid → Grid) : (s.onGrid g f).starts = s.starts := rfl
@[simp] theorem State.failStep_onGrid (s : State) (g : Nat) (f : Grid → Grid) : (s.onGrid g f).failStep = s.failStep := rfl
@[simp] theorem State.ready_onGrid (s : State) (g : Nat) (f : Grid → Grid) : (s.onGrid g f).ready = s.ready := rfl
@[simp] theorem State.startFail_onGrid (s : State) (g : Nat) (f : Grid → Grid) : (s.onGrid g f).startFail = s.startFail := rfl
@[simp] theorem State.trained_onGrid (s : State) (g : Nat) (f : Grid → Grid) : (s.onGrid g f).trained = s.trained := rfl
@[simp] theorem State.outbox_onGrid (s : State) (g : Nat) (f : Grid → Grid) : (s.onGrid g f).outbox = s.outbox := rfl
@[simp] theorem State.flash_onGrid (s : State) (g : Nat) (f : Grid → Grid) : (s.onGrid g f).flash = s.flash := rfl
@[simp] theorem State.booted_onGrid (s : State) (g : Nat) (f : Grid → Grid) : (s.onGrid g f).booted = s.booted := rfl
@[simp] theorem State.firmwareKey_onGrid (s : State) (g : Nat) (f : Grid → Grid) : (s.onGrid g f).firmwareKey = s.firmwareKey := rfl
@[simp] theorem State.fuses_onGrid (s : State) (g : Nat) (f : Grid → Grid) : (s.onGrid g f).fuses = s.fuses := rfl
@[simp] theorem State.power_onGrid (s : State) (g : Nat) (f : Grid → Grid) : (s.onGrid g f).power = s.power := rfl
@[simp] theorem State.sideband_onGrid (s : State) (g : Nat) (f : Grid → Grid) : (s.onGrid g f).sideband = s.sideband := rfl
@[simp] theorem State.frames_onGrid (s : State) (g : Nat) (f : Grid → Grid) : (s.onGrid g f).frames = s.frames := rfl
@[simp] theorem State.core_onGrid (s : State) (g : Nat) (f : Grid → Grid) (j : Nat) : (s.onGrid g f).core j = s.core j := rfl
@[simp] theorem State.team_onGrid (s : State) (g : Nat) (f : Grid → Grid) (j : Nat) : (s.onGrid g f).team j = s.team j := rfl
@[simp] theorem State.cluster_onGrid (s : State) (g : Nat) (f : Grid → Grid) (j : Nat) : (s.onGrid g f).cluster j = s.cluster j := rfl
@[simp] theorem State.queue_onGrid (s : State) (g : Nat) (f : Grid → Grid) (j : Nat) : (s.onGrid g f).queue j = s.queue j := rfl
@[simp] theorem State.barrier_onGrid (s : State) (g : Nat) (f : Grid → Grid) (j : Nat) : (s.onGrid g f).barrier j = s.barrier j := rfl
@[simp] theorem State.latch_onGrid (s : State) (g : Nat) (f : Grid → Grid) (j : Nat) : (s.onGrid g f).latch j = s.latch j := rfl
@[simp] theorem State.channel_onGrid (s : State) (g : Nat) (f : Grid → Grid) (j : Nat) : (s.onGrid g f).channel j = s.channel j := rfl

/-! `onCluster`. -/
@[simp] theorem State.cluster_onCluster (s : State) (cl : Nat) (f : Cluster → Cluster) (j : Nat) :
    (s.onCluster cl f).cluster j = if j = cl then f (s.cluster cl) else s.cluster j := by
  simp [State.onCluster, State.cluster]
@[simp] theorem State.agenda_onCluster (s : State) (cl : Nat) (f : Cluster → Cluster) : (s.onCluster cl f).agenda = s.agenda := rfl
@[simp] theorem State.turn_onCluster (s : State) (cl : Nat) (f : Cluster → Cluster) : (s.onCluster cl f).turn = s.turn := rfl
@[simp] theorem State.now_onCluster (s : State) (cl : Nat) (f : Cluster → Cluster) : (s.onCluster cl f).now = s.now := rfl
@[simp] theorem State.polled_onCluster (s : State) (cl : Nat) (f : Cluster → Cluster) : (s.onCluster cl f).polled = s.polled := rfl
@[simp] theorem State.stepped_onCluster (s : State) (cl : Nat) (f : Cluster → Cluster) : (s.onCluster cl f).stepped = s.stepped := rfl
@[simp] theorem State.chantab_onCluster (s : State) (cl : Nat) (f : Cluster → Cluster) : (s.onCluster cl f).chantab = s.chantab := rfl
@[simp] theorem State.routers_onCluster (s : State) (cl : Nat) (f : Cluster → Cluster) : (s.onCluster cl f).routers = s.routers := rfl
@[simp] theorem State.pins_onCluster (s : State) (cl : Nat) (f : Cluster → Cluster) : (s.onCluster cl f).pins = s.pins := rfl
@[simp] theorem State.installs_onCluster (s : State) (cl : Nat) (f : Cluster → Cluster) : (s.onCluster cl f).installs = s.installs := rfl
@[simp] theorem State.dataChk_onCluster (s : State) (cl : Nat) (f : Cluster → Cluster) : (s.onCluster cl f).dataChk = s.dataChk := rfl
@[simp] theorem State.retired_onCluster (s : State) (cl : Nat) (f : Cluster → Cluster) : (s.onCluster cl f).retired = s.retired := rfl
@[simp] theorem State.order_onCluster (s : State) (cl : Nat) (f : Cluster → Cluster) : (s.onCluster cl f).order = s.order := rfl
@[simp] theorem State.interrupts_onCluster (s : State) (cl : Nat) (f : Cluster → Cluster) : (s.onCluster cl f).interrupts = s.interrupts := rfl
@[simp] theorem State.freeCtr_onCluster (s : State) (cl : Nat) (f : Cluster → Cluster) : (s.onCluster cl f).freeCtr = s.freeCtr := rfl
@[simp] theorem State.mem_onCluster (s : State) (cl : Nat) (f : Cluster → Cluster) : (s.onCluster cl f).mem = s.mem := rfl
@[simp] theorem State.cores_onCluster (s : State) (cl : Nat) (f : Cluster → Cluster) : (s.onCluster cl f).cores = s.cores := rfl
@[simp] theorem State.teams_onCluster (s : State) (cl : Nat) (f : Cluster → Cluster) : (s.onCluster cl f).teams = s.teams := rfl
@[simp] theorem State.grids_onCluster (s : State) (cl : Nat) (f : Cluster → Cluster) : (s.onCluster cl f).grids = s.grids := rfl
@[simp] theorem State.residency_onCluster (s : State) (cl : Nat) (f : Cluster → Cluster) : (s.onCluster cl f).residency = s.residency := rfl
@[simp] theorem State.barriers_onCluster (s : State) (cl : Nat) (f : Cluster → Cluster) : (s.onCluster cl f).barriers = s.barriers := rfl
@[simp] theorem State.latches_onCluster (s : State) (cl : Nat) (f : Cluster → Cluster) : (s.onCluster cl f).latches = s.latches := rfl
@[simp] theorem State.channels_onCluster (s : State) (cl : Nat) (f : Cluster → Cluster) : (s.onCluster cl f).channels = s.channels := rfl
@[simp] theorem State.granules_onCluster (s : State) (cl : Nat) (f : Cluster → Cluster) : (s.onCluster cl f).granules = s.granules := rfl
@[simp] theorem State.handoffs_onCluster (s : State) (cl : Nat) (f : Cluster → Cluster) : (s.onCluster cl f).handoffs = s.handoffs := rfl
@[simp] theorem State.records_onCluster (s : State) (cl : Nat) (f : Cluster → Cluster) : (s.onCluster cl f).records = s.records := rfl
@[simp] theorem State.hostLines_onCluster (s : State) (cl : Nat) (f : Cluster → Cluster) : (s.onCluster cl f).hostLines = s.hostLines := rfl
@[simp] theorem State.queues_onCluster (s : State) (cl : Nat) (f : Cluster → Cluster) : (s.onCluster cl f).queues = s.queues := rfl
@[simp] theorem State.contexts_onCluster (s : State) (cl : Nat) (f : Cluster → Cluster) : (s.onCluster cl f).contexts = s.contexts := rfl
@[simp] theorem State.folios_onCluster (s : State) (cl : Nat) (f : Cluster → Cluster) : (s.onCluster cl f).folios = s.folios := rfl
@[simp] theorem State.regions_onCluster (s : State) (cl : Nat) (f : Cluster → Cluster) : (s.onCluster cl f).regions = s.regions := rfl
@[simp] theorem State.formats_onCluster (s : State) (cl : Nat) (f : Cluster → Cluster) : (s.onCluster cl f).formats = s.formats := rfl
@[simp] theorem State.copyqs_onCluster (s : State) (cl : Nat) (f : Cluster → Cluster) : (s.onCluster cl f).copyqs = s.copyqs := rfl
@[simp] theorem State.reductions_onCluster (s : State) (cl : Nat) (f : Cluster → Cluster) : (s.onCluster cl f).reductions = s.reductions := rfl
@[simp] theorem State.packets_onCluster (s : State) (cl : Nat) (f : Cluster → Cluster) : (s.onCluster cl f).packets = s.packets := rfl
@[simp] theorem State.sensors_onCluster (s : State) (cl : Nat) (f : Cluster → Cluster) : (s.onCluster cl f).sensors = s.sensors := rfl
@[simp] theorem State.readings_onCluster (s : State) (cl : Nat) (f : Cluster → Cluster) : (s.onCluster cl f).readings = s.readings := rfl
@[simp] theorem State.tripped_onCluster (s : State) (cl : Nat) (f : Cluster → Cluster) : (s.onCluster cl f).tripped = s.tripped := rfl
@[simp] theorem State.cap_onCluster (s : State) (cl : Nat) (f : Cluster → Cluster) : (s.onCluster cl f).cap = s.cap := rfl
@[simp] theorem State.ports_onCluster (s : State) (cl : Nat) (f : Cluster → Cluster) : (s.onCluster cl f).ports = s.ports := rfl
@[simp] theorem State.warm_onCluster (s : State) (cl : Nat) (f : Cluster → Cluster) : (s.onCluster cl f).warm = s.warm := rfl
@[simp] theorem State.starts_onCluster (s : State) (cl : Nat) (f : Cluster → Cluster) : (s.onCluster cl f).starts = s.starts := rfl
@[simp] theorem State.failStep_onCluster (s : State) (cl : Nat) (f : Cluster → Cluster) : (s.onCluster cl f).failStep = s.failStep := rfl
@[simp] theorem State.ready_onCluster (s : State) (cl : Nat) (f : Cluster → Cluster) : (s.onCluster cl f).ready = s.ready := rfl
@[simp] theorem State.startFail_onCluster (s : State) (cl : Nat) (f : Cluster → Cluster) : (s.onCluster cl f).startFail = s.startFail := rfl
@[simp] theorem State.trained_onCluster (s : State) (cl : Nat) (f : Cluster → Cluster) : (s.onCluster cl f).trained = s.trained := rfl
@[simp] theorem State.outbox_onCluster (s : State) (cl : Nat) (f : Cluster → Cluster) : (s.onCluster cl f).outbox = s.outbox := rfl
@[simp] theorem State.flash_onCluster (s : State) (cl : Nat) (f : Cluster → Cluster) : (s.onCluster cl f).flash = s.flash := rfl
@[simp] theorem State.booted_onCluster (s : State) (cl : Nat) (f : Cluster → Cluster) : (s.onCluster cl f).booted = s.booted := rfl
@[simp] theorem State.firmwareKey_onCluster (s : State) (cl : Nat) (f : Cluster → Cluster) : (s.onCluster cl f).firmwareKey = s.firmwareKey := rfl
@[simp] theorem State.fuses_onCluster (s : State) (cl : Nat) (f : Cluster → Cluster) : (s.onCluster cl f).fuses = s.fuses := rfl
@[simp] theorem State.power_onCluster (s : State) (cl : Nat) (f : Cluster → Cluster) : (s.onCluster cl f).power = s.power := rfl
@[simp] theorem State.sideband_onCluster (s : State) (cl : Nat) (f : Cluster → Cluster) : (s.onCluster cl f).sideband = s.sideband := rfl
@[simp] theorem State.frames_onCluster (s : State) (cl : Nat) (f : Cluster → Cluster) : (s.onCluster cl f).frames = s.frames := rfl
@[simp] theorem State.core_onCluster (s : State) (cl : Nat) (f : Cluster → Cluster) (j : Nat) : (s.onCluster cl f).core j = s.core j := rfl
@[simp] theorem State.team_onCluster (s : State) (cl : Nat) (f : Cluster → Cluster) (j : Nat) : (s.onCluster cl f).team j = s.team j := rfl
@[simp] theorem State.grid_onCluster (s : State) (cl : Nat) (f : Cluster → Cluster) (j : Nat) : (s.onCluster cl f).grid j = s.grid j := rfl
@[simp] theorem State.queue_onCluster (s : State) (cl : Nat) (f : Cluster → Cluster) (j : Nat) : (s.onCluster cl f).queue j = s.queue j := rfl
@[simp] theorem State.barrier_onCluster (s : State) (cl : Nat) (f : Cluster → Cluster) (j : Nat) : (s.onCluster cl f).barrier j = s.barrier j := rfl
@[simp] theorem State.latch_onCluster (s : State) (cl : Nat) (f : Cluster → Cluster) (j : Nat) : (s.onCluster cl f).latch j = s.latch j := rfl
@[simp] theorem State.channel_onCluster (s : State) (cl : Nat) (f : Cluster → Cluster) (j : Nat) : (s.onCluster cl f).channel j = s.channel j := rfl

/-! `onQueue`. -/
@[simp] theorem State.queue_onQueue (s : State) (q : Nat) (f : Queue → Queue) (j : Nat) :
    (s.onQueue q f).queue j = if j = q then f (s.queue q) else s.queue j := by
  simp [State.onQueue, State.queue]
@[simp] theorem State.agenda_onQueue (s : State) (q : Nat) (f : Queue → Queue) : (s.onQueue q f).agenda = s.agenda := rfl
@[simp] theorem State.turn_onQueue (s : State) (q : Nat) (f : Queue → Queue) : (s.onQueue q f).turn = s.turn := rfl
@[simp] theorem State.now_onQueue (s : State) (q : Nat) (f : Queue → Queue) : (s.onQueue q f).now = s.now := rfl
@[simp] theorem State.polled_onQueue (s : State) (q : Nat) (f : Queue → Queue) : (s.onQueue q f).polled = s.polled := rfl
@[simp] theorem State.stepped_onQueue (s : State) (q : Nat) (f : Queue → Queue) : (s.onQueue q f).stepped = s.stepped := rfl
@[simp] theorem State.chantab_onQueue (s : State) (q : Nat) (f : Queue → Queue) : (s.onQueue q f).chantab = s.chantab := rfl
@[simp] theorem State.routers_onQueue (s : State) (q : Nat) (f : Queue → Queue) : (s.onQueue q f).routers = s.routers := rfl
@[simp] theorem State.pins_onQueue (s : State) (q : Nat) (f : Queue → Queue) : (s.onQueue q f).pins = s.pins := rfl
@[simp] theorem State.installs_onQueue (s : State) (q : Nat) (f : Queue → Queue) : (s.onQueue q f).installs = s.installs := rfl
@[simp] theorem State.dataChk_onQueue (s : State) (q : Nat) (f : Queue → Queue) : (s.onQueue q f).dataChk = s.dataChk := rfl
@[simp] theorem State.retired_onQueue (s : State) (q : Nat) (f : Queue → Queue) : (s.onQueue q f).retired = s.retired := rfl
@[simp] theorem State.order_onQueue (s : State) (q : Nat) (f : Queue → Queue) : (s.onQueue q f).order = s.order := rfl
@[simp] theorem State.interrupts_onQueue (s : State) (q : Nat) (f : Queue → Queue) : (s.onQueue q f).interrupts = s.interrupts := rfl
@[simp] theorem State.freeCtr_onQueue (s : State) (q : Nat) (f : Queue → Queue) : (s.onQueue q f).freeCtr = s.freeCtr := rfl
@[simp] theorem State.mem_onQueue (s : State) (q : Nat) (f : Queue → Queue) : (s.onQueue q f).mem = s.mem := rfl
@[simp] theorem State.cores_onQueue (s : State) (q : Nat) (f : Queue → Queue) : (s.onQueue q f).cores = s.cores := rfl
@[simp] theorem State.teams_onQueue (s : State) (q : Nat) (f : Queue → Queue) : (s.onQueue q f).teams = s.teams := rfl
@[simp] theorem State.grids_onQueue (s : State) (q : Nat) (f : Queue → Queue) : (s.onQueue q f).grids = s.grids := rfl
@[simp] theorem State.residency_onQueue (s : State) (q : Nat) (f : Queue → Queue) : (s.onQueue q f).residency = s.residency := rfl
@[simp] theorem State.clusters_onQueue (s : State) (q : Nat) (f : Queue → Queue) : (s.onQueue q f).clusters = s.clusters := rfl
@[simp] theorem State.barriers_onQueue (s : State) (q : Nat) (f : Queue → Queue) : (s.onQueue q f).barriers = s.barriers := rfl
@[simp] theorem State.latches_onQueue (s : State) (q : Nat) (f : Queue → Queue) : (s.onQueue q f).latches = s.latches := rfl
@[simp] theorem State.channels_onQueue (s : State) (q : Nat) (f : Queue → Queue) : (s.onQueue q f).channels = s.channels := rfl
@[simp] theorem State.granules_onQueue (s : State) (q : Nat) (f : Queue → Queue) : (s.onQueue q f).granules = s.granules := rfl
@[simp] theorem State.handoffs_onQueue (s : State) (q : Nat) (f : Queue → Queue) : (s.onQueue q f).handoffs = s.handoffs := rfl
@[simp] theorem State.records_onQueue (s : State) (q : Nat) (f : Queue → Queue) : (s.onQueue q f).records = s.records := rfl
@[simp] theorem State.hostLines_onQueue (s : State) (q : Nat) (f : Queue → Queue) : (s.onQueue q f).hostLines = s.hostLines := rfl
@[simp] theorem State.contexts_onQueue (s : State) (q : Nat) (f : Queue → Queue) : (s.onQueue q f).contexts = s.contexts := rfl
@[simp] theorem State.folios_onQueue (s : State) (q : Nat) (f : Queue → Queue) : (s.onQueue q f).folios = s.folios := rfl
@[simp] theorem State.regions_onQueue (s : State) (q : Nat) (f : Queue → Queue) : (s.onQueue q f).regions = s.regions := rfl
@[simp] theorem State.formats_onQueue (s : State) (q : Nat) (f : Queue → Queue) : (s.onQueue q f).formats = s.formats := rfl
@[simp] theorem State.copyqs_onQueue (s : State) (q : Nat) (f : Queue → Queue) : (s.onQueue q f).copyqs = s.copyqs := rfl
@[simp] theorem State.reductions_onQueue (s : State) (q : Nat) (f : Queue → Queue) : (s.onQueue q f).reductions = s.reductions := rfl
@[simp] theorem State.packets_onQueue (s : State) (q : Nat) (f : Queue → Queue) : (s.onQueue q f).packets = s.packets := rfl
@[simp] theorem State.sensors_onQueue (s : State) (q : Nat) (f : Queue → Queue) : (s.onQueue q f).sensors = s.sensors := rfl
@[simp] theorem State.readings_onQueue (s : State) (q : Nat) (f : Queue → Queue) : (s.onQueue q f).readings = s.readings := rfl
@[simp] theorem State.tripped_onQueue (s : State) (q : Nat) (f : Queue → Queue) : (s.onQueue q f).tripped = s.tripped := rfl
@[simp] theorem State.cap_onQueue (s : State) (q : Nat) (f : Queue → Queue) : (s.onQueue q f).cap = s.cap := rfl
@[simp] theorem State.ports_onQueue (s : State) (q : Nat) (f : Queue → Queue) : (s.onQueue q f).ports = s.ports := rfl
@[simp] theorem State.warm_onQueue (s : State) (q : Nat) (f : Queue → Queue) : (s.onQueue q f).warm = s.warm := rfl
@[simp] theorem State.starts_onQueue (s : State) (q : Nat) (f : Queue → Queue) : (s.onQueue q f).starts = s.starts := rfl
@[simp] theorem State.failStep_onQueue (s : State) (q : Nat) (f : Queue → Queue) : (s.onQueue q f).failStep = s.failStep := rfl
@[simp] theorem State.ready_onQueue (s : State) (q : Nat) (f : Queue → Queue) : (s.onQueue q f).ready = s.ready := rfl
@[simp] theorem State.startFail_onQueue (s : State) (q : Nat) (f : Queue → Queue) : (s.onQueue q f).startFail = s.startFail := rfl
@[simp] theorem State.trained_onQueue (s : State) (q : Nat) (f : Queue → Queue) : (s.onQueue q f).trained = s.trained := rfl
@[simp] theorem State.outbox_onQueue (s : State) (q : Nat) (f : Queue → Queue) : (s.onQueue q f).outbox = s.outbox := rfl
@[simp] theorem State.flash_onQueue (s : State) (q : Nat) (f : Queue → Queue) : (s.onQueue q f).flash = s.flash := rfl
@[simp] theorem State.booted_onQueue (s : State) (q : Nat) (f : Queue → Queue) : (s.onQueue q f).booted = s.booted := rfl
@[simp] theorem State.firmwareKey_onQueue (s : State) (q : Nat) (f : Queue → Queue) : (s.onQueue q f).firmwareKey = s.firmwareKey := rfl
@[simp] theorem State.fuses_onQueue (s : State) (q : Nat) (f : Queue → Queue) : (s.onQueue q f).fuses = s.fuses := rfl
@[simp] theorem State.power_onQueue (s : State) (q : Nat) (f : Queue → Queue) : (s.onQueue q f).power = s.power := rfl
@[simp] theorem State.sideband_onQueue (s : State) (q : Nat) (f : Queue → Queue) : (s.onQueue q f).sideband = s.sideband := rfl
@[simp] theorem State.frames_onQueue (s : State) (q : Nat) (f : Queue → Queue) : (s.onQueue q f).frames = s.frames := rfl
@[simp] theorem State.core_onQueue (s : State) (q : Nat) (f : Queue → Queue) (j : Nat) : (s.onQueue q f).core j = s.core j := rfl
@[simp] theorem State.team_onQueue (s : State) (q : Nat) (f : Queue → Queue) (j : Nat) : (s.onQueue q f).team j = s.team j := rfl
@[simp] theorem State.grid_onQueue (s : State) (q : Nat) (f : Queue → Queue) (j : Nat) : (s.onQueue q f).grid j = s.grid j := rfl
@[simp] theorem State.cluster_onQueue (s : State) (q : Nat) (f : Queue → Queue) (j : Nat) : (s.onQueue q f).cluster j = s.cluster j := rfl
@[simp] theorem State.barrier_onQueue (s : State) (q : Nat) (f : Queue → Queue) (j : Nat) : (s.onQueue q f).barrier j = s.barrier j := rfl
@[simp] theorem State.latch_onQueue (s : State) (q : Nat) (f : Queue → Queue) (j : Nat) : (s.onQueue q f).latch j = s.latch j := rfl
@[simp] theorem State.channel_onQueue (s : State) (q : Nat) (f : Queue → Queue) (j : Nat) : (s.onQueue q f).channel j = s.channel j := rfl

/-! `onBarrier`. -/
@[simp] theorem State.barrier_onBarrier (s : State) (o : Nat) (f : Barrier → Barrier) (j : Nat) :
    (s.onBarrier o f).barrier j = if j = o then f (s.barrier o) else s.barrier j := by
  simp [State.onBarrier, State.barrier]
@[simp] theorem State.agenda_onBarrier (s : State) (o : Nat) (f : Barrier → Barrier) : (s.onBarrier o f).agenda = s.agenda := rfl
@[simp] theorem State.turn_onBarrier (s : State) (o : Nat) (f : Barrier → Barrier) : (s.onBarrier o f).turn = s.turn := rfl
@[simp] theorem State.now_onBarrier (s : State) (o : Nat) (f : Barrier → Barrier) : (s.onBarrier o f).now = s.now := rfl
@[simp] theorem State.polled_onBarrier (s : State) (o : Nat) (f : Barrier → Barrier) : (s.onBarrier o f).polled = s.polled := rfl
@[simp] theorem State.stepped_onBarrier (s : State) (o : Nat) (f : Barrier → Barrier) : (s.onBarrier o f).stepped = s.stepped := rfl
@[simp] theorem State.chantab_onBarrier (s : State) (o : Nat) (f : Barrier → Barrier) : (s.onBarrier o f).chantab = s.chantab := rfl
@[simp] theorem State.routers_onBarrier (s : State) (o : Nat) (f : Barrier → Barrier) : (s.onBarrier o f).routers = s.routers := rfl
@[simp] theorem State.pins_onBarrier (s : State) (o : Nat) (f : Barrier → Barrier) : (s.onBarrier o f).pins = s.pins := rfl
@[simp] theorem State.installs_onBarrier (s : State) (o : Nat) (f : Barrier → Barrier) : (s.onBarrier o f).installs = s.installs := rfl
@[simp] theorem State.dataChk_onBarrier (s : State) (o : Nat) (f : Barrier → Barrier) : (s.onBarrier o f).dataChk = s.dataChk := rfl
@[simp] theorem State.retired_onBarrier (s : State) (o : Nat) (f : Barrier → Barrier) : (s.onBarrier o f).retired = s.retired := rfl
@[simp] theorem State.order_onBarrier (s : State) (o : Nat) (f : Barrier → Barrier) : (s.onBarrier o f).order = s.order := rfl
@[simp] theorem State.interrupts_onBarrier (s : State) (o : Nat) (f : Barrier → Barrier) : (s.onBarrier o f).interrupts = s.interrupts := rfl
@[simp] theorem State.freeCtr_onBarrier (s : State) (o : Nat) (f : Barrier → Barrier) : (s.onBarrier o f).freeCtr = s.freeCtr := rfl
@[simp] theorem State.mem_onBarrier (s : State) (o : Nat) (f : Barrier → Barrier) : (s.onBarrier o f).mem = s.mem := rfl
@[simp] theorem State.cores_onBarrier (s : State) (o : Nat) (f : Barrier → Barrier) : (s.onBarrier o f).cores = s.cores := rfl
@[simp] theorem State.teams_onBarrier (s : State) (o : Nat) (f : Barrier → Barrier) : (s.onBarrier o f).teams = s.teams := rfl
@[simp] theorem State.grids_onBarrier (s : State) (o : Nat) (f : Barrier → Barrier) : (s.onBarrier o f).grids = s.grids := rfl
@[simp] theorem State.residency_onBarrier (s : State) (o : Nat) (f : Barrier → Barrier) : (s.onBarrier o f).residency = s.residency := rfl
@[simp] theorem State.clusters_onBarrier (s : State) (o : Nat) (f : Barrier → Barrier) : (s.onBarrier o f).clusters = s.clusters := rfl
@[simp] theorem State.latches_onBarrier (s : State) (o : Nat) (f : Barrier → Barrier) : (s.onBarrier o f).latches = s.latches := rfl
@[simp] theorem State.channels_onBarrier (s : State) (o : Nat) (f : Barrier → Barrier) : (s.onBarrier o f).channels = s.channels := rfl
@[simp] theorem State.granules_onBarrier (s : State) (o : Nat) (f : Barrier → Barrier) : (s.onBarrier o f).granules = s.granules := rfl
@[simp] theorem State.handoffs_onBarrier (s : State) (o : Nat) (f : Barrier → Barrier) : (s.onBarrier o f).handoffs = s.handoffs := rfl
@[simp] theorem State.records_onBarrier (s : State) (o : Nat) (f : Barrier → Barrier) : (s.onBarrier o f).records = s.records := rfl
@[simp] theorem State.hostLines_onBarrier (s : State) (o : Nat) (f : Barrier → Barrier) : (s.onBarrier o f).hostLines = s.hostLines := rfl
@[simp] theorem State.queues_onBarrier (s : State) (o : Nat) (f : Barrier → Barrier) : (s.onBarrier o f).queues = s.queues := rfl
@[simp] theorem State.contexts_onBarrier (s : State) (o : Nat) (f : Barrier → Barrier) : (s.onBarrier o f).contexts = s.contexts := rfl
@[simp] theorem State.folios_onBarrier (s : State) (o : Nat) (f : Barrier → Barrier) : (s.onBarrier o f).folios = s.folios := rfl
@[simp] theorem State.regions_onBarrier (s : State) (o : Nat) (f : Barrier → Barrier) : (s.onBarrier o f).regions = s.regions := rfl
@[simp] theorem State.formats_onBarrier (s : State) (o : Nat) (f : Barrier → Barrier) : (s.onBarrier o f).formats = s.formats := rfl
@[simp] theorem State.copyqs_onBarrier (s : State) (o : Nat) (f : Barrier → Barrier) : (s.onBarrier o f).copyqs = s.copyqs := rfl
@[simp] theorem State.reductions_onBarrier (s : State) (o : Nat) (f : Barrier → Barrier) : (s.onBarrier o f).reductions = s.reductions := rfl
@[simp] theorem State.packets_onBarrier (s : State) (o : Nat) (f : Barrier → Barrier) : (s.onBarrier o f).packets = s.packets := rfl
@[simp] theorem State.sensors_onBarrier (s : State) (o : Nat) (f : Barrier → Barrier) : (s.onBarrier o f).sensors = s.sensors := rfl
@[simp] theorem State.readings_onBarrier (s : State) (o : Nat) (f : Barrier → Barrier) : (s.onBarrier o f).readings = s.readings := rfl
@[simp] theorem State.tripped_onBarrier (s : State) (o : Nat) (f : Barrier → Barrier) : (s.onBarrier o f).tripped = s.tripped := rfl
@[simp] theorem State.cap_onBarrier (s : State) (o : Nat) (f : Barrier → Barrier) : (s.onBarrier o f).cap = s.cap := rfl
@[simp] theorem State.ports_onBarrier (s : State) (o : Nat) (f : Barrier → Barrier) : (s.onBarrier o f).ports = s.ports := rfl
@[simp] theorem State.warm_onBarrier (s : State) (o : Nat) (f : Barrier → Barrier) : (s.onBarrier o f).warm = s.warm := rfl
@[simp] theorem State.starts_onBarrier (s : State) (o : Nat) (f : Barrier → Barrier) : (s.onBarrier o f).starts = s.starts := rfl
@[simp] theorem State.failStep_onBarrier (s : State) (o : Nat) (f : Barrier → Barrier) : (s.onBarrier o f).failStep = s.failStep := rfl
@[simp] theorem State.ready_onBarrier (s : State) (o : Nat) (f : Barrier → Barrier) : (s.onBarrier o f).ready = s.ready := rfl
@[simp] theorem State.startFail_onBarrier (s : State) (o : Nat) (f : Barrier → Barrier) : (s.onBarrier o f).startFail = s.startFail := rfl
@[simp] theorem State.trained_onBarrier (s : State) (o : Nat) (f : Barrier → Barrier) : (s.onBarrier o f).trained = s.trained := rfl
@[simp] theorem State.outbox_onBarrier (s : State) (o : Nat) (f : Barrier → Barrier) : (s.onBarrier o f).outbox = s.outbox := rfl
@[simp] theorem State.flash_onBarrier (s : State) (o : Nat) (f : Barrier → Barrier) : (s.onBarrier o f).flash = s.flash := rfl
@[simp] theorem State.booted_onBarrier (s : State) (o : Nat) (f : Barrier → Barrier) : (s.onBarrier o f).booted = s.booted := rfl
@[simp] theorem State.firmwareKey_onBarrier (s : State) (o : Nat) (f : Barrier → Barrier) : (s.onBarrier o f).firmwareKey = s.firmwareKey := rfl
@[simp] theorem State.fuses_onBarrier (s : State) (o : Nat) (f : Barrier → Barrier) : (s.onBarrier o f).fuses = s.fuses := rfl
@[simp] theorem State.power_onBarrier (s : State) (o : Nat) (f : Barrier → Barrier) : (s.onBarrier o f).power = s.power := rfl
@[simp] theorem State.sideband_onBarrier (s : State) (o : Nat) (f : Barrier → Barrier) : (s.onBarrier o f).sideband = s.sideband := rfl
@[simp] theorem State.frames_onBarrier (s : State) (o : Nat) (f : Barrier → Barrier) : (s.onBarrier o f).frames = s.frames := rfl
@[simp] theorem State.core_onBarrier (s : State) (o : Nat) (f : Barrier → Barrier) (j : Nat) : (s.onBarrier o f).core j = s.core j := rfl
@[simp] theorem State.team_onBarrier (s : State) (o : Nat) (f : Barrier → Barrier) (j : Nat) : (s.onBarrier o f).team j = s.team j := rfl
@[simp] theorem State.grid_onBarrier (s : State) (o : Nat) (f : Barrier → Barrier) (j : Nat) : (s.onBarrier o f).grid j = s.grid j := rfl
@[simp] theorem State.cluster_onBarrier (s : State) (o : Nat) (f : Barrier → Barrier) (j : Nat) : (s.onBarrier o f).cluster j = s.cluster j := rfl
@[simp] theorem State.queue_onBarrier (s : State) (o : Nat) (f : Barrier → Barrier) (j : Nat) : (s.onBarrier o f).queue j = s.queue j := rfl
@[simp] theorem State.latch_onBarrier (s : State) (o : Nat) (f : Barrier → Barrier) (j : Nat) : (s.onBarrier o f).latch j = s.latch j := rfl
@[simp] theorem State.channel_onBarrier (s : State) (o : Nat) (f : Barrier → Barrier) (j : Nat) : (s.onBarrier o f).channel j = s.channel j := rfl

/-! `onLatch`. -/
@[simp] theorem State.latch_onLatch (s : State) (l : Nat) (f : LatchObj → LatchObj) (j : Nat) :
    (s.onLatch l f).latch j = if j = l then f (s.latch l) else s.latch j := by
  simp [State.onLatch, State.latch]
@[simp] theorem State.agenda_onLatch (s : State) (l : Nat) (f : LatchObj → LatchObj) : (s.onLatch l f).agenda = s.agenda := rfl
@[simp] theorem State.turn_onLatch (s : State) (l : Nat) (f : LatchObj → LatchObj) : (s.onLatch l f).turn = s.turn := rfl
@[simp] theorem State.now_onLatch (s : State) (l : Nat) (f : LatchObj → LatchObj) : (s.onLatch l f).now = s.now := rfl
@[simp] theorem State.polled_onLatch (s : State) (l : Nat) (f : LatchObj → LatchObj) : (s.onLatch l f).polled = s.polled := rfl
@[simp] theorem State.stepped_onLatch (s : State) (l : Nat) (f : LatchObj → LatchObj) : (s.onLatch l f).stepped = s.stepped := rfl
@[simp] theorem State.chantab_onLatch (s : State) (l : Nat) (f : LatchObj → LatchObj) : (s.onLatch l f).chantab = s.chantab := rfl
@[simp] theorem State.routers_onLatch (s : State) (l : Nat) (f : LatchObj → LatchObj) : (s.onLatch l f).routers = s.routers := rfl
@[simp] theorem State.pins_onLatch (s : State) (l : Nat) (f : LatchObj → LatchObj) : (s.onLatch l f).pins = s.pins := rfl
@[simp] theorem State.installs_onLatch (s : State) (l : Nat) (f : LatchObj → LatchObj) : (s.onLatch l f).installs = s.installs := rfl
@[simp] theorem State.dataChk_onLatch (s : State) (l : Nat) (f : LatchObj → LatchObj) : (s.onLatch l f).dataChk = s.dataChk := rfl
@[simp] theorem State.retired_onLatch (s : State) (l : Nat) (f : LatchObj → LatchObj) : (s.onLatch l f).retired = s.retired := rfl
@[simp] theorem State.order_onLatch (s : State) (l : Nat) (f : LatchObj → LatchObj) : (s.onLatch l f).order = s.order := rfl
@[simp] theorem State.interrupts_onLatch (s : State) (l : Nat) (f : LatchObj → LatchObj) : (s.onLatch l f).interrupts = s.interrupts := rfl
@[simp] theorem State.freeCtr_onLatch (s : State) (l : Nat) (f : LatchObj → LatchObj) : (s.onLatch l f).freeCtr = s.freeCtr := rfl
@[simp] theorem State.mem_onLatch (s : State) (l : Nat) (f : LatchObj → LatchObj) : (s.onLatch l f).mem = s.mem := rfl
@[simp] theorem State.cores_onLatch (s : State) (l : Nat) (f : LatchObj → LatchObj) : (s.onLatch l f).cores = s.cores := rfl
@[simp] theorem State.teams_onLatch (s : State) (l : Nat) (f : LatchObj → LatchObj) : (s.onLatch l f).teams = s.teams := rfl
@[simp] theorem State.grids_onLatch (s : State) (l : Nat) (f : LatchObj → LatchObj) : (s.onLatch l f).grids = s.grids := rfl
@[simp] theorem State.residency_onLatch (s : State) (l : Nat) (f : LatchObj → LatchObj) : (s.onLatch l f).residency = s.residency := rfl
@[simp] theorem State.clusters_onLatch (s : State) (l : Nat) (f : LatchObj → LatchObj) : (s.onLatch l f).clusters = s.clusters := rfl
@[simp] theorem State.barriers_onLatch (s : State) (l : Nat) (f : LatchObj → LatchObj) : (s.onLatch l f).barriers = s.barriers := rfl
@[simp] theorem State.channels_onLatch (s : State) (l : Nat) (f : LatchObj → LatchObj) : (s.onLatch l f).channels = s.channels := rfl
@[simp] theorem State.granules_onLatch (s : State) (l : Nat) (f : LatchObj → LatchObj) : (s.onLatch l f).granules = s.granules := rfl
@[simp] theorem State.handoffs_onLatch (s : State) (l : Nat) (f : LatchObj → LatchObj) : (s.onLatch l f).handoffs = s.handoffs := rfl
@[simp] theorem State.records_onLatch (s : State) (l : Nat) (f : LatchObj → LatchObj) : (s.onLatch l f).records = s.records := rfl
@[simp] theorem State.hostLines_onLatch (s : State) (l : Nat) (f : LatchObj → LatchObj) : (s.onLatch l f).hostLines = s.hostLines := rfl
@[simp] theorem State.queues_onLatch (s : State) (l : Nat) (f : LatchObj → LatchObj) : (s.onLatch l f).queues = s.queues := rfl
@[simp] theorem State.contexts_onLatch (s : State) (l : Nat) (f : LatchObj → LatchObj) : (s.onLatch l f).contexts = s.contexts := rfl
@[simp] theorem State.folios_onLatch (s : State) (l : Nat) (f : LatchObj → LatchObj) : (s.onLatch l f).folios = s.folios := rfl
@[simp] theorem State.regions_onLatch (s : State) (l : Nat) (f : LatchObj → LatchObj) : (s.onLatch l f).regions = s.regions := rfl
@[simp] theorem State.formats_onLatch (s : State) (l : Nat) (f : LatchObj → LatchObj) : (s.onLatch l f).formats = s.formats := rfl
@[simp] theorem State.copyqs_onLatch (s : State) (l : Nat) (f : LatchObj → LatchObj) : (s.onLatch l f).copyqs = s.copyqs := rfl
@[simp] theorem State.reductions_onLatch (s : State) (l : Nat) (f : LatchObj → LatchObj) : (s.onLatch l f).reductions = s.reductions := rfl
@[simp] theorem State.packets_onLatch (s : State) (l : Nat) (f : LatchObj → LatchObj) : (s.onLatch l f).packets = s.packets := rfl
@[simp] theorem State.sensors_onLatch (s : State) (l : Nat) (f : LatchObj → LatchObj) : (s.onLatch l f).sensors = s.sensors := rfl
@[simp] theorem State.readings_onLatch (s : State) (l : Nat) (f : LatchObj → LatchObj) : (s.onLatch l f).readings = s.readings := rfl
@[simp] theorem State.tripped_onLatch (s : State) (l : Nat) (f : LatchObj → LatchObj) : (s.onLatch l f).tripped = s.tripped := rfl
@[simp] theorem State.cap_onLatch (s : State) (l : Nat) (f : LatchObj → LatchObj) : (s.onLatch l f).cap = s.cap := rfl
@[simp] theorem State.ports_onLatch (s : State) (l : Nat) (f : LatchObj → LatchObj) : (s.onLatch l f).ports = s.ports := rfl
@[simp] theorem State.warm_onLatch (s : State) (l : Nat) (f : LatchObj → LatchObj) : (s.onLatch l f).warm = s.warm := rfl
@[simp] theorem State.starts_onLatch (s : State) (l : Nat) (f : LatchObj → LatchObj) : (s.onLatch l f).starts = s.starts := rfl
@[simp] theorem State.failStep_onLatch (s : State) (l : Nat) (f : LatchObj → LatchObj) : (s.onLatch l f).failStep = s.failStep := rfl
@[simp] theorem State.ready_onLatch (s : State) (l : Nat) (f : LatchObj → LatchObj) : (s.onLatch l f).ready = s.ready := rfl
@[simp] theorem State.startFail_onLatch (s : State) (l : Nat) (f : LatchObj → LatchObj) : (s.onLatch l f).startFail = s.startFail := rfl
@[simp] theorem State.trained_onLatch (s : State) (l : Nat) (f : LatchObj → LatchObj) : (s.onLatch l f).trained = s.trained := rfl
@[simp] theorem State.outbox_onLatch (s : State) (l : Nat) (f : LatchObj → LatchObj) : (s.onLatch l f).outbox = s.outbox := rfl
@[simp] theorem State.flash_onLatch (s : State) (l : Nat) (f : LatchObj → LatchObj) : (s.onLatch l f).flash = s.flash := rfl
@[simp] theorem State.booted_onLatch (s : State) (l : Nat) (f : LatchObj → LatchObj) : (s.onLatch l f).booted = s.booted := rfl
@[simp] theorem State.firmwareKey_onLatch (s : State) (l : Nat) (f : LatchObj → LatchObj) : (s.onLatch l f).firmwareKey = s.firmwareKey := rfl
@[simp] theorem State.fuses_onLatch (s : State) (l : Nat) (f : LatchObj → LatchObj) : (s.onLatch l f).fuses = s.fuses := rfl
@[simp] theorem State.power_onLatch (s : State) (l : Nat) (f : LatchObj → LatchObj) : (s.onLatch l f).power = s.power := rfl
@[simp] theorem State.sideband_onLatch (s : State) (l : Nat) (f : LatchObj → LatchObj) : (s.onLatch l f).sideband = s.sideband := rfl
@[simp] theorem State.frames_onLatch (s : State) (l : Nat) (f : LatchObj → LatchObj) : (s.onLatch l f).frames = s.frames := rfl
@[simp] theorem State.core_onLatch (s : State) (l : Nat) (f : LatchObj → LatchObj) (j : Nat) : (s.onLatch l f).core j = s.core j := rfl
@[simp] theorem State.team_onLatch (s : State) (l : Nat) (f : LatchObj → LatchObj) (j : Nat) : (s.onLatch l f).team j = s.team j := rfl
@[simp] theorem State.grid_onLatch (s : State) (l : Nat) (f : LatchObj → LatchObj) (j : Nat) : (s.onLatch l f).grid j = s.grid j := rfl
@[simp] theorem State.cluster_onLatch (s : State) (l : Nat) (f : LatchObj → LatchObj) (j : Nat) : (s.onLatch l f).cluster j = s.cluster j := rfl
@[simp] theorem State.queue_onLatch (s : State) (l : Nat) (f : LatchObj → LatchObj) (j : Nat) : (s.onLatch l f).queue j = s.queue j := rfl
@[simp] theorem State.barrier_onLatch (s : State) (l : Nat) (f : LatchObj → LatchObj) (j : Nat) : (s.onLatch l f).barrier j = s.barrier j := rfl
@[simp] theorem State.channel_onLatch (s : State) (l : Nat) (f : LatchObj → LatchObj) (j : Nat) : (s.onLatch l f).channel j = s.channel j := rfl

/-! `onChannel`. -/
@[simp] theorem State.channel_onChannel (s : State) (ch : Nat) (f : Channel → Channel) (j : Nat) :
    (s.onChannel ch f).channel j = if j = ch then f (s.channel ch) else s.channel j := by
  simp [State.onChannel, State.channel]
@[simp] theorem State.agenda_onChannel (s : State) (ch : Nat) (f : Channel → Channel) : (s.onChannel ch f).agenda = s.agenda := rfl
@[simp] theorem State.turn_onChannel (s : State) (ch : Nat) (f : Channel → Channel) : (s.onChannel ch f).turn = s.turn := rfl
@[simp] theorem State.now_onChannel (s : State) (ch : Nat) (f : Channel → Channel) : (s.onChannel ch f).now = s.now := rfl
@[simp] theorem State.polled_onChannel (s : State) (ch : Nat) (f : Channel → Channel) : (s.onChannel ch f).polled = s.polled := rfl
@[simp] theorem State.stepped_onChannel (s : State) (ch : Nat) (f : Channel → Channel) : (s.onChannel ch f).stepped = s.stepped := rfl
@[simp] theorem State.chantab_onChannel (s : State) (ch : Nat) (f : Channel → Channel) : (s.onChannel ch f).chantab = s.chantab := rfl
@[simp] theorem State.routers_onChannel (s : State) (ch : Nat) (f : Channel → Channel) : (s.onChannel ch f).routers = s.routers := rfl
@[simp] theorem State.pins_onChannel (s : State) (ch : Nat) (f : Channel → Channel) : (s.onChannel ch f).pins = s.pins := rfl
@[simp] theorem State.installs_onChannel (s : State) (ch : Nat) (f : Channel → Channel) : (s.onChannel ch f).installs = s.installs := rfl
@[simp] theorem State.dataChk_onChannel (s : State) (ch : Nat) (f : Channel → Channel) : (s.onChannel ch f).dataChk = s.dataChk := rfl
@[simp] theorem State.retired_onChannel (s : State) (ch : Nat) (f : Channel → Channel) : (s.onChannel ch f).retired = s.retired := rfl
@[simp] theorem State.order_onChannel (s : State) (ch : Nat) (f : Channel → Channel) : (s.onChannel ch f).order = s.order := rfl
@[simp] theorem State.interrupts_onChannel (s : State) (ch : Nat) (f : Channel → Channel) : (s.onChannel ch f).interrupts = s.interrupts := rfl
@[simp] theorem State.freeCtr_onChannel (s : State) (ch : Nat) (f : Channel → Channel) : (s.onChannel ch f).freeCtr = s.freeCtr := rfl
@[simp] theorem State.mem_onChannel (s : State) (ch : Nat) (f : Channel → Channel) : (s.onChannel ch f).mem = s.mem := rfl
@[simp] theorem State.cores_onChannel (s : State) (ch : Nat) (f : Channel → Channel) : (s.onChannel ch f).cores = s.cores := rfl
@[simp] theorem State.teams_onChannel (s : State) (ch : Nat) (f : Channel → Channel) : (s.onChannel ch f).teams = s.teams := rfl
@[simp] theorem State.grids_onChannel (s : State) (ch : Nat) (f : Channel → Channel) : (s.onChannel ch f).grids = s.grids := rfl
@[simp] theorem State.residency_onChannel (s : State) (ch : Nat) (f : Channel → Channel) : (s.onChannel ch f).residency = s.residency := rfl
@[simp] theorem State.clusters_onChannel (s : State) (ch : Nat) (f : Channel → Channel) : (s.onChannel ch f).clusters = s.clusters := rfl
@[simp] theorem State.barriers_onChannel (s : State) (ch : Nat) (f : Channel → Channel) : (s.onChannel ch f).barriers = s.barriers := rfl
@[simp] theorem State.latches_onChannel (s : State) (ch : Nat) (f : Channel → Channel) : (s.onChannel ch f).latches = s.latches := rfl
@[simp] theorem State.granules_onChannel (s : State) (ch : Nat) (f : Channel → Channel) : (s.onChannel ch f).granules = s.granules := rfl
@[simp] theorem State.handoffs_onChannel (s : State) (ch : Nat) (f : Channel → Channel) : (s.onChannel ch f).handoffs = s.handoffs := rfl
@[simp] theorem State.records_onChannel (s : State) (ch : Nat) (f : Channel → Channel) : (s.onChannel ch f).records = s.records := rfl
@[simp] theorem State.hostLines_onChannel (s : State) (ch : Nat) (f : Channel → Channel) : (s.onChannel ch f).hostLines = s.hostLines := rfl
@[simp] theorem State.queues_onChannel (s : State) (ch : Nat) (f : Channel → Channel) : (s.onChannel ch f).queues = s.queues := rfl
@[simp] theorem State.contexts_onChannel (s : State) (ch : Nat) (f : Channel → Channel) : (s.onChannel ch f).contexts = s.contexts := rfl
@[simp] theorem State.folios_onChannel (s : State) (ch : Nat) (f : Channel → Channel) : (s.onChannel ch f).folios = s.folios := rfl
@[simp] theorem State.regions_onChannel (s : State) (ch : Nat) (f : Channel → Channel) : (s.onChannel ch f).regions = s.regions := rfl
@[simp] theorem State.formats_onChannel (s : State) (ch : Nat) (f : Channel → Channel) : (s.onChannel ch f).formats = s.formats := rfl
@[simp] theorem State.copyqs_onChannel (s : State) (ch : Nat) (f : Channel → Channel) : (s.onChannel ch f).copyqs = s.copyqs := rfl
@[simp] theorem State.reductions_onChannel (s : State) (ch : Nat) (f : Channel → Channel) : (s.onChannel ch f).reductions = s.reductions := rfl
@[simp] theorem State.packets_onChannel (s : State) (ch : Nat) (f : Channel → Channel) : (s.onChannel ch f).packets = s.packets := rfl
@[simp] theorem State.sensors_onChannel (s : State) (ch : Nat) (f : Channel → Channel) : (s.onChannel ch f).sensors = s.sensors := rfl
@[simp] theorem State.readings_onChannel (s : State) (ch : Nat) (f : Channel → Channel) : (s.onChannel ch f).readings = s.readings := rfl
@[simp] theorem State.tripped_onChannel (s : State) (ch : Nat) (f : Channel → Channel) : (s.onChannel ch f).tripped = s.tripped := rfl
@[simp] theorem State.cap_onChannel (s : State) (ch : Nat) (f : Channel → Channel) : (s.onChannel ch f).cap = s.cap := rfl
@[simp] theorem State.ports_onChannel (s : State) (ch : Nat) (f : Channel → Channel) : (s.onChannel ch f).ports = s.ports := rfl
@[simp] theorem State.warm_onChannel (s : State) (ch : Nat) (f : Channel → Channel) : (s.onChannel ch f).warm = s.warm := rfl
@[simp] theorem State.starts_onChannel (s : State) (ch : Nat) (f : Channel → Channel) : (s.onChannel ch f).starts = s.starts := rfl
@[simp] theorem State.failStep_onChannel (s : State) (ch : Nat) (f : Channel → Channel) : (s.onChannel ch f).failStep = s.failStep := rfl
@[simp] theorem State.ready_onChannel (s : State) (ch : Nat) (f : Channel → Channel) : (s.onChannel ch f).ready = s.ready := rfl
@[simp] theorem State.startFail_onChannel (s : State) (ch : Nat) (f : Channel → Channel) : (s.onChannel ch f).startFail = s.startFail := rfl
@[simp] theorem State.trained_onChannel (s : State) (ch : Nat) (f : Channel → Channel) : (s.onChannel ch f).trained = s.trained := rfl
@[simp] theorem State.outbox_onChannel (s : State) (ch : Nat) (f : Channel → Channel) : (s.onChannel ch f).outbox = s.outbox := rfl
@[simp] theorem State.flash_onChannel (s : State) (ch : Nat) (f : Channel → Channel) : (s.onChannel ch f).flash = s.flash := rfl
@[simp] theorem State.booted_onChannel (s : State) (ch : Nat) (f : Channel → Channel) : (s.onChannel ch f).booted = s.booted := rfl
@[simp] theorem State.firmwareKey_onChannel (s : State) (ch : Nat) (f : Channel → Channel) : (s.onChannel ch f).firmwareKey = s.firmwareKey := rfl
@[simp] theorem State.fuses_onChannel (s : State) (ch : Nat) (f : Channel → Channel) : (s.onChannel ch f).fuses = s.fuses := rfl
@[simp] theorem State.power_onChannel (s : State) (ch : Nat) (f : Channel → Channel) : (s.onChannel ch f).power = s.power := rfl
@[simp] theorem State.sideband_onChannel (s : State) (ch : Nat) (f : Channel → Channel) : (s.onChannel ch f).sideband = s.sideband := rfl
@[simp] theorem State.frames_onChannel (s : State) (ch : Nat) (f : Channel → Channel) : (s.onChannel ch f).frames = s.frames := rfl
@[simp] theorem State.core_onChannel (s : State) (ch : Nat) (f : Channel → Channel) (j : Nat) : (s.onChannel ch f).core j = s.core j := rfl
@[simp] theorem State.team_onChannel (s : State) (ch : Nat) (f : Channel → Channel) (j : Nat) : (s.onChannel ch f).team j = s.team j := rfl
@[simp] theorem State.grid_onChannel (s : State) (ch : Nat) (f : Channel → Channel) (j : Nat) : (s.onChannel ch f).grid j = s.grid j := rfl
@[simp] theorem State.cluster_onChannel (s : State) (ch : Nat) (f : Channel → Channel) (j : Nat) : (s.onChannel ch f).cluster j = s.cluster j := rfl
@[simp] theorem State.queue_onChannel (s : State) (ch : Nat) (f : Channel → Channel) (j : Nat) : (s.onChannel ch f).queue j = s.queue j := rfl
@[simp] theorem State.barrier_onChannel (s : State) (ch : Nat) (f : Channel → Channel) (j : Nat) : (s.onChannel ch f).barrier j = s.barrier j := rfl
@[simp] theorem State.latch_onChannel (s : State) (ch : Nat) (f : Channel → Channel) (j : Nat) : (s.onChannel ch f).latch j = s.latch j := rfl

/-! A core's accessors. -/
@[simp] theorem Core.sreg_zero (k : Core) : k.sreg 0 = 0 := rfl
@[simp] theorem Core.stag_zero (k : Core) : k.stag 0 = 31 := rfl
@[simp] theorem Core.sreg_setS (k : Core) (n : Nat) (x : Word) (t j : Nat) :
    (k.setS n x t).sreg j = if j = n ∧ n ≠ 0 then x else k.sreg j := by
  unfold Core.setS Core.sreg; split <;> split <;> simp_all
@[simp] theorem Core.stag_setS (k : Core) (n : Nat) (x : Word) (t j : Nat) :
    (k.setS n x t).stag j = if j = n ∧ n ≠ 0 then t else k.stag j := by
  unfold Core.setS Core.stag; split <;> split <;> simp_all
@[simp] theorem Core.csr_setCsr (k : Core) (n : Nat) (x : Word) (j : Nat) :
    (k.setCsr n x).csr j = if j = n then x else k.csr j := by
  unfold Core.setCsr Core.csr; simp only []
  by_cases h : j = n
  · subst h; simp
  · have : Table.get (csrInit j) (Table.put (csrInit n) k.regs.csr n x) j = Table.get (csrInit j) k.regs.csr j := by
      unfold Table.put; split <;> simp [h]
    simp [h, this]
@[simp] theorem Core.clock_setClock (k : Core) (i x j : Nat) : (k.setClock i x).clock j = if j = i then x else k.clock j := by
  simp [Core.setClock, Core.clock]
@[simp] theorem Core.cell_setCell (k : Core) (n : Nat) (x : Cell) (j : Nat) : (k.setCell n x).cell j = if j = n then x else k.cell j := by
  simp [Core.setCell, Core.cell]
@[simp] theorem Core.word_setWord (k : Core) (x : Nat) (w : Word) (n j : Nat) : (k.setWord x w n).word j = if j = x then w else k.word j := by
  simp [Core.setWord, Core.word]
@[simp] theorem Core.count_setWord (k : Core) (x : Nat) (w : Word) (n j : Nat) : (k.setWord x w n).count j = if j = x then n else k.count j := by
  simp [Core.setWord, Core.count]

@[simp] theorem Core.ctl_setCsr (k : Core) (n : Nat) (x : Word) : (k.setCsr n x).ctl = k.ctl := rfl
@[simp] theorem Core.mx_setCsr (k : Core) (n : Nat) (x : Word) : (k.setCsr n x).mx = k.mx := rfl
@[simp] theorem Core.l1_setCsr (k : Core) (n : Nat) (x : Word) : (k.setCsr n x).l1 = k.l1 := rfl
@[simp] theorem Core.wbuf_setCsr (k : Core) (n : Nat) (x : Word) : (k.setCsr n x).wbuf = k.wbuf := rfl
@[simp] theorem Core.flights_setCsr (k : Core) (n : Nat) (x : Word) : (k.setCsr n x).flights = k.flights := rfl
@[simp] theorem Core.copies_setCsr (k : Core) (n : Nat) (x : Word) : (k.setCsr n x).copies = k.copies := rfl
@[simp] theorem Core.rcb_setCsr (k : Core) (n : Nat) (x : Word) : (k.setCsr n x).rcb = k.rcb := rfl
@[simp] theorem Core.regs_s_setCsr (k : Core) (n : Nat) (x : Word) : (k.setCsr n x).regs.s = k.regs.s := rfl
@[simp] theorem Core.regs_stag_setCsr (k : Core) (n : Nat) (x : Word) : (k.setCsr n x).regs.stag = k.regs.stag := rfl
@[simp] theorem Core.regs_rs_setCsr (k : Core) (n : Nat) (x : Word) : (k.setCsr n x).regs.rs = k.regs.rs := rfl
@[simp] theorem Core.regs_gtag_setCsr (k : Core) (n : Nat) (x : Word) : (k.setCsr n x).regs.gtag = k.regs.gtag := rfl
@[simp] theorem Core.regs_cells_setCsr (k : Core) (n : Nat) (x : Word) : (k.setCsr n x).regs.cells = k.regs.cells := rfl
@[simp] theorem Core.regs_clocks_setCsr (k : Core) (n : Nat) (x : Word) : (k.setCsr n x).regs.clocks = k.regs.clocks := rfl
@[simp] theorem Core.regs_latch_setCsr (k : Core) (n : Nat) (x : Word) : (k.setCsr n x).regs.latch = k.regs.latch := rfl
@[simp] theorem Core.regs_rw_setCsr (k : Core) (n : Nat) (x : Word) : (k.setCsr n x).regs.rw = k.regs.rw := rfl
@[simp] theorem Core.regs_rc_setCsr (k : Core) (n : Nat) (x : Word) : (k.setCsr n x).regs.rc = k.regs.rc := rfl
@[simp] theorem Core.ctl_setClock (k : Core) (i x : Nat) : (k.setClock i x).ctl = k.ctl := rfl
@[simp] theorem Core.mx_setClock (k : Core) (i x : Nat) : (k.setClock i x).mx = k.mx := rfl
@[simp] theorem Core.l1_setClock (k : Core) (i x : Nat) : (k.setClock i x).l1 = k.l1 := rfl
@[simp] theorem Core.wbuf_setClock (k : Core) (i x : Nat) : (k.setClock i x).wbuf = k.wbuf := rfl
@[simp] theorem Core.flights_setClock (k : Core) (i x : Nat) : (k.setClock i x).flights = k.flights := rfl
@[simp] theorem Core.copies_setClock (k : Core) (i x : Nat) : (k.setClock i x).copies = k.copies := rfl
@[simp] theorem Core.rcb_setClock (k : Core) (i x : Nat) : (k.setClock i x).rcb = k.rcb := rfl
@[simp] theorem Core.regs_s_setClock (k : Core) (i x : Nat) : (k.setClock i x).regs.s = k.regs.s := rfl
@[simp] theorem Core.regs_stag_setClock (k : Core) (i x : Nat) : (k.setClock i x).regs.stag = k.regs.stag := rfl
@[simp] theorem Core.regs_rs_setClock (k : Core) (i x : Nat) : (k.setClock i x).regs.rs = k.regs.rs := rfl
@[simp] theorem Core.regs_gtag_setClock (k : Core) (i x : Nat) : (k.setClock i x).regs.gtag = k.regs.gtag := rfl
@[simp] theorem Core.regs_cells_setClock (k : Core) (i x : Nat) : (k.setClock i x).regs.cells = k.regs.cells := rfl
@[simp] theorem Core.regs_csr_setClock (k : Core) (i x : Nat) : (k.setClock i x).regs.csr = k.regs.csr := rfl
@[simp] theorem Core.regs_latch_setClock (k : Core) (i x : Nat) : (k.setClock i x).regs.latch = k.regs.latch := rfl
@[simp] theorem Core.regs_rw_setClock (k : Core) (i x : Nat) : (k.setClock i x).regs.rw = k.regs.rw := rfl
@[simp] theorem Core.regs_rc_setClock (k : Core) (i x : Nat) : (k.setClock i x).regs.rc = k.regs.rc := rfl
@[simp] theorem Core.ctl_setCell (k : Core) (n : Nat) (x : Cell) : (k.setCell n x).ctl = k.ctl := rfl
@[simp] theorem Core.mx_setCell (k : Core) (n : Nat) (x : Cell) : (k.setCell n x).mx = k.mx := rfl
@[simp] theorem Core.l1_setCell (k : Core) (n : Nat) (x : Cell) : (k.setCell n x).l1 = k.l1 := rfl
@[simp] theorem Core.wbuf_setCell (k : Core) (n : Nat) (x : Cell) : (k.setCell n x).wbuf = k.wbuf := rfl
@[simp] theorem Core.flights_setCell (k : Core) (n : Nat) (x : Cell) : (k.setCell n x).flights = k.flights := rfl
@[simp] theorem Core.copies_setCell (k : Core) (n : Nat) (x : Cell) : (k.setCell n x).copies = k.copies := rfl
@[simp] theorem Core.rcb_setCell (k : Core) (n : Nat) (x : Cell) : (k.setCell n x).rcb = k.rcb := rfl
@[simp] theorem Core.regs_s_setCell (k : Core) (n : Nat) (x : Cell) : (k.setCell n x).regs.s = k.regs.s := rfl
@[simp] theorem Core.regs_stag_setCell (k : Core) (n : Nat) (x : Cell) : (k.setCell n x).regs.stag = k.regs.stag := rfl
@[simp] theorem Core.regs_rs_setCell (k : Core) (n : Nat) (x : Cell) : (k.setCell n x).regs.rs = k.regs.rs := rfl
@[simp] theorem Core.regs_gtag_setCell (k : Core) (n : Nat) (x : Cell) : (k.setCell n x).regs.gtag = k.regs.gtag := rfl
@[simp] theorem Core.regs_clocks_setCell (k : Core) (n : Nat) (x : Cell) : (k.setCell n x).regs.clocks = k.regs.clocks := rfl
@[simp] theorem Core.regs_csr_setCell (k : Core) (n : Nat) (x : Cell) : (k.setCell n x).regs.csr = k.regs.csr := rfl
@[simp] theorem Core.regs_latch_setCell (k : Core) (n : Nat) (x : Cell) : (k.setCell n x).regs.latch = k.regs.latch := rfl
@[simp] theorem Core.regs_rw_setCell (k : Core) (n : Nat) (x : Cell) : (k.setCell n x).regs.rw = k.regs.rw := rfl
@[simp] theorem Core.regs_rc_setCell (k : Core) (n : Nat) (x : Cell) : (k.setCell n x).regs.rc = k.regs.rc := rfl
@[simp] theorem Core.ctl_setWord (k : Core) (x : Nat) (w : Word) (n : Nat) : (k.setWord x w n).ctl = k.ctl := rfl
@[simp] theorem Core.mx_setWord (k : Core) (x : Nat) (w : Word) (n : Nat) : (k.setWord x w n).mx = k.mx := rfl
@[simp] theorem Core.l1_setWord (k : Core) (x : Nat) (w : Word) (n : Nat) : (k.setWord x w n).l1 = k.l1 := rfl
@[simp] theorem Core.wbuf_setWord (k : Core) (x : Nat) (w : Word) (n : Nat) : (k.setWord x w n).wbuf = k.wbuf := rfl
@[simp] theorem Core.flights_setWord (k : Core) (x : Nat) (w : Word) (n : Nat) : (k.setWord x w n).flights = k.flights := rfl
@[simp] theorem Core.copies_setWord (k : Core) (x : Nat) (w : Word) (n : Nat) : (k.setWord x w n).copies = k.copies := rfl
@[simp] theorem Core.rcb_setWord (k : Core) (x : Nat) (w : Word) (n : Nat) : (k.setWord x w n).rcb = k.rcb := rfl
@[simp] theorem Core.regs_s_setWord (k : Core) (x : Nat) (w : Word) (n : Nat) : (k.setWord x w n).regs.s = k.regs.s := rfl
@[simp] theorem Core.regs_stag_setWord (k : Core) (x : Nat) (w : Word) (n : Nat) : (k.setWord x w n).regs.stag = k.regs.stag := rfl
@[simp] theorem Core.regs_rs_setWord (k : Core) (x : Nat) (w : Word) (n : Nat) : (k.setWord x w n).regs.rs = k.regs.rs := rfl
@[simp] theorem Core.regs_gtag_setWord (k : Core) (x : Nat) (w : Word) (n : Nat) : (k.setWord x w n).regs.gtag = k.regs.gtag := rfl
@[simp] theorem Core.regs_cells_setWord (k : Core) (x : Nat) (w : Word) (n : Nat) : (k.setWord x w n).regs.cells = k.regs.cells := rfl
@[simp] theorem Core.regs_clocks_setWord (k : Core) (x : Nat) (w : Word) (n : Nat) : (k.setWord x w n).regs.clocks = k.regs.clocks := rfl
@[simp] theorem Core.regs_csr_setWord (k : Core) (x : Nat) (w : Word) (n : Nat) : (k.setWord x w n).regs.csr = k.regs.csr := rfl
@[simp] theorem Core.regs_latch_setWord (k : Core) (x : Nat) (w : Word) (n : Nat) : (k.setWord x w n).regs.latch = k.regs.latch := rfl
@[simp] theorem Core.ctl_setSpace (k : Core) (a n x tag : Nat) : (k.setSpace a n x tag).ctl = k.ctl := rfl
@[simp] theorem Core.mx_setSpace (k : Core) (a n x tag : Nat) : (k.setSpace a n x tag).mx = k.mx := rfl
@[simp] theorem Core.l1_setSpace (k : Core) (a n x tag : Nat) : (k.setSpace a n x tag).l1 = k.l1 := rfl
@[simp] theorem Core.wbuf_setSpace (k : Core) (a n x tag : Nat) : (k.setSpace a n x tag).wbuf = k.wbuf := rfl
@[simp] theorem Core.flights_setSpace (k : Core) (a n x tag : Nat) : (k.setSpace a n x tag).flights = k.flights := rfl
@[simp] theorem Core.copies_setSpace (k : Core) (a n x tag : Nat) : (k.setSpace a n x tag).copies = k.copies := rfl
@[simp] theorem Core.rcb_setSpace (k : Core) (a n x tag : Nat) : (k.setSpace a n x tag).rcb = k.rcb := rfl
@[simp] theorem Core.regs_s_setSpace (k : Core) (a n x tag : Nat) : (k.setSpace a n x tag).regs.s = k.regs.s := rfl
@[simp] theorem Core.regs_stag_setSpace (k : Core) (a n x tag : Nat) : (k.setSpace a n x tag).regs.stag = k.regs.stag := rfl
@[simp] theorem Core.regs_cells_setSpace (k : Core) (a n x tag : Nat) : (k.setSpace a n x tag).regs.cells = k.regs.cells := rfl
@[simp] theorem Core.regs_clocks_setSpace (k : Core) (a n x tag : Nat) : (k.setSpace a n x tag).regs.clocks = k.regs.clocks := rfl
@[simp] theorem Core.regs_csr_setSpace (k : Core) (a n x tag : Nat) : (k.setSpace a n x tag).regs.csr = k.regs.csr := rfl
@[simp] theorem Core.regs_latch_setSpace (k : Core) (a n x tag : Nat) : (k.setSpace a n x tag).regs.latch = k.regs.latch := rfl
@[simp] theorem Core.regs_rw_setSpace (k : Core) (a n x tag : Nat) : (k.setSpace a n x tag).regs.rw = k.regs.rw := rfl
@[simp] theorem Core.regs_rc_setSpace (k : Core) (a n x tag : Nat) : (k.setSpace a n x tag).regs.rc = k.regs.rc := rfl
@[simp] theorem Core.ctl_setS (k : Core) (n : Nat) (x : Word) (t : Nat) : (k.setS n x t).ctl = k.ctl := by
  unfold Core.setS; split <;> rfl
@[simp] theorem Core.mx_setS (k : Core) (n : Nat) (x : Word) (t : Nat) : (k.setS n x t).mx = k.mx := by
  unfold Core.setS; split <;> rfl
@[simp] theorem Core.l1_setS (k : Core) (n : Nat) (x : Word) (t : Nat) : (k.setS n x t).l1 = k.l1 := by
  unfold Core.setS; split <;> rfl
@[simp] theorem Core.wbuf_setS (k : Core) (n : Nat) (x : Word) (t : Nat) : (k.setS n x t).wbuf = k.wbuf := by
  unfold Core.setS; split <;> rfl
@[simp] theorem Core.flights_setS (k : Core) (n : Nat) (x : Word) (t : Nat) : (k.setS n x t).flights = k.flights := by
  unfold Core.setS; split <;> rfl
@[simp] theorem Core.copies_setS (k : Core) (n : Nat) (x : Word) (t : Nat) : (k.setS n x t).copies = k.copies := by
  unfold Core.setS; split <;> rfl
@[simp] theorem Core.rcb_setS (k : Core) (n : Nat) (x : Word) (t : Nat) : (k.setS n x t).rcb = k.rcb := by
  unfold Core.setS; split <;> rfl
@[simp] theorem Core.regs_rs_setS (k : Core) (n : Nat) (x : Word) (t : Nat) : (k.setS n x t).regs.rs = k.regs.rs := by
  unfold Core.setS; split <;> rfl
@[simp] theorem Core.regs_gtag_setS (k : Core) (n : Nat) (x : Word) (t : Nat) : (k.setS n x t).regs.gtag = k.regs.gtag := by
  unfold Core.setS; split <;> rfl
@[simp] theorem Core.regs_cells_setS (k : Core) (n : Nat) (x : Word) (t : Nat) : (k.setS n x t).regs.cells = k.regs.cells := by
  unfold Core.setS; split <;> rfl
@[simp] theorem Core.regs_clocks_setS (k : Core) (n : Nat) (x : Word) (t : Nat) : (k.setS n x t).regs.clocks = k.regs.clocks := by
  unfold Core.setS; split <;> rfl
@[simp] theorem Core.regs_csr_setS (k : Core) (n : Nat) (x : Word) (t : Nat) : (k.setS n x t).regs.csr = k.regs.csr := by
  unfold Core.setS; split <;> rfl
@[simp] theorem Core.regs_latch_setS (k : Core) (n : Nat) (x : Word) (t : Nat) : (k.setS n x t).regs.latch = k.regs.latch := by
  unfold Core.setS; split <;> rfl
@[simp] theorem Core.regs_rw_setS (k : Core) (n : Nat) (x : Word) (t : Nat) : (k.setS n x t).regs.rw = k.regs.rw := by
  unfold Core.setS; split <;> rfl
@[simp] theorem Core.regs_rc_setS (k : Core) (n : Nat) (x : Word) (t : Nat) : (k.setS n x t).regs.rc = k.regs.rc := by
  unfold Core.setS; split <;> rfl
@[simp] theorem Core.mode_perf (k : Core) (e n : Nat) : (k.perf e n).ctl.mode = k.ctl.mode := by unfold Core.perf; split <;> rfl
@[simp] theorem Core.team_perf (k : Core) (e n : Nat) : (k.perf e n).ctl.team = k.ctl.team := by unfold Core.perf; split <;> rfl
@[simp] theorem Core.pos_perf (k : Core) (e n : Nat) : (k.perf e n).ctl.pos = k.ctl.pos := by unfold Core.perf; split <;> rfl
@[simp] theorem Core.gpos_perf (k : Core) (e n : Nat) : (k.perf e n).ctl.gpos = k.ctl.gpos := by unfold Core.perf; split <;> rfl
@[simp] theorem Core.pc_perf (k : Core) (e n : Nat) : (k.perf e n).ctl.pc = k.ctl.pc := by unfold Core.perf; split <;> rfl
@[simp] theorem Core.rep_perf (k : Core) (e n : Nat) : (k.perf e n).ctl.rep = k.ctl.rep := by unfold Core.perf; split <;> rfl
@[simp] theorem Core.dmask_perf (k : Core) (e n : Nat) : (k.perf e n).ctl.dmask = k.ctl.dmask := by unfold Core.perf; split <;> rfl
@[simp] theorem Core.wait_perf (k : Core) (e n : Nat) : (k.perf e n).ctl.wait = k.ctl.wait := by unfold Core.perf; split <;> rfl
@[simp] theorem Core.back_perf (k : Core) (e n : Nat) : (k.perf e n).ctl.back = k.ctl.back := by unfold Core.perf; split <;> rfl
@[simp] theorem Core.owed_perf (k : Core) (e n : Nat) : (k.perf e n).ctl.owed = k.ctl.owed := by unfold Core.perf; split <;> rfl
@[simp] theorem Core.supervisor_perf (k : Core) (e n : Nat) : (k.perf e n).ctl.supervisor = k.ctl.supervisor := by unfold Core.perf; split <;> rfl
@[simp] theorem Core.shadow_perf (k : Core) (e n : Nat) : (k.perf e n).ctl.shadow = k.ctl.shadow := by unfold Core.perf; split <;> rfl
@[simp] theorem Core.nested_perf (k : Core) (e n : Nat) : (k.perf e n).ctl.nested = k.ctl.nested := by unfold Core.perf; split <;> rfl
@[simp] theorem Core.later_perf (k : Core) (e n : Nat) : (k.perf e n).ctl.later = k.ctl.later := by unfold Core.perf; split <;> rfl
@[simp] theorem Core.owesReturn_perf (k : Core) (e n : Nat) : (k.perf e n).ctl.owesReturn = k.ctl.owesReturn := by unfold Core.perf; split <;> rfl
@[simp] theorem Core.seq_perf (k : Core) (e n : Nat) : (k.perf e n).ctl.seq = k.ctl.seq := by unfold Core.perf; split <;> rfl
@[simp] theorem Core.posts_perf (k : Core) (e n : Nat) : (k.perf e n).ctl.posts = k.ctl.posts := by unfold Core.perf; split <;> rfl
@[simp] theorem Core.level_perf (k : Core) (e n : Nat) : (k.perf e n).ctl.level = k.ctl.level := by unfold Core.perf; split <;> rfl
@[simp] theorem Core.window_perf (k : Core) (e n : Nat) : (k.perf e n).ctl.window = k.ctl.window := by unfold Core.perf; split <;> rfl
@[simp] theorem Core.issued_perf (k : Core) (e n : Nat) : (k.perf e n).ctl.issued = k.ctl.issued := by unfold Core.perf; split <;> rfl
@[simp] theorem Core.glog_perf (k : Core) (e n : Nat) : (k.perf e n).ctl.glog = k.ctl.glog := by unfold Core.perf; split <;> rfl
@[simp] theorem Core.gclock_perf (k : Core) (e n : Nat) : (k.perf e n).ctl.gclock = k.ctl.gclock := by unfold Core.perf; split <;> rfl
@[simp] theorem Core.gsave_perf (k : Core) (e n : Nat) : (k.perf e n).ctl.gsave = k.ctl.gsave := by unfold Core.perf; split <;> rfl
@[simp] theorem Core.stall_perf (k : Core) (e n : Nat) : (k.perf e n).ctl.stall = k.ctl.stall := by unfold Core.perf; split <;> rfl
@[simp] theorem Core.did_perf (k : Core) (e n : Nat) : (k.perf e n).ctl.did = k.ctl.did := by unfold Core.perf; split <;> rfl
@[simp] theorem Core.dest_perf (k : Core) (e n : Nat) : (k.perf e n).ctl.dest = k.ctl.dest := by unfold Core.perf; split <;> rfl
@[simp] theorem Core.pmev_perf (k : Core) (e n : Nat) : (k.perf e n).ctl.pmev = k.ctl.pmev := by unfold Core.perf; split <;> rfl
@[simp] theorem Core.lastInst_perf (k : Core) (e n : Nat) : (k.perf e n).ctl.lastInst = k.ctl.lastInst := by unfold Core.perf; split <;> rfl
@[simp] theorem Core.writtenLin_perf (k : Core) (e n : Nat) : (k.perf e n).ctl.writtenLin = k.ctl.writtenLin := by unfold Core.perf; split <;> rfl
@[simp] theorem Core.writtenSwz_perf (k : Core) (e n : Nat) : (k.perf e n).ctl.writtenSwz = k.ctl.writtenSwz := by unfold Core.perf; split <;> rfl
@[simp] theorem Core.regs_perf (k : Core) (e n : Nat) : (k.perf e n).regs = k.regs := by unfold Core.perf; split <;> rfl
@[simp] theorem Core.mx_perf (k : Core) (e n : Nat) : (k.perf e n).mx = k.mx := by unfold Core.perf; split <;> rfl
@[simp] theorem Core.l1_perf (k : Core) (e n : Nat) : (k.perf e n).l1 = k.l1 := by unfold Core.perf; split <;> rfl
@[simp] theorem Core.wbuf_perf (k : Core) (e n : Nat) : (k.perf e n).wbuf = k.wbuf := by unfold Core.perf; split <;> rfl
@[simp] theorem Core.flights_perf (k : Core) (e n : Nat) : (k.perf e n).flights = k.flights := by unfold Core.perf; split <;> rfl
@[simp] theorem Core.copies_perf (k : Core) (e n : Nat) : (k.perf e n).copies = k.copies := by unfold Core.perf; split <;> rfl
@[simp] theorem Core.engq_perf (k : Core) (e n : Nat) : (k.perf e n).engq = k.engq := by unfold Core.perf; split <;> rfl
@[simp] theorem Core.engBusy_perf (k : Core) (e n : Nat) : (k.perf e n).engBusy = k.engBusy := by unfold Core.perf; split <;> rfl
@[simp] theorem Core.rcb_perf (k : Core) (e n : Nat) : (k.perf e n).rcb = k.rcb := by unfold Core.perf; split <;> rfl
/-- Counting an event changes the cycle's events and nothing else (R361, R362). -/
@[simp] theorem Core.csr_perf (k : Core) (e n j : Nat) : (k.perf e n).csr j = k.csr j := by simp [Core.csr]

end Sys2Proof.Machine
end

