-- ==== Sys2Proof/Laws/Issue.lean ====
section
/-! SUPPORT. Laws of the issue: what an instruction alone in its bundle comes to once it passes the steps of R97, and what
a commit does. -/
namespace Sys2Proof.Machine

/-- An issue that passes its steps runs its slot. -/
theorem issueOne_passes {i : Instr} {s : State} (h : s.passes i = true) :
    ∃ x w, encode i = some (x, w) ∧
      issueOne i (slotOp i) s = .next ((s.prepared i).runSlots s.turn s.soleFrame [s.soleOp i x w]) := by
  unfold State.passes at h
  split at h
  · exact absurd h (by simp)
  · next x w he =>
    refine ⟨x, w, he, ?_⟩
    simp only [Bool.and_eq_true, beq_iff_eq, Option.isNone_iff_eq_none] at h
    obtain ⟨⟨⟨h1, h2⟩, h3⟩, h4⟩ := h
    have hb : s.beforeIssue s.turn = (none, s.landed) := by rw [State.landed, ← h2]
    have hp : s.prepared i = s.landed.freshenOps s.turn [s.soleOp i x w] := by simp [State.prepared, he]
    rw [hp] at h4 ⊢
    unfold issueOne
    simp only [he, h1, hb, Bool.not_true, Bool.false_eq_true, if_false]
    unfold State.issueSlots
    simp only [State.soleOp, State.soleFrame] at h3 h4 ⊢
    simp only [h3, h4, ne_eq, not_true_eq_false, if_false]

/-- The values of the sources that are scalar registers. -/
theorem SlotOp.vals_scalar (x : SlotOp) (s : State) (c : Nat) (l : List Nat) (h : x.op.srcs = l.map Src.s) :
    x.vals s c = l.map fun n => { val := ((s.core c).sreg n).toNat, tag := (s.core c).stag n } := by
  unfold SlotOp.vals
  rw [h]
  have : ∀ (l : List Nat) (n : Nat), ((l.map Src.s).zipIdx n).map (fun p => s.readSrc c x.slot x.rx p.2 p.1) =
      l.map fun n => ({ val := ((s.core c).sreg n).toNat, tag := (s.core c).stag n } : SrcVal) := by
    intro l
    induction l with
    | nil => intro n; rfl
    | cons a r ih => intro n; simp only [List.map_cons, List.zipIdx_cons]; rw [ih]; rfl
  exact this l 0

/-- What a slot that issues alone does at its commit: latch loads, its own effects, and the heads that it consumes. -/
def SlotOp.sole (x : SlotOp) (s : State) (c : Nat) (o : Out) : Out :=
  { o with effs := latchLoads x (x.vals s c) ++ o.effs ++ (headsRead s c [x]).map fun key => Eff.consume key (s.channel key).rs }
/-- One live slot whose sources read and whose body completes. -/
theorem State.runSlots_ok {s s2 : State} {c : Nat} {fr : Frame} {x : SlotOp} {o : Out} (hn : x.op.nop = false)
    (hl : x.live (s.core c) = true) (he : (x.vals s c).findSome? (fun v => v.err) = none)
    (hb : x.op.body { x.ctx s c fr with earlier := [] } (x.vals s c) s = .ok s2 o)
    (hr : clashes s c [x] = []) (hv : (s.core c).overLimit [x.sole s c o] = false)
    (hg : s.gangDiffers c [(x, x.sole s c o)] = none) :
    s.runSlots c fr [x] = s.finishIssue c fr [x] { s := s2, outs := [(x, x.sole s c o)] } := by
  have hd : s.execStep c fr [x] = { s := s2, outs := [(x, x.sole s c o)] } := by
    unfold State.execStep
    have h2 : (x.vals s c).filterMap SrcVal.err = [] := by
      rw [List.filterMap_eq_nil_iff]; exact List.findSome?_eq_none_iff.1 he
    simp only [hr, List.isEmpty_nil, Bool.not_true, Bool.false_and]
    simp only [List.foldl]
    unfold Done.slot
    simp only [hn, hl, h2, hb, firstCause, List.flatMap_nil, List.nil_append, List.foldl_nil, Bool.not_true, Bool.false_eq_true, if_false,
      List.zipIdx_cons, List.zipIdx_nil, List.map_cons, List.map_nil, if_true]
    rfl
  unfold State.runSlots
  simp only [hd, hg, List.map_cons, List.map_nil, hv, Bool.false_eq_true, if_false]

/-- Effects after which the commit has nothing more to do. -/
def Eff.plain : Eff → Bool
  | .endOp | .yld | .trap _ | .eret => false
  | _ => true

/-- A slot's effects at the commit of a bundle that does not wait, behind slots that settle bytes at it; what a C slot launches
takes an entry of its engine's queue. -/
def State.slotDone (s : State) (c cyc : Nat) (settled : List (Nat × Nat)) (e : Nat × Nat × List Eff) : State :=
  let r := s.afresh c settled e.2.2
  let t := applyAll c e.2.1 cyc r.1 r.2
  if 4 ≤ e.1 then t.onCore c fun k => k.enqueue (e.1 - 4) (s.core c).ctl.seq else t
theorem State.commitSlots_none (s : State) (c : Nat) (w : Waiting) (settled : Nat → List (Nat × Nat)) (es : List (Nat × Nat × List Eff))
    (hw : w.waits = []) :
    es.foldl (fun (p : Option Trap × State) e => p.2.commitSlot c w settled e p.1) (none, s) =
      (none, es.foldl (fun s e => s.slotDone c w.cyc (settled e.1) e) s) := by
  induction es generalizing s with
  | nil => rfl
  | cons e r ih =>
    rw [List.foldl_cons, List.foldl_cons]
    have : s.commitSlot c w settled e none = (none, s.slotDone c w.cyc (settled e.1) e) := by simp [State.commitSlot, State.slotDone, hw]
    rw [this]; exact ih _

/-- A bundle that has changed no record confirms none. -/
theorem State.onRecords_nil (s : State) (f : Record → Record) : s.onRecords [] f = s := rfl
/-- The commit of a bundle that does not wait: its effects in slot order, and then the core goes to its next bundle. -/
theorem State.commitBundle_plain (s : State) (c : Nat) (w : Waiting) (hw : w.waits = [])
    (hp : ∀ x ∈ w.effs, ∀ e ∈ x.2.2, e.plain = true) :
    s.commitBundle c w =
      (w.effs.foldl (fun t e => t.slotDone c w.cyc ((s.onRecords w.undoRec (Record.confirm c)).settledBefore c w e.1) e)
        (s.onRecords w.undoRec (Record.confirm c))).onCore c (Core.settle w) := by
  have no : ∀ e : Eff, e.plain = false → (w.effs.any fun x => x.2.2.contains e) = false := by
    intro e he
    rw [List.any_eq_false]
    intro x hx hc
    have := hp x hx e (by simpa using hc)
    rw [he] at this; exact absurd this (by simp)
  have nt : (w.effs.findSome? fun x => x.2.2.findSome? Eff.trapCode) = none := by
    rw [List.findSome?_eq_none_iff]
    intro x hx
    rw [List.findSome?_eq_none_iff]
    intro e he
    have := hp x hx e he
    cases e <;> simp_all [Eff.plain, Eff.trapCode]
  unfold State.commitBundle
  have h := State.commitSlots_none (s.onRecords w.undoRec (Record.confirm c)) c w ((s.onRecords w.undoRec (Record.confirm c)).settledBefore c w)
    w.effs hw
  simp only [hw, List.isEmpty_nil, if_true] at h ⊢
  rw [h]
  simp only [no .endOp rfl, no .yld rfl, no .eret rfl, nt, Bool.false_and, Bool.false_eq_true, if_false, Option.map_none]

theorem OnlyCore.refl (c : Nat) (s : State) : OnlyCore c s s := ⟨rfl, fun _ _ => rfl⟩
theorem OnlyCore.trans {c : Nat} {s t u : State} (h : OnlyCore c s t) (h' : OnlyCore c t u) : OnlyCore c s u :=
  ⟨by rw [h'.rest, h.rest], fun d hd => (h'.others d hd).trans (h.others d hd)⟩
theorem OnlyCore.onCore (c : Nat) (s : State) (f : Core → Core) : OnlyCore c s (s.onCore c f) :=
  ⟨rfl, fun d hd => by simp [hd]⟩
/-- Memory is as it was where only a core has changed. -/
theorem OnlyCore.mem {c : Nat} {s t : State} (h : OnlyCore c s t) : t.mem = s.mem := by rw [h.rest]
theorem State.noteLead_onlyCore (s : State) (c code : Nat) : OnlyCore c s (s.noteLead c code) := by
  unfold State.noteLead
  simp only []
  split
  · exact .refl c s
  · refine ⟨rfl, fun d _ => ?_⟩
    rw [State.core_onCore]
    split
    · next h => subst h; rfl
    · rfl
/-- Effects that change their core alone. -/
def Eff.local : Eff → Bool
  | .sreg .. | .status .. | .vres .. | .space .. | .csr .. | .raw .. | .latch .. | .load .. | .sent .. | .tldw .. | .over ..
  | .count .. | .mx .. | .act .. | .mstp .. | .mrtn .. | .clkd .. | .clke .. | .dlyw .. | .inst | .level .. | .flags .. | .txp
  | .established | .slept .. => true
  | _ => false
theorem Eff.apply_onlyCore {e : Eff} (h : e.local = true) (c g cyc : Nat) (s : State) : OnlyCore c s (e.apply c g cyc s) := by
  cases e <;> first | (simp [Eff.local] at h; done) | (unfold Eff.apply; exact .onCore c s _)
theorem applyAll_onlyCore {es : List Eff} (h : ∀ e ∈ es, e.local = true) (c g cyc : Nat) (s : State) :
    OnlyCore c s (applyAll c g cyc es s) := by
  unfold applyAll
  induction es generalizing s with
  | nil => exact .refl c s
  | cons e r ih =>
    rw [List.foldl_cons]
    exact (Eff.apply_onlyCore (h e (List.mem_cons_self ..)) c g cyc s).trans (ih (fun x hx => h x (List.mem_cons_of_mem _ hx)) _)

theorem State.slotDone_onlyCore {es : Nat × Nat × List Eff} (h : ∀ e ∈ es.2.2, e.local = true) (c cyc : Nat) (s : State) :
    OnlyCore c s (s.slotDone c cyc [] es) := by
  unfold State.slotDone State.afresh
  simp only [List.isEmpty_nil, if_true]
  split
  · exact (applyAll_onlyCore h ..).trans (.onCore ..)
  · exact applyAll_onlyCore h ..

/-- An issue that does not wait and whose effects need nothing more at the commit: it is noted, and it commits. -/
theorem State.finishIssue_plain {s0 : State} {c : Nat} {fr : Frame} {ops : List SlotOp} {d : Done}
    (hw : (d.outs.flatMap fun o => o.2.waits) = []) (hk : (s0.issueRecord c fr ops d).undoRec = [])
    (hp : ∀ x ∈ (s0.issueRecord c fr ops d).effs, ∀ e ∈ x.2.2, e.plain = true) :
    s0.finishIssue c fr ops d =
      let t := (d.s.noteLead c ((s0.transferOutcome c d.outs).getD 0)).onCore c (Core.noteIssue (s0.cycleOf c) (issueWeight (s0.core c) ops))
      ((s0.issueRecord c fr ops d).effs.foldl
        (fun s e => s.slotDone c (s0.cycleOf c) (t.settledBefore c (s0.issueRecord c fr ops d) e.1) e) t).onCore c
          (Core.settle (s0.issueRecord c fr ops d)) := by
  have hw' : ∀ r, ((s0.issueRecord c fr ops d).continued r).waits = [] := by
    intro r; cases r <;> simp [Waiting.continued, State.issueRecord, hw]
  have hs : ∀ r, Core.settle ((s0.issueRecord c fr ops d).continued r) = Core.settle (s0.issueRecord c fr ops d) := by
    intro r; cases r <;> rfl
  have he : ∀ r, ((s0.issueRecord c fr ops d).continued r).effs = (s0.issueRecord c fr ops d).effs := by
    intro r; cases r <;> rfl
  have hc : ∀ r, ((s0.issueRecord c fr ops d).continued r).cyc = s0.cycleOf c := by
    intro r; cases r <;> rfl
  have hb : ∀ r (t : State) n, t.settledBefore c ((s0.issueRecord c fr ops d).continued r) n = t.settledBefore c (s0.issueRecord c fr ops d) n := by
    intro r t n; cases r <;> rfl
  have hu : ∀ r, ((s0.issueRecord c fr ops d).continued r).undoRec = [] := by
    intro r; cases r <;> exact hk
  have hg : ∀ r, ((s0.issueRecord c fr ops d).continued r).weight = issueWeight (s0.core c) ops := by
    intro r; cases r <;> rfl
  unfold State.finishIssue
  simp only [hw', List.isEmpty_nil, if_true]
  rw [State.commitBundle_plain _ _ _ (hw' _) (by rw [he]; exact hp)]
  simp only [hs, he, hc, hg, hb, hu, State.onRecords_nil]

/-- No operation of the issue adds to a class count: none can be over its limit. -/
theorem Core.overLimit_none {k : Core} {outs : List Out}
    (h : ∀ o ∈ outs, (∀ e ∈ o.effs, e.countClass = none) ∧ o.waits = []) : k.overLimit outs = false := by
  unfold Core.overLimit
  rw [List.any_eq_false]
  intro cls _
  have : (outs.map fun o => o.rise cls).sum = 0 := by
    apply List.sum_eq_zero
    intro n hn
    obtain ⟨o, ho, rfl⟩ := List.mem_map.1 hn
    obtain ⟨h1, h2⟩ := h o ho
    have : (o.effs.filter fun e => e.countClass == some cls) = [] := by
      rw [List.filter_eq_nil_iff]
      intro e he
      simp [h1 e he]
    simp [Out.rise, this, h2]
  simp [this]
/-- An operation that is no transfer cannot differ from its lead (R125). -/
theorem State.gangDiffers_none (s : State) (c : Nat) (x : SlotOp) (o : Out) (h : x.op.transfer = false) :
    s.gangDiffers c [(x, o)] = none := by
  simp [State.gangDiffers, State.transferOutcome, h]
/-- An instruction that passes, executes and completes is noted, and commits or waits. -/
theorem exec_issue {i : Instr} {s s2 : State} {o : Out} {x : Slot} {w : Word} (hx : exec i s = issueOne i (slotOp i) s)
    (hc : s.clears i = true) (he : encode i = some (x, w)) (hn : (slotOp i).nop = false)
    (herr : ((s.soleOp i x w).vals (s.prepared i) s.turn).findSome? (fun v => v.err) = none)
    (hb : (slotOp i).body { (s.soleOp i x w).ctx (s.prepared i) s.turn s.soleFrame with earlier := [] }
      ((s.soleOp i x w).vals (s.prepared i) s.turn) (s.prepared i) = .ok s2 o)
    (hr : clashes (s.prepared i) s.turn [s.soleOp i x w] = [])
    (hv : ((s.prepared i).core s.turn).overLimit [s.soleOut i x w o] = false)
    (hg : (s.prepared i).gangDiffers s.turn [(s.soleOp i x w, s.soleOut i x w o)] = none) :
    exec i s = .next ((s.prepared i).finishIssue s.turn s.soleFrame [s.soleOp i x w]
      { s := s2, outs := [(s.soleOp i x w, s.soleOut i x w o)] }) := by
  simp only [State.clears, Bool.and_eq_true] at hc
  obtain ⟨x', w', he', h⟩ := issueOne_passes hc.1
  rw [he] at he'; obtain ⟨rfl, rfl⟩ := (Prod.mk.injEq ..).mp (Option.some.inj he')
  rw [hx, h]
  congr 1
  have hl : (s.soleOp i x w).live ((s.prepared i).core s.turn) = true := by
    have := hc.2; simpa [State.guards, he] using this
  exact State.runSlots_ok hn hl herr hb hr hv hg
/-- The slot of an instruction that passes is one of those in which its opcode is legal (R95). -/
theorem State.passes_slot {s : State} {i : Instr} {x : Slot} {w : Word} (h : s.passes i = true) (he : encode i = some (x, w)) :
    i.formOk = true ∧ ∃ cl b, opcodeClass (bits w.toNat 63 56) = some (cl, b) ∧ cl.has x = true := by
  simp only [State.passes, he, Bool.and_eq_true, Option.isNone_iff_eq_none] at h
  have h4 := h.2
  unfold State.checkSteps at h4
  split at h4
  · exact absurd h4 (by simp)
  · next hd =>
    have hb : (s.soleOp i x w).bad = none := by
      unfold decodeStep at hd
      split at hd
      · next hf =>
        have := List.find?_eq_none.1 hf (s.soleOp i x w) (by simp)
        unfold SlotOp.cause at this
        split at this
        · simp at this
        · assumption
      · exact absurd hd (by simp)
    have hb : refusedBy i x w = none := hb
    unfold refusedBy at hb
    split at hb
    · exact absurd hb (by simp)
    · next cl b hc =>
      refine ⟨?_, cl, b, hc, ?_⟩
      · revert hb; cases i.formOk <;> simp
      · revert hb; cases i.formOk <;> cases cl.has x <;> simp
/-- The opcode of an encoded word. -/
theorem opcode_pack (h : Head) (o : BitVec 8) (p : BitVec 48) : bits (h.pack o ++ p).toNat 63 56 = o.toNat := by
  have h1 : (h.pack o ++ p : BitVec 64).toNat = (o.toNat * 256 + h.gk.toNat * 8 + h.gs.toNat) * 2 ^ 48 + p.toNat := by
    have e : ∀ {n m : Nat} (a : BitVec n) (b : BitVec m), (a ++ b).toNat = a.toNat * 2 ^ m + b.toNat := by
      intro n m a b
      rw [BitVec.toNat_append, Nat.shiftLeft_eq, Nat.mul_comm, ← Nat.two_pow_add_eq_or_of_lt b.isLt]
    rw [e, Head.pack, e, e]; ring
  rw [h1]
  have := o.isLt; have := h.gk.isLt; have := h.gs.isLt; have := p.isLt
  simp only [bits, Nat.shiftRight_eq_div_pow]
  omega

end Sys2Proof.Machine
end

