-- ==== Sys2Proof/Laws/Memory.lean ====
section
/-! SUPPORT. Laws of memory: its canonical form, which every operation on it keeps, and reads after writes. -/
namespace Sys2Proof

theorem Table.mem_erase {α : Type} (k : Nat) (t : Table α) : ∀ e ∈ Table.erase k t, e ∈ t := by
  induction t with
  | nil => simp [Table.erase]
  | cons e r ih =>
    simp only [Table.erase]
    split
    · intro x hx; exact List.mem_cons_of_mem _ (ih x hx)
    · intro x hx
      rcases List.mem_cons.1 hx with rfl | hx
      · exact List.mem_cons_self ..
      · exact List.mem_cons_of_mem _ (ih x hx)
theorem Table.mem_insert {α : Type} (k : Nat) (v : α) (t : Table α) : ∀ e ∈ Table.insert k v t, e = (k, v) ∨ e ∈ t := by
  induction t with
  | nil => simp [Table.insert]
  | cons e r ih =>
    simp only [Table.insert]
    split
    · simp
    · split
      · intro x hx; rcases List.mem_cons.1 hx with rfl | hx
        · exact .inl rfl
        · exact .inr (List.mem_cons_of_mem _ hx)
      · intro x hx; rcases List.mem_cons.1 hx with rfl | hx
        · exact .inr (List.mem_cons_self ..)
        · exact (ih x hx).imp id (List.mem_cons_of_mem _)
theorem Table.le_insert {α : Type} (n k : Nat) (v : α) (t : Table α) (h : n < k) (ht : ∀ e ∈ t, n < e.1) :
    ∀ e ∈ Table.insert k v t, n < e.1 := by
  intro e he
  rcases Table.mem_insert k v t e he with rfl | he
  · exact h
  · exact ht e he
/-- Rising numbers. -/
def Table.rising {α : Type} (t : Table α) : Prop := (t.map Prod.fst).Pairwise (· < ·)
theorem Table.rising_cons {α : Type} (e : Nat × α) (r : Table α) : Table.rising (e :: r) ↔ (∀ x ∈ r, e.1 < x.1) ∧ Table.rising r := by
  simp [Table.rising, List.pairwise_cons]
theorem Table.rising_insert {α : Type} (k : Nat) (v : α) (t : Table α) (h : Table.rising t) : Table.rising (Table.insert k v t) := by
  induction t with
  | nil => simp [Table.insert, Table.rising]
  | cons e r ih =>
    obtain ⟨h1, h2⟩ := (Table.rising_cons _ _).1 h
    simp only [Table.insert]
    split
    · next hk =>
      refine (Table.rising_cons _ _).2 ⟨?_, h⟩
      intro x hx
      rcases List.mem_cons.1 hx with rfl | hx
      · exact hk
      · exact Nat.lt_trans hk (h1 x hx)
    · split
      · next hk => exact (Table.rising_cons _ _).2 ⟨by subst hk; exact h1, h2⟩
      · exact (Table.rising_cons _ _).2 ⟨Table.le_insert _ _ _ _ (by omega) h1, ih h2⟩
theorem Table.rising_erase {α : Type} (k : Nat) (t : Table α) (h : Table.rising t) : Table.rising (Table.erase k t) := by
  induction t with
  | nil => simp [Table.erase, Table.rising]
  | cons e r ih =>
    obtain ⟨h1, h2⟩ := (Table.rising_cons _ _).1 h
    simp only [Table.erase]
    split
    · exact ih h2
    · exact (Table.rising_cons _ _).2 ⟨fun x hx => h1 x (Table.mem_erase k r x hx), ih h2⟩

end Sys2Proof
namespace Sys2Proof.Machine

theorem Memory.wf_iff (m : List Host.Cell) : Memory.wf m = true ↔ Table.rising m ∧ ∀ c ∈ m, c.2 ≠ 0 := by
  simp [Memory.wf, Table.rising, bne_iff_ne]
@[simp] theorem Memory.wf_nil : Memory.wf [] = true := rfl
/-- Writing a byte keeps the canonical form. -/
theorem Memory.wf_setByte (m : List Host.Cell) (a : Nat) (b : Byte) (h : Memory.wf m = true) : Memory.wf (Memory.setByte m a b) = true := by
  obtain ⟨h1, h2⟩ := (Memory.wf_iff m).1 h
  refine (Memory.wf_iff _).2 ?_
  unfold Memory.setByte Table.put
  split
  · exact ⟨Table.rising_erase a m h1, fun c hc => h2 c (Table.mem_erase a m c hc)⟩
  · next hb =>
    refine ⟨Table.rising_insert a b m h1, fun c hc => ?_⟩
    rcases Table.mem_insert a b m c hc with rfl | hc
    · exact hb
    · exact h2 c hc
/-- A fold of operations that keep the canonical form keeps it. -/
theorem Memory.wf_foldl {α : Type} (f : List Host.Cell → α → List Host.Cell) (l : List α) (m : List Host.Cell)
    (hf : ∀ m x, Memory.wf m = true → Memory.wf (f m x) = true) (h : Memory.wf m = true) : Memory.wf (l.foldl f m) = true := by
  induction l generalizing m with
  | nil => exact h
  | cons x r ih => exact ih _ (hf m x h)
/-- A fold of machine operations that keep it keeps it. -/
theorem State.wf_foldl {α : Type} (f : State → α → State) (l : List α) (s : State)
    (hf : ∀ s x, Memory.wf s.mem = true → Memory.wf (f s x).mem = true) (h : Memory.wf s.mem = true) : Memory.wf (l.foldl f s).mem = true := by
  induction l generalizing s with
  | nil => exact h
  | cons x r ih => exact ih _ (hf s x h)
theorem Memory.wf_writeCells (m : List Host.Cell) (cs : List (Nat × Byte)) (h : Memory.wf m = true) :
    Memory.wf (Memory.writeCells m cs) = true := Memory.wf_foldl _ _ _ (fun m c => Memory.wf_setByte m c.1 c.2) h
theorem Memory.wf_filter (m : List Host.Cell) (p : Host.Cell → Bool) (h : Memory.wf m = true) : Memory.wf (m.filter p) = true := by
  obtain ⟨h1, h2⟩ := (Memory.wf_iff m).1 h
  refine (Memory.wf_iff _).2 ⟨?_, fun c hc => h2 c (List.mem_filter.1 hc).1⟩
  exact List.Pairwise.sublist (List.Sublist.map _ List.filter_sublist) h1
theorem Memory.wf_clear (m : List Host.Cell) (a n : Nat) (h : Memory.wf m = true) : Memory.wf (Memory.clear m a n) = true :=
  Memory.wf_filter m _ h
theorem FormatRegion.wf_writeBlock (r : FormatRegion) (m : List Host.Cell) (cs : List (Nat × Byte)) (b : Nat) (h : Memory.wf m = true) :
    Memory.wf (r.writeBlock m cs b) = true := by
  unfold FormatRegion.writeBlock
  exact Memory.wf_setByte _ _ _ (Memory.wf_foldl _ _ _ (fun m _ => Memory.wf_setByte m _ _) h)
theorem State.wf_apertureWrite (s : State) (cs : List (Nat × Byte)) (h : Memory.wf s.mem = true) : Memory.wf (s.apertureWrite cs).mem = true := by
  unfold State.apertureWrite
  exact State.wf_foldl _ _ _ (fun s r h => Memory.wf_foldl _ _ _ (fun m b => FormatRegion.wf_writeBlock _ m _ b) h) h
theorem State.wf_homeWrite (s : State) (cs : List (Nat × Byte)) (h : Memory.wf s.mem = true) : Memory.wf (s.homeWrite cs).mem = true := by
  unfold State.homeWrite
  split
  · exact h
  · split
    · exact State.wf_apertureWrite s _ h
    · exact Memory.wf_writeCells _ _ h
    · exact Memory.wf_writeCells _ _ h
theorem State.wf_homeWriteAll (s : State) (cs : List (Nat × Byte)) (h : Memory.wf s.mem = true) : Memory.wf (s.homeWriteAll cs).mem = true :=
  State.wf_homeWrite _ _ (State.wf_homeWrite _ _ (State.wf_apertureWrite _ _ h))
theorem State.wf_hostStore (s : State) (a : Nat) (bs : List Byte) (h : Memory.wf s.mem = true) : Memory.wf (s.hostStore a bs).mem = true := by
  unfold State.hostStore
  split
  · exact Memory.wf_writeCells _ _ h
  · exact h
theorem State.wf_writeMem (s : State) (cs : List (Nat × Byte)) (h : Memory.wf s.mem = true) : Memory.wf (s.writeMem cs).mem = true :=
  Memory.wf_writeCells _ _ h

theorem State.wf_moveMem (s : State) (a n b : Nat) (h : Memory.wf s.mem = true) : Memory.wf (s.moveMem a n b).mem = true :=
  Memory.wf_writeCells _ _ (Memory.wf_clear _ _ _ h)
theorem State.wf_replaceMem (s : State) (a n : Nat) (cs : List (Nat × Byte)) (h : Memory.wf s.mem = true) :
    Memory.wf (s.replaceMem a n cs).mem = true := Memory.wf_writeCells _ _ (Memory.wf_clear _ _ _ h)
theorem State.wf_write8 (s : State) (a x : Nat) (h : Memory.wf s.mem = true) : Memory.wf (s.write8 a x).mem = true :=
  Memory.wf_writeCells _ _ h
theorem State.wf_takeFrame (s : State) (h : Memory.wf s.mem = true) : Memory.wf s.takeFrame.2.mem = true :=
  Memory.wf_clear _ _ _ h

/-- A byte reads as it was last written. -/
@[simp] theorem Memory.byte_setByte (m : List Host.Cell) (a : Nat) (b : Byte) (j : Nat) :
    Memory.byte (Memory.setByte m a b) j = if j = a then b else Memory.byte m j :=
  Table.get_put _ _ _ _ _
/-- Cells that are written leave every other byte alone. -/
theorem Memory.byte_writeCells (m : List Host.Cell) (cs : List (Nat × Byte)) (j : Nat) (h : ∀ c ∈ cs, c.1 ≠ j) :
    Memory.byte (Memory.writeCells m cs) j = Memory.byte m j := by
  unfold Memory.writeCells
  induction cs generalizing m with
  | nil => rfl
  | cons c r ih =>
    rw [List.foldl_cons, ih _ fun x hx => h x (List.mem_cons_of_mem _ hx), Memory.byte_setByte]
    simp [Ne.symm (h c (List.mem_cons_self ..))]
theorem Memory.writeCells_append (m : List Host.Cell) (a b : List (Nat × Byte)) :
    Memory.writeCells m (a ++ b) = Memory.writeCells (Memory.writeCells m a) b := by
  simp [Memory.writeCells]
/-- The cells of a number, written, read back as its bytes. -/
theorem Memory.byte_cellsOf (m : List Host.Cell) (a n x j : Nat) (h : j < n) :
    Memory.byte (Memory.writeCells m (cellsOf a n x)) (a + j) = byteOf x j := by
  induction n with
  | zero => omega
  | succ n ih =>
    have : cellsOf a (n + 1) x = cellsOf a n x ++ [(a + n, byteOf x n)] := by
      simp [cellsOf, List.range_succ]
    rw [this, Memory.writeCells_append]
    show Memory.byte (Memory.setByte _ (a + n) (byteOf x n)) (a + j) = _
    rw [Memory.byte_setByte]
    by_cases e : j = n
    · simp [e]
    · rw [if_neg (by omega)]; exact ih (by omega)
theorem Memory.byte_cellsOf_other (m : List Host.Cell) (a n x j : Nat) (h : j < a ∨ a + n ≤ j) :
    Memory.byte (Memory.writeCells m (cellsOf a n x)) j = Memory.byte m j := by
  apply Memory.byte_writeCells
  intro c hc
  simp only [cellsOf, List.mem_map, List.mem_range] at hc
  obtain ⟨i, hi, rfl⟩ := hc
  simp; omega
theorem State.reset_wf : Memory.wf State.reset.mem = true := rfl

end Sys2Proof.Machine
end

