-- ==== Sys2Proof/Laws/PerInstr.lean ====
section
/-! SUPPORT. Per-instruction laws: the fields of every format survive packing, and every operation word reads back as the
operation it encodes; an event has no word. -/
namespace Sys2Proof

theorem extract_high {m n : Nat} (x : BitVec m) (y : BitVec n) (k l : Nat) (h : n ≤ k) :
    (x ++ y).extractLsb' k l = x.extractLsb' (k - n) l := by
  ext i hi
  simp only [BitVec.getElem_extractLsb', BitVec.getLsbD_append]
  rw [if_neg (by omega), show k + i - n = k - n + i by omega]
theorem extract_low {m n : Nat} (x : BitVec m) (y : BitVec n) (k l : Nat) (h : k + l ≤ n) :
    (x ++ y).extractLsb' k l = y.extractLsb' k l := by
  ext i hi
  simp only [BitVec.getElem_extractLsb', BitVec.getLsbD_append]
  rw [if_pos (by omega)]
theorem extract_all {m : Nat} (x : BitVec m) (k : Nat) (h : k = 0) : x.extractLsb' k m = x := by
  subst h; ext i hi; simp

theorem SR.ofWord_pack (p : BitVec 16) (f : SR) : SR.ofWord (p ++ f.pack) = f := by
  obtain ⟨sd, sa, sb, sc, fn, lo⟩ := f
  simp only [SR.ofWord, SR.pack, SR.mk.injEq]
  refine ⟨?_, ?_, ?_, ?_, ?_, ?_⟩ <;>
    simp (disch := omega) only [extract_high, extract_low, extract_all]
theorem SI.ofWord_pack (p : BitVec 16) (f : SI) : SI.ofWord (p ++ f.pack) = f := by
  obtain ⟨sd, sa, fn, imm⟩ := f
  simp only [SI.ofWord, SI.pack, SI.mk.injEq]
  refine ⟨?_, ?_, ?_, ?_⟩ <;>
    simp (disch := omega) only [extract_high, extract_low, extract_all]
theorem BR.ofWord_pack (p : BitVec 16) (f : BR) : BR.ofWord (p ++ f.pack) = f := by
  obtain ⟨sa, cc, ex, imm⟩ := f
  simp only [BR.ofWord, BR.pack, BR.mk.injEq]
  refine ⟨?_, ?_, ?_, ?_⟩ <;>
    simp (disch := omega) only [extract_high, extract_low, extract_all]
theorem V2.ofWord_pack (p : BitVec 16) (f : V2) : V2.ofWord (p ++ f.pack) = f := by
  obtain ⟨vd, va, vb, fp, ha, hb, rm, fn⟩ := f
  simp only [V2.ofWord, V2.pack, V2.mk.injEq]
  refine ⟨?_, ?_, ?_, ?_, ?_, ?_, ?_, ?_⟩ <;>
    simp (disch := omega) only [extract_high, extract_low, extract_all]
theorem V3.ofWord_pack (p : BitVec 16) (f : V3) : V3.ofWord (p ++ f.pack) = f := by
  obtain ⟨vd, va, vb, fp, ha, vc⟩ := f
  simp only [V3.ofWord, V3.pack, V3.mk.injEq]
  refine ⟨?_, ?_, ?_, ?_, ?_, ?_⟩ <;>
    simp (disch := omega) only [extract_high, extract_low, extract_all]
theorem VI.ofWord_pack (p : BitVec 16) (f : VI) : VI.ofWord (p ++ f.pack) = f := by
  obtain ⟨vd, imm, fp, lo⟩ := f
  simp only [VI.ofWord, VI.pack, VI.mk.injEq]
  refine ⟨?_, ?_, ?_, ?_⟩ <;>
    simp (disch := omega) only [extract_high, extract_low, extract_all]
theorem MF.ofWord_pack (p : BitVec 16) (f : MF) : MF.ofWord (p ++ f.pack) = f := by
  obtain ⟨ri, acc, pert, trb, bias, act, atab, rq, rr, sa, sb, lo⟩ := f
  simp only [MF.ofWord, MF.pack, MF.mk.injEq]
  refine ⟨?_, ?_, ?_, ?_, ?_, ?_, ?_, ?_, ?_, ?_, ?_, ?_⟩ <;>
    simp (disch := omega) only [extract_high, extract_low, extract_all]
theorem CF.ofWord_pack (p : BitVec 16) (f : CF) : CF.ofWord (p ++ f.pack) = f := by
  obtain ⟨rr, sa, sb, sc, sd, hr, sco, sz, bypass, noAlloc, lo⟩ := f
  simp only [CF.ofWord, CF.pack, CF.mk.injEq]
  refine ⟨?_, ?_, ?_, ?_, ?_, ?_, ?_, ?_, ?_, ?_, ?_⟩ <;>
    simp (disch := omega) only [extract_high, extract_low, extract_all]
theorem WF.ofWord_pack (p : BitVec 16) (f : WF) : WF.ofWord (p ++ f.pack) = f := by
  obtain ⟨st, dl, esc, sa, sb, imm⟩ := f
  simp only [WF.ofWord, WF.pack, WF.mk.injEq]
  refine ⟨?_, ?_, ?_, ?_, ?_, ?_⟩ <;>
    simp (disch := omega) only [extract_high, extract_low, extract_all]
theorem XF.ofWord_pack (p : BitVec 16) (f : XF) : XF.ofWord (p ++ f.pack) = f := by
  obtain ⟨sd, sa, csr, imm⟩ := f
  simp only [XF.ofWord, XF.pack, XF.mk.injEq]
  refine ⟨?_, ?_, ?_, ?_⟩ <;>
    simp (disch := omega) only [extract_high, extract_low, extract_all]
theorem Head.opcode_pack (h : Head) (o : BitVec 8) (r : BitVec 48) : (h.pack o ++ r).extractLsb' 56 8 = o := by
  unfold Head.pack
  simp (disch := omega) only [extract_high, extract_all]
theorem Head.fields_pack (h : Head) (o : BitVec 8) (r : BitVec 48) :
    ({ slot := h.slot, gk := (h.pack o ++ r).extractLsb' 51 5, gs := (h.pack o ++ r).extractLsb' 48 3 } : Head) = h := by
  obtain ⟨sl, gk, gs⟩ := h
  simp only [Head.pack, Head.mk.injEq, true_and]
  refine ⟨?_, ?_⟩ <;>
    simp (disch := omega) only [extract_high, extract_low, extract_all]

/-- An operation whose word is read back whole. -/
def Laws.Encoding.Statement (i : Instr) : Prop := ∀ x w, encode i = some (x, w) → readWord x w = some i

namespace Laws.Encoding

theorem nop (x : Slot) (r : BitVec 56) : Statement (.nop x r) := by
  intro y w e
  simp only [encode, Option.some.injEq, Prod.mk.injEq] at e
  obtain ⟨rfl, rfl⟩ := e
  have h : ((0 : BitVec 8) ++ r).extractLsb' 56 8 = 0 := by
    simp (disch := omega) only [extract_high, extract_all]
  have g : ((0 : BitVec 8) ++ r).extractLsb' 0 56 = r := by
    simp (disch := omega) only [extract_low, extract_all]
  unfold readWord
  rw [h]
  exact congrArg (fun b => some (Instr.nop x b)) g
/-- The word of an operation, read by its opcode. -/
theorem read (h : Head) (o : BitVec 8) (p : BitVec 48) (i : Instr) (ho : readOp o.toNat h (h.pack o ++ p) = some i) :
    readWord h.slot (h.pack o ++ p) = some i := by
  unfold readWord
  rw [Head.opcode_pack, Head.fields_pack, ho]
theorem add (h : Head) (f : SR) : Statement (.add h f) := by
  intro x w e
  cases e
  exact read h 0x01 f.pack _ (congrArg (fun g => some (Instr.add h g)) (SR.ofWord_pack _ f))
theorem sub (h : Head) (f : SR) : Statement (.sub h f) := by
  intro x w e
  cases e
  exact read h 0x02 f.pack _ (congrArg (fun g => some (Instr.sub h g)) (SR.ofWord_pack _ f))
theorem mul (h : Head) (f : SR) : Statement (.mul h f) := by
  intro x w e
  cases e
  exact read h 0x03 f.pack _ (congrArg (fun g => some (Instr.mul h g)) (SR.ofWord_pack _ f))
theorem mulh (h : Head) (f : SR) : Statement (.mulh h f) := by
  intro x w e
  cases e
  exact read h 0x04 f.pack _ (congrArg (fun g => some (Instr.mulh h g)) (SR.ofWord_pack _ f))
theorem mulhn (h : Head) (f : SR) : Statement (.mulhn h f) := by
  intro x w e
  cases e
  exact read h 0x05 f.pack _ (congrArg (fun g => some (Instr.mulhn h g)) (SR.ofWord_pack _ f))
theorem div (h : Head) (f : SR) : Statement (.div h f) := by
  intro x w e
  cases e
  exact read h 0x06 f.pack _ (congrArg (fun g => some (Instr.div h g)) (SR.ofWord_pack _ f))
theorem divn (h : Head) (f : SR) : Statement (.divn h f) := by
  intro x w e
  cases e
  exact read h 0x07 f.pack _ (congrArg (fun g => some (Instr.divn h g)) (SR.ofWord_pack _ f))
theorem rem (h : Head) (f : SR) : Statement (.rem h f) := by
  intro x w e
  cases e
  exact read h 0x08 f.pack _ (congrArg (fun g => some (Instr.rem h g)) (SR.ofWord_pack _ f))
theorem remn (h : Head) (f : SR) : Statement (.remn h f) := by
  intro x w e
  cases e
  exact read h 0x09 f.pack _ (congrArg (fun g => some (Instr.remn h g)) (SR.ofWord_pack _ f))
theorem and (h : Head) (f : SR) : Statement (.and h f) := by
  intro x w e
  cases e
  exact read h 0x0A f.pack _ (congrArg (fun g => some (Instr.and h g)) (SR.ofWord_pack _ f))
theorem or (h : Head) (f : SR) : Statement (.or h f) := by
  intro x w e
  cases e
  exact read h 0x0B f.pack _ (congrArg (fun g => some (Instr.or h g)) (SR.ofWord_pack _ f))
theorem xor (h : Head) (f : SR) : Statement (.xor h f) := by
  intro x w e
  cases e
  exact read h 0x0C f.pack _ (congrArg (fun g => some (Instr.xor h g)) (SR.ofWord_pack _ f))
theorem andn (h : Head) (f : SR) : Statement (.andn h f) := by
  intro x w e
  cases e
  exact read h 0x0D f.pack _ (congrArg (fun g => some (Instr.andn h g)) (SR.ofWord_pack _ f))
theorem shl (h : Head) (f : SR) : Statement (.shl h f) := by
  intro x w e
  cases e
  exact read h 0x0E f.pack _ (congrArg (fun g => some (Instr.shl h g)) (SR.ofWord_pack _ f))
theorem shr (h : Head) (f : SR) : Statement (.shr h f) := by
  intro x w e
  cases e
  exact read h 0x0F f.pack _ (congrArg (fun g => some (Instr.shr h g)) (SR.ofWord_pack _ f))
theorem sra (h : Head) (f : SR) : Statement (.sra h f) := by
  intro x w e
  cases e
  exact read h 0x10 f.pack _ (congrArg (fun g => some (Instr.sra h g)) (SR.ofWord_pack _ f))
theorem min (h : Head) (f : SR) : Statement (.min h f) := by
  intro x w e
  cases e
  exact read h 0x11 f.pack _ (congrArg (fun g => some (Instr.min h g)) (SR.ofWord_pack _ f))
theorem max (h : Head) (f : SR) : Statement (.max h f) := by
  intro x w e
  cases e
  exact read h 0x12 f.pack _ (congrArg (fun g => some (Instr.max h g)) (SR.ofWord_pack _ f))
theorem minn (h : Head) (f : SR) : Statement (.minn h f) := by
  intro x w e
  cases e
  exact read h 0x13 f.pack _ (congrArg (fun g => some (Instr.minn h g)) (SR.ofWord_pack _ f))
theorem maxn (h : Head) (f : SR) : Statement (.maxn h f) := by
  intro x w e
  cases e
  exact read h 0x14 f.pack _ (congrArg (fun g => some (Instr.maxn h g)) (SR.ofWord_pack _ f))
theorem seq (h : Head) (f : SR) : Statement (.seq h f) := by
  intro x w e
  cases e
  exact read h 0x15 f.pack _ (congrArg (fun g => some (Instr.seq h g)) (SR.ofWord_pack _ f))
theorem sne (h : Head) (f : SR) : Statement (.sne h f) := by
  intro x w e
  cases e
  exact read h 0x16 f.pack _ (congrArg (fun g => some (Instr.sne h g)) (SR.ofWord_pack _ f))
theorem slt (h : Head) (f : SR) : Statement (.slt h f) := by
  intro x w e
  cases e
  exact read h 0x17 f.pack _ (congrArg (fun g => some (Instr.slt h g)) (SR.ofWord_pack _ f))
theorem sltn (h : Head) (f : SR) : Statement (.sltn h f) := by
  intro x w e
  cases e
  exact read h 0x18 f.pack _ (congrArg (fun g => some (Instr.sltn h g)) (SR.ofWord_pack _ f))
theorem sel (h : Head) (f : SR) : Statement (.sel h f) := by
  intro x w e
  cases e
  exact read h 0x19 f.pack _ (congrArg (fun g => some (Instr.sel h g)) (SR.ofWord_pack _ f))
theorem clz (h : Head) (f : SR) : Statement (.clz h f) := by
  intro x w e
  cases e
  exact read h 0x1A f.pack _ (congrArg (fun g => some (Instr.clz h g)) (SR.ofWord_pack _ f))
theorem popc (h : Head) (f : SR) : Statement (.popc h f) := by
  intro x w e
  cases e
  exact read h 0x1B f.pack _ (congrArg (fun g => some (Instr.popc h g)) (SR.ofWord_pack _ f))
theorem addi (h : Head) (f : SI) : Statement (.addi h f) := by
  intro x w e
  cases e
  exact read h 0x20 f.pack _ (congrArg (fun g => some (Instr.addi h g)) (SI.ofWord_pack _ f))
theorem andi (h : Head) (f : SI) : Statement (.andi h f) := by
  intro x w e
  cases e
  exact read h 0x21 f.pack _ (congrArg (fun g => some (Instr.andi h g)) (SI.ofWord_pack _ f))
theorem ori (h : Head) (f : SI) : Statement (.ori h f) := by
  intro x w e
  cases e
  exact read h 0x22 f.pack _ (congrArg (fun g => some (Instr.ori h g)) (SI.ofWord_pack _ f))
theorem xori (h : Head) (f : SI) : Statement (.xori h f) := by
  intro x w e
  cases e
  exact read h 0x23 f.pack _ (congrArg (fun g => some (Instr.xori h g)) (SI.ofWord_pack _ f))
theorem shli (h : Head) (f : SI) : Statement (.shli h f) := by
  intro x w e
  cases e
  exact read h 0x24 f.pack _ (congrArg (fun g => some (Instr.shli h g)) (SI.ofWord_pack _ f))
theorem shri (h : Head) (f : SI) : Statement (.shri h f) := by
  intro x w e
  cases e
  exact read h 0x25 f.pack _ (congrArg (fun g => some (Instr.shri h g)) (SI.ofWord_pack _ f))
theorem srai (h : Head) (f : SI) : Statement (.srai h f) := by
  intro x w e
  cases e
  exact read h 0x26 f.pack _ (congrArg (fun g => some (Instr.srai h g)) (SI.ofWord_pack _ f))
theorem slti (h : Head) (f : SI) : Statement (.slti h f) := by
  intro x w e
  cases e
  exact read h 0x27 f.pack _ (congrArg (fun g => some (Instr.slti h g)) (SI.ofWord_pack _ f))
theorem sltni (h : Head) (f : SI) : Statement (.sltni h f) := by
  intro x w e
  cases e
  exact read h 0x28 f.pack _ (congrArg (fun g => some (Instr.sltni h g)) (SI.ofWord_pack _ f))
theorem li (h : Head) (f : SI) : Statement (.li h f) := by
  intro x w e
  cases e
  exact read h 0x29 f.pack _ (congrArg (fun g => some (Instr.li h g)) (SI.ofWord_pack _ f))
theorem lih (h : Head) (f : SI) : Statement (.lih h f) := by
  intro x w e
  cases e
  exact read h 0x2A f.pack _ (congrArg (fun g => some (Instr.lih h g)) (SI.ofWord_pack _ f))
theorem addx (h : Head) (f : SI) : Statement (.addx h f) := by
  intro x w e
  cases e
  exact read h 0x2C f.pack _ (congrArg (fun g => some (Instr.addx h g)) (SI.ofWord_pack _ f))
theorem lds (h : Head) (f : SI) : Statement (.lds h f) := by
  intro x w e
  cases e
  exact read h 0x2D f.pack _ (congrArg (fun g => some (Instr.lds h g)) (SI.ofWord_pack _ f))
theorem sts (h : Head) (f : SI) : Statement (.sts h f) := by
  intro x w e
  cases e
  exact read h 0x2E f.pack _ (congrArg (fun g => some (Instr.sts h g)) (SI.ofWord_pack _ f))
theorem mpw (h : Head) (f : SR) : Statement (.mpw h f) := by
  intro x w e
  cases e
  exact read h 0x2F f.pack _ (congrArg (fun g => some (Instr.mpw h g)) (SR.ofWord_pack _ f))
theorem br (h : Head) (f : BR) : Statement (.br h f) := by
  intro x w e
  cases e
  exact read h 0x30 f.pack _ (congrArg (fun g => some (Instr.br h g)) (BR.ofWord_pack _ f))
theorem jmp (h : Head) (f : BR) : Statement (.jmp h f) := by
  intro x w e
  cases e
  exact read h 0x31 f.pack _ (congrArg (fun g => some (Instr.jmp h g)) (BR.ofWord_pack _ f))
theorem jmpr (h : Head) (f : BR) : Statement (.jmpr h f) := by
  intro x w e
  cases e
  exact read h 0x32 f.pack _ (congrArg (fun g => some (Instr.jmpr h g)) (BR.ofWord_pack _ f))
theorem call (h : Head) (f : BR) : Statement (.call h f) := by
  intro x w e
  cases e
  exact read h 0x33 f.pack _ (congrArg (fun g => some (Instr.call h g)) (BR.ofWord_pack _ f))
theorem callr (h : Head) (f : BR) : Statement (.callr h f) := by
  intro x w e
  cases e
  exact read h 0x34 f.pack _ (congrArg (fun g => some (Instr.callr h g)) (BR.ofWord_pack _ f))
theorem ret (h : Head) (f : BR) : Statement (.ret h f) := by
  intro x w e
  cases e
  exact read h 0x35 f.pack _ (congrArg (fun g => some (Instr.ret h g)) (BR.ofWord_pack _ f))
theorem loop (h : Head) (f : BR) : Statement (.loop h f) := by
  intro x w e
  cases e
  exact read h 0x36 f.pack _ (congrArg (fun g => some (Instr.loop h g)) (BR.ofWord_pack _ f))
theorem lpset (h : Head) (f : BR) : Statement (.lpset h f) := by
  intro x w e
  cases e
  exact read h 0x37 f.pack _ (congrArg (fun g => some (Instr.lpset h g)) (BR.ofWord_pack _ f))
theorem yld (h : Head) (f : BR) : Statement (.yld h f) := by
  intro x w e
  cases e
  exact read h 0x38 f.pack _ (congrArg (fun g => some (Instr.yld h g)) (BR.ofWord_pack _ f))
theorem endOp (h : Head) (f : BR) : Statement (.endOp h f) := by
  intro x w e
  cases e
  exact read h 0x39 f.pack _ (congrArg (fun g => some (Instr.endOp h g)) (BR.ofWord_pack _ f))
theorem csrr (h : Head) (f : XF) : Statement (.csrr h f) := by
  intro x w e
  cases e
  exact read h 0x40 f.pack _ (congrArg (fun g => some (Instr.csrr h g)) (XF.ofWord_pack _ f))
theorem csrw (h : Head) (f : XF) : Statement (.csrw h f) := by
  intro x w e
  cases e
  exact read h 0x41 f.pack _ (congrArg (fun g => some (Instr.csrw h g)) (XF.ofWord_pack _ f))
theorem csrs (h : Head) (f : XF) : Statement (.csrs h f) := by
  intro x w e
  cases e
  exact read h 0x42 f.pack _ (congrArg (fun g => some (Instr.csrs h g)) (XF.ofWord_pack _ f))
theorem csrc (h : Head) (f : XF) : Statement (.csrc h f) := by
  intro x w e
  cases e
  exact read h 0x43 f.pack _ (congrArg (fun g => some (Instr.csrc h g)) (XF.ofWord_pack _ f))
theorem trap (h : Head) (f : XF) : Statement (.trap h f) := by
  intro x w e
  cases e
  exact read h 0x44 f.pack _ (congrArg (fun g => some (Instr.trap h g)) (XF.ofWord_pack _ f))
theorem eret (h : Head) (f : XF) : Statement (.eret h f) := by
  intro x w e
  cases e
  exact read h 0x45 f.pack _ (congrArg (fun g => some (Instr.eret h g)) (XF.ofWord_pack _ f))
theorem chk (h : Head) (f : SR) : Statement (.chk h f) := by
  intro x w e
  cases e
  exact read h 0x46 f.pack _ (congrArg (fun g => some (Instr.chk h g)) (SR.ofWord_pack _ f))
theorem tbr (h : Head) (f : XF) : Statement (.tbr h f) := by
  intro x w e
  cases e
  exact read h 0x47 f.pack _ (congrArg (fun g => some (Instr.tbr h g)) (XF.ofWord_pack _ f))
theorem clkd (h : Head) (f : XF) : Statement (.clkd h f) := by
  intro x w e
  cases e
  exact read h 0x50 f.pack _ (congrArg (fun g => some (Instr.clkd h g)) (XF.ofWord_pack _ f))
theorem clke (h : Head) (f : XF) : Statement (.clke h f) := by
  intro x w e
  cases e
  exact read h 0x51 f.pack _ (congrArg (fun g => some (Instr.clke h g)) (XF.ofWord_pack _ f))
theorem when (h : Head) (f : V2) : Statement (.when h f) := by
  intro x w e
  cases e
  exact read h 0x52 f.pack _ (congrArg (fun g => some (Instr.when h g)) (V2.ofWord_pack _ f))
theorem mrg (h : Head) (f : V3) : Statement (.mrg h f) := by
  intro x w e
  cases e
  exact read h 0x53 f.pack _ (congrArg (fun g => some (Instr.mrg h g)) (V3.ofWord_pack _ f))
theorem pmrg (h : Head) (f : V2) : Statement (.pmrg h f) := by
  intro x w e
  cases e
  exact read h 0x54 f.pack _ (congrArg (fun g => some (Instr.pmrg h g)) (V2.ofWord_pack _ f))
theorem dlyr (h : Head) (f : SR) : Statement (.dlyr h f) := by
  intro x w e
  cases e
  exact read h 0x55 f.pack _ (congrArg (fun g => some (Instr.dlyr h g)) (SR.ofWord_pack _ f))
theorem dlyw (h : Head) (f : SR) : Statement (.dlyw h f) := by
  intro x w e
  cases e
  exact read h 0x56 f.pack _ (congrArg (fun g => some (Instr.dlyw h g)) (SR.ofWord_pack _ f))
theorem inst (h : Head) (f : XF) : Statement (.inst h f) := by
  intro x w e
  cases e
  exact read h 0x57 f.pack _ (congrArg (fun g => some (Instr.inst h g)) (XF.ofWord_pack _ f))
theorem chrd (h : Head) (f : WF) : Statement (.chrd h f) := by
  intro x w e
  cases e
  exact read h 0x58 f.pack _ (congrArg (fun g => some (Instr.chrd h g)) (WF.ofWord_pack _ f))
theorem chrdy (h : Head) (f : WF) : Statement (.chrdy h f) := by
  intro x w e
  cases e
  exact read h 0x59 f.pack _ (congrArg (fun g => some (Instr.chrdy h g)) (WF.ofWord_pack _ f))
theorem chwr (h : Head) (f : WF) : Statement (.chwr h f) := by
  intro x w e
  cases e
  exact read h 0x5A f.pack _ (congrArg (fun g => some (Instr.chwr h g)) (WF.ofWord_pack _ f))
theorem absn (h : Head) (f : XF) : Statement (.absn h f) := by
  intro x w e
  cases e
  exact read h 0x5B f.pack _ (congrArg (fun g => some (Instr.absn h g)) (XF.ofWord_pack _ f))
theorem bara (h : Head) (f : WF) : Statement (.bara h f) := by
  intro x w e
  cases e
  exact read h 0x60 f.pack _ (congrArg (fun g => some (Instr.bara h g)) (WF.ofWord_pack _ f))
theorem barw (h : Head) (f : WF) : Statement (.barw h f) := by
  intro x w e
  cases e
  exact read h 0x61 f.pack _ (congrArg (fun g => some (Instr.barw h g)) (WF.ofWord_pack _ f))
theorem bar (h : Head) (f : WF) : Statement (.bar h f) := by
  intro x w e
  cases e
  exact read h 0x62 f.pack _ (congrArg (fun g => some (Instr.bar h g)) (WF.ofWord_pack _ f))
theorem barx (h : Head) (f : WF) : Statement (.barx h f) := by
  intro x w e
  cases e
  exact read h 0x63 f.pack _ (congrArg (fun g => some (Instr.barx h g)) (WF.ofWord_pack _ f))
theorem ltar (h : Head) (f : WF) : Statement (.ltar h f) := by
  intro x w e
  cases e
  exact read h 0x64 f.pack _ (congrArg (fun g => some (Instr.ltar h g)) (WF.ofWord_pack _ f))
theorem ltin (h : Head) (f : WF) : Statement (.ltin h f) := by
  intro x w e
  cases e
  exact read h 0x65 f.pack _ (congrArg (fun g => some (Instr.ltin h g)) (WF.ofWord_pack _ f))
theorem ltwt (h : Head) (f : WF) : Statement (.ltwt h f) := by
  intro x w e
  cases e
  exact read h 0x66 f.pack _ (congrArg (fun g => some (Instr.ltwt h g)) (WF.ofWord_pack _ f))
theorem drn (h : Head) (f : WF) : Statement (.drn h f) := by
  intro x w e
  cases e
  exact read h 0x67 f.pack _ (congrArg (fun g => some (Instr.drn h g)) (WF.ofWord_pack _ f))
theorem waitc (h : Head) (f : WF) : Statement (.waitc h f) := by
  intro x w e
  cases e
  exact read h 0x68 f.pack _ (congrArg (fun g => some (Instr.waitc h g)) (WF.ofWord_pack _ f))
theorem sleep (h : Head) (f : WF) : Statement (.sleep h f) := by
  intro x w e
  cases e
  exact read h 0x69 f.pack _ (congrArg (fun g => some (Instr.sleep h g)) (WF.ofWord_pack _ f))
theorem pwra (h : Head) (f : WF) : Statement (.pwra h f) := by
  intro x w e
  cases e
  exact read h 0x6A f.pack _ (congrArg (fun g => some (Instr.pwra h g)) (WF.ofWord_pack _ f))
theorem pwrr (h : Head) (f : WF) : Statement (.pwrr h f) := by
  intro x w e
  cases e
  exact read h 0x6B f.pack _ (congrArg (fun g => some (Instr.pwrr h g)) (WF.ofWord_pack _ f))
theorem cpost (h : Head) (f : WF) : Statement (.cpost h f) := by
  intro x w e
  cases e
  exact read h 0x6C f.pack _ (congrArg (fun g => some (Instr.cpost h g)) (WF.ofWord_pack _ f))
theorem aadd (h : Head) (f : SR) : Statement (.aadd h f) := by
  intro x w e
  cases e
  exact read h 0x70 f.pack _ (congrArg (fun g => some (Instr.aadd h g)) (SR.ofWord_pack _ f))
theorem amin (h : Head) (f : SR) : Statement (.amin h f) := by
  intro x w e
  cases e
  exact read h 0x71 f.pack _ (congrArg (fun g => some (Instr.amin h g)) (SR.ofWord_pack _ f))
theorem amax (h : Head) (f : SR) : Statement (.amax h f) := by
  intro x w e
  cases e
  exact read h 0x72 f.pack _ (congrArg (fun g => some (Instr.amax h g)) (SR.ofWord_pack _ f))
theorem aand (h : Head) (f : SR) : Statement (.aand h f) := by
  intro x w e
  cases e
  exact read h 0x73 f.pack _ (congrArg (fun g => some (Instr.aand h g)) (SR.ofWord_pack _ f))
theorem aor (h : Head) (f : SR) : Statement (.aor h f) := by
  intro x w e
  cases e
  exact read h 0x74 f.pack _ (congrArg (fun g => some (Instr.aor h g)) (SR.ofWord_pack _ f))
theorem axor (h : Head) (f : SR) : Statement (.axor h f) := by
  intro x w e
  cases e
  exact read h 0x75 f.pack _ (congrArg (fun g => some (Instr.axor h g)) (SR.ofWord_pack _ f))
theorem aaddr (h : Head) (f : SR) : Statement (.aaddr h f) := by
  intro x w e
  cases e
  exact read h 0x76 f.pack _ (congrArg (fun g => some (Instr.aaddr h g)) (SR.ofWord_pack _ f))
theorem axch (h : Head) (f : SR) : Statement (.axch h f) := by
  intro x w e
  cases e
  exact read h 0x77 f.pack _ (congrArg (fun g => some (Instr.axch h g)) (SR.ofWord_pack _ f))
theorem acas (h : Head) (f : SR) : Statement (.acas h f) := by
  intro x w e
  cases e
  exact read h 0x78 f.pack _ (congrArg (fun g => some (Instr.acas h g)) (SR.ofWord_pack _ f))
theorem vadd (h : Head) (f : V2) : Statement (.vadd h f) := by
  intro x w e
  cases e
  exact read h 0x80 f.pack _ (congrArg (fun g => some (Instr.vadd h g)) (V2.ofWord_pack _ f))
theorem vsub (h : Head) (f : V2) : Statement (.vsub h f) := by
  intro x w e
  cases e
  exact read h 0x81 f.pack _ (congrArg (fun g => some (Instr.vsub h g)) (V2.ofWord_pack _ f))
theorem vmul (h : Head) (f : V2) : Statement (.vmul h f) := by
  intro x w e
  cases e
  exact read h 0x82 f.pack _ (congrArg (fun g => some (Instr.vmul h g)) (V2.ofWord_pack _ f))
theorem vfma (h : Head) (f : V3) : Statement (.vfma h f) := by
  intro x w e
  cases e
  exact read h 0x83 f.pack _ (congrArg (fun g => some (Instr.vfma h g)) (V3.ofWord_pack _ f))
theorem vfms (h : Head) (f : V3) : Statement (.vfms h f) := by
  intro x w e
  cases e
  exact read h 0x84 f.pack _ (congrArg (fun g => some (Instr.vfms h g)) (V3.ofWord_pack _ f))
theorem vmin (h : Head) (f : V2) : Statement (.vmin h f) := by
  intro x w e
  cases e
  exact read h 0x85 f.pack _ (congrArg (fun g => some (Instr.vmin h g)) (V2.ofWord_pack _ f))
theorem vmax (h : Head) (f : V2) : Statement (.vmax h f) := by
  intro x w e
  cases e
  exact read h 0x86 f.pack _ (congrArg (fun g => some (Instr.vmax h g)) (V2.ofWord_pack _ f))
theorem vabs (h : Head) (f : V2) : Statement (.vabs h f) := by
  intro x w e
  cases e
  exact read h 0x87 f.pack _ (congrArg (fun g => some (Instr.vabs h g)) (V2.ofWord_pack _ f))
theorem vneg (h : Head) (f : V2) : Statement (.vneg h f) := by
  intro x w e
  cases e
  exact read h 0x88 f.pack _ (congrArg (fun g => some (Instr.vneg h g)) (V2.ofWord_pack _ f))
theorem vcmp (h : Head) (f : V2) : Statement (.vcmp h f) := by
  intro x w e
  cases e
  exact read h 0x89 f.pack _ (congrArg (fun g => some (Instr.vcmp h g)) (V2.ofWord_pack _ f))
theorem vsel (h : Head) (f : V3) : Statement (.vsel h f) := by
  intro x w e
  cases e
  exact read h 0x8A f.pack _ (congrArg (fun g => some (Instr.vsel h g)) (V3.ofWord_pack _ f))
theorem vcvt (h : Head) (f : V2) : Statement (.vcvt h f) := by
  intro x w e
  cases e
  exact read h 0x8B f.pack _ (congrArg (fun g => some (Instr.vcvt h g)) (V2.ofWord_pack _ f))
theorem vrnd (h : Head) (f : V2) : Statement (.vrnd h f) := by
  intro x w e
  cases e
  exact read h 0x8C f.pack _ (congrArg (fun g => some (Instr.vrnd h g)) (V2.ofWord_pack _ f))
theorem vdiv (h : Head) (f : V2) : Statement (.vdiv h f) := by
  intro x w e
  cases e
  exact read h 0x8D f.pack _ (congrArg (fun g => some (Instr.vdiv h g)) (V2.ofWord_pack _ f))
theorem vsqrt (h : Head) (f : V2) : Statement (.vsqrt h f) := by
  intro x w e
  cases e
  exact read h 0x8E f.pack _ (congrArg (fun g => some (Instr.vsqrt h g)) (V2.ofWord_pack _ f))
theorem vrcp (h : Head) (f : V2) : Statement (.vrcp h f) := by
  intro x w e
  cases e
  exact read h 0x8F f.pack _ (congrArg (fun g => some (Instr.vrcp h g)) (V2.ofWord_pack _ f))
theorem vrsq (h : Head) (f : V2) : Statement (.vrsq h f) := by
  intro x w e
  cases e
  exact read h 0x90 f.pack _ (congrArg (fun g => some (Instr.vrsq h g)) (V2.ofWord_pack _ f))
theorem vex2 (h : Head) (f : V2) : Statement (.vex2 h f) := by
  intro x w e
  cases e
  exact read h 0x91 f.pack _ (congrArg (fun g => some (Instr.vex2 h g)) (V2.ofWord_pack _ f))
theorem vlg2 (h : Head) (f : V2) : Statement (.vlg2 h f) := by
  intro x w e
  cases e
  exact read h 0x92 f.pack _ (congrArg (fun g => some (Instr.vlg2 h g)) (V2.ofWord_pack _ f))
theorem vtnh (h : Head) (f : V2) : Statement (.vtnh h f) := by
  intro x w e
  cases e
  exact read h 0x93 f.pack _ (congrArg (fun g => some (Instr.vtnh h g)) (V2.ofWord_pack _ f))
theorem viadd (h : Head) (f : V2) : Statement (.viadd h f) := by
  intro x w e
  cases e
  exact read h 0x94 f.pack _ (congrArg (fun g => some (Instr.viadd h g)) (V2.ofWord_pack _ f))
theorem visub (h : Head) (f : V2) : Statement (.visub h f) := by
  intro x w e
  cases e
  exact read h 0x95 f.pack _ (congrArg (fun g => some (Instr.visub h g)) (V2.ofWord_pack _ f))
theorem vimul (h : Head) (f : V2) : Statement (.vimul h f) := by
  intro x w e
  cases e
  exact read h 0x96 f.pack _ (congrArg (fun g => some (Instr.vimul h g)) (V2.ofWord_pack _ f))
theorem vand (h : Head) (f : V2) : Statement (.vand h f) := by
  intro x w e
  cases e
  exact read h 0x97 f.pack _ (congrArg (fun g => some (Instr.vand h g)) (V2.ofWord_pack _ f))
theorem vor (h : Head) (f : V2) : Statement (.vor h f) := by
  intro x w e
  cases e
  exact read h 0x98 f.pack _ (congrArg (fun g => some (Instr.vor h g)) (V2.ofWord_pack _ f))
theorem vxor (h : Head) (f : V2) : Statement (.vxor h f) := by
  intro x w e
  cases e
  exact read h 0x99 f.pack _ (congrArg (fun g => some (Instr.vxor h g)) (V2.ofWord_pack _ f))
theorem vshl (h : Head) (f : V2) : Statement (.vshl h f) := by
  intro x w e
  cases e
  exact read h 0x9A f.pack _ (congrArg (fun g => some (Instr.vshl h g)) (V2.ofWord_pack _ f))
theorem vshr (h : Head) (f : V2) : Statement (.vshr h f) := by
  intro x w e
  cases e
  exact read h 0x9B f.pack _ (congrArg (fun g => some (Instr.vshr h g)) (V2.ofWord_pack _ f))
theorem vsra (h : Head) (f : V2) : Statement (.vsra h f) := by
  intro x w e
  cases e
  exact read h 0x9C f.pack _ (congrArg (fun g => some (Instr.vsra h g)) (V2.ofWord_pack _ f))
theorem vimin (h : Head) (f : V2) : Statement (.vimin h f) := by
  intro x w e
  cases e
  exact read h 0x9D f.pack _ (congrArg (fun g => some (Instr.vimin h g)) (V2.ofWord_pack _ f))
theorem vimax (h : Head) (f : V2) : Statement (.vimax h f) := by
  intro x w e
  cases e
  exact read h 0x9E f.pack _ (congrArg (fun g => some (Instr.vimax h g)) (V2.ofWord_pack _ f))
theorem vclz (h : Head) (f : V2) : Statement (.vclz h f) := by
  intro x w e
  cases e
  exact read h 0x9F f.pack _ (congrArg (fun g => some (Instr.vclz h g)) (V2.ofWord_pack _ f))
theorem vpopc (h : Head) (f : V2) : Statement (.vpopc h f) := by
  intro x w e
  cases e
  exact read h 0xA0 f.pack _ (congrArg (fun g => some (Instr.vpopc h g)) (V2.ofWord_pack _ f))
theorem vclmp (h : Head) (f : V3) : Statement (.vclmp h f) := by
  intro x w e
  cases e
  exact read h 0xA1 f.pack _ (congrArg (fun g => some (Instr.vclmp h g)) (V3.ofWord_pack _ f))
theorem vbcst (h : Head) (f : V2) : Statement (.vbcst h f) := by
  intro x w e
  cases e
  exact read h 0xA2 f.pack _ (congrArg (fun g => some (Instr.vbcst h g)) (V2.ofWord_pack _ f))
theorem vperm (h : Head) (f : V2) : Statement (.vperm h f) := by
  intro x w e
  cases e
  exact read h 0xA3 f.pack _ (congrArg (fun g => some (Instr.vperm h g)) (V2.ofWord_pack _ f))
theorem vshf (h : Head) (f : V2) : Statement (.vshf h f) := by
  intro x w e
  cases e
  exact read h 0xA4 f.pack _ (congrArg (fun g => some (Instr.vshf h g)) (V2.ofWord_pack _ f))
theorem vrsum (h : Head) (f : V2) : Statement (.vrsum h f) := by
  intro x w e
  cases e
  exact read h 0xA5 f.pack _ (congrArg (fun g => some (Instr.vrsum h g)) (V2.ofWord_pack _ f))
theorem vrmax (h : Head) (f : V2) : Statement (.vrmax h f) := by
  intro x w e
  cases e
  exact read h 0xA6 f.pack _ (congrArg (fun g => some (Instr.vrmax h g)) (V2.ofWord_pack _ f))
theorem vscan (h : Head) (f : V2) : Statement (.vscan h f) := by
  intro x w e
  cases e
  exact read h 0xA7 f.pack _ (congrArg (fun g => some (Instr.vscan h g)) (V2.ofWord_pack _ f))
theorem vqnt (h : Head) (f : V2) : Statement (.vqnt h f) := by
  intro x w e
  cases e
  exact read h 0xA8 f.pack _ (congrArg (fun g => some (Instr.vqnt h g)) (V2.ofWord_pack _ f))
theorem vdqnt (h : Head) (f : V2) : Statement (.vdqnt h f) := by
  intro x w e
  cases e
  exact read h 0xA9 f.pack _ (congrArg (fun g => some (Instr.vdqnt h g)) (V2.ofWord_pack _ f))
theorem veps (h : Head) (f : V3) : Statement (.veps h f) := by
  intro x w e
  cases e
  exact read h 0xAA f.pack _ (congrArg (fun g => some (Instr.veps h g)) (V3.ofWord_pack _ f))
theorem vmov (h : Head) (f : V2) : Statement (.vmov h f) := by
  intro x w e
  cases e
  exact read h 0xAB f.pack _ (congrArg (fun g => some (Instr.vmov h g)) (V2.ofWord_pack _ f))
theorem vli (h : Head) (f : VI) : Statement (.vli h f) := by
  intro x w e
  cases e
  exact read h 0xAC f.pack _ (congrArg (fun g => some (Instr.vli h g)) (VI.ofWord_pack _ f))
theorem vcfg (h : Head) (f : VI) : Statement (.vcfg h f) := by
  intro x w e
  cases e
  exact read h 0xAD f.pack _ (congrArg (fun g => some (Instr.vcfg h g)) (VI.ofWord_pack _ f))
theorem vchk (h : Head) (f : V2) : Statement (.vchk h f) := by
  intro x w e
  cases e
  exact read h 0xAE f.pack _ (congrArg (fun g => some (Instr.vchk h g)) (V2.ofWord_pack _ f))
theorem mcall (h : Head) (f : MF) : Statement (.mcall h f) := by
  intro x w e
  cases e
  exact read h 0xB0 f.pack _ (congrArg (fun g => some (Instr.mcall h g)) (MF.ofWord_pack _ f))
theorem mcfg (h : Head) (f : MF) : Statement (.mcfg h f) := by
  intro x w e
  cases e
  exact read h 0xB1 f.pack _ (congrArg (fun g => some (Instr.mcfg h g)) (MF.ofWord_pack _ f))
theorem mzro (h : Head) (f : MF) : Statement (.mzro h f) := by
  intro x w e
  cases e
  exact read h 0xB2 f.pack _ (congrArg (fun g => some (Instr.mzro h g)) (MF.ofWord_pack _ f))
theorem mact (h : Head) (f : MF) : Statement (.mact h f) := by
  intro x w e
  cases e
  exact read h 0xB3 f.pack _ (congrArg (fun g => some (Instr.mact h g)) (MF.ofWord_pack _ f))
theorem mstp (h : Head) (f : MF) : Statement (.mstp h f) := by
  intro x w e
  cases e
  exact read h 0xB4 f.pack _ (congrArg (fun g => some (Instr.mstp h g)) (MF.ofWord_pack _ f))
theorem mrtn (h : Head) (f : MF) : Statement (.mrtn h f) := by
  intro x w e
  cases e
  exact read h 0xB5 f.pack _ (congrArg (fun g => some (Instr.mrtn h g)) (MF.ofWord_pack _ f))
theorem tld (h : Head) (f : CF) : Statement (.tld h f) := by
  intro x w e
  cases e
  exact read h 0xC0 f.pack _ (congrArg (fun g => some (Instr.tld h g)) (CF.ofWord_pack _ f))
theorem tst (h : Head) (f : CF) : Statement (.tst h f) := by
  intro x w e
  cases e
  exact read h 0xC1 f.pack _ (congrArg (fun g => some (Instr.tst h g)) (CF.ofWord_pack _ f))
theorem tldw (h : Head) (f : CF) : Statement (.tldw h f) := by
  intro x w e
  cases e
  exact read h 0xC2 f.pack _ (congrArg (fun g => some (Instr.tldw h g)) (CF.ofWord_pack _ f))
theorem cpy (h : Head) (f : CF) : Statement (.cpy h f) := by
  intro x w e
  cases e
  exact read h 0xC3 f.pack _ (congrArg (fun g => some (Instr.cpy h g)) (CF.ofWord_pack _ f))
theorem cpyq (h : Head) (f : CF) : Statement (.cpyq h f) := by
  intro x w e
  cases e
  exact read h 0xC4 f.pack _ (congrArg (fun g => some (Instr.cpyq h g)) (CF.ofWord_pack _ f))
theorem gath (h : Head) (f : CF) : Statement (.gath h f) := by
  intro x w e
  cases e
  exact read h 0xC5 f.pack _ (congrArg (fun g => some (Instr.gath h g)) (CF.ofWord_pack _ f))
theorem scat (h : Head) (f : CF) : Statement (.scat h f) := by
  intro x w e
  cases e
  exact read h 0xC6 f.pack _ (congrArg (fun g => some (Instr.scat h g)) (CF.ofWord_pack _ f))
theorem mcst (h : Head) (f : CF) : Statement (.mcst h f) := by
  intro x w e
  cases e
  exact read h 0xC7 f.pack _ (congrArg (fun g => some (Instr.mcst h g)) (CF.ofWord_pack _ f))
theorem rpkt (h : Head) (f : CF) : Statement (.rpkt h f) := by
  intro x w e
  cases e
  exact read h 0xC8 f.pack _ (congrArg (fun g => some (Instr.rpkt h g)) (CF.ofWord_pack _ f))
theorem rrcv (h : Head) (f : WF) : Statement (.rrcv h f) := by
  intro x w e
  cases e
  exact read h 0xC9 f.pack _ (congrArg (fun g => some (Instr.rrcv h g)) (WF.ofWord_pack _ f))
theorem pfch (h : Head) (f : CF) : Statement (.pfch h f) := by
  intro x w e
  cases e
  exact read h 0xCA f.pack _ (congrArg (fun g => some (Instr.pfch h g)) (CF.ofWord_pack _ f))
theorem flsh (h : Head) (f : CF) : Statement (.flsh h f) := by
  intro x w e
  cases e
  exact read h 0xCB f.pack _ (congrArg (fun g => some (Instr.flsh h g)) (CF.ofWord_pack _ f))
theorem stickyReissue a0 : Statement (.stickyReissue a0) := by intro x w e; cases e
theorem vwlPresetLoad a0 a1 : Statement (.vwlPresetLoad a0 a1) := by intro x w e; cases e
theorem viewRegisterWrite a0 a1 a2 a3 : Statement (.viewRegisterWrite a0 a1 a2 a3) := by intro x w e; cases e
theorem tstatWrite a0 a1 a2 : Statement (.tstatWrite a0 a1 a2) := by intro x w e; cases e
theorem prdWrite a0 a1 a2 : Statement (.prdWrite a0 a1 a2) := by intro x w e; cases e
theorem pmevWrite a0 a1 a2 : Statement (.pmevWrite a0 a1 a2) := by intro x w e; cases e
theorem pmcWrite a0 a1 a2 a3 : Statement (.pmcWrite a0 a1 a2 a3) := by intro x w e; cases e
theorem registerWrite a0 a1 a2 a3 : Statement (.registerWrite a0 a1 a2 a3) := by intro x w e; cases e
theorem cprRequest a0 a1 : Statement (.cprRequest a0 a1) := by intro x w e; cases e
theorem heldRequestStart a0 : Statement (.heldRequestStart a0) := by intro x w e; cases e
theorem voltageStep a0 : Statement (.voltageStep a0) := by intro x w e; cases e
theorem frequencyStep a0 : Statement (.frequencyStep a0) := by intro x w e; cases e
theorem tthWrite a0 a1 : Statement (.tthWrite a0 a1) := by intro x w e; cases e
theorem calWrite a0 a1 : Statement (.calWrite a0 a1) := by intro x w e; cases e
theorem grantStep a0 : Statement (.grantStep a0) := by intro x w e; cases e
theorem waitResolve a0 : Statement (.waitResolve a0) := by intro x w e; cases e
theorem deadlineExpiry a0 : Statement (.deadlineExpiry a0) := by intro x w e; cases e
theorem markerDeadlineExpiry a0 : Statement (.markerDeadlineExpiry a0) := by intro x w e; cases e
theorem promise a0 : Statement (.promise a0) := by intro x w e; cases e
theorem copyCompletion a0 a1 : Statement (.copyCompletion a0 a1) := by intro x w e; cases e
theorem copyFault a0 a1 : Statement (.copyFault a0 a1) := by intro x w e; cases e
theorem loadDataArrival a0 a1 : Statement (.loadDataArrival a0 a1) := by intro x w e; cases e
theorem storePerform a0 a1 : Statement (.storePerform a0 a1) := by intro x w e; cases e
theorem tldwBlockWrite a0 a1 : Statement (.tldwBlockWrite a0 a1) := by intro x w e; cases e
theorem vectorResultWrite a0 : Statement (.vectorResultWrite a0) := by intro x w e; cases e
theorem routineStart a0 : Statement (.routineStart a0) := by intro x w e; cases e
theorem sequencerStep a0 : Statement (.sequencerStep a0) := by intro x w e; cases e
theorem routineEnd a0 : Statement (.routineEnd a0) := by intro x w e; cases e
theorem mzroWrite a0 : Statement (.mzroWrite a0) := by intro x w e; cases e
theorem barrierCompletion a0 : Statement (.barrierCompletion a0) := by intro x w e; cases e
theorem memberResume a0 : Statement (.memberResume a0) := by intro x w e; cases e
theorem staleReclaim a0 : Statement (.staleReclaim a0) := by intro x w e; cases e
theorem latchArrival a0 a1 : Statement (.latchArrival a0 a1) := by intro x w e; cases e
theorem cellStamp a0 a1 : Statement (.cellStamp a0 a1) := by intro x w e; cases e
theorem channelEntryMove a0 a1 a2 : Statement (.channelEntryMove a0 a1 a2) := by intro x w e; cases e
theorem conflictEntryConfirm a0 a1 : Statement (.conflictEntryConfirm a0 a1) := by intro x w e; cases e
theorem conflictSpill a0 a1 : Statement (.conflictSpill a0 a1) := by intro x w e; cases e
theorem supervisorResume a0 : Statement (.supervisorResume a0) := by intro x w e; cases e
theorem endTeam a0 a1 : Statement (.endTeam a0 a1) := by intro x w e; cases e
theorem coldtxtService a0 a1 a2 : Statement (.coldtxtService a0 a1 a2) := by intro x w e; cases e
theorem memue a0 a1 a2 : Statement (.memue a0 a1 a2) := by intro x w e; cases e
theorem frameRetire a0 a1 a2 : Statement (.frameRetire a0 a1 a2) := by intro x w e; cases e
theorem yieldRequest a0 a1 : Statement (.yieldRequest a0 a1) := by intro x w e; cases e
theorem yieldDeadlineExpiry a0 : Statement (.yieldDeadlineExpiry a0) := by intro x w e; cases e
theorem preEmption a0 : Statement (.preEmption a0) := by intro x w e; cases e
theorem swapIn a0 : Statement (.swapIn a0) := by intro x w e; cases e
theorem residency a0 : Statement (.residency a0) := by intro x w e; cases e
theorem quantumExpiry a0 : Statement (.quantumExpiry a0) := by intro x w e; cases e
theorem parkReclaim a0 : Statement (.parkReclaim a0) := by intro x w e; cases e
theorem teamCompletion a0 : Statement (.teamCompletion a0) := by intro x w e; cases e
theorem instantClose a0 : Statement (.instantClose a0) := by intro x w e; cases e
theorem kernelBoundary a0 : Statement (.kernelBoundary a0) := by intro x w e; cases e
theorem commandArrival a0 a1 : Statement (.commandArrival a0 a1) := by intro x w e; cases e
theorem launch a0 : Statement (.launch a0) := by intro x w e; cases e
theorem copy a0 : Statement (.copy a0) := by intro x w e; cases e
theorem signal a0 : Statement (.signal a0) := by intro x w e; cases e
theorem wait a0 : Statement (.wait a0) := by intro x w e; cases e
theorem loadFolio a0 : Statement (.loadFolio a0) := by intro x w e; cases e
theorem unloadFolio a0 : Statement (.unloadFolio a0) := by intro x w e; cases e
theorem powerCap a0 : Statement (.powerCap a0) := by intro x w e; cases e
theorem queryIdentity a0 : Statement (.queryIdentity a0) := by intro x w e; cases e
theorem queryQueueState a0 : Statement (.queryQueueState a0) := by intro x w e; cases e
theorem queryCounts a0 : Statement (.queryCounts a0) := by intro x w e; cases e
theorem commandCompletion a0 : Statement (.commandCompletion a0) := by intro x w e; cases e
theorem copyQueueServe a0 : Statement (.copyQueueServe a0) := by intro x w e; cases e
theorem nodeOperandArrival a0 : Statement (.nodeOperandArrival a0) := by intro x w e; cases e
theorem rootDelivery a0 a1 : Statement (.rootDelivery a0 a1) := by intro x w e; cases e
theorem cancelRequest a0 a1 : Statement (.cancelRequest a0 a1) := by intro x w e; cases e
theorem collectivePacket a0 a1 : Statement (.collectivePacket a0 a1) := by intro x w e; cases e
theorem windowSample a0 : Statement (.windowSample a0) := by intro x w e; cases e
theorem hostWriteCompletion a0 a1 : Statement (.hostWriteCompletion a0 a1) := by intro x w e; cases e
theorem pageInvalidation a0 a1 a2 a3 : Statement (.pageInvalidation a0 a1 a2 a3) := by intro x w e; cases e
theorem regionInstall a0 a1 : Statement (.regionInstall a0 a1) := by intro x w e; cases e
theorem formatRegionWrite a0 a1 a2 : Statement (.formatRegionWrite a0 a1 a2) := by intro x w e; cases e
theorem sidebandRead a0 a1 : Statement (.sidebandRead a0 a1) := by intro x w e; cases e
theorem uetRmaAccess a0 a1 a2 a3 : Statement (.uetRmaAccess a0 a1 a2 a3) := by intro x w e; cases e
theorem portDown a0 : Statement (.portDown a0) := by intro x w e; cases e
theorem portUp a0 : Statement (.portUp a0) := by intro x w e; cases e
theorem queueConfiguration a0 a1 a2 a3 a4 : Statement (.queueConfiguration a0 a1 a2 a3 a4) := by intro x w e; cases e
theorem contextDescriptorWrite a0 a1 : Statement (.contextDescriptorWrite a0 a1) := by intro x w e; cases e
theorem copyResumption a0 a1 : Statement (.copyResumption a0 a1) := by intro x w e; cases e
theorem supervisorTrapEntry a0 : Statement (.supervisorTrapEntry a0) := by intro x w e; cases e
theorem atomicPerform a0 a1 : Statement (.atomicPerform a0 a1) := by intro x w e; cases e
theorem illegalOpcode a0 a1 : Statement (.illegalOpcode a0 a1) := by intro x w e; cases e
theorem sensorPoll : Statement (.sensorPoll) := by intro x w e; cases e
theorem dispatchStep : Statement (.dispatchStep) := by intro x w e; cases e
theorem coldStart : Statement (.coldStart) := by intro x w e; cases e
theorem warmStart : Statement (.warmStart) := by intro x w e; cases e

end Laws.Encoding
end Sys2Proof
end

