-- ==== Sys2Proof/Laws/Scalar.lean ====
section
/-! SUPPORT. Laws of the operations whose sources are scalar registers and whose effects stay in their core: what one of
them, alone in its bundle, leaves behind. -/
namespace Sys2Proof.Machine

/-- A commit's last step moves the core on and touches only its place, its re-issue words and its counters. -/
theorem Core.settle_spec (w : Waiting) (k : Core) :
    (Core.settle w k).ctl.pc = w.next ∧ (Core.settle w k).ctl.rep = w.rep ∧ (Core.settle w k).ctl.wait = none ∧
    (Core.settle w k).ctl.mode = k.ctl.mode ∧ (Core.settle w k).ctl.team = k.ctl.team ∧ (Core.settle w k).ctl.owed = k.ctl.owed ∧
    (Core.settle w k).ctl.level = k.ctl.level ∧ (Core.settle w k).ctl.seq = k.ctl.seq ∧
    (Core.settle w k).mx = k.mx ∧ (Core.settle w k).l1 = k.l1 ∧ (Core.settle w k).wbuf = k.wbuf ∧
    (Core.settle w k).flights = k.flights ∧ (Core.settle w k).copies = k.copies ∧
    (Core.settle w k).regs.s = k.regs.s ∧ (Core.settle w k).regs.stag = k.regs.stag ∧ (Core.settle w k).regs.rs = k.regs.rs ∧
    (Core.settle w k).regs.gtag = k.regs.gtag ∧ (Core.settle w k).regs.cells = k.regs.cells ∧
    (Core.settle w k).regs.clocks = k.regs.clocks ∧ (Core.settle w k).regs.latch = k.regs.latch := by
  have h : ∀ (l : List (Nat × Word × Nat)) (k : Core), (l.foldl (fun k x => k.setWord x.1 x.2.1 x.2.2) k).ctl = k.ctl ∧
      (l.foldl (fun k x => k.setWord x.1 x.2.1 x.2.2) k).mx = k.mx ∧ (l.foldl (fun k x => k.setWord x.1 x.2.1 x.2.2) k).l1 = k.l1 ∧
      (l.foldl (fun k x => k.setWord x.1 x.2.1 x.2.2) k).wbuf = k.wbuf ∧
      (l.foldl (fun k x => k.setWord x.1 x.2.1 x.2.2) k).flights = k.flights ∧
      (l.foldl (fun k x => k.setWord x.1 x.2.1 x.2.2) k).copies = k.copies ∧
      (l.foldl (fun k x => k.setWord x.1 x.2.1 x.2.2) k).regs.s = k.regs.s ∧
      (l.foldl (fun k x => k.setWord x.1 x.2.1 x.2.2) k).regs.stag = k.regs.stag ∧
      (l.foldl (fun k x => k.setWord x.1 x.2.1 x.2.2) k).regs.rs = k.regs.rs ∧
      (l.foldl (fun k x => k.setWord x.1 x.2.1 x.2.2) k).regs.gtag = k.regs.gtag ∧
      (l.foldl (fun k x => k.setWord x.1 x.2.1 x.2.2) k).regs.cells = k.regs.cells ∧
      (l.foldl (fun k x => k.setWord x.1 x.2.1 x.2.2) k).regs.clocks = k.regs.clocks ∧
      (l.foldl (fun k x => k.setWord x.1 x.2.1 x.2.2) k).regs.latch = k.regs.latch := by
    intro l
    induction l with
    | nil => intro k; simp
    | cons e r ih => intro k; rw [List.foldl_cons]; simpa using ih (k.setWord e.1 e.2.1 e.2.2)
  obtain ⟨h1, h2, h3, h4, h5, h6, h7, h8, h9, h10, h11, h12, h13⟩ := h w.steps k
  unfold Core.settle
  simp [h1, h2, h3, h4, h5, h6, h7, h8, h9, h10, h11, h12, h13]
/-- No control register changes at a commit's last step. -/
theorem Core.settle_csr (w : Waiting) (k : Core) (n : Nat) : (Core.settle w k).csr n = k.csr n := by
  have hf : ∀ (l : List (Nat × Word × Nat)) (k : Core), (l.foldl (fun k x => k.setWord x.1 x.2.1 x.2.2) k).csr n = k.csr n := by
    intro l
    induction l with
    | nil => intro k; rfl
    | cons e r ih => intro k; rw [List.foldl_cons, ih]; rfl
  unfold Core.settle
  rw [Core.csr_perf, Core.csr_perf]
  exact hf w.steps k
theorem Core.settle_sreg (w : Waiting) (k : Core) (n : Nat) :
    (Core.settle w k).sreg n = k.sreg n ∧ (Core.settle w k).stag n = k.stag n := by
  obtain ⟨_, _, _, _, _, _, _, _, _, _, _, _, _, h1, h2, _⟩ := Core.settle_spec w k
  simp [Core.sreg, Core.stag, h1, h2]

/-- The operation that issues alone reads its sources from scalar registers: no head is named and nothing fails to read. -/
theorem scalar_sources {i : Instr} {s : State} {x : Slot} {w : Word} {l : List Nat} (hs : (slotOp i).srcs = l.map Src.s) :
    headsRead (s.prepared i) s.turn [s.soleOp i x w] = [] ∧ headsNamed (s.prepared i) s.turn [s.soleOp i x w] = [] ∧
    ((s.soleOp i x w).vals (s.prepared i) s.turn).findSome? (fun v => v.err) = none := by
  have hvals := SlotOp.vals_scalar (s.soleOp i x w) (s.prepared i) s.turn l hs
  have h0 : ∀ v ∈ (s.soleOp i x w).vals (s.prepared i) s.turn, v.head = none := by
    rw [hvals]; intro v hv; obtain ⟨n, _, rfl⟩ := List.mem_map.1 hv; rfl
  have hn : ∀ l, (∀ y ∈ l, y = s.soleOp i x w) → headsNamed (s.prepared i) s.turn l = [] := by
    intro l hl
    unfold headsNamed
    rw [List.eq_nil_iff_forall_not_mem]
    intro a ha
    simp only [List.mem_eraseDups, List.mem_flatMap, List.mem_filterMap] at ha
    obtain ⟨y, hy, v, hv, h⟩ := ha
    rw [hl y hy] at hv
    rw [h0 v hv] at h; exact absurd h (by simp)
  refine ⟨hn _ (by simp), hn _ (by simp), ?_⟩
  · rw [hvals, List.findSome?_eq_none_iff]; intro v hv; obtain ⟨n, _, rfl⟩ := List.mem_map.1 hv; rfl

/-- Where no head is named, no slot fails for one (R310). -/
theorem clashes_none {s : State} {c : Nat} {x : SlotOp} (h : headsNamed s c [x] = []) : clashes s c [x] = [] := by
  unfold clashes
  have : headsNamed s c ([x].filter fun y => !y.op.nop) = [] := by
    cases hx : x.op.nop <;> simp [hx, h] ; simp [headsNamed]
  rw [this]; rfl
/-- The record of an issue by itself: what it does, and where the core goes. -/
theorem soleRecord {i : Instr} {s s2 : State} {x : Slot} {w : Word} {o : Out} (hp : (slotOp i).pre ((s.prepared i).core s.turn) 0 = [])
    (hj : o.jump = none) :
    ((s.prepared i).issueRecord s.turn s.soleFrame [s.soleOp i x w] { s := s2, outs := [(s.soleOp i x w, o)] }).effs =
      [(x.ix, bits w.toNat 55 51, o.effs)] ∧
    ((s.prepared i).issueRecord s.turn s.soleFrame [s.soleOp i x w] { s := s2, outs := [(s.soleOp i x w, o)] }).next =
      s.soleFrame.h + 16 ∧
    ((s.prepared i).issueRecord s.turn s.soleFrame [s.soleOp i x w] { s := s2, outs := [(s.soleOp i x w, o)] }).rep = 0 := by
  have hpre : (s.soleOp i x w).op.pre ((s.prepared i).core s.turn) (s.soleOp i x w).ix = [] := hp
  refine ⟨?_, ?_, ?_⟩
  · simp [State.issueRecord, hpre]; exact ⟨rfl, rfl⟩
  · simp [State.issueRecord, hj, State.soleFrame]
  · simp [State.issueRecord, hj, State.soleFrame]

/-- An operation of the S slot on scalar registers that leaves the machine to its commit: the commit applies its effects,
and the core moves on. -/
theorem exec_scalar {i : Instr} {s : State} {w : Word} {l : List Nat} {es : List Eff} (hx : exec i s = issueOne i (slotOp i) s)
    (hc : s.clears i = true) (he : encode i = some (.s, w)) (hn : (slotOp i).nop = false) (hs : (slotOp i).srcs = l.map Src.s)
    (ht : (slotOp i).transfer = false) (hp : (slotOp i).pre ((s.prepared i).core s.turn) 0 = [])
    (hb : ∀ ctx, ctx.c = s.turn → (slotOp i).body ctx (l.map fun n => { val := ((s.issuer i).sreg n).toNat, tag := (s.issuer i).stag n }) (s.prepared i) =
      .ok (s.prepared i) { effs := es })
    (hpl : ∀ e ∈ es, e.plain = true) (hct : ∀ e ∈ es, e.countClass = none) :
    exec i s = .next ((applyAll s.turn (guardOf i) ((s.prepared i).cycleOf s.turn) es
      ((((s.prepared i).noteLead s.turn 0).onCore s.turn (Core.noteIssue ((s.prepared i).cycleOf s.turn)
        (issueWeight (s.issuer i) [s.soleOp i .s w]))))).onCore s.turn
      (Core.settle ((s.prepared i).issueRecord s.turn s.soleFrame [s.soleOp i .s w]
        { s := s.prepared i, outs := [(s.soleOp i .s w, { effs := es })] }))) := by
  obtain ⟨hheads, hnamed, herr⟩ := scalar_sources (s := s) (x := .s) (w := w) hs
  have hvals := SlotOp.vals_scalar (s.soleOp i .s w) (s.prepared i) s.turn l hs
  have hso : s.soleOut i .s w { effs := es } = { effs := es } := by
    have hl : ∀ vs, latchLoads (s.soleOp i .s w) vs = [] := fun vs => rfl
    simp [State.soleOut, hl, hheads]
  have hfin := exec_issue (s2 := s.prepared i) (o := { effs := es }) hx hc he hn herr (by rw [hvals]; exact hb _ rfl)
    (clashes_none hnamed) (by rw [hso]; exact Core.overLimit_none (by simpa using hct))
    (State.gangDiffers_none _ _ _ _ ht)
  rw [hso] at hfin
  rw [hfin]
  obtain ⟨heffs, _, _⟩ := soleRecord (s := s) (s2 := s.prepared i) (x := .s) (w := w) (o := { effs := es }) hp rfl
  rw [State.finishIssue_plain (by simp) (by simp [State.issueRecord, changedRecords]) (by rw [heffs]; simpa using hpl), heffs]
  have hto : ((s.prepared i).transferOutcome s.turn [(s.soleOp i .s w, ({ effs := es } : Out))]).getD 0 = 0 := by
    have : (s.soleOp i .s w).op.transfer = false := ht
    simp [State.transferOutcome, this]
  have hg : guardOf i = bits w.toNat 55 51 := by simp [guardOf, he]
  have hd : ∀ t : State, t.slotDone s.turn ((s.prepared i).cycleOf s.turn) [] (Slot.ix .s, bits w.toNat 55 51, es) =
      applyAll s.turn (bits w.toNat 55 51) ((s.prepared i).cycleOf s.turn) es t := fun _ => rfl
  have hbe : ∀ t : State, t.settledBefore s.turn ((s.prepared i).issueRecord s.turn s.soleFrame [s.soleOp i .s w]
      { s := s.prepared i, outs := [(s.soleOp i .s w, { effs := es })] }) (Slot.ix .s) = [] := by
    intro t; simp [State.settledBefore, heffs]
  simp only [hbe, hd, List.foldl_nil, List.foldl_cons, hto, hg, State.issuer]

/-- The core of an issue before its effects: a note of the issue has been made, and everything else is as it was. -/
theorem noted_core (s : State) (c n wt code : Nat) :
    ∃ f g, ((s.noteLead c code).onCore c (Core.noteIssue n wt)).core c =
      { s.core c with ctl := { (s.core c).ctl with window := f, issued := (s.core c).ctl.issued + 1, ltins := [], did := 1, glog := g } } := by
  rw [State.core_onCore, if_pos rfl]
  unfold State.noteLead
  simp only []
  split
  · exact ⟨_, _, rfl⟩
  · rw [State.core_onCore]
    split
    · next h => rw [← h]; exact ⟨_, _, rfl⟩
    · exact ⟨_, _, rfl⟩
/-- Only the head's stale cells go before the steps of R97: the cores stand as they landed. -/
theorem State.discardStale_cores (s : State) (key ic n : Nat) : (s.discardStale key ic n).2.cores = s.cores := by
  induction n generalizing s with
  | zero => rfl
  | succ n ih =>
    unfold State.discardStale
    split
    · rfl
    · split
      · simp only [ih]
        unfold State.consumeCell
        split <;> rfl
      · rfl
theorem State.freshenHead_cores (s : State) (c ix : Nat) (x : Src) : (s.freshenHead c ix x).cores = s.cores := by
  unfold State.freshenHead
  simp only []
  split <;> (try rfl) <;> (split <;> (try rfl) <;> (split <;> (try rfl) <;> (split <;> (try rfl); exact State.discardStale_cores ..)))
theorem State.freshenOps_cores (s : State) (c : Nat) (ops : List SlotOp) : (s.freshenOps c ops).cores = s.cores := by
  unfold State.freshenOps
  generalize ops.filter _ = l
  induction l generalizing s with
  | nil => rfl
  | cons x r ih =>
    rw [List.foldl_cons, ih]
    generalize x.op.srcs = q
    induction q generalizing s with
    | nil => rfl
    | cons y q ih' => rw [List.foldl_cons, ih', State.freshenHead_cores]
theorem State.prepared_core {s : State} {i : Instr} {x : Slot} {w : Word} (he : encode i = some (x, w)) (c : Nat) :
    (s.prepared i).core c = s.landed.core c := by
  simp [State.prepared, he, State.core, State.freshenOps_cores]

/-! What stays of a core: the pieces of which every frame is put together. -/

theorem CoreKept.refl (k : Core) : CoreKept k k := ⟨fun _ => rfl, rfl, rfl, rfl, rfl, rfl, rfl, rfl, rfl, rfl, rfl, rfl⟩
theorem CoreKept.trans {a b c : Core} (h : CoreKept a b) (h' : CoreKept b c) : CoreKept a c :=
  ⟨fun n => (h'.csr n).trans (h.csr n), h'.rs.trans h.rs, h'.gtag.trans h.gtag, h'.cells.trans h.cells,
    h'.clocks.trans h.clocks, h'.mx.trans h.mx, h'.l1.trans h.l1, h'.wbuf.trans h.wbuf, h'.copies.trans h.copies,
    h'.team.trans h.team, h'.owed.trans h.owed, h'.level.trans h.level⟩
theorem CoreKept.settle (w : Waiting) (k : Core) : CoreKept k (Core.settle w k) := by
  obtain ⟨_, _, _, _, h5, h6, h7, _, h9, h10, h11, _, h13, _, _, h16, h17, h18, h19, _⟩ := Core.settle_spec w k
  exact ⟨Core.settle_csr w k, h16, h17, h18, h19, h9, h10, h11, h13, h5, h6, h7⟩
theorem CoreKept.setS (k : Core) (n : Nat) (x : Word) (t : Nat) : CoreKept k (k.setS n x t) :=
  ⟨fun _ => by simp [Core.csr], by simp, by simp, by simp, by simp, by simp, by simp, by simp, by simp, by simp, by simp, by simp⟩
theorem CoreKept.writeS (k : Core) (n : Nat) (x : Word) (t : Nat) : CoreKept k (k.writeS n x t) :=
  (show CoreKept k { k with flights := killScalar k.flights n k.ctl.seq } from
    ⟨fun _ => rfl, rfl, rfl, rfl, rfl, rfl, rfl, rfl, rfl, rfl, rfl, rfl⟩).trans (.setS ..)
theorem CoreKept.launch (k : Core) (g : Nat) (w : Flying) : CoreKept k (k.launch g w) :=
  ⟨fun _ => rfl, rfl, rfl, rfl, rfl, rfl, rfl, rfl, rfl, rfl, rfl, rfl⟩
/-- An issue that has been noted: nothing of the core but the note has changed. -/
structure Noted (k k' : Core) : Prop where
  kept : CoreKept k k'
  regs : k'.regs = k.regs
  flights : k'.flights = k.flights
  seq : k'.ctl.seq = k.ctl.seq
  mode : k'.ctl.mode = k.ctl.mode
theorem noted (s : State) (c n wt code : Nat) :
    Noted (s.core c) (((s.noteLead c code).onCore c (Core.noteIssue n wt)).core c) := by
  obtain ⟨f, g, h⟩ := noted_core s c n wt code
  rw [h]
  exact ⟨⟨fun _ => rfl, rfl, rfl, rfl, rfl, rfl, rfl, rfl, rfl, rfl, rfl, rfl⟩, rfl, rfl, rfl, rfl⟩
/-- The core after an issue by itself stands behind its bundle. -/
theorem movedOn_settle {i : Instr} {s s2 : State} {x : Slot} {w : Word} {o : Out} {k : Core} (he : encode i = some (x, w))
    (hp : (slotOp i).pre ((s.prepared i).core s.turn) 0 = []) (hj : o.jump = none) (hm : k.ctl.mode = (s.issuer i).ctl.mode) :
    MovedOn (s.issuer i) (Core.settle ((s.prepared i).issueRecord s.turn s.soleFrame [s.soleOp i x w]
      { s := s2, outs := [(s.soleOp i x w, o)] }) k) := by
  obtain ⟨_, h1, h2⟩ := soleRecord (s := s) (s2 := s2) (x := x) (w := w) (o := o) hp hj
  obtain ⟨a1, a2, a3, a4, _⟩ := Core.settle_spec ((s.prepared i).issueRecord s.turn s.soleFrame [s.soleOp i x w]
      { s := s2, outs := [(s.soleOp i x w, o)] }) k
  refine ⟨?_, a2.trans h2, a3, a4.trans hm⟩
  rw [a1, h1, State.soleFrame, State.issuer, State.prepared_core he]

end Sys2Proof.Machine
end

