-- ==== Sys2Proof/Tests/Slice0.lean ====
section
/-! SUPPORT. Tests: words decoded as the spec's encodings say, ill-formed operations refused, results of the spec's worked
examples, and for every statement states that meet its hypotheses. -/
namespace Sys2Proof.Tests
open Sys2Proof.Machine Sys2Proof.Claims
set_option Elab.async false

/-- Core 0 about to issue an operation alone in its bundle. -/
def at_ (i : Instr) : State :=
  match encode i with
  | some (x, w) => { State.reset.withText x w with agenda := [] }
  | none => State.reset
def hd (x : Slot) : Head := { slot := x, gk := 0, gs := 0 }
def hS : Head := hd .s
def hV : Head := hd .v0
def hM : Head := hd .m
def hC : Head := hd .c0
def fR (sd sa sb : BitVec 6) : SR := { sd, sa, sb, sc := 0, fn := 0, lo := 0 }
def fI (sd sa : BitVec 6) (fn : BitVec 4) (imm : BitVec 32) : SI := { sd, sa, fn, imm }
def fB (sa : BitVec 6) (cc : BitVec 3) (ex : BitVec 7) (imm : BitVec 32) : BR := { sa, cc, ex, imm }
def fX (sd sa : BitVec 6) (csr : BitVec 12) (imm : BitVec 24) : XF := { sd, sa, csr, imm }
def fW (st : BitVec 6) (dl : BitVec 8) (sa sb : BitVec 6) (imm : BitVec 21) : WF := { st, dl, esc := 0, sa, sb, imm }
def f2 (vd va vb : BitVec 12) (fp : BitVec 2) (fn : BitVec 5) : V2 := { vd, va, vb, fp, ha := 0, hb := 0, rm := 0, fn }
def f3 (vd va vb : BitVec 12) (fp : BitVec 2) (vc : BitVec 9) : V3 := { vd, va, vb, fp, ha := 0, vc }
def fC (rr : BitVec 12) (sa sb sc sd : BitVec 6) (sz : BitVec 4) : CF :=
  { rr, sa, sb, sc, sd, hr := 0, sco := 0, sz, bypass := 0, noAlloc := 0, lo := 0 }
def fM (ri : BitVec 8) (rr : BitVec 12) (sa : BitVec 6) : MF :=
  { ri, acc := 0, pert := 0, trb := 0, bias := 0, act := 0, atab := 0, rq := 0, rr, sa, sb := 0, lo := 0 }
/-- Scalar registers, control registers and words of memory take values; core 0 has another control state. -/
def regs (l : List (Nat × Word)) (s : State) : State := s.onCore 0 fun k => l.foldl (fun k r => k.setS r.1 r.2 31) k
def csrs (l : List (Nat × Word)) (s : State) : State := s.onCore 0 fun k => l.foldl (fun k r => k.setCsr r.1 r.2) k
def words (l : List (Nat × Word)) (s : State) : State :=
  { s with mem := Memory.writeCells s.mem (l.flatMap fun r => cellsOf r.1 8 r.2.toNat) }
def ctl (f : Ctl → Ctl) (s : State) : State := s.onCore 0 fun k => { k with ctl := f k.ctl }
/-- A page at 64 GiB maps the first page of core 0's own scratchpad. -/
def padVa : Nat := 0x1000000000
def pad (s : State) : State := s.mapPage 0 padVa (pteOf (spadBase 0 / 65536) 2 true true true false)
/-- What a result holds where it is one. -/
def got {ε α : Type} (e : Except ε α) (d : α) : α := match e with | .ok a => a | .error _ => d

/-! Ill-formed operations: one for each check of the fields. -/
theorem test_scalar_forms : ([.add hS { fR 5 4 3 with sc := 1 }, .add hS { fR 5 4 3 with fn := 1 }, .add hS { fR 5 4 3 with lo := 1 },
    .sel hS { fR 5 4 3 with fn := 1 }, .sel hS { fR 5 4 3 with lo := 1 }, .clz hS (fR 5 4 3), .addi hS (fI 5 4 1 0), .shli hS (fI 5 4 0 64),
    .li hS (fI 5 4 0 0), .lds hS (fI 5 4 1 0), .lds hS (fI 5 4 14 0), .sts hS (fI 5 4 1 0), .sts hS (fI 5 4 2 0), .mpw hS (fR 8 4 0),
    .mpw hS (fR 0 4 1), .br hS (fB 4 6 0 0), .br hS (fB 4 0 1 0), .jmp hS (fB 1 0 0 0), .jmp hS (fB 0 1 0 0), .jmp hS (fB 0 0 1 0),
    .jmpr hS (fB 4 0 0 1), .jmpr hS (fB 4 1 0 0), .callr hS (fB 4 0 1 0), .ret hS (fB 1 0 0 0), .ret hS (fB 0 0 0 1), .loop hS (fB 1 0 0 0),
    .lpset hS (fB 4 0 0 0), .lpset hS (fB 4 0 8 0), .lpset hS (fB 4 1 1 0), .yld hS (fB 0 0 0 1), .endOp hS (fB 0 0 1 0)] : List Instr).all
    (fun i => !i.formOk) = true := by decide
theorem test_system_forms : ([.csrr hS (fX 5 1 0 0), .csrr hS (fX 5 0 0 1), .csrr hS (fX 5 0 0x005 0), .csrw hS (fX 1 4 0x020 0),
    .trap hS (fX 1 0 0 0), .trap hS (fX 0 1 0 0), .trap hS (fX 0 0 1 0), .eret hS (fX 0 0 0 1), .chk hS (fR 1 4 3), .tbr hS (fX 5 1 0 0),
    .clkd hS (fX 1 0 0 0x20400), .clkd hS (fX 0 0 1 0x20400), .clkd hS (fX 0 0 0 0x00400), .clkd hS (fX 0 0 0 0x20000), .clkd hS (fX 0 0 0 0xC20400),
    .clke hS (fX 0 0 0 32), .clke hS (fX 1 0 0 2), .dlyr hS (fR 5 3 1), .dlyw hS (fR 1 3 4), .inst hS (fX 0 0 0 1),
    .chrd hC (fW 9 63 0 0 0), .chrd hC (fW 9 0 1 0 0), .chrd hC (fW 9 0 0 1 0), .chrd hC (fW 9 0 0 0 0x100000), .chrdy hC (fW 9 0 0 0 1),
    .absn hS (fX 0 0 0 256), .bara hS (fW 1 0 5 0 0x80), .bara hS (fW 0 1 5 0 0x80), .barw hS (fW 9 0 5 1 0x80), .barw hS (fW 9 0 5 0 0x100),
    .barw hS (fW 9 0 5 0 0x30), .ltar hS (fW 0 0 0 0 7), .ltar hS (fW 0 0 0 0 0x4107), .ltin hS (fW 0 0 0 0 0x100), .ltwt hS (fW 9 0 1 0 7),
    .drn hS (fW 9 0 0 0 0xD), .drn hS (fW 9 0 0 0 0), .drn hS (fW 9 0 0 0 0x88), .waitc hS (fW 9 0 1 0 0), .sleep hS (fW 0 0 4 0 1), .pwra hS (fW 9 0 0 0 8),
    .pwrr hS (fW 0 0 0 0 1), .cpost hS (fW 9 0 4 3 0x1000), .aadd hS { fR 0 4 3 with fn := 1 }, .aadd hS { fR 0 4 3 with fn := 0xA2 },
    .aadd hS { fR 0 4 3 with fn := 6 }, .amin hS { fR 0 4 3 with fn := 2 }, .aadd hS { fR 1 4 3 with fn := 2 }] : List Instr).all
    (fun i => !i.formOk) = true := by decide
theorem test_vector_forms : ([.when hV (f2 1 2 3 0 0), .when hV (f2 1 2 0 0 1), .mrg hV (f3 1 2 3 0 0x40), .pmrg hV (f2 1 2 3 1 0),
    .vadd hV { f2 1 2 3 0 0 with rm := 5 }, .vadd hV (f2 1 2 3 0 1), .vabs hV (f2 1 2 3 0 0), .vabs hV { f2 1 2 0 0 0 with hb := 1 },
    .vcmp hV (f2 1 2 3 0 7), .vcmp hV { f2 1 2 3 0 0 with rm := 1 }, .viadd hV { f2 1 2 3 0 0 with rm := 1 }, .vand hV (f2 1 2 3 1 0),
    .vshl hV (f2 1 2 3 0 1), .vbcst hV (f2 1 0x040 0 0 0), .vbcst hV { f2 1 2 0 0 0 with ha := 1 }, .vshf hV (f2 1 2 3 0 4),
    .vperm hV (f2 1 2 3 0 1), .vrsum hV (f2 1 2 0 0 1), .vrsum hV { f2 1 2 0 0 0 with rm := 5 }, .vqnt hV { f2 1 2 0 0 0 with rm := 1 },
    .vdqnt hV { f2 1 2 0 0 0 with rm := 5 }, .veps hV (f3 1 0x040 3 0 4), .veps hV (f3 1 2 3 1 4), .vmov hV (f2 1 2 0 1 0),
    .vli hV { vd := 1, imm := 0, fp := 0, lo := 1 }, .vcfg hV { vd := 1, imm := 0, fp := 0, lo := 0 }, .vcfg hV { vd := 0, imm := 0x0C000000, fp := 0, lo := 0 },
    .vchk hV (f2 1 2 3 0 0)] : List Instr).all (fun i => !i.formOk) = true := by decide
theorem test_engine_forms : ([.mcall hM (fM 3 1 0), .mcall hM (fM 3 0 1), .mcall hM { fM 3 0 0 with atab := 1 }, .mcfg hM (fM 1 0 0),
    .mcfg hM { fM 0 0 4 with acc := 1 }, .mzro hM (fM 0 1 4), .mact hM (fM 4 1 0), .mstp hM (fM 0 1 4), .mrtn hM (fM 0 1 4),
    .tld hC { fC 1 4 0 0 0 0 with lo := 1 }, .tld hC { fC 1 4 0 0 0 0 with sco := 1 }, .tld hC { fC 1 4 0 0 0 0 with hr := 1 }, .tld hC (fC 1 4 0 0 6 0),
    .tld hC (fC 1 4 3 0 0 0), .tld hC (fC 1 4 0 0 0 2), .tst hC (fC 1 4 0 0 6 0), .tldw hC (fC 1 4 3 2 0 0), .cpy hC (fC 0x040 4 3 2 6 0),
    .cpyq hC (fC 1 4 3 0 6 0), .gath hC (fC 1 4 0 0 0 2), .scat hC (fC 1 4 0 0 6 0), .mcst hC (fC 1 4 0 0 0 1), .rpkt hC (fC 1 4 3 0 0 0),
    .rrcv hC (fW 9 0 4 1 1), .rrcv hC (fW 9 0 4 0 0x1000), .pfch hC { fC 0 4 0 0 0 0 with sco := 2 }, .pfch hC (fC 1 4 0 0 0 0),
    .flsh hC (fC 0 4 3 0 0 0), .illegalOpcode hS 0x1C00000000000000] : List Instr).all (fun i => !i.formOk) = true := by decide
/-- An operation outside the slots of its class (R95). -/
theorem test_wrong_slot : decodeSlot .v0 0x0100000000000000 = .error .illslot ∧ decodeSlot .s 0x8000000000000000 = .error .illslot ∧
    decodeSlot .v0 0xB000038000000000 = .error .illslot ∧ decodeSlot .m 0xC000200100000000 = .error .illslot := by decide
/-! Every opcode: a word written out from the fields of R84-R95, under guard k21 and stage predicate p6, and the operation it
stands for. -/
def zSR : SR := { sd := 0, sa := 0, sb := 0, sc := 0, fn := 0, lo := 0 }
def zSI : SI := { sd := 0, sa := 0, fn := 0, imm := 0 }
def zBR : BR := { sa := 0, cc := 0, ex := 0, imm := 0 }
def zV2 : V2 := { vd := 0, va := 0, vb := 0, fp := 0, ha := 0, hb := 0, rm := 0, fn := 0 }
def zV3 : V3 := { vd := 0, va := 0, vb := 0, fp := 0, ha := 0, vc := 0 }
def zVI : VI := { vd := 0, imm := 0, fp := 0, lo := 0 }
def zM : MF := { ri := 0, acc := 0, pert := 0, trb := 0, bias := 0, act := 0, atab := 0, rq := 0, rr := 0, sa := 0, sb := 0, lo := 0 }
def zC : CF := { rr := 0, sa := 0, sb := 0, sc := 0, sd := 0, hr := 0, sco := 0, sz := 0, bypass := 0, noAlloc := 0, lo := 0 }
def zW : WF := { st := 0, dl := 0, esc := 0, sa := 0, sb := 0, imm := 0 }
def zX : XF := { sd := 0, sa := 0, csr := 0, imm := 0 }
def gs : Head := { slot := .s, gk := 21, gs := 6 }
def gv0 : Head := { slot := .v0, gk := 21, gs := 6 }
def gv1 : Head := { slot := .v1, gk := 21, gs := 6 }
def gm : Head := { slot := .m, gk := 21, gs := 6 }
def gc0 : Head := { slot := .c0, gk := 21, gs := 6 }
def gc1 : Head := { slot := .c1, gk := 21, gs := 6 }
def reads (l : List (Slot × Word × Instr)) : Bool :=
  l.all fun q => match decodeSlot q.1 q.2.1 with | .ok i => decide (i = q.2.2) | .error _ => false
theorem test_decode_nop : reads [(.s, 0, .nop .s 0), (.m, 0x00FFFFFFFFFFFFFF, .nop .m 0xFFFFFFFFFFFFFF)] = true := by decide +kernel
theorem test_decode_registers : reads [
    (.s, 0x01AE8521C0000000, .add gs { zSR with sd := 33, sa := 18, sb := 7 }),
    (.s, 0x02AE8521C0000000, .sub gs { zSR with sd := 33, sa := 18, sb := 7 }),
    (.s, 0x03AE8521C0000000, .mul gs { zSR with sd := 33, sa := 18, sb := 7 }),
    (.s, 0x04AE8521C0000000, .mulh gs { zSR with sd := 33, sa := 18, sb := 7 }),
    (.s, 0x05AE8521C0000000, .mulhn gs { zSR with sd := 33, sa := 18, sb := 7 }),
    (.s, 0x06AE8521C0000000, .div gs { zSR with sd := 33, sa := 18, sb := 7 }),
    (.s, 0x07AE8521C0000000, .divn gs { zSR with sd := 33, sa := 18, sb := 7 }),
    (.s, 0x08AE8521C0000000, .rem gs { zSR with sd := 33, sa := 18, sb := 7 }),
    (.s, 0x09AE8521C0000000, .remn gs { zSR with sd := 33, sa := 18, sb := 7 }),
    (.s, 0x0AAE8521C0000000, .and gs { zSR with sd := 33, sa := 18, sb := 7 }),
    (.s, 0x0BAE8521C0000000, .or gs { zSR with sd := 33, sa := 18, sb := 7 }),
    (.s, 0x0CAE8521C0000000, .xor gs { zSR with sd := 33, sa := 18, sb := 7 }),
    (.s, 0x0DAE8521C0000000, .andn gs { zSR with sd := 33, sa := 18, sb := 7 }),
    (.s, 0x0EAE8521C0000000, .shl gs { zSR with sd := 33, sa := 18, sb := 7 }),
    (.s, 0x0FAE8521C0000000, .shr gs { zSR with sd := 33, sa := 18, sb := 7 }),
    (.s, 0x10AE8521C0000000, .sra gs { zSR with sd := 33, sa := 18, sb := 7 }),
    (.s, 0x11AE8521C0000000, .min gs { zSR with sd := 33, sa := 18, sb := 7 }),
    (.s, 0x12AE8521C0000000, .max gs { zSR with sd := 33, sa := 18, sb := 7 }),
    (.s, 0x13AE8521C0000000, .minn gs { zSR with sd := 33, sa := 18, sb := 7 }),
    (.s, 0x14AE8521C0000000, .maxn gs { zSR with sd := 33, sa := 18, sb := 7 }),
    (.s, 0x15AE8521C0000000, .seq gs { zSR with sd := 33, sa := 18, sb := 7 }),
    (.s, 0x16AE8521C0000000, .sne gs { zSR with sd := 33, sa := 18, sb := 7 }),
    (.s, 0x17AE8521C0000000, .slt gs { zSR with sd := 33, sa := 18, sb := 7 }),
    (.s, 0x18AE8521C0000000, .sltn gs { zSR with sd := 33, sa := 18, sb := 7 }),
    (.s, 0x19AE8521F4000000, .sel gs { zSR with sd := 33, sa := 18, sb := 7, sc := 52 }),
    (.s, 0x1AAE852000000000, .clz gs { zSR with sd := 33, sa := 18 }), (.s, 0x1BAE852000000000, .popc gs { zSR with sd := 33, sa := 18 })] = true := by decide +kernel
theorem test_decode_immediates : reads [
    (.s, 0x20AE323089ABCDEF, .addi gs { zSI with sd := 12, sa := 35, imm := 0x89ABCDEF }),
    (.s, 0x21AE323089ABCDEF, .andi gs { zSI with sd := 12, sa := 35, imm := 0x89ABCDEF }),
    (.s, 0x22AE323089ABCDEF, .ori gs { zSI with sd := 12, sa := 35, imm := 0x89ABCDEF }),
    (.s, 0x23AE323089ABCDEF, .xori gs { zSI with sd := 12, sa := 35, imm := 0x89ABCDEF }),
    (.s, 0x24AE32300000003F, .shli gs { zSI with sd := 12, sa := 35, imm := 63 }),
    (.s, 0x25AE32300000003F, .shri gs { zSI with sd := 12, sa := 35, imm := 63 }),
    (.s, 0x26AE32300000003F, .srai gs { zSI with sd := 12, sa := 35, imm := 63 }),
    (.s, 0x27AE323089ABCDEF, .slti gs { zSI with sd := 12, sa := 35, imm := 0x89ABCDEF }),
    (.s, 0x28AE323089ABCDEF, .sltni gs { zSI with sd := 12, sa := 35, imm := 0x89ABCDEF }),
    (.s, 0x29AE300080000001, .li gs { zSI with sd := 12, imm := 0x80000001 }),
    (.s, 0x2AAE323089ABCDEF, .lih gs { zSI with sd := 12, sa := 35, imm := 0x89ABCDEF }),
    (.s, 0x2CAE323089ABCDEF, .addx gs { zSI with sd := 12, sa := 35, imm := 0x89ABCDEF }),
    (.s, 0x2DAE323AFFFFFFF8, .lds gs { zSI with sd := 12, sa := 35, fn := 10, imm := 0xFFFFFFF8 }),
    (.s, 0x2EAE323C00000018, .sts gs { zSI with sd := 12, sa := 35, fn := 12, imm := 24 }),
    (.s, 0x2FAE163000000000, .mpw gs { zSR with sd := 5, sa := 35 })] = true := by decide +kernel
theorem test_decode_control : reads [
    (.s, 0x30AEA680FFFFFFFE, .br gs { zBR with sa := 41, cc := 5, imm := 0xFFFFFFFE }),
    (.s, 0x31AE000080000003, .jmp gs { zBR with imm := 0x80000003 }), (.s, 0x32AEA40000000000, .jmpr gs { zBR with sa := 41 }),
    (.s, 0x33AEFEFE12345678, .call gs { zBR with sa := 63, cc := 5, ex := 0x7E, imm := 0x12345678 }),
    (.s, 0x34AEA40012345678, .callr gs { zBR with sa := 41, imm := 0x12345678 }), (.s, 0x35AE000000000000, .ret gs zBR),
    (.s, 0x36AE000080000003, .loop gs { zBR with imm := 0x80000003 }), (.s, 0x37AEA40600000000, .lpset gs { zBR with sa := 41, ex := 6 }),
    (.s, 0x38AE000000000000, .yld gs zBR), (.s, 0x39AE000000000000, .endOp gs zBR),
    (.s, 0x40AE240128000000, .csrr gs { zX with sd := 9, csr := 0x128 }),
    (.s, 0x41AE0260A1000000, .csrw gs { zX with sa := 38, csr := 0xA1 }),
    (.s, 0x42AE0260A1000000, .csrs gs { zX with sa := 38, csr := 0xA1 }),
    (.s, 0x43AE0260A1000000, .csrc gs { zX with sa := 38, csr := 0xA1 }), (.s, 0x44AE000000ABCDEF, .trap gs { zX with imm := 0xABCDEF }),
    (.s, 0x45AE000000000000, .eret gs zX), (.s, 0x46AE0121C0000000, .chk gs { zSR with sa := 18, sb := 7 }),
    (.s, 0x47AE240000000000, .tbr gs { zX with sd := 9 })] = true := by decide +kernel
theorem test_decode_clocks_and_channels : reads [
    (.s, 0x50AE0260005C1800, .clkd gs { zX with sa := 38, imm := 0x5C1800 }), (.s, 0x51AE00000000001E, .clke gs { zX with imm := 30 }),
    (.v1, 0x52AEE052FC000A00, .when gv1 { zV2 with vd := 0xE05, va := 0x2FC, fp := 2, ha := 1 }),
    (.v0, 0x53AEE052FC41162A, .mrg gv0 { zV3 with vd := 0xE05, va := 0x2FC, vb := 0x411, fp := 1, ha := 1, vc := 42 }),
    (.v1, 0x54AEE052FC411300, .pmrg gv1 { zV2 with vd := 0xE05, va := 0x2FC, vb := 0x411, ha := 1, hb := 1 }),
    (.s, 0x55AE852000000000, .dlyr gs { zSR with sd := 33, sa := 18 }), (.s, 0x56AE0121C0000000, .dlyw gs { zSR with sa := 18, sb := 7 }),
    (.s, 0x57AE000000000000, .inst gs zX), (.c0, 0x58AE2716000A53C1, .chrd gc0 { zW with st := 9, dl := 0xC5, esc := 1, imm := 0xA53C1 }),
    (.c0, 0x59AE2616000A5000, .chrdy gc0 { zW with st := 9, dl := 0x85, esc := 1, imm := 0xA5000 }),
    (.c0, 0x5AAE2716000A53C1, .chwr gc0 { zW with st := 9, dl := 0xC5, esc := 1, imm := 0xA53C1 }),
    (.s, 0x5BAE0000000000A5, .absn gs { zX with imm := 0xA5 })] = true := by decide +kernel
theorem test_decode_synchronisation : reads [
    (.s, 0x60AE0000B0000095, .bara gs { zW with sa := 22, imm := 0x95 }),
    (.s, 0x61AE2716B0000064, .barw gs { zW with st := 9, dl := 0xC5, esc := 1, sa := 22, imm := 0x64 }),
    (.s, 0x62AE2716B0000064, .bar gs { zW with st := 9, dl := 0xC5, esc := 1, sa := 22, imm := 0x64 }),
    (.s, 0x63AE0000B0000095, .barx gs { zW with sa := 22, imm := 0x95 }), (.s, 0x64AE0000000040A5, .ltar gs { zW with imm := 0x40A5 }),
    (.s, 0x65AE0000000000A5, .ltin gs { zW with imm := 0xA5 }),
    (.s, 0x66AE2716000000A5, .ltwt gs { zW with st := 9, dl := 0xC5, esc := 1, imm := 0xA5 }),
    (.s, 0x67AE271600000054, .drn gs { zW with st := 9, dl := 0xC5, esc := 1, imm := 0x54 }),
    (.s, 0x68AE2716000A1F43, .waitc gs { zW with st := 9, dl := 0xC5, esc := 1, imm := 0xA1F43 }),
    (.s, 0x69AE0000B0000000, .sleep gs { zW with sa := 22 }),
    (.s, 0x6AAE271600000005, .pwra gs { zW with st := 9, dl := 0xC5, esc := 1, imm := 5 }), (.s, 0x6BAE000000000000, .pwrr gs zW),
    (.s, 0x6CAE2716B6200A5C, .cpost gs { zW with st := 9, dl := 0xC5, esc := 1, sa := 22, sb := 49, imm := 0xA5C }),
    (.s, 0x70AE0121C0820000, .aadd gs { zSR with sa := 18, sb := 7, fn := 0x82 }),
    (.s, 0x71AE0121C0670000, .amin gs { zSR with sa := 18, sb := 7, fn := 0x67 }),
    (.s, 0x72AE0121C0670000, .amax gs { zSR with sa := 18, sb := 7, fn := 0x67 }),
    (.s, 0x73AE0121C0820000, .aand gs { zSR with sa := 18, sb := 7, fn := 0x82 }),
    (.s, 0x74AE0121C0820000, .aor gs { zSR with sa := 18, sb := 7, fn := 0x82 }),
    (.s, 0x75AE0121C0820000, .axor gs { zSR with sa := 18, sb := 7, fn := 0x82 }),
    (.s, 0x76AE8521C0430000, .aaddr gs { zSR with sd := 33, sa := 18, sb := 7, fn := 0x43 }),
    (.s, 0x77AE8521C0430000, .axch gs { zSR with sd := 33, sa := 18, sb := 7, fn := 0x43 }),
    (.s, 0x78AE8521F4220000, .acas gs { zSR with sd := 33, sa := 18, sb := 7, sc := 52, fn := 34 })] = true := by decide +kernel
theorem test_decode_vector_float : reads [
    (.v0, 0x80AEE052FC411E90, .vadd gv0 { zV2 with vd := 0xE05, va := 0x2FC, vb := 0x411, fp := 3, ha := 1, rm := 4, fn := 16 }),
    (.v0, 0x81AEE052FC411E90, .vsub gv0 { zV2 with vd := 0xE05, va := 0x2FC, vb := 0x411, fp := 3, ha := 1, rm := 4, fn := 16 }),
    (.v0, 0x82AEE052FC411E90, .vmul gv0 { zV2 with vd := 0xE05, va := 0x2FC, vb := 0x411, fp := 3, ha := 1, rm := 4, fn := 16 }),
    (.v0, 0x83AEE052FC411BF9, .vfma gv0 { zV3 with vd := 0xE05, va := 0x2FC, vb := 0x411, fp := 2, ha := 1, vc := 0x1F9 }),
    (.v0, 0x84AEE052FC411BF9, .vfms gv0 { zV3 with vd := 0xE05, va := 0x2FC, vb := 0x411, fp := 2, ha := 1, vc := 0x1F9 }),
    (.v0, 0x85AEE052FC411E90, .vmin gv0 { zV2 with vd := 0xE05, va := 0x2FC, vb := 0x411, fp := 3, ha := 1, rm := 4, fn := 16 }),
    (.v0, 0x86AEE052FC411E90, .vmax gv0 { zV2 with vd := 0xE05, va := 0x2FC, vb := 0x411, fp := 3, ha := 1, rm := 4, fn := 16 }),
    (.v0, 0x87AEE052FC000E90, .vabs gv0 { zV2 with vd := 0xE05, va := 0x2FC, fp := 3, ha := 1, rm := 4, fn := 16 }),
    (.v0, 0x88AEE052FC000E90, .vneg gv0 { zV2 with vd := 0xE05, va := 0x2FC, fp := 3, ha := 1, rm := 4, fn := 16 }),
    (.v0, 0x89AEE052FC411906, .vcmp gv0 { zV2 with vd := 0xE05, va := 0x2FC, vb := 0x411, fp := 2, hb := 1, fn := 6 }),
    (.v0, 0x8AAEE052FC411BF9, .vsel gv0 { zV3 with vd := 0xE05, va := 0x2FC, vb := 0x411, fp := 2, ha := 1, vc := 0x1F9 }),
    (.v0, 0x8BAEE052FC000E90, .vcvt gv0 { zV2 with vd := 0xE05, va := 0x2FC, fp := 3, ha := 1, rm := 4, fn := 16 }),
    (.v0, 0x8CAEE052FC000E90, .vrnd gv0 { zV2 with vd := 0xE05, va := 0x2FC, fp := 3, ha := 1, rm := 4, fn := 16 }),
    (.v0, 0x8DAEE052FC411E90, .vdiv gv0 { zV2 with vd := 0xE05, va := 0x2FC, vb := 0x411, fp := 3, ha := 1, rm := 4, fn := 16 }),
    (.v0, 0x8EAEE052FC000E90, .vsqrt gv0 { zV2 with vd := 0xE05, va := 0x2FC, fp := 3, ha := 1, rm := 4, fn := 16 }),
    (.v0, 0x8FAEE052FC000E90, .vrcp gv0 { zV2 with vd := 0xE05, va := 0x2FC, fp := 3, ha := 1, rm := 4, fn := 16 }),
    (.v0, 0x90AEE052FC000E90, .vrsq gv0 { zV2 with vd := 0xE05, va := 0x2FC, fp := 3, ha := 1, rm := 4, fn := 16 }),
    (.v0, 0x91AEE052FC000E90, .vex2 gv0 { zV2 with vd := 0xE05, va := 0x2FC, fp := 3, ha := 1, rm := 4, fn := 16 }),
    (.v0, 0x92AEE052FC000E90, .vlg2 gv0 { zV2 with vd := 0xE05, va := 0x2FC, fp := 3, ha := 1, rm := 4, fn := 16 }),
    (.v0, 0x93AEE052FC000E90, .vtnh gv0 { zV2 with vd := 0xE05, va := 0x2FC, fp := 3, ha := 1, rm := 4, fn := 16 })] = true := by decide +kernel
theorem test_decode_vector_integer_and_lanes : reads [
    (.v0, 0x94AEE052FC411D10, .viadd gv0 { zV2 with vd := 0xE05, va := 0x2FC, vb := 0x411, fp := 3, hb := 1, fn := 16 }),
    (.v0, 0x95AEE052FC411D10, .visub gv0 { zV2 with vd := 0xE05, va := 0x2FC, vb := 0x411, fp := 3, hb := 1, fn := 16 }),
    (.v0, 0x96AEE052FC411D10, .vimul gv0 { zV2 with vd := 0xE05, va := 0x2FC, vb := 0x411, fp := 3, hb := 1, fn := 16 }),
    (.v0, 0x97AEE052FC411100, .vand gv0 { zV2 with vd := 0xE05, va := 0x2FC, vb := 0x411, hb := 1 }),
    (.v0, 0x98AEE052FC411100, .vor gv0 { zV2 with vd := 0xE05, va := 0x2FC, vb := 0x411, hb := 1 }),
    (.v0, 0x99AEE052FC411100, .vxor gv0 { zV2 with vd := 0xE05, va := 0x2FC, vb := 0x411, hb := 1 }),
    (.v0, 0x9AAEE052FC411600, .vshl gv0 { zV2 with vd := 0xE05, va := 0x2FC, vb := 0x411, fp := 1, ha := 1 }),
    (.v0, 0x9BAEE052FC411600, .vshr gv0 { zV2 with vd := 0xE05, va := 0x2FC, vb := 0x411, fp := 1, ha := 1 }),
    (.v0, 0x9CAEE052FC411600, .vsra gv0 { zV2 with vd := 0xE05, va := 0x2FC, vb := 0x411, fp := 1, ha := 1 }),
    (.v0, 0x9DAEE052FC411D10, .vimin gv0 { zV2 with vd := 0xE05, va := 0x2FC, vb := 0x411, fp := 3, hb := 1, fn := 16 }),
    (.v0, 0x9EAEE052FC411D10, .vimax gv0 { zV2 with vd := 0xE05, va := 0x2FC, vb := 0x411, fp := 3, hb := 1, fn := 16 }),
    (.v0, 0x9FAEE052FC000E10, .vclz gv0 { zV2 with vd := 0xE05, va := 0x2FC, fp := 3, ha := 1, fn := 16 }),
    (.v0, 0xA0AEE052FC000E10, .vpopc gv0 { zV2 with vd := 0xE05, va := 0x2FC, fp := 3, ha := 1, fn := 16 }),
    (.v0, 0xA1AEE052FC411BF9, .vclmp gv0 { zV3 with vd := 0xE05, va := 0x2FC, vb := 0x411, fp := 2, ha := 1, vc := 0x1F9 }),
    (.v0, 0xA2AEE0503C000C00, .vbcst gv0 { zV2 with vd := 0xE05, va := 60, fp := 3 }),
    (.v0, 0xA3AEE052FC411600, .vperm gv0 { zV2 with vd := 0xE05, va := 0x2FC, vb := 0x411, fp := 1, ha := 1 }),
    (.v0, 0xA4AEE052FC411603, .vshf gv0 { zV2 with vd := 0xE05, va := 0x2FC, vb := 0x411, fp := 1, ha := 1, fn := 3 }),
    (.v0, 0xA5AEE052FC000E40, .vrsum gv0 { zV2 with vd := 0xE05, va := 0x2FC, fp := 3, ha := 1, rm := 2 }),
    (.v0, 0xA6AEE052FC000E40, .vrmax gv0 { zV2 with vd := 0xE05, va := 0x2FC, fp := 3, ha := 1, rm := 2 }),
    (.v0, 0xA7AEE052FC000E40, .vscan gv0 { zV2 with vd := 0xE05, va := 0x2FC, fp := 3, ha := 1, rm := 2 }),
    (.v0, 0xA8AEE052FC000E00, .vqnt gv0 { zV2 with vd := 0xE05, va := 0x2FC, fp := 3, ha := 1 }),
    (.v0, 0xA9AEE052FC000E40, .vdqnt gv0 { zV2 with vd := 0xE05, va := 0x2FC, fp := 3, ha := 1, rm := 2 }),
    (.v0, 0xAAAEE0503C01102A, .veps gv0 { zV3 with vd := 0xE05, va := 60, vb := 17, vc := 42 }),
    (.v0, 0xABAEE052FC000200, .vmov gv0 { zV2 with vd := 0xE05, va := 0x2FC, ha := 1 }),
    (.v1, 0xACAEE0589ABCDEFC, .vli gv1 { zVI with vd := 0xE05, imm := 0x89ABCDEF, fp := 3 }),
    (.v1, 0xADAE000CBE780000, .vcfg gv1 { zVI with imm := 0xCBE78000 }),
    (.v0, 0xAEAE0002FC411200, .vchk gv0 { zV2 with va := 0x2FC, vb := 0x411, ha := 1 })] = true := by decide +kernel
theorem test_decode_engines : reads [
    (.m, 0xB0AEA5AD00000000, .mcall gm { zM with ri := 0xA5, acc := 1, trb := 1, act := 1, atab := 2, rq := 1 }),
    (.m, 0xB1AE000000058000, .mcfg gm { zM with sa := 22 }), (.m, 0xB2AE0000E0500000, .mzro gm { zM with rr := 0xE05 }),
    (.m, 0xB3AE0300E0500000, .mact gm { zM with ri := 3, rr := 0xE05 }),
    (.m, 0xB4AEA500E0500000, .mstp gm { zM with ri := 0xA5, rr := 0xE05 }),
    (.m, 0xB5AEA50000058000, .mrtn gm { zM with ri := 0xA5, sa := 22 }),
    (.c1, 0xC0AEE055B1380018, .tld gc1 { zC with rr := 0xE05, sa := 22, sb := 49, sc := 14, sz := 1, bypass := 1 }),
    (.c1, 0xC1AEE055B1380814, .tst gc1 { zC with rr := 0xE05, sa := 22, sb := 49, sc := 14, hr := 1, sz := 1, noAlloc := 1 }),
    (.c1, 0xC2AE0005B1380004, .tldw gc1 { zC with sa := 22, sb := 49, sc := 14, noAlloc := 1 }),
    (.c1, 0xC3AE0295B13BC008, .cpy gc1 { zC with rr := 41, sa := 22, sb := 49, sc := 14, sd := 60, bypass := 1 }),
    (.c1, 0xC4AEE0558003C004, .cpyq gc1 { zC with rr := 0xE05, sa := 22, sd := 60, noAlloc := 1 }),
    (.c1, 0xC5AEE05580000018, .gath gc1 { zC with rr := 0xE05, sa := 22, sz := 1, bypass := 1 }),
    (.c1, 0xC6AEE05580000814, .scat gc1 { zC with rr := 0xE05, sa := 22, hr := 1, sz := 1, noAlloc := 1 }),
    (.c1, 0xC7AEE05580000808, .mcst gc1 { zC with rr := 0xE05, sa := 22, hr := 1, bypass := 1 }),
    (.c1, 0xC8AEE05580000800, .rpkt gc1 { zC with rr := 0xE05, sa := 22, hr := 1 }),
    (.c0, 0xC9AE2716B0000A5C, .rrcv gc0 { zW with st := 9, dl := 0xC5, esc := 1, sa := 22, imm := 0xA5C }),
    (.c1, 0xCAAE000580000108, .pfch gc1 { zC with sa := 22, sco := 1, bypass := 1 }),
    (.c1, 0xCBAE000580380100, .flsh gc1 { zC with sa := 22, sc := 14, sco := 1 })] = true := by decide +kernel
/-! Worked examples of the spec's number rules. -/
/-- R45: 72 and −1.25 in b8p4sf. -/
theorem test_binary8 : ovf (fmtOf 0x2D) 0 (.fin false 72 0) = (0x71, 0) ∧ ovf (fmtOf 0x2D) 0 (.fin true 5 (-2)) = (0xC2, 0) := by decide +kernel
/-- R59: the block of 300, −5 and zeros. -/
theorem test_quantise : quantise (fmtOf 0x2D) (.fin false 300 0 :: .fin true 5 0 :: List.replicate 30 (.fin false 0 0)) =
    (0x81, 0x71 :: 0xC2 :: List.replicate 30 0, fNX) := by decide +kernel
/-- R60, R61: two chunks, of 2^24 + 1 and of 1, give 2^24. -/
theorem test_chunks :
    let o := Fmt.fp32.value 0x3F800000
    let z := Fmt.fp32.value 0
    let a := chunkStep .fp32 0 ((Fmt.fp32.value 0x4B800000, o) :: (o, o) :: List.replicate 6 (z, z))
    a = (0x4B800000, fNX) ∧ chunkStep .fp32 a.1 ((o, o) :: List.replicate 7 (z, z)) = (0x4B800000, fNX) := by decide +kernel
/-- R62, R149: the lanes 2^24, 1, 1, 1 and zeros. -/
theorem test_tree_and_scan :
    let o := Fmt.fp32.value 0x3F800000
    let l := Fmt.fp32.value 0x4B800000 :: o :: o :: o :: List.replicate 28 (Fmt.fp32.value 0)
    treeSum .fp32 0 8 l 0 = (Fmt.fp32.value 0x4B800001, fNX) ∧ scanF .fp32 0 l none = (List.replicate 32 0x4B800000, fNX) := by decide +kernel
/-- R250: swizzled offset 0x300 is the cell of linear offset 0x350. -/
theorem test_swizzle : placeOf (spadBase 3 + 0x20000000 + 0x300) = some (.spad 3 true, spadBase 3 + 0x350) := by decide +kernel
/-- R70, R71: the draws of the run of spec/12. -/
theorem test_draws : [epsHash 0x5EED 0 0x5EED, epsHash 0x5EED 0 0x5EEE, epsHash 0x5EED 1 0x5EED, epsHash 0x5EED 1 0x5EEE].map (fun x => (ovf .fp32 0 x).1) =
    [0, 0xBE8B73A0, 0xBF488550, 0xBEDD9880] := by decide +kernel

/-- The core after an operation. -/
def after (i : Instr) (s : State) : Core := match exec i s with | .next t => t.core 0 | _ => {}
/-- The result in flight. -/
def flying (k : Core) : List Flying := k.flights.map Flight.what
def addF : Instr := .add hS (fR 5 4 3)
theorem test_add_wraps : ((after addF (regs [(4, 0xFFFFFFFFFFFFFFFF), (3, 2)] (at_ addF))).sreg 5, (after addF (at_ addF)).ctl.pc) =
    (1, ((at_ addF).core 0).ctl.pc + 16) := by decide +kernel
theorem test_sra_floors : (after (.srai hS (fI 5 4 0 1)) (regs [(4, 0xFFFFFFFFFFFFFFFD)] (at_ (.srai hS (fI 5 4 0 1))))).sreg 5 = 0xFFFFFFFFFFFFFFFE := by
  decide +kernel
/-- R47: all ones and the dividend for a divisor of zero. -/
theorem test_division_by_zero :
    flying (after (.div hS (fR 5 4 3)) (regs [(4, 7)] (at_ (.div hS (fR 5 4 3))))) = [.sres 5 0xFFFFFFFFFFFFFFFF 20] ∧
    flying (after (.rem hS (fR 5 4 3)) (regs [(4, 7)] (at_ (.rem hS (fR 5 4 3))))) = [.sres 5 7 20] := by decide +kernel
theorem test_lih_keeps_low_half : (after (.lih hS (fI 5 4 0 0x89ABCDEF)) (regs [(4, 0x1111111122222222)] (at_ (.lih hS (fI 5 4 0 0x89ABCDEF))))).sreg 5 =
    0x89ABCDEF22222222 := by decide +kernel
/-- R124: the loop of six passes and three stages, at its set-up and at the end of its second pass. -/
theorem test_loop_example :
    (after (.lpset hS (fB 6 0 3 0)) (regs [(6, 4)] (at_ (.lpset hS (fB 6 0 3 0))))).csr csrLC = 0x6000000000000006 ∧
    (let k := after (.loop hS (fB 0 0 0 0))
        (csrs ((csrLC, 0x6000000000000005) :: (csrPRD, 6) :: (List.range 8).map fun j => (csrB + j, wordN (if j = 0 then 23 else 15 + j)))
          (at_ (.loop hS (fB 0 0 0 0))))
     (k.csr csrLC, k.pred 1, k.pred 2, k.pred 3, k.csr csrB, k.csr (csrB + 1), k.csr (csrB + 2)) =
       (0x6000000000000004, true, true, true, 22, 23, 16)) := by decide +kernel
/-- R187, R188: two periodic clocks in instant 5. -/
theorem test_clock_phase : ((after (.clkd hS (fX 0 0 0 0x20400)) (csrs [(csrIC, 5)] (at_ (.clkd hS (fX 0 0 0 0x20400))))).present 1,
    (after (.clkd hS (fX 0 0 0 0x20402)) (csrs [(csrIC, 5)] (at_ (.clkd hS (fX 0 0 0 0x20402))))).present 1) = (some false, some true) := by
  decide +kernel
/-- R141: 1 + 1 in FP32 lanes is 2 in each, in flight for four cycles. -/
theorem test_vadd_lanes :
    (match flying (after (.vadd hV (f2 1 0 0 0 0)) ((at_ (.vadd hV (f2 1 0 0 0 0))).onCore 0 fun k =>
        k.setSpace 4096 128 (ofLanes 4 (List.replicate 32 0x3F800000)) 31)) with
     | [.vres 4224 v _ fl 4 _] => decide (v.toNat = ofLanes 4 (List.replicate 32 0x40000000) ∧ fl = 0)
     | _ => false) = true := by decide +kernel
/-- R130, R232: a software trap records its code, its header and the bundle behind it. -/
theorem test_trap_record : (let k := after (.trap hS (fX 0 0 0 0xABCDEF)) (at_ (.trap hS (fX 0 0 0 0xABCDEF)))
    (k.csr csrFRS, k.csr csrTEPC - k.csr csrFRA, k.ctl.mode)) = (0xABCDEF, 16, .stopped) := by decide +kernel
/-! For each statement with hypotheses: states and operands that meet them, clause by clause. -/
def okWith {ε α : Type} (e : Except ε α) (p : α → Bool) : Bool := match e with | .ok a => p a | .error _ => false
/-- The copy engine of a C slot has room; the slots without one have no limit. -/
def room (k : Core) (x : Slot) : Bool := decide (4 ≤ x.ix → k.queued (x.ix - 4) < 16)
def clearAll (l : List Instr) : Bool := l.all fun i => (at_ i).clears i
/-- The core that issues, as the steps of R97 find it. -/
def iss (i : Instr) : Core := (at_ i).issuer i

theorem witness_ScalarResults : clearAll [.add hS (fR 5 4 3), .sub hS (fR 5 4 3), .and hS (fR 5 4 3), .or hS (fR 5 4 3), .xor hS (fR 5 4 3),
    .andn hS (fR 5 4 3), .shl hS (fR 5 4 3), .shr hS (fR 5 4 3), .sra hS (fR 5 4 3), .min hS (fR 5 4 3), .max hS (fR 5 4 3),
    .minn hS (fR 5 4 3), .maxn hS (fR 5 4 3), .seq hS (fR 5 4 3), .sne hS (fR 5 4 3), .slt hS (fR 5 4 3), .sltn hS (fR 0 4 3),
    .sel hS { fR 5 4 3 with sc := 2 }, .clz hS (fR 5 4 0), .popc hS (fR 5 4 0), .addi hS (fI 5 4 0 7), .andi hS (fI 5 4 0 7),
    .ori hS (fI 5 4 0 7), .xori hS (fI 5 4 0 7), .shli hS (fI 5 4 0 63), .shri hS (fI 5 4 0 63), .srai hS (fI 5 4 0 63), .slti hS (fI 5 4 0 7),
    .sltni hS (fI 5 4 0 7), .li hS (fI 5 0 0 7), .lih hS (fI 5 4 0 7), .addx hS (fI 5 4 0 7)] = true := by decide +kernel
theorem witness_LongResults : clearAll [.mul hS (fR 5 4 3), .mulh hS (fR 5 4 3), .mulhn hS (fR 5 4 3), .div hS (fR 5 4 3), .divn hS (fR 5 4 3),
    .rem hS (fR 5 4 3), .remn hS (fR 5 4 3)] = true := by decide +kernel
/-- Equal values, and different ones. -/
theorem witness_NopMpwChk : (at_ (.nop .c1 5)).passes (.nop .c1 5) = true ∧ clearAll [.mpw hS (fR 7 4 0), .chk hS (fR 0 4 3)] = true ∧
    (iss (.chk hS (fR 0 4 3))).sreg 4 = (iss (.chk hS (fR 0 4 3))).sreg 3 ∧
    (let s := regs [(4, 1)] (at_ (.chk hS (fR 0 4 3)))
     s.clears (.chk hS (fR 0 4 3)) && (s.issuer (.chk hS (fR 0 4 3))).sreg 4 != (s.issuer (.chk hS (fR 0 4 3))).sreg 3) = true := by decide +kernel
/-- A load of HBM, and one of the core's own scratchpad. -/
def ldsF (fn : BitVec 4) (imm : BitVec 32) : Instr := .lds hS (fI 5 4 fn imm)
def stsF (fn : BitVec 4) (imm : BitVec 32) : Instr := .sts hS (fI 5 4 fn imm)
def own (i : Instr) : State := regs [(4, BitVec.ofNat 64 padVa)] (pad (at_ i))
theorem witness_Loads :
    ((at_ (ldsF 8 0x40000)).clears (ldsF 8 0x40000) &&
      okWith (((at_ (ldsF 8 0x40000)).prepared (ldsF 8 0x40000)).reach 0 0x40000 4 .read 2 .read) fun r =>
        !(r.1.all fun q => isLocal 0 (servedPa 0 q.2.2)) && decide ((iss (ldsF 8 0x40000)).out 0 < 256)) = true ∧
    ((own (ldsF 8 8)).clears (ldsF 8 8) &&
      okWith (((own (ldsF 8 8)).prepared (ldsF 8 8)).reach 0 (padVa + 8) 4 .read 2 .read) fun r =>
        (r.1.all fun q => isLocal 0 (servedPa 0 q.2.2)) && r.1.length == 1 &&
        r.1.all fun q => (placeOf (servedPa 0 q.2.2)).map Prod.fst == some (.spad 0 false) && (placeOf (servedPa 0 q.2.2 + 3)).isSome) = true ∧
    ((own (ldsF 8 8)).core 0).ctl.writtenLin = [] ∧ ((own (ldsF 8 8)).core 0).ctl.writtenSwz = [] ∧
    (∀ e ∈ (own (ldsF 8 8)).cores, ∀ x ∈ e.2.copies, x.complete = true) := by decide +kernel
theorem witness_Stores :
    ((own (stsF 0xC 8)).clears (stsF 0xC 8) &&
      okWith (((own (stsF 0xC 8)).prepared (stsF 0xC 8)).reach 0 (padVa + 8) 8 .write 3 .write) fun r =>
        r.1.length == 1 && r.1.all fun q => q.1 == padVa + 8 && q.2.1 == 8 && servedPa 0 q.2.2 % 16 == 8 &&
          (placeOf (servedPa 0 q.2.2)).map Prod.fst == some (.spad 0 false) && (placeOf (servedPa 0 q.2.2 + 7)).isSome) = true ∧
    ((at_ (stsF 8 0x40000)).clears (stsF 8 0x40000) &&
      okWith (((at_ (stsF 8 0x40000)).prepared (stsF 8 0x40000)).reach 0 0x40000 4 .write 2 .write) fun r =>
        r.1.length == 1 && r.1.all fun q => q.1 == 0x40000 && q.2.1 == 4 && servedPa 0 q.2.2 == 0x40000 && q.2.2.pa == 0x40000 &&
          q.2.2.alloc != 2) = true ∧
    (iss (stsF 8 0x40000)).l1 = [] ∧ (iss (stsF 8 0x40000)).out 1 < 256 := by decide +kernel
/-- A page of HBM that the core caches, written through with `wt`. -/
def cachedAt (wt : Bool) (i : Instr) : State :=
  regs [(4, BitVec.ofNat 64 padVa)] ((at_ i).mapPage 0 padVa (pteOf 5 0 true true true false + if wt then 2 ^ 57 else 0))
/-- Four lines of the set of the first line of that page. -/
def fullSet (s : State) : State :=
  s.onCore 0 fun k => { k with l1 := (List.range 4).map fun j => { pa := 5 * 65536 + 128 * 128 * (j + 1), data := 0, dirty := 3, evp := j } }
def cachedHbm (wt : Bool) (n : Nat) (p : Page) : Bool :=
  p.home == 0 && p.alloc == 2 && p.wt == wt && decide (p.pa < 4 * dieBytes) && decide (servedPa 0 p % 128 + n ≤ 128) && decide (servedPa 0 p + n ≤ 4 * dieBytes)
/-- Stores of 8 bytes through it, into an empty set and a full one; to host memory, and to the scratchpad of core 3. -/
theorem witness_CachedStores :
    ([(false, cachedAt false (stsF 0xC 8)), (true, cachedAt true (stsF 0xC 8)), (false, fullSet (cachedAt false (stsF 0xC 8)))].all fun q =>
      q.2.clears (stsF 0xC 8) && decide ((q.2.issuer (stsF 0xC 8)).out 1 < 256) &&
      ((q.2.issuer (stsF 0xC 8)).l1.all fun x => decide (x.pa + 128 ≤ 4 * dieBytes) && decide (x.evp ≤ 3)) &&
      okWith ((q.2.prepared (stsF 0xC 8)).reach 0 (padVa + 8) 8 .write 3 .write) fun r =>
        r.1.length == 1 && r.1.all fun y => y.1 == padVa + 8 && y.2.1 == 8 && cachedHbm q.1 8 y.2.2) = true ∧
    (displaced ((fullSet (cachedAt false (stsF 0xC 8))).core 0) (5 * 65536 + 8)).map L1Line.pa = some (6 * 65536 - 49152) ∧
    (displaced ((cachedAt false (stsF 0xC 8)).core 0) (5 * 65536 + 8)).isNone = true ∧
    ([(0x800000000000, 1, Place.host), (spadBase 3, 2, .spad 3 false)].all fun q =>
      let s := regs [(4, BitVec.ofNat 64 padVa)] ((at_ (stsF 0xC 8)).mapPage 0 padVa (pteOf (q.1 / 65536) q.2.1 true true true false))
      s.clears (stsF 0xC 8) && (s.issuer (stsF 0xC 8)).ctl.writtenLin == [] && (s.issuer (stsF 0xC 8)).ctl.writtenSwz == [] && (s.issuer (stsF 0xC 8)).l1 == [] &&
      okWith ((s.prepared (stsF 0xC 8)).reach 0 (padVa + 8) 8 .write 3 .write) fun r =>
        r.1.length == 1 && r.1.all fun y => y.1 == padVa + 8 && y.2.1 == 8 && y.2.2.home != 0 && !isLocal 0 (servedPa 0 y.2.2) &&
          (List.range 8).all fun j => (placeOf (servedPa 0 y.2.2 + j)).map Prod.fst == some q.2.2) = true := by decide +kernel
def ops9 : List (Head → SR → Instr) := [.aadd, .amin, .amax, .aand, .aor, .axor, .aaddr, .axch, .acas]
/-- An atomic's function for its row: 32-bit words at device scope, the type of its operands, and its destination. -/
def at9 : List Instr := [.aadd hS { fR 0 4 3 with fn := 0x62 }, .amin hS { fR 0 4 3 with fn := 0x66 }, .amax hS { fR 0 4 3 with fn := 0x66 },
  .aand hS { fR 0 4 3 with fn := 0x62 }, .aor hS { fR 0 4 3 with fn := 0x62 }, .axor hS { fR 0 4 3 with fn := 0x62 },
  .aaddr hS { fR 5 4 3 with fn := 0x62 }, .axch hS { fR 5 4 3 with fn := 0x62 }, .acas hS { fR 5 4 3 with sc := 2, fn := 0x62 }]
theorem witness_AtomicAccesses : (at9.zipIdx.all fun q =>
    let s := regs [(4, 0x40000)] (at_ q.1)
    s.clears q.1 &&
    okWith ((s.prepared q.1).reach 0 0x40000 4 .atomic 2 (if q.2 < 6 then .red (0x70 + q.2) (if q.2 = 1 ∨ q.2 = 2 then 1 else 0) 2 else .write)) fun r =>
      r.1.length == 1 && r.1.all fun g => g.1 == 0x40000 && g.2.1 == 4 && servedPa 0 g.2.2 == 0x40000 &&
        (s.issuer q.1).l1 == [] && decide ((s.issuer q.1).out 3 < 64)) = true := by decide +kernel
theorem witness_MisalignedTraps : clearAll [ldsF 8 0x40002, stsF 8 0x40002] = true ∧
    (at9.all fun i => (regs [(4, 0x40002)] (at_ i)).clears i) = true ∧ ops9.length = at9.length := by decide +kernel
/-- A header of a kind with a signature stands at a place of the text. -/
def header (at_ kind sig : Nat) (s : State) : State := words [(at_, BitVec.ofNat 64 (0xF * 2 ^ 60 + kind * 2 ^ 56 + sig))] s
/-- The root region gives every trap of its domain to the handler, whose pad stands at 0x50000. -/
def domain (s : State) : State :=
  csrs [(csrTVEC, 0x50001)] (header 0x50000 5 0 { s with regions := [(0, [0, 0, 0, 0, 0xFFFFFFFF])] })
def inHandler (s : State) : State := csrs [(csrTSTAT, 2)] s
/-- Whether a bundle header at an address is of a kind, as the core fetches it. -/
def fetches (s : State) (va kind : Nat) : Bool :=
  okWith (s.fetchWord 0 va) fun w => (decodeHeader w).map Header.kind == some kind && bits w.toNat 63 60 == 0xF && bits w.toNat 59 56 == kind
def jmps : List (Instr × Nat × Nat × Nat × List (Nat × Word)) :=     -- transfer, target, its kind and signature, registers
  [(.br hS (fB 4 1 0 0x1000), 0x18000, 1, 0, [(4, 1)]), (.jmp hS (fB 0 0 0 0x1000), 0x18000, 1, 0, []),
   (.jmpr hS (fB 4 0 0 0), 0x50000, 1, 0, [(4, 0x50000)]), (.call hS (fB 0 4 0 0x77), 0x18000, 2, 0x77, []),
   (.callr hS (fB 4 0 0 0x77), 0x50000, 2, 0x77, [(4, 0x50000)]), (.ret hS (fB 0 0 0 0), 0x50000, 3, 0, [(63, 0x50000)])]
/-- Every transfer with a target that accepts it; and a branch that is not taken, and targets of another kind. -/
theorem witness_Transfers :
    (jmps.all fun q =>
      let s := regs q.2.2.2.2 (header q.2.1 q.2.2.1 q.2.2.2.1 (at_ q.1))
      s.clears q.1 && ((s.prepared q.1).gangEntry 0 (s.issuer q.1).ctl.issued).isNone && fetches (s.prepared q.1) q.2.1 q.2.2.1 && q.2.1 % 8 == 0 &&
        okWith ((s.prepared q.1).fetchWord 0 q.2.1) fun w => bits w.toNat 31 0 == q.2.2.2.1) = true ∧
    (aheadTarget (.br hS (fB 4 1 0 0x1000)) (at_ (.br hS (fB 4 1 0 0x1000))) (fB 4 1 0 0x1000),
      padTarget (.call hS (fB 0 4 0 0x77)) (at_ (.call hS (fB 0 4 0 0x77))) (fB 0 4 0 0x77)) = (0x18000, 0x18000) ∧
    clearAll [.br hS (fB 4 1 0 0x1000)] = true ∧ (iss (.br hS (fB 4 1 0 0x1000))).sreg 4 = 0 ∧
    ((jmps.filter fun q => q.2.1 == 0x50000).all fun q =>
      let s := regs q.2.2.2.2 (header 0x50000 4 0 (at_ q.1))
      s.clears q.1 && fetches (s.prepared q.1) 0x50000 4) = true := by decide +kernel
/-- No header at a direct target, with a loop that goes round among the transfers; and targets that are no multiple of 8. -/
theorem witness_RefusedTargets :
    (([(.br hS (fB 4 1 0 0x1000), [(4, 1)]), (.jmp hS (fB 0 0 0 0x1000), []), (.call hS (fB 0 4 0 0x77), []),
       (.loop hS (fB 0 0 0 0x1000), [])] : List (Instr × List (Nat × Word))).all fun q =>
      let s := csrs [(csrLC, 0x6000000000000002)] (regs q.2 (at_ q.1))
      s.clears q.1 && decide (1 < (s.issuer q.1).csrBits csrLC 60 0) && okWith ((s.prepared q.1).fetchWord 0 0x18000) fun w => bits w.toNat 63 60 != 0xF) = true ∧
    (([(.jmpr hS (fB 4 0 0 0), 4), (.callr hS (fB 4 0 0 0x77), 4), (.ret hS (fB 0 0 0 0), 63)] : List (Instr × Nat)).all fun q =>
      let s := regs [(q.2, 0x50004)] (at_ q.1)
      s.clears q.1 && ((s.issuer q.1).sreg q.2).toNat % 8 != 0) = true ∧
    (let i : Instr := .jmp hS (fB 0 0 0 0x1000)
     let s := ctl (fun c => { c with pc := c.pc + 4 }) (at_ i)
     s.clears i && aheadTarget i s (fB 0 0 0 0x1000) % 8 != 0) = true := by decide +kernel
theorem witness_ScratchpadViews : (1023 : Nat) < 1024 ∧ (393215 : Nat) < 393216 ∧ (393216 : Nat) < 0x80000 := by decide
theorem witness_LoopSetup : clearAll [.lpset hS (fB 4 0 3 0)] = true ∧ (fB 4 0 0 0).ex.toNat % 8 = 0 := by decide +kernel
/-- The last pass, and one before it. -/
theorem witness_ModuloLoop :
    let i : Instr := .loop hS (fB 0 0 0 0x1000)
    let s := csrs [(csrLC, 0x6000000000000002)] (header 0x18000 1 0 (at_ i))
    (iss i).csrBits csrLC 60 0 = 0 ∧ clearAll [i] = true ∧ ((at_ i).prepared i).gangEntry 0 (iss i).ctl.issued = none ∧
    (s.clears i && ((s.prepared i).gangEntry 0 (s.issuer i).ctl.issued).isNone && (s.issuer i).csrBits csrLC 60 0 == 2 && fetches (s.prepared i) 0x18000 1) = true := by decide +kernel
theorem witness_EndAndYield : clearAll [.endOp hS (fB 0 0 0 0), .yld hS (fB 0 0 0 0)] = true := by decide +kernel
theorem witness_RegisterReads : clearAll [.csrr hS (fX 5 0 0 0), .csrr hS (fX 5 0 0x100 0), .csrr hS (fX 5 0 0x127 0), .csrr hS (fX 5 0 0x128 0),
    .csrr hS (fX 5 0 0x0C0 0), .tbr hS (fX 5 0 0 0)] = true := by decide +kernel
/-- A plain register; a read-only one; and a handler register outside a handler. -/
theorem witness_ControlRegisterWrites : clearAll ([csrTVEC, 0, csrTCAUSE].flatMap fun n => [.csrw hS (fX 0 4 (BitVec.ofNat 12 n) 0),
      .csrs hS (fX 0 4 (BitVec.ofNat 12 n) 0), .csrc hS (fX 0 4 (BitVec.ofNat 12 n) 0)]) = true ∧
    plainRegister csrTVEC = true ∧ csrClass 0 = .ro ∧ csrClass csrTCAUSE = .ho ∧ (iss (.csrw hS (fX 0 4 0x011 0))).handler = false := by decide +kernel
def trapI : Instr := .trap hS (fX 0 0 0 7)
def eretI : Instr := .eret hS (fX 0 0 0 0)
/-- A core alone in its gang: without a handler, with one that its domain selects, and in it. -/
theorem witness_TrapEntry : alone (at_ trapI) 0 ∧ ((at_ trapI).core 0).handler = false ∧ (at_ trapI).goesToHandler 0 cSWTRAP = false ∧
    alone (domain (at_ trapI)) 0 ∧ ((domain (at_ trapI)).core 0).handler = false ∧ (domain (at_ trapI)).goesToHandler 0 cSWTRAP = true ∧
    bits (((domain (at_ trapI)).core 0).csr csrTVEC).toNat 55 3 * 8 = 0x50000 ∧ fetches (domain (at_ trapI)) 0x50000 5 = true ∧
    alone (inHandler (at_ trapI)) 0 ∧ ((inHandler (at_ trapI)).core 0).handler = true := by
  unfold alone; decide +kernel
theorem witness_TrapsAndReturns : clearAll [trapI, eretI] = true ∧ alone (at_ trapI).landed 0 ∧ (iss trapI).handler = false ∧
    ((domain (at_ trapI)).clears trapI && ((domain (at_ trapI)).prepared trapI).goesToHandler 0 cSWTRAP &&
      fetches ((domain (at_ trapI)).prepared trapI) 0x50000 5) = true ∧ alone (domain (at_ trapI)).landed 0 ∧
    (iss eretI).handler = false ∧ (inHandler (at_ eretI)).clears eretI = true ∧ ((inHandler (at_ eretI)).issuer eretI).handler = true ∧
    ((inHandler (at_ eretI)).issuer eretI).ctl.nested = none ∧
    ([0, 5].all fun kind =>
      let s := csrs [(csrTEPC, 0x50000)] (header 0x50000 kind 0 (inHandler (at_ eretI)))
      s.clears eretI && bits ((s.issuer eretI).csr csrTEPC).toNat 55 3 * 8 == 0x50000 && fetches (s.prepared eretI) 0x50000 kind) = true ∧
    (let s := csrs [(csrTEPC, 0x50000)] (inHandler (at_ eretI))
     s.clears eretI && okWith ((s.prepared eretI).fetchWord 0 0x50000) fun w => bits w.toNat 63 60 != 0xF) = true := by
  unfold alone; decide +kernel
/-- A periodic, an ON and a union clock; an ON clock evaluated for the first time and again. -/
def onClock (w : Nat) (i : Instr) : State := (at_ i).onCore 0 fun k => { k with regs := { k.regs with clocks := k.regs.clocks.put 0 2 w } }
theorem witness_ClockDefinition : clearAll [.clkd hS (fX 0 0 0 0x20400), .clkd hS (fX 0 12 0 0x440800), .clkd hS (fX 0 0 0 0x860000)] = true ∧
    ([0x80000000, 0xA0000000].all fun w => let s := onClock w (.clke hS (fX 0 0 0 2))
      s.clears (.clke hS (fX 0 0 0 2)) && bits ((s.issuer (.clke hS (fX 0 0 0 2))).clock 2) 31 30 == 2 &&
        bit ((s.issuer (.clke hS (fX 0 0 0 2))).clock 2) 29 == (w == 0xA0000000)) = true := by decide +kernel
theorem witness_DelayCells : clearAll [.dlyr hS (fR 5 3 0), .dlyw hS (fR 0 3 4), .inst hS (fX 0 0 0 0)] = true := by decide +kernel
/-- A vector operation under a format setting: it clears, its sources read, and its destination (v1) resolves. -/
def vOk (vcf : Word) (i : Instr) : Bool :=
  let s := csrs [(csrVCF, vcf)] (at_ i)
  s.clears i && s.readable i && okWith ((s.issuer i).resolve 1 128 true 0 0) fun _ => true
def two (mk : Head → V2 → Instr) : Instr := mk hV (f2 1 2 3 0 0)
def one (mk : Head → V2 → Instr) : Instr := mk hV (f2 1 2 0 0 0)
def three (mk : Head → V3 → Instr) : Instr := mk hV (f3 1 2 3 0 4)
theorem witness_VectorFloat : ([two .vadd, two .vsub, two .vmul, two .vdiv, two .vmin, two .vmax, one .vabs, one .vneg, one .vrnd].all (vOk 0)) = true := by
  decide +kernel
/-- Class F, and `VCLMP` of class I. -/
theorem witness_VectorFused : ([three .vfma, three .vfms, three .vclmp].all (vOk 0)) = true ∧ vOk 0x1860 (three .vclmp) = true := by decide +kernel
theorem witness_VectorFunctions : ([one .vsqrt, one .vrcp, one .vrsq, one .vex2, one .vlg2, one .vtnh].all (vOk 0)) = true := by decide +kernel
theorem witness_VectorInteger :
    ([two .viadd, two .visub, two .vimul, two .vimin, two .vimax, one .vclz, one .vpopc].all (vOk 0x1860)) = true := by decide +kernel
theorem witness_VectorLanes : ([two .vand, two .vor, two .vxor, one .vmov, two .vcmp, two .vperm, two .vshf, three .vsel, .vbcst hV (f2 1 4 0 0 0),
    .vli hV { vd := 1, imm := 7, fp := 0, lo := 0 }].all (vOk 0)) = true ∧ ([two .vshl, two .vshr, two .vsra, two .vcmp].all (vOk 0x1860)) = true := by
  decide +kernel
/-- Class F and class I where both are told apart. -/
theorem witness_VectorConversions : ([one .vcvt, one .vrsum, one .vrmax, one .vscan, .veps hV (f3 1 4 5 0 6)].all (vOk 0)) = true ∧
    ([one .vcvt, one .vrsum, one .vrmax, one .vscan].all (vOk 0x1860)) = true ∧ vOk 0x2D0 (one .vqnt) = true ∧ vOk 0xB400 (one .vdqnt) = true ∧
    (((csrs [(csrVCF, 0)] (at_ (one .vrsum))).issuer (one .vrsum)).pair .v0 0).classF = true ∧
    (((csrs [(csrVCF, 0x1860)] (at_ (one .vrsum))).issuer (one .vrsum)).pair .v0 0).classF = false := by decide +kernel
/-- `PMRG` under a union of two clocks of period 1; the other sources are without a clock. -/
def pmrgI : Instr := .pmrg { slot := .v0, gk := 3, gs := 0 } (f2 1 2 3 0 0)
def union (s : State) : State :=
  s.onCore 0 fun k => { k with regs := { k.regs with clocks := ((k.regs.clocks.put 0 1 0x40100000).put 0 2 0x40100000).put 0 3 0xC0880000 } }
theorem witness_VectorMerges : ([one .when, .mrg hV (f3 1 2 3 0 4)].all (vOk 0)) = true ∧
    (((at_ (.mrg hV (f3 1 2 3 0 4))).sources (.mrg hV (f3 1 2 3 0 4))).map SrcVal.tag) = [31, 31, 31] ∧
    ((union (at_ pmrgI)).clears pmrgI && (union (at_ pmrgI)).readable pmrgI) = true := by decide +kernel
/-- Equal vectors, and vectors that differ in lane 0. -/
def vchkI : Instr := .vchk hV (f2 0 0 1 0 0)
theorem witness_VectorSetup : clearAll [.vcfg hV { vd := 0, imm := 0x42000000, fp := 0, lo := 0 }, vchkI] = true ∧ (at_ vchkI).readable vchkI = true ∧
    (at_ vchkI).source vchkI 0 = (at_ vchkI).source vchkI 1 ∧
    (let s := (at_ vchkI).onCore 0 fun k => k.setSpace 4096 8 5 31
     s.clears vchkI && s.readable vchkI && s.source vchkI 0 == 5 && s.source vchkI 1 == 0) = true := by decide +kernel
/-- Results in flight, before and after they are due. -/
def sFlight (live : Bool) : Flight := { id := 0, guard := 31, what := .sres 5 7 3, live := live }
def vFlight : Flight := { id := 0, guard := 31, what := .vres 4096 7 (2 ^ 128 - 1) 1 4 0 }
theorem witness_ResultsLand : ([true, false].all fun l => (sFlight l).what == .sres 5 7 3 && (sFlight l).live == l) = true ∧
    vFlight.what = .vres 4096 7 (2 ^ 128 - 1) 1 4 0 ∧ (2 : Nat) < 3 ∧ (3 : Nat) ≤ 3 ∧ (3 : Nat) < 4 ∧ (4 : Nat) ≤ 4 := by decide +kernel
/-- Channel 1 of the core's grid runs from the core to itself; a cell of 128 bytes may stand at its head. -/
def chan (ws : Nat) (lw : Int) (full pres : Bool) (stamp : Nat) (s : State) : State :=
  let s := { s with channels := [(1, { valid := true, depth := 2, cell := 128, mdl := 5, ring := 0x1000, ws := ws, lw := lw })],
                    chantab := [(1, { valid := true })] }
  words [(spadBase 0 + 0x1000, BitVec.ofNat 64 stamp), (spadBase 0 + 0x1008, (if full then 2 else 0) + if pres then 1 else 0)] s
def wch (imm : BitVec 21) : WF := { st := 9, dl := 0, esc := 0, sa := 0, sb := 0, imm := imm }
def chwrI : Instr := .chwr hC (wch 0x1001)
def chrdI : Instr := .chrd hC (wch 0x1001)
def chrdyI : Instr := .chrdy hC (wch 0x1000)
def absnI : Instr := .absn hS (fX 0 0 0 1)
def plainWait (s : State) (i : Instr) : Bool := s.clears i && s.readable i && (s.issuer i).ctl.back.isNone
/-- A second value for an instant; a free cell; no free cell; and a marker. -/
theorem witness_ChannelWrites :
    ([(chan 1 0 false false 0, true, true), (chan 0 (-1) false false 0, false, true), (chan 2 (-1) true true 0, false, false)].all fun q =>
      let s := q.1 (at_ chwrI)
      plainWait s chwrI && ((s.prepared chwrI).channelFault 0 1 true (some ((s.issuer chwrI).elemSize 1))).isNone && decide ((s.issuer chwrI).out 1 < 256) &&
        room (s.issuer chwrI) .c0 &&
        chanKey chwrI s (wch 0x1001) == 1 && decide (((s.issuer chwrI).ic : Int) ≤ ((s.prepared chwrI).channel 1).lw) == q.2.1 &&
        (s.prepared chwrI).cellFree 1 == q.2.2) = true ∧
    (let s := chan 0 (-1) false false 0 (at_ absnI)
     plainWait s absnI && ((s.prepared absnI).channelFault 0 1 true none).isNone && decide (((s.prepared absnI).channel 1).lw < (s.issuer absnI).ic) &&
       (s.prepared absnI).cellFree 1) = true := by decide +kernel
/-- At the head a value of this instant, a marker, a value of a later instant, and nothing. -/
theorem witness_ChannelReads :
    ([(true, true, 0), (true, false, 0), (true, true, 1), (false, false, 0)].all fun q =>
      let s := chan 1 0 q.1 q.2.1 q.2.2 (at_ chrdI)
      let p := s.prepared chrdI
      plainWait s chrdI && okWith ((s.issuer chrdI).resolve 1 128 true 0 0) (fun _ => true) && (s.issuer chrdI).elemSize 1 == 128 &&
        (p.channelFault 0 1 false (some 128)).isNone && p.headCell 1 == some (spadBase 0 + 0x1000) && p.cellFull (spadBase 0 + 0x1000) == q.1 &&
        p.cellPres (spadBase 0 + 0x1000) == q.2.1 && decide ((s.issuer chrdI).ic < p.cellStamp (spadBase 0 + 0x1000)) == (q.2.2 == 1)) = true ∧
    ([(true, true, 0), (true, false, 0), (true, true, 1), (false, false, 0)].all fun q =>
      let s := chan 1 0 q.1 q.2.1 q.2.2 (at_ chrdyI)
      let p := s.prepared chrdyI
      plainWait s chrdyI && (p.channelFault 0 1 false none).isNone && p.headCell 1 == some (spadBase 0 + 0x1000) && p.cellFull (spadBase 0 + 0x1000) == q.1 &&
        p.cellPres (spadBase 0 + 0x1000) == q.2.1 && decide ((s.issuer chrdyI).ic < p.cellStamp (spadBase 0 + 0x1000)) == (q.2.2 == 1)) = true ∧
    ([chrdI, chrdyI].all fun i =>
      let s := csrs [(csrIC, 1)] (words [(spadBase 0 + 0x1090, 1), (spadBase 0 + 0x1098, 3)] (chan 2 0 true true 0 (at_ i)))
      let p := s.prepared i
      let u := p.consumeCell 1
      plainWait s i && p.headCell 1 == some (spadBase 0 + 0x1000) && p.cellFull (spadBase 0 + 0x1000) && decide (p.cellStamp (spadBase 0 + 0x1000) < (s.issuer i).ic) &&
        u.headCell 1 == some (spadBase 0 + 0x1090) && u.cellFull (spadBase 0 + 0x1090) && u.cellStamp (spadBase 0 + 0x1090) == (s.issuer i).ic &&
        u.cellPres (spadBase 0 + 0x1090)) = true := by decide +kernel
/-- Barrier 3 of the cluster. -/
def barrier3 (b : Barrier) (s : State) : State := { s with barriers := [(3, b)] }
def member3 : Barrier := { members := [(0, 0)] }
def barOp (mk : Head → WF → Instr) : Instr := mk hS (fW 0 0 0 0 3)
def names3 (s : State) (i : Instr) (m : Bool) : Bool :=
  s.clears i && (s.issuer i).ctl.back.isNone && (s.prepared i).barrierOf 0 3 == some 3 && (s.prepared i).isMember 0 3 == m
/-- A member without an arrival, one that is released, one that has arrived and issues again; and a core that is no member. -/
theorem witness_Barriers :
    ([barOp .bara, barOp .barx, barOp .barw, barOp .bar].all fun i => names3 (barrier3 member3 (at_ i)) i true) = true ∧
    ([barOp .bara, barOp .barx, barOp .barw, barOp .bar].all fun i => names3 (at_ i) i false) = true ∧
    ((barrier3 member3 (at_ (barOp .barw))).prepared (barOp .barw)).hasArrived 0 3 = false ∧
    (((barrier3 member3 (at_ (barOp .bar))).prepared (barOp .bar)).barrier 3).arrivals = [] ∧
    bit ((barrier3 member3 (at_ (barOp .bar))).issuer (barOp .bar)).ctl.dmask Slot.s.maskBit = false ∧
    ([barOp .barw, barOp .bar].all fun i =>
      let s := ctl (fun c => { c with dmask := 2 ^ Slot.s.maskBit }) (barrier3 { member3 with release := [(0, 0, 0)] } (at_ i))
      names3 s i true && bit (s.issuer i).ctl.dmask Slot.s.maskBit &&
        ((s.prepared i).barrier 3).release.any fun r => r.1 == 0 && decide (r.2.1 ≤ (s.prepared i).now) && decide (r.2.2 ≤ (s.prepared i).cycleOf 0)) = true := by
  decide +kernel
/-- A latch that is not armed, armed, holding an arrival, and passed. -/
def latch7 (n a : Nat) (p : Bool) (s : State) : State := { s with latches := [(7, { n := n, a := a, passed := p })] }
def ltarI : Instr := .ltar hS (fW 0 0 0 0 0x207)
def ltinI : Instr := .ltin hS (fW 0 0 0 0 7)
def ltwtI : Instr := .ltwt hS (fW 9 0 0 0 7)
theorem witness_Latches : clearAll [ltarI, ltinI, ltwtI] = true ∧ ((at_ ltarI).prepared ltarI).latch 7 = {} ∧
    (let s := latch7 2 1 false (at_ ltarI)
     s.clears ltarI && (s.prepared ltarI).latch 7 == { n := 2, a := 1, passed := false }) = true ∧
    (let s := latch7 2 1 false (at_ ltinI)
     s.clears ltinI && (s.prepared ltinI).latch 7 == { n := 2, a := 1, passed := false } && (s.prepared ltinI).ltinFlying 7 == 0) = true ∧
    (let s := (latch7 2 1 false (at_ ltinI)).onCore 0 fun k => { k with flights := [{ id := 0, guard := 31, what := .ltin 7 }] }
     s.clears ltinI && ((s.prepared ltinI).latch 7).a + (s.prepared ltinI).ltinFlying 7 == ((s.prepared ltinI).latch 7).n) = true ∧
    ((at_ ltinI).prepared ltinI).latch 7 = {} ∧
    (let s := latch7 2 2 true (at_ ltwtI)
     plainWait s ltwtI && ((s.prepared ltwtI).latch 7).passed) = true ∧ plainWait (at_ ltwtI) ltwtI = true ∧
    (((at_ ltwtI).prepared ltwtI).latch 7).passed = false := by decide +kernel
/-- Nothing outstanding, and a load in flight. -/
def loadFlight : Flight := { id := 0, guard := 31, what := .load (.sreg 40) 7 }
def busy (s : State) : State := s.onCore 0 fun k => { (k.addOut 0 1) with flights := [loadFlight], ctl := { k.ctl with seq := 1 } }
def drnI : Instr := .drn hS (fW 9 0 0 0 8)
def waitcI : Instr := .waitc hS (fW 9 0 0 0 0)
def sleepI : Instr := .sleep hS (fW 0 0 4 0 0)
def pwraI (n : BitVec 21) : Instr := .pwra hS (fW 9 0 0 0 n)
theorem witness_DrainsAndPower : ([drnI, waitcI, sleepI, pwraI 0, pwraI 3, .pwrr hS (fW 0 0 0 0 0)].all fun i => plainWait (at_ i) i) = true ∧
    (iss drnI).drained 0 0 (iss drnI).ctl.seq = true ∧ (iss waitcI).out 0 = 0 ∧
    (plainWait (busy (at_ drnI)) drnI && !((busy (at_ drnI)).issuer drnI).drained 0 0 ((busy (at_ drnI)).issuer drnI).ctl.seq) = true ∧
    (plainWait (busy (at_ waitcI)) waitcI && ((busy (at_ waitcI)).issuer waitcI).out 0 == 1) = true ∧
    (let s := regs [(4, 9)] (at_ sleepI)
     plainWait s sleepI && decide ((s.prepared sleepI).now < ((s.issuer sleepI).sreg 4).toNat)) = true ∧
    (iss (pwraI 3)).ctl.level = 0 ∧ bits (((at_ (pwraI 3)).prepared (pwraI 3)).teamRegion 0 3 3) 31 29 = 0 ∧
    (let s := { at_ (pwraI 3) with regions := [(0, [0, 0, 0, BitVec.ofNat 64 (7 * 2 ^ 29)])] }
     plainWait s (pwraI 3) && bits ((s.prepared (pwraI 3)).teamRegion 0 3 3) 31 29 == 7 && ((s.prepared (pwraI 3)).cluster 0).grants == [] &&
       decide ((s.prepared (pwraI 3)).grantSum 0 + budget 3 ≤ ((s.prepared (pwraI 3)).cluster 0).cal + budget 0)) = true ∧
    (let s := ({ at_ (pwraI 3) with regions := [(0, [0, 0, 0, BitVec.ofNat 64 (7 * 2 ^ 29)])] } : State).onCluster 0 fun c => { c with cal := 0 }
     let p := s.prepared (pwraI 3)
     plainWait s (pwraI 3) && (p.cluster 0).ask 0 3 == [(0, 3, 0)] && decide ((p.cluster 0).cal + budget (p.core 0).heldLevel < p.grantSum 0 + budget 3)) = true := by
  decide +kernel
/-- A reduction instance between the core and itself, its round delivered. -/
def reduction : Reduction :=
  { grid := 0, op := 0, fmt := 0, chain := false, win := 4, contributors := [(0, 0)], receivers := [(0, 0)],
    rounds := [(0, { result := some (5, 0), delivered := true })] }
def cpostI : Instr := .cpost hS (fW 9 0 4 5 0)
def rpktI : Instr := .rpkt hC (fC 0 4 0 0 0 0)
def rrcvI : Instr := .rrcv hC (fW 9 0 4 0 0)
theorem witness_PostsAndReductions :
    (let s := regs [(4, 0x40000), (5, 3)] (at_ cpostI)
     plainWait s cpostI && decide (64 ≤ (s.issuer cpostI).elemSize 0) && (s.prepared cpostI).physOf 0 0x40000 == some 0x40000 &&
       (s.prepared cpostI).bucketFree 0 ((s.prepared cpostI).bucketOf 0x40000)) = true ∧
    (let s := regs [(4, 0x40000), (5, 3)] (at_ cpostI)
     let b := (s.prepared cpostI).bucketOf 0x40000
     let u := s.onGrid 0 fun g => { g with posts := List.replicate 256 { payload := [], addr := 0, bucket := b, entry := 0, instant := 0, core := 0, seq := 0 } }
     plainWait u cpostI && decide (64 ≤ (u.issuer cpostI).elemSize 0) && (u.prepared cpostI).physOf 0 0x40000 == some 0x40000 &&
       !(u.prepared cpostI).bucketFree 0 ((u.prepared cpostI).bucketOf 0x40000)) = true ∧
    ([rpktI, rrcvI].all fun i =>
      let s := { at_ i with reductions := [(0, reduction)] }
      let p := s.prepared i
      plainWait s i && (s.issuer i).elemSize 0 == 128 && okWith ((s.issuer i).resolve 0 128 true 0 0) (fun _ => true) &&
        (p.teamOf 0).grid * 65536 + ((s.issuer i).sreg 4).toNat % 65536 == 0 && assoc p.reductions 0 == some reduction &&
        p.memberIx 0 reduction.contributors == some 0 && p.memberIx 0 reduction.receivers == some 0) = true ∧
    (reduction.round (reduction.asked.get 0 0)).cancelled = none ∧ (reduction.round (reduction.asked.get 0 0)).result = some (5, 0) ∧
    (reduction.round (reduction.asked.get 0 0)).delivered = true := by decide +kernel
/-- A C-slot operation at an address in s4. -/
def atA (i : Instr) : State := regs [(4, 0x40000)] (at_ i)
def tldI : Instr := .tld hC (fC 0 4 0 0 0 0)
def gathI : Instr := .gath hC (fC 0 4 0 0 0 1)
def tldwI : Instr := .tldw hC (fC 0 4 5 6 0 0)
def tldwS : State := regs [(4, 0x40000), (6, 32)] (at_ tldwI)
/-- Loads of an element of HBM and of one in the core's own scratchpad. -/
theorem witness_ElementLoads :
    (let s := atA tldI
     s.clears tldI && s.headsOf tldI == [] && okWith ((s.issuer tldI).resolve 0 128 true 0 0) (fun _ => true) &&
       okWith (tileSegs (fC 0 4 0 0 0 0) (s.sources tldI) 0x40000 128) (fun g => okWith ((s.prepared tldI).reachSegs 0 g .read 0 .read) fun r => !ownPad 0 r.1) &&
       decide ((s.issuer tldI).out 0 < 256) && room (s.issuer tldI) .c0) = true ∧
    (let s := own tldI
     s.clears tldI && okWith (tileSegs (fC 0 4 0 0 0 0) (s.sources tldI) padVa 128) fun g =>
       okWith ((s.prepared tldI).reachSegs 0 g .read 0 .read) fun r => ownPad 0 r.1) = true ∧
    (let s := atA gathI
     s.clears gathI && s.readable gathI && s.headsOf gathI == [] && elementEa (s.issuer gathI) (fC 0 4 0 0 0 1) % 8 == 0 &&
       okWith ((s.prepared gathI).reachSegs 0 (laneSegs (fC 0 4 0 0 0 1) 128 0x40000 (s.source gathI 0)) .read 3 .read) fun r => !ownPad 0 r.1) = true ∧
    (let s := tldwS
     s.clears tldwI && okWith ((s.prepared tldwI).reachPages 0 0x40000 32 .read 0) fun ps =>
       (ps.all fun q => !inAperture q.2.2) && okWith ((s.prepared tldwI).checkPieces 0 .read 0 .read ps) fun _ => true) = true ∧
    (tldwS.issuer tldwI).sreg 5 = 0 ∧ (tldwS.issuer tldwI).sreg 6 = 32 ∧ (tldwS.issuer tldwI).out 0 = 0 ∧
    (∀ q ∈ [(atA tldI, tldI), (atA gathI, gathI), (tldwS, tldwI)], room (q.1.issuer q.2) .c0 = true ∧ q.1.cores.all (fun e => e.2.copies.isEmpty) = true ∧
      (q.1.issuer q.2).l1 = []) := by decide +kernel
def tstI : Instr := .tst hC (fC 0 4 0 0 0 0)
def scatI : Instr := .scat hC (fC 0 4 0 0 0 0)
def mcstI : Instr := .mcst hC (fC 0 4 0 0 0 0)
/-- A page that the core does not cache: its first byte and the last of n bytes stand in HBM. -/
def plainHbm (q : Nat × Nat × Page) : Bool :=
  (q.2.2.home != 0 || q.2.2.alloc != 2) && decide (servedPa 0 q.2.2 + q.2.1 ≤ 4 * dieBytes)
def storeOk (i : Instr) : Bool :=
  let s := atA i
  let k := s.issuer i
  s.clears i && s.readable i && s.headsOf i == [] && k.ctl.writtenLin == [] && k.ctl.writtenSwz == [] && k.l1 == [] && k.out 1 == 0 && room k .c0
theorem witness_ElementStores : [tstI, scatI, mcstI].all storeOk = true ∧
    okWith (tileSegs (fC 0 4 0 0 0 0) ((atA tstI).sources tstI) 0x40000 128) (fun g =>
      okWith (((atA tstI).prepared tstI).reachSegs 0 g .write 0 .write) fun r => r.1.all fun x => x.2.all plainHbm) = true ∧
    okWith (((atA scatI).prepared scatI).reachSegs 0 (laneSegs (fC 0 4 0 0 0 0) 128 0x40000 ((atA scatI).source scatI 4)) .write 2 .write)
      (fun r => r.1.all fun x => x.2.all plainHbm) = true ∧
    okWith (((atA mcstI).prepared mcstI).reachPages 0 0x40000 128 .write 0) (fun ps => ps.length == 1 && ps.all plainHbm &&
      okWith (((atA mcstI).prepared mcstI).checkReplicas 0 ps) fun _ => true) = true ∧
    ([false, true].all fun wt =>
      let s := cachedAt wt tstI
      s.clears tstI && s.readable tstI && s.headsOf tstI == [] && decide ((s.issuer tstI).out 1 < 256) && (s.issuer tstI).elemSize 0 == 128 &&
        okWith (tileSegs (fC 0 4 0 0 0 0) (s.sources tstI) padVa 128) (· == [(0, padVa, 128)]) &&
        okWith ((s.prepared tstI).reachSegs 0 [(0, padVa, 128)] .write 0 .write) fun r =>
          r.1.length == 1 && r.1.all fun g => g.1 == (0, padVa, 128) && g.2.length == 1 && g.2.all fun y => y.1 == padVa && y.2.1 == 128 && cachedHbm wt 128 y.2.2) = true := by
  decide +kernel
def cpyI : Instr := .cpy hC (fC 8 4 5 6 7 0)
def cpyqI : Instr := .cpyq hC (fC 0 4 0 0 7 0)
def pfchI : Instr := .pfch hC (fC 0 4 0 0 0 0)
def flshI : Instr := .flsh hC (fC 0 4 0 6 0 0)
def cpyS : State := regs [(4, 0x42000), (5, 0x40000), (6, 128)] (at_ cpyI)
/-- A copy queue of one slot at 0x42000, its descriptor at 0x40000. -/
def cpyqS (wr : Word) : State := words [(0x40000, 0x42000), (0x40010, wr)] (atA cpyqI)
def cached (i : Instr) : State := regs [(4, BitVec.ofNat 64 padVa)] ((at_ i).mapPage 0 padVa (pteOf 5 0 false true true false))
theorem witness_CopiesAndCaches :
    (cpyS.clears cpyI && okWith ((cpyS.prepared cpyI).checkCopy 0 0x40000 128 .copySrc 0 .read) (fun s1 =>
        okWith (s1.checkCopy 0 0x42000 128 .copyDst 0 (.cwrite 0)) fun _ => true) &&
      ((piecesOf 0x40000 128).all fun q => (placeOf (((cpyS.prepared cpyI).physOf 0 q.1).getD 0)).map Prod.fst == some .hbm) &&
      decide ((cpyS.issuer cpyI).out 2 < 1024) && room (cpyS.issuer cpyI) .c0 && cpyS.cores.all (fun e => e.2.copies.isEmpty) && ((cpyS.issuer cpyI).csr csrNEXTID).toNat == 0) = true ∧
    ([0, 1].all fun w => let s := cpyqS w
      s.clears cpyqI && s.readable cpyqI && s.headsOf cpyqI == [] && (s.issuer cpyqI).l1 == [] && (s.issuer cpyqI).out 1 == 0 && room (s.issuer cpyqI) .c0 &&
      decide (64 ≤ (s.issuer cpyqI).elemSize 0) && okWith ((s.prepared cpyqI).reach 0 0x40000 64 .atomic 3 .write) fun r =>
        r.1.length == 1 && r.1.all fun q => q.1 == 0x40000 && q.2.1 == 64 && okWith (r.2.slotReach 0 q.2.2) fun _ => true) = true ∧
    okWith ((cpyqS 0).translate ((cpyqS 0).ctxOf 0) 0x40000 .read) (fun p => servedPa 0 p == 0x40000) = true ∧
    okWith ((cpyqS 0).translate ((cpyqS 0).ctxOf 0) 0x42000 .write) (fun p => servedPa 0 p == 0x42000) = true ∧
    (let s := regs [(4, 0x10000000000)] (at_ pfchI)
     s.clears pfchI && !okWith ((s.prepared pfchI).translate ((s.prepared pfchI).ctxOf 0) 0x10000000000 .read) fun _ => true) = true ∧
    (let s := cached pfchI
     s.clears pfchI && okWith ((s.prepared pfchI).translate ((s.prepared pfchI).ctxOf 0) padVa .read) fun y =>
       y.home == 0 && y.alloc == 2 && decide (servedPa 0 y < 4 * dieBytes) && decide (y.pa < 4 * dieBytes)) = true ∧
    ([own pfchI, regs [(4, BitVec.ofNat 64 padVa)] ((at_ pfchI).mapPage 0 padVa (pteOf 5 0 false true true false)), atA pfchI].any fun s =>
      s.clears pfchI && okWith ((s.prepared pfchI).translate ((s.prepared pfchI).ctxOf 0) (elementEa (s.issuer pfchI) (fC 0 4 0 0 0 0)) .read) fun y =>
        y.home != 0 || y.alloc == 0 || y.alloc == 1) = true ∧
    ([0, 1].all fun sco =>
      let i : Instr := .flsh hC { fC 0 4 0 6 0 0 with sco := sco }
      let s := regs [(6, 256)] (cached i)
      s.clears i && rangeLines (s.prepared i) 0 padVa 256 == [0xA00, 0xA01] && decide ((s.issuer i).out 1 < 256) && room (s.issuer i) .c0) = true := by
  decide +kernel
/-- Routine 3 is valid, and the core's activity level admits it. -/
def lvl7 (i : Instr) : State := (ctl (fun c => { c with level := 7 }) (at_ i)).onCore 0 fun k => { k with mx := { k.mx with routines := [(3, 1)] } }
def mcallI : Instr := .mcall hM (fM 3 0 0)
def mzroI : Instr := .mzro hM (fM 0 0 0)
def mcfgI : Instr := .mcfg hM (fM 0 0 4)
def mactI : Instr := .mact hM (fM 0 0 0)
def mstpI : Instr := .mstp hM (fM 1 0 0)
def mrtnI : Instr := .mrtn hM (fM 1 0 4)
/-- An activation table from 0 to 1, sixteen END steps, and a routine of one step. -/
def mactS : State := (at_ mactI).onCore 0 fun k => k.setSpace 4096 8 (0x3F800000 * 2 ^ 32) 31
def mstpS : State := (at_ mstpI).onCore 0 fun k => k.setSpace 4096 128 (ofLanes 8 (List.replicate 16 0x9000000000000000)) 31
def mrtnS : State := regs [(4, 0x0000000000000000)] (at_ mrtnI)
def mcfgS : State := regs [(4, 0x6D082)] (at_ mcfgI)
theorem witness_MatrixOps :
    ((lvl7 mcallI).clears mcallI && decide (((lvl7 mcallI).issuer mcallI).out 4 < 5)) = true ∧
    ((lvl7 mzroI).clears mzroI && decide (((lvl7 mzroI).issuer mzroI).out 4 < 5) &&
      okWith (((lvl7 mzroI).issuer mzroI).resolve 0 (((lvl7 mzroI).issuer mzroI).elemSize 0) true 0 0) fun _ => true) = true ∧
    (mcfgS.clears mcfgI && (mcfgAcf 2 2 0x2D true).isSome) = true ∧
    (mactS.clears mactI && mactS.readable mactI && (Fmt.fp32.value (laneN (mactS.source mactI 0) 4 0)).lt (Fmt.fp32.value (laneN (mactS.source mactI 0) 4 1)) &&
      [0, 1].all fun j => !(Fmt.fp32.value (laneN (mactS.source mactI 0) 4 j)).isNaN && !(Fmt.fp32.value (laneN (mactS.source mactI 0) 4 j)).isInf) = true ∧
    (mstpS.clears mstpI && mstpS.readable mstpI && (List.range 16).all fun j => stepOk (wordN (laneN (mstpS.source mstpI 0) 8 j))) = true ∧
    (mrtnS.clears mrtnI && routineOk ((mrtnS.issuer mrtnI).sreg 4)) = true := by decide +kernel
/-- An `ADD` that slot S issues again under a header without words; a reserved opcode; and a guard clock that is absent. -/
def again1 : State :=
  ((words [(placedPc, 0xF000000000000000)] (at_ addF)).onCore 0 fun k => k.setWord Slot.s.ix ((encode addF).getD (.s, 0)).2 2)
def reserved : Instr := .illegalOpcode hS 0x1C00000000000000
def absent (i : Instr) : State := (at_ i).onCore 0 fun k =>
  { k with regs := { k.regs with clocks := k.regs.clocks.put 0 1 0x40201000 } }
def addG : Instr := .add { slot := .s, gk := 1, gs := 0 } (fR 5 4 3)
theorem witness_ReissueAndIllegal : Reissues again1 .s ∧ (again1.landed.core again1.turn).word Slot.s.ix = ((encode addF).getD (.s, 0)).2 ∧
    (encode addF).map Prod.fst = some .s ∧
    ((at_ addF).atIssue 0 && ((at_ addF).beforeIssue 0).1.isNone && (opcodeClass (bits (0x1C00000000000000 : Word).toNat 63 56)).isNone) = true ∧
    ((absent addG).passes addG && !(absent addG).guards addG) = true := by
  refine ⟨⟨?_, ?_, ?_, ?_, ?_, ?_⟩, ?_⟩ <;> decide +kernel
/-- One core, resident and at an issue, for the events. -/
def base : State := at_ addF
def withCore (f : Core → Core) : State := base.onCore 0 f
def flight (id : Nat) (live : Bool) (w : Flying) : Flight := { id := id, guard := 31, what := w, live := live }
def inFlight (l : List Flight) : State := withCore fun k => { k with flights := l }
def heldBlock : MxEntry := { word := 0, wc := [], win := { a := (0, 0), acc := (0, 0), bias := (0, 0), q := (0, 0), w := (0, 1024) }, guard := 31, before := 0 }
theorem witness_DataArrive :
    ([Flying.load (.sreg 5) 7, .load (.space 0 128) 7, .atomic (.sreg 5) 7 0, .atomic .none 7 0, .store [] false [] false, .store [] true [] false,
      .tldw 0 [1, 2], .ltin 7, .cell 1 0 [1] 0 true].all fun w => [true, false].all fun l =>
        ((inFlight [flight 1 l w]).core 0).flight 1 == some (flight 1 l w) && ((inFlight [flight 1 l w]).core 0).l1 == []) = true ∧
    (((inFlight []).onCore 0 fun k => { k with mx := { k.mx with queue := [heldBlock] } }).core 0).blockHeld (flight 1 true (.tldw 0 [1, 2])) 0 2 = true ∧
    ((inFlight []).core 0).blockHeld (flight 1 true (.tldw 0 [1, 2])) 0 2 = false ∧
    ({ flight 1 true (.tldw 0 [1, 2]) with skip := [(0, 1)] } : Flight).hasWritten 0 = true ∧
    flight 0 true (.store [] false [7] false) ∈ ((inFlight [flight 0 true (.store [] false [7] false), flight 1 true (.ltin 7)]).core 0).flights ∧
    (chan 1 0 false false 0 (inFlight [])).cellPlace ((chan 1 0 false false 0 (inFlight [])).channel 1) 0 = some (spadBase 0 + 0x1000) := by decide +kernel
/-- A copy within HBM, one to an address that nothing maps, and one that has stopped. -/
def copyTo (dst : Nat) (st : Option Nat) : Copy :=
  { id := 3, dst := dst, src := 0x40000, len := 16, data := List.replicate 16 9, issued := 0, cost := 8, promise := 0, team := 0, stopped := st }
def copying (x : Copy) : State := withCore fun k => { k with copies := [x] }
theorem witness_CopyEvents :
    (let s := copying (copyTo 0x42000 none)
     (s.core 0).copy 3 == some (copyTo 0x42000 none) && (s.copyReach 0 (copyTo 0x42000 none)).2.isNone && piecesOf 0x42000 16 == [(0x42000, 16)] &&
       okWith (s.translate (s.ctxOf 0) 0x42000 .copyDst) (fun p => decide (servedPa 0 p + 16 ≤ 4 * dieBytes)) && (s.core 0).l1 == [] &&
       decide ((copyTo 0x42000 none).promise ≤ s.now) && !(copyTo 0x42000 none).taken && !(copyTo 0x42000 none).complete) = true ∧
    ((copying (copyTo 0x10000000000 none)).copyReach 0 (copyTo 0x10000000000 none)).2.isSome = true ∧
    (let s := copying (copyTo 0x42000 (some 0))
     let x := copyTo 0x42000 (some 0)
     let m := (s.copyAdmit 0 x).2.copyMore 0 x
     (s.copyAdmit 0 x).1.isNone &&
       decide (0 < (m.2.copyReach 0 { ((m.2.core 0).copy 3).getD x with data := x.data ++ m.1 }).1)) = true ∧
    (copyTo 0x42000 none).todo = [] ∧
    (∀ x ∈ ((copying { copyTo 0x42000 none with complete := true }).core 0).copies, x.late = false ∧ x.complete = true) ∧
    (∀ x ∈ ((copying { copyTo 0x42000 none with complete := true, late := true }).core 0).copies, x.late = true ∧ x.taken = false ∧ x.stopped = none) := by
  decide +kernel
/-- A bundle of one waiting operation. -/
def aWait (k : WaitKind) (esc : Bool) : Wait := { slot := 0, kind := k, st := 9, wall := true, dl := 0, esc := esc, word := 0, guard := 31 }
def aBundle (x : Wait) : Waiting :=
  { t0 := 0, cyc := 0, rt0 := 0, waits := [x], effs := [(0, 31, [])], fra := placedPc, next := placedPc + 16, rep := 0, taken := false, steps := [],
    weight := 1, nullified := 0, undo := [] }
def waitingFor (w : Waiting) : State := ctl (fun c => { c with wait := some w }) base
def standing (k : WaitKind) (esc : Bool) : State := waitingFor (aBundle (aWait k esc))
theorem witness_WaitsEnd :
    (∀ k ∈ [WaitKind.ltwt 7, .waitc 0 31 31 31, .absn 1], ∀ e ∈ [true, false], WaitsFor (standing k e) 0 (aBundle (aWait k e)) (aWait k e) ∧
      (standing k e).expired 0 (aBundle (aWait k e)) (aWait k e) = true ∧ alone (standing k e) 0 ∧ ((standing k e).core 0).handler = false ∧
      (escalates (standing k e) 0 (aWait k e) ↔ e = true)) ∧
    ((latch7 2 2 true (standing (.ltwt 7) false)).latch 7).passed = true ∧ ((standing (.ltwt 7) false).latch 7).passed = false ∧
    ((busy (standing (.waitc 0 31 31 31) false)).core 0).out 0 = 1 ∧
    (chan 2 (-1) true true 0 (standing (.absn 1) false)).cellFree 1 = false ∧
    (let s := chan 2 (-1) true true 0 (standing (.absn 1) false)
     (s.channel 1).lw < ((s.core 0).ic : Int) ∧ s.expired 0 (aBundle (aWait (.absn 1) false)) (aWait (.absn 1) false) = true) ∧
    (let w := { aBundle { aWait (.ltwt 7) false with out := some (stOK, 0, 0) } with effs := [] }
     (waitingFor w).isWaiting 0 = true ∧ ((waitingFor w).core 0).ctl.wait = some w ∧ w.effs = []) ∧
    (((standing (.ltwt 7) false).onTeam 0 fun t => { t with yreq := some 0 }).teamOf 0).yreq = some 0 ∧ (standing (.ltwt 7) false).now = 0 := by
  unfold WaitsFor alone escalates; decide +kernel
/-- A barrier whose only member has arrived, is released, or has neither. -/
theorem witness_BarrierPhases :
    (barrier3 { member3 with arrivals := [(0, 0)] } base).phaseComplete 3 = true ∧ (barrier3 member3 base).phaseComplete 3 = false ∧
    (let s := standing (.bar 3) false
     WaitsFor s 0 (aBundle (aWait (.bar 3) false)) (aWait (.bar 3) false) ∧
     Released (barrier3 { member3 with release := [(0, 0, 0)] } s) 0 3 ∧ ¬Released s 0 3) := by unfold WaitsFor Released; decide +kernel
/-- A queued routine, a queued `MZRO`, a routine that runs a step of each kind, and one that has ended. -/
def matrix (f : Mx → Mx) : State := withCore fun k => { k with mx := f k.mx }
def zeroing : MxEntry := { heldBlock with zero := some (0, 128) }
def routine (ended : Bool) : Routine := { entry := heldBlock, step := 0, wc := List.replicate 8 0, lc := List.replicate 8 0, nc := 96, ended := ended }
def sequence (ended : Bool) (step : Word) : State := matrix fun m => { m with run := some (routine ended), store := [(0, step)] }
theorem witness_MatrixEvents : ((matrix fun m => { m with queue := [heldBlock] }).core 0).mxReady = some heldBlock ∧ heldBlock.zero = none ∧
    ((matrix fun m => { m with queue := [zeroing] }).core 0).mxReady = some zeroing ∧ zeroing.zero = some (0, 128) ∧ zeroing.skip = [] ∧ base.halting 0 = false ∧
    (matrix fun m => { m with queue := [heldBlock] }).halting 0 = false ∧ (matrix fun m => { m with queue := [zeroing] }).halting 0 = false ∧
    ([0x9000000000000000, 0x8000000000000000, 0x7000000000000001, 0x6000000000000001, 0x6000000000000002, 0x4000000000000101,
      0x1000000000000101, 0x0000000000000000, 0x2000000000000105, 0x3000000000000001, 0x4000000000000001, 0x5000000000000007].all fun (w : Word) => stepOk w && ((sequence false w).core 0).mx.run == some (routine false) &&
        ((sequence false w).core 0).mx.store.get 0 0 == w) = true ∧
    (let w := (0x4000000000000101 : Word).toNat
     bit w 8 = true ∧ cmdACC heldBlock.word = false ∧ 0 < stRows w ∧ (routine false).nc ≤ 96) ∧
    ((sequence true 0).core 0).mx.run = some (routine true) := by decide +kernel
/-- A `BLDW` step with and without weight bytes of an earlier `TLDW` still due; a routine that requantises, and one that does not; and an
`ACCW` write and a `CHN` step with a window, one byte of which no other byte of the block shares. -/
theorem witness_MatrixSteps :
    (let k := ((inFlight [flight 0 true (.tldw 0 [1, 2])]).onCore 0 id).core 0
     let r := { routine false with entry := { heldBlock with before := 1 } }
     bldwWaits k r = true ∧ bldwWaits k (routine false) = false) ∧
    (let w := (0x2000000000000105 : Word).toNat
     bits w 63 60 = 2 ∧ stRows w ≤ 96) ∧
    (let w := (0x4000000000000001 : Word).toNat
     bits w 63 60 = 4 ∧ bit w 8 = false) ∧
    (let w := (0x5000000000000007 : Word).toNat
     let e := { heldBlock with word := 0x100000000, win := { heldBlock.win with acc := (0x4000, 0x400), q := (0x5000, 0x400) }, skip := [(0x4001, 1)] }
     bits w 63 60 = 5 ∧ bit w 2 = true ∧ cmdRQ e.word = true ∧ cmdRQ heldBlock.word = false ∧
       windowAddr e.win.acc (0x4000 + 2) % 131072 = 0x4002 ∧ windowAddr e.win.q (0x5000 + 39) % 131072 = 0x5027 ∧
       ¬∃ q ∈ e.skip, q.1 ≤ 0x4002 ∧ 0x4002 < q.1 + q.2) := by decide +kernel
/-- A core that has stopped for the supervisor with a trap. -/
def stopped (cause : Nat) (frs : List Word) : State :=
  ctl (fun c => { c with mode := .stopped, supervisor := some { cause := cause, step := 6, frs := frs } }) base
/-- Four cores of cluster 0 belong to the root region. -/
def region (w : List Word) (s : State) : State := { s with regions := [(0, w)] }
def small : List Word := [0, 0x10004]
def cell5 : Granule := { live := .own 0, team := 0 }
def aLaunch : Running := { words := [0x0100000000000000], start := 0 }
theorem pagesWith_of_empty (s : State) (b : Nat) (hf : s.folios = []) (hg : s.granules = []) (hh : s.handoffs = []) (hr : s.records = []) :
    s.pagesWith b 0 = 0 := by simp [State.pagesWith, State.spilledIn, hf, hg, hh, hr]
/-- A stale entry; a full table without an entry left to spill; a channel whose consumer is out; and a launch behind a finished one. -/
theorem witness_ConflictEvents :
    (let s := stopped cCTFULL [0, 0]
     (s.stoppedBy 0 cCTFULL).map (fun t => t.frs.getD 1 0) = some 0 ∧ alone s 0 ∧ (s.core 0).ctl.nested = none ∧ behind (s.core 0) = .run ∧ s.granules = []) ∧
    (∀ u, (stopped cCTFULL [0, 0]).spillRoom ((stopped cCTFULL [0, 0]).rcbOf ((stopped cCTFULL [0, 0]).team u)) 0 = true) ∧
    (∀ m ∈ [true, false], let s := ({ (chan 0 (-1) false false 0 (region small base)) with teams := [(0, { mode := .out })] } : State).onChannel 1 fun x => { x with moving := m }
     (s.channel 1).valid = true ∧ (s.team (s.channel 1).cteam).mode = .out ∧ (s.channel 1).moving = m ∧ 0 ∈ regionClusters s (s.grid 0).rcb) ∧
    (let s := { base with queues := [(0, { run := some aLaunch })], grids := [(5, { finished := true })] }
     5 ∈ s.boundariesFor 0 ∧ 0 ∈ s.queues.map Prod.fst) := by
  refine ⟨by unfold alone; decide +kernel, fun u => ?_, by decide +kernel, by decide +kernel⟩
  refine List.all_eq_true.2 fun b _ => decide_eq_true ?_
  rw [pagesWith_of_empty _ b (by decide +kernel) (by decide +kernel) (by decide +kernel) (by decide +kernel)]
  exact Nat.zero_le _
/-- A stale entry of slice 0 that a folding of the table takes, and an entry that stays; and a queue whose launch ends a kernel, with a
dirty line of HBM. -/
theorem witness_StaleEntries :
    (let old : Granule := { live := .own 0, team := 7, par := 1 }
     let s := { base with granules := [(0x1000, old), (0x1001, { cell5 with team := 0 })] }
     (s.granules.map Prod.fst).Nodup ∧ s.staleEntry old = true ∧ old.spilled = false ∧ s.staleEntry cell5 = false ∧
       (∀ cs, old.live ≠ .rd cs) ∧ old.tent = [] ∧ ({ old with tent := [(0, 3, .rd [0], 7, 1)] } : Granule).tent ≠ []) ∧
    (let s := { (withCore fun k => { k with l1 := [{ pa := 0x40000, data := 0, dirty := 1, evp := 0 }] }) with
                queues := [(0, { run := some aLaunch })], grids := [(5, { finished := true })] }
     5 ∈ s.boundariesFor 0 ∧ 0 ∈ s.queues.map Prod.fst ∧ (s.cores.map Prod.fst).Nodup ∧ ∀ e ∈ s.cores, ∀ x ∈ e.2.l1, x.pa + 128 ≤ 4 * dieBytes) := by
  refine ⟨⟨?_, ?_, ?_, ?_, (fun cs h => by cases h), ?_, ?_⟩, ?_⟩ <;> decide +kernel
/-- A legal and an illegal view, and a preset. -/
theorem witness_RegisterEvents : viewOk (Sys2Proof.Claims.kept base 0 .write (csrVW + 0) 0x0000020002001000) = true ∧
    viewOk (Sys2Proof.Claims.kept base 0 .write (csrVW + 0) 0xFFFFFFFFFFFFFFFF) = false ∧
    (let s := csrs [(csrVWL, 0x8000020002001000)] base
     bit ((s.core 0).csr (csrVWL + 0)).toNat 63 = true ∧ viewOk ((s.core 0).csr (csrVWL + 0) &&& csrMask csrVW) = true) ∧
    (∀ j < 4, bits (Sys2Proof.Claims.kept base 0 .write csrPMEV 0x0E000102).toNat (8 * j + 7) (8 * j) ≤ 14) ∧ plainRegister csrTVEC = true ∧ csrTVEC ≠ csrPRD := by
  decide +kernel
def coldFolio : Folio :=
  { ctx := 0, strict := false, cov := 0, symbols := [], routines := [], first := 0, steps := 0, views := [], launch := [], pages := [],
    cold := [(0x70000, [1])], queues := [], amap := [] }
theorem witness_SupervisorEvents :
    ([cXLATE, cCOLDTXT, cMEMUE].all fun c => let s := stopped c [0x70000, 3]
      s.isStopped 0 && (s.teamOf 0).gang == 1 && (s.core 0).ctl.gpos == 0 && (s.core 0).ctl.nested.isNone && behind (s.core 0) == .run &&
        (s.stoppedBy 0 c).map Trap.frs == some [0x70000, 3]) = true ∧
    (let f : Flight := { id := 1, guard := 31, what := .load (.sreg 5) 7, src := [(0x70000, 8, 0)] }
     ((inFlight [f]).core 0).flights = [f]) ∧ ((0x70000 : Word).toNat / 65536 = 0x70000 / 65536) ∧
    (let s := domain (stopped cXLATE [0])
     s.isStopped 0 && (s.teamOf 0).gang == 1 && (s.core 0).ctl.gpos == 0 && (s.core 0).ctl.supervisor.isSome && bit ((s.core 0).csr csrTVEC).toNat 0 &&
       !(s.core 0).handler && fetches s 0x50000 5) = true ∧
    (stopped cXLATE [0]).mayEnd 0 cXLATE = true ∧ ((stopped cXLATE [0]).grid ((stopped cXLATE [0]).team 0).grid).result = 0 ∧
    (let s := { stopped cCOLDTXT [0x70000] with folios := [(1, coldFolio)] }
     s.coldPiece (s.ctxOf 0) 0x70000 = some (0x70000, [1])) := by decide +kernel
/-- A cold piece whose four table entries stand outside the frame, within the quota. -/
theorem witness_ColdPiece :
    let s := ({ stopped cCOLDTXT [0x10000000000] with folios := [(1, { coldFolio with cold := [(0x10000000000, [1])] })] } : State).mapPage 0 0x10000000000 coldPte
    s.coldPiece (s.ctxOf 0) 0x10000000000 = some (0x10000000000, [1]) ∧
    (match (List.range 4).mapM (entryAt s (s.ctxOf 0) 0x10000000000) with
     | some es => es.length == 4 && es.all fun e => decide (e + 8 ≤ 100 * 65536 ∨ 100 * 65536 + 65536 ≤ e)
     | none => false) = true ∧ 100 < 4 * dieBytes / 65536 ∧ withinQuota s (s.rcbOf (s.teamOf 0)) := by unfold withinQuota; decide +kernel
theorem witness_FrameRetire : ((frameLeaves (words [(placedRoot, wordN (2 ^ 63 + 3)), (placedTable, wordN placedLeaf)]
    { State.reset with contexts := [(0, wordN (2 ^ 63 + placedRoot))] }) 0x50000 0).length == 1) = true ∧
    (let s := words [(placedRoot, wordN (2 ^ 63 + 3)), (placedTable, wordN placedLeaf)]
       { State.reset with contexts := [(0, wordN (2 ^ 63 + placedRoot))] }
     Memory.wf s.mem = true ∧ s.cores = [] ∧
       (frameLeaves s 0x50000 0).all (fun l => decide (l.1 + 8 ≤ 100 * 65536 ∨ 100 * 65536 + l.2.2 ≤ l.1)) = true) := by decide +kernel
def aTeam (m : TeamMode) : Team := { mode := m, grid := 0, index := 1, size := 1 }
def teams (l : List (Nat × Team)) (s : State) : State := { s with teams := s.teams ++ l }
def waitingTeam (m : TeamMode) (im : Option Image) : State :=
  { region small (teams [(1, { aTeam m with image := im, slot := some 0 })] base) with residency := [1] }
/-- A folio of one entry point. -/
def oneEntry : Folio :=
  { coldFolio with symbols := [{ name := [], kind := 0, va := 0x60000, body := [] }], cold := [], since := some 0 }
def ended (s : State) : State := ctl (fun c => { c with mode := .ended }) s
theorem witness_TeamEvents :
    ((waitingTeam .waiting none).nextResident = some 1 ∧ ((waitingTeam .waiting none).placeTeam 1).isSome = true ∧
      assoc (waitingTeam .waiting none).folios ((waitingTeam .waiting none).grid 0).folio = none ∧ oneEntry.views.length ≤ 32) ∧
    ((waitingTeam .out (some { cores := [{}], barrier := {} })).nextResident = some 1 ∧
      ((waitingTeam .out (some { cores := [{}], barrier := {} })).placeTeam 1).isSome = true ∧
      imageInHbm (waitingTeam .out (some { cores := [{}], barrier := {} })) 1 0) ∧
    ((base.team 0).isResident = true ∧ (base.team 0).yreq = none ∧ (base.team 0).leaving = false ∧ base.allYielded 0 = false ∧
      base.quantum 0 ≤ (base.team 0).since ∧ base.now = 0) ∧
    (let s := waitingTeam .waiting none
     s.regionWaits (s.rcbOf (s.team 0)) = true ∧ s.parkedIn (s.rcbOf (s.team 0)) = [] ∧ s.quantum 0 ≤ (s.team 0).since) ∧
    (let s := ({ standing (.bar 515) false with residency := [1] }).onTeam 0 fun t => { t with slot := some 0 }
     s.isParked 0 = true ∧ s.regionWaits (s.rcbOf (s.team 0)) = true ∧ s.canLeave 0 = true ∧ s.parkedIn (s.rcbOf (s.team 0)) = [0]) ∧
    (let s := base.onTeam 0 fun t => { t with leaving := true, slot := some 0 }
     (s.team 0).isResident = true ∧ (s.team 0).leaving = true ∧ s.sends 0 = false ∧ (∀ c ∈ (s.team 0).cores, (s.core c).quiet = true) ∧ (s.team 0).size ≤ 64 ∧
       (∀ e ∈ (s.core 0).regs.rs, 32 ≤ e.1)) ∧
    (let s := (region small base).onTeam 0 fun t => { t with leaving := true }
     (s.team 0).isResident = true ∧ (s.team 0).leaving = true ∧ (s.team 0).slot = none ∧ s.freeSlot (s.rcbOf (s.team 0)) = none) ∧
    (((ended base).team 0).isResident = true ∧ (∀ c ∈ ((ended base).team 0).cores, ((ended base).core c).ctl.mode = .ended ∧ ((ended base).core c).performed = true) ∧
      (ended base).sends 0 = false ∧ ((ended base).grid 0).result = 0) := by
  unfold imageInHbm imageAt; decide +kernel
theorem mapSpads_of_unmapped (s : State) (t : Nat) (on : Bool) (h : bit (s.contexts.get 0 (s.grid (s.team t).grid).ctx).toNat 63 = false) :
    s.mapSpads t on = s := by
  have i : ∀ va pte, s.mapPage (s.grid (s.team t).grid).ctx va pte = s := fun _ _ => if_neg (by rw [h]; decide)
  unfold State.mapSpads
  refine List.foldl_fixed' (fun k => ?_) _
  refine List.foldl_fixed' (fun v => ?_) _
  exact List.foldl_fixed' (fun p => i _ _) _
/-- A yield request past its deadline, of a team that is parked and of one that is not. -/
theorem witness_YieldDeadlines :
    (([(false, base), (true, standing (.bar 515) false)] : List (Bool × State)).all fun q => let s := q.2.onTeam 0 fun t => { t with yreq := some 0 }
     (s.team 0).isResident && (s.team 0).yreq == some 0 && !(s.team 0).leaving && decide (0 ≤ s.now) && !s.allYielded 0 && s.isParked 0 == q.1) = true := by
  decide +kernel
/-- A team whose image its scratchpads' table entries spare. -/
theorem witness_SparedImage (a : Nat) : let s := ({ base with contexts := [] } : State).onTeam 0 fun t => { t with leaving := true, slot := some 0 }
    let w := s.saveTeam 0 0
    Memory.read (w.mapSpads 0 false).mem a 8 = Memory.read w.mem a 8 := by
  intro s w
  rw [mapSpads_of_unmapped w 0 false (by decide +kernel)]
/-- A launch of one team of one core from the folio of one entry point, and the smallest folio file. -/
def command (op : Nat) (body : List Nat) (s : State) : State :=
  { s with queues := [(0, { valid := true, run := some { words := BitVec.ofNat 64 (op * 2 ^ 56) :: List.replicate 7 0 ++ body.map (BitVec.ofNat 64), start := 0 } })] }
def loaded (s : State) : State := { region small s with folios := [(1, oneEntry)] }
def words16 (op : Nat) (body : List Nat) : List Word := BitVec.ofNat 64 (op * 2 ^ 56) :: List.replicate 7 0 ++ body.map (BitVec.ofNat 64) ++ List.replicate (8 - body.length) 0
def launching : State := command 1 [1, 0x10000 + 2 ^ 32] (loaded base)
def aPost : Post := { payload := [], addr := 0, bucket := 0, entry := 0x10000, instant := 3, core := 0, seq := 0 }
def posted : State :=
  (csrs [(csrIC, 4)] (loaded base)).onGrid 0 fun g => { g with alive := true, folio := 1, posts := [aPost], created := 1 }
theorem witness_GridsAndFolios :
    ((base.grid 0).alive = true ∧ (base.grid 0).posts = [] ∧ (∀ e ∈ gridTeams (csrs [(csrIC, 4)] base) 0, (csrs [(csrIC, 4)] base).passed e.2 0 = true)) ∧
    ((posted.grid 0).alive = true ∧ (posted.grid 0).posts = [aPost] ∧ (posted.grid 0).closed ≤ aPost.instant ∧ (assoc posted.folios (posted.grid 0).folio) = some oneEntry ∧
      (oneEntry.entries[bits aPost.entry 15 0]?).isSome = true ∧ (∀ e ∈ gridTeams posted 0, posted.passed e.2 3 = true) ∧
      bits aPost.entry 22 16 = 1 ∧ bits aPost.entry 31 23 = 0 ∧ 1 ≤ regionCores posted (posted.grid 0).rcb) ∧
    ((launching.running 0 1).isSome = true ∧ ((launching.running 0 1).bind fun r => r.grid) = none ∧ oneEntry.since = some 0 ∧ ((launching.running 0 1).map fun r => r.order) = some 0 ∧ launching.boundariesFor 0 = [] ∧
      oneEntry.ctx = (launching.queue 0).ctx ∧ 1 ≤ regionCores launching (launching.queue 0).rcb ∧ (launching.chanList oneEntry 1 1).map List.isEmpty = some true ∧
      (launching.barList oneEntry 1 1 (regionClusters launching 0)).map List.isEmpty = some true ∧ (launching.redList oneEntry 1 1).map List.isEmpty = some true) ∧
    ((command 1 [7, 0] base).running 0 1).isSome = true ∧ assoc (command 1 [7, 0] base).folios 7 = none ∧
    (∀ alive ∈ [true, false], let s := (command 5 [0, 0, 256, 1] (loaded base)).onGrid 0 fun g => { g with alive := alive, folio := 1 }
      (s.running 0 5).isSome = true ∧ assoc s.folios 1 = some oneEntry ∧ s.folioBusy 1 = alive ∧ s.loadsBefore 0 = false) ∧
    ({ command 5 [0, 256, 0] base with queues := [(0, { run := some { words := words16 5 [0, 256, 0], start := 0, order := 1 } }),
        (1, { run := some { words := words16 5 [0, 256, 0], start := 0 } })] } : State).loadsBefore 0 = true := by
  decide +kernel
/-- The smallest file of a folio: a colophon of no section. -/
def smallest : List Byte := bytesOf (0x47464F4C * 2 ^ 32 + 65536) 8 ++ bytesOf 0 8 ++ bytesOf 256 8 ++ List.replicate 232 0
def loading : State := command 5 [0x40000, 256, 0] { base with mem := Memory.writeCells base.mem (cellsAt 0x40000 smallest) }
/-- The file is read whole; one that is damaged is refused with code 1. -/
theorem witness_LoadFolio : (loading.running 0 5).isSome = true ∧ loading.loadsBefore 0 = false ∧ loading.sysRead 0 0x40000 256 = some smallest ∧
    (command 5 [0x48000, 256, 0] base).sysRead 0 0x48000 256 = some (List.replicate 256 0) ∧
    (command 5 [0x48000, 256, 0] base).refusal 0 (List.replicate 256 0) = some 1 := by decide +kernel
/-- A part whose firmware asks for no signatures loads it (R387; log 15). -/
theorem witness_LoadFolio_accepted (h : Config.fsig = false) : (match loading.load 0 0 smallest with | .ok _ => true | .error _ => false) = true := by
  have r : loading.refusal 0 smallest = none := by
    unfold State.refusal signatureOk
    rw [h]
    decide +kernel
  unfold State.load
  rw [r]
  decide +kernel
/-- A waiting core of each kind, with the outcome that its wait has now and the one at its deadline. -/
def fullBucket (s : State) : State := s.onGrid 0 fun g => { g with posts := List.replicate 256 aPost }
def waitingRound (d : Round) (s : State) : State := { s with reductions := [(0, { reduction with rounds := [(0, d)] })] }
def waits : List (WaitKind × (State → State) × Option (Nat × Nat × Nat) × Option (Nat × Nat × Nat)) :=
  [(.chwr 1 [], chan 1 0 false false 0, some (5, 0, 0), some (1, 0, 2)), (.chwr 1 [], chan 0 (-1) false false 0, some (0, 0, 1), some (1, 0, 2)),
   (.chwr 1 [], chan 2 (-1) true true 0, none, some (1, 0, 2)), (.chrd 1 (some 0), chan 1 0 true true 0, some (0, 0, 0), some (1, 0, 1)),
   (.chrd 1 (some 0), chan 1 0 true false 0, some (2, 0, 0), some (1, 0, 1)), (.chrd 1 none, chan 1 0 true true 1, some (2, 0, 1), some (1, 0, 1)),
   (.chrd 1 none, chan 1 0 false false 0, none, some (1, 0, 1)), (.bar 3, barrier3 { member3 with release := [(0, 0, 0)] }, some (0, 0, 1), none),
   (.bar 3, barrier3 member3, none, some (1, 0, 0)), (.bar 3, barrier3 { member3 with release := [(0, 5, 0)] }, none, none),
   (.ltwt 7, latch7 2 2 true, some (0, 0, 2), some (1, 0, 2)), (.ltwt 7, latch7 2 1 false, none, some (1, 0, 1)),
   (.drn 0 1 1, id, some (0, 0, 1), some (3, 0, 1)), (.drn 0 1 1, busy, none, some (3, 0, 0)),
   (.waitc 0 31 31 31, id, some (0, 0, 0), some (1, 0, 0)), (.waitc 0 31 31 31, busy, none, some (1, 0, 1)),
   (.cpost aPost, id, some (0, 0, 0), some (4, 0, 0)), (.cpost aPost, fullBucket, none, some (4, 0, 0)),
   (.rrcv 0 0, waitingRound { result := some (5, 0), delivered := true }, some (0, 0, 1), none), (.rrcv 0 0, waitingRound { cancelled := some 0 }, some (1, 0, 0), none),
   (.rrcv 0 0, waitingRound { cancelled := some 1 }, some (6, 0, 0), none), (.rrcv 0 0, waitingRound {}, none, none)]
theorem witness_WaitOutcomes :
    (∀ q ∈ waits, ∀ e ∈ [true, false], let s := q.2.1 (standing q.1 e)
      WaitsFor s 0 (aBundle (aWait q.1 e)) (aWait q.1 e) ∧ s.expired 0 (aBundle (aWait q.1 e)) (aWait q.1 e) = true ∧
        s.expired 0 (aBundle { aWait q.1 e with dl := 9 }) { aWait q.1 e with dl := 9 } = false ∧
        outcome s 0 (aWait q.1 e) = q.2.2.1 ∧ lapse s 0 (aWait q.1 e) = q.2.2.2 ∧ (escalates s 0 (aWait q.1 e) ↔ e = true)) ∧
    (waits.all fun q => match q.1 with | .pwra _ => false | .absn _ => false | .sleep _ => false | _ => true) = true ∧
    ((standing (.sleep 0) false).now = 0 ∧ WaitsFor (standing (.sleep 0) false) 0 (aBundle (aWait (.sleep 0) false)) (aWait (.sleep 0) false)) ∧
    (chan 0 (-1) false false 0 (standing (.absn 1) false)).cellFree 1 = true ∧
    (let r := { reduction with rounds := [(0, {})] }
     assoc (waitingRound {} (standing (.rrcv 0 0) false)).reductions 0 = some r ∧ (waitingRound {} (standing (.rrcv 0 0) false)).memberIx 0 r.receivers = some 0) := by
  unfold WaitsFor escalates; decide +kernel
/-- Requests for level 3: one that fits, one that does not, and one behind another that does not fit. -/
def asking (g : List (Nat × Nat × Nat)) (cal : Nat) : State := (standing (.pwra 3) false).onCluster 0 fun x => { x with grants := g, cal := cal }
theorem firstAsked_of (s : State) (c d m e : Nat) (l : List (Nat × Nat × Nat)) (x : Wait) (n : Nat) (hx : x.kind = .pwra n)
    (hg : (s.cluster (clusterOf c)).grants = (d, m, e) :: l) (h : (d = c ∧ m = n) ∨ fits s (clusterOf c) d m = false) : firstAsked s c x := by
  intro n' d' m' e' l' hk hg'
  rw [hx] at hk
  cases hk
  rw [hg] at hg'
  cases hg'
  exact h
theorem witness_GrantOutcomes :
    (∀ q ∈ [([(0, 3, 0)], 1000000, some (0, 0, 3)), ([(0, 3, 0)], 0, none), ([(1, 7, 0), (0, 3, 0)], 0, none)],
      let s := asking q.1 q.2.1
      firstAsked s 0 (aWait (.pwra 3) false) ∧ WaitsFor s 0 (aBundle (aWait (.pwra 3) false)) (aWait (.pwra 3) false) ∧
        outcome s 0 (aWait (.pwra 3) false) = q.2.2 ∧ lapse s 0 (aWait (.pwra 3) false) = some (1, 0, 0)) := by
  have go : ∀ d m l cal o, ((d = 0 ∧ m = 3) ∨ fits (asking ((d, m, 0) :: l) cal) 0 d m = false) →
      (asking ((d, m, 0) :: l) cal).cluster 0 = { ((standing (.pwra 3) false).cluster 0) with grants := (d, m, 0) :: l, cal := cal } →
      WaitsFor (asking ((d, m, 0) :: l) cal) 0 (aBundle (aWait (.pwra 3) false)) (aWait (.pwra 3) false) →
      outcome (asking ((d, m, 0) :: l) cal) 0 (aWait (.pwra 3) false) = o → lapse (asking ((d, m, 0) :: l) cal) 0 (aWait (.pwra 3) false) = some (1, 0, 0) →
      let s := asking ((d, m, 0) :: l) cal
      firstAsked s 0 (aWait (.pwra 3) false) ∧ WaitsFor s 0 (aBundle (aWait (.pwra 3) false)) (aWait (.pwra 3) false) ∧
        outcome s 0 (aWait (.pwra 3) false) = o ∧ lapse s 0 (aWait (.pwra 3) false) = some (1, 0, 0) :=
    fun d m l cal o hf hc hw ho hl => ⟨firstAsked_of _ 0 d m 0 l _ 3 rfl (by rw [show clusterOf 0 = 0 from rfl, hc]) hf, hw, ho, hl⟩
  intro q hq
  simp only [List.mem_cons, List.not_mem_nil, or_false] at hq
  rcases hq with rfl | rfl | rfl <;> apply go <;> (try unfold WaitsFor) <;> decide +kernel
def signalQueue (x : Queue) : State := { base with queues := [(0, x)] }
def aSignal : List Word := words16 3 [0x40000, 7, 0]
theorem witness_CommandEvents :
    (let s := signalQueue { valid := true }
     s.ready = true ∧ (s.queue 0).valid = true ∧ aSignal.length = 16 ∧ (s.queue 0).cmds.length < 64 ∧ s.ports.length < 8 ∧ (s.queue 1).valid = false) ∧
    (let s := signalQueue { valid := true, cmds := [aSignal] }
     s.now % 64 = 0 ∧ s.stepped ≠ some s.now ∧ s.tripped = false ∧ s.depsHold aSignal = true ∧ badHeader aSignal = false ∧ bodyOk aSignal = true) ∧
    (let s := command 2 [0x48000, 0x40000, 64] base
     (s.running 0 2).isSome && s.goodPrefix 0 0x48000 64 .read == 64 && s.goodPrefix 0 0x40000 64 .write == 64 &&
       ((s.sysRead 0 0x48000 64).bind fun bs => s.sysWrite 0 0x40000 bs).isSome) = true ∧
    (let s := command 3 [0x40000, 7, 0] base
     (s.running 0 3).isSome && (s.sysWrite 0 0x40000 (bytesOf 7 8)).isSome) = true ∧ ({ base with stepped := some 0 } : State).stepped = some base.now ∧
    ([(0, 0, 0), (1, 0, 0), (1, 9, 0)].all fun (q : Nat × Nat × Nat) =>
      let s := command 4 [0x40000, q.1, q.2.1] base
      (s.running 0 4).isSome && (s.sysRead 0 0x40000 8).map ofBytes == some 0 && decide (s.now = 0)) = true ∧
    ([0, 1000, 10000].all fun n => ((command 6 [n] base).running 0 6).isSome && (command 6 [n] base).clusters.all (fun c => c.2.change.isNone && c.2.held.isNone) &&
      decide ((command 6 [n] base).powerFloor = 350)) = true ∧
    (let s := { command 6 [1000] base with regions := [(128, [0, 0, 0, 0]), (256, [128, 0, 0, BitVec.ofNat 64 (400 * 2 ^ 32)])] }
     s.powerFloor = 400 ∧ s.rootRegion = some 128 ∧ s.childrenOf 128 = [256] ∧ s.floorOf 256 = 400 ∧ min 1000 Config.thermalPower < s.cap) ∧
    (let s := (command 6 [1000] base).onQueue 0 fun x => { x with run := x.run.map fun r => { r with acted := true } }
     (s.running 0 6).map (fun r => r.acted) = some true ∧ s.changing = false ∧
       ({ s with clusters := [(0, { change := some (715, 2250, 1) })] } : State).changing = true) ∧
    (let s := command 7 [1, 0x40000, 0] base
     (s.querying 0 1).isSome && (s.sysWrite 0 0x40000 (bytesOf (s.queue 0).qs0 8 ++ bytesOf (s.queue 0).qs1 8)).isSome) = true ∧
    (let s := signalQueue { valid := true, run := some { words := aSignal, start := 0, fin := true } }
     s.tripped = false ∧ ((s.queue 0).run.map fun r => r.fin) = some true) := by
  refine ⟨?_, ?_, ?_, ?_, ?_, ?_, ?_, ?_, ?_, ?_⟩ <;> decide +kernel
/-- Three ready queues, whose bound is 0, and an idle one. -/
def threeQueues : State := { base with queues := [(0, { valid := true, elev := 1, cmds := [aSignal], wasReady := true, since := 0 }),
  (1, { valid := true, elev := 1, cmds := [aSignal] }), (2, { valid := true, cmds := [aSignal, aSignal], wasReady := true }), (3, { valid := true })] }
/-- A command that waits for another queue's first completion, for 5 ticks. -/
def aDependent : List Word := [0x0320000000000000, 0x0001000000000001, 0, 0, 0, 5, 0, 0] ++ List.replicate 8 0
theorem queue_unlisted (s : State) (p : Nat) (h : ∀ e ∈ s.queues, e.1 ≠ p) : s.queue p = {} := by
  have go : ∀ l : List (Nat × Queue), (∀ e ∈ l, e.1 ≠ p) → Table.get ({} : Queue) l p = {} := by
    intro l hl
    induction l with
    | nil => rfl
    | cons a l ih =>
      have h1 : a.1 ≠ p := hl a (List.mem_cons_self ..)
      have h2 := ih fun e he => hl e (List.mem_cons_of_mem _ he)
      simp [Table.get, h1] at h2 ⊢
      exact h2
  exact go _ h
/-- What holds of every listed queue, and of one at reset, holds of every queue. -/
theorem queues_all (s : State) (P : Nat → Prop) (h : ∀ e ∈ s.queues, P e.1) (d : ∀ p, s.queue p = {} → P p) (p : Nat) : P p := by
  by_cases hp : ∃ e ∈ s.queues, e.1 = p
  · obtain ⟨e, he, rfl⟩ := hp
    exact h e he
  · exact d p (queue_unlisted s p fun e he hc => hp ⟨e, he, hc⟩)
theorem undropped_of (s : State) (h : ∀ e ∈ s.queues, Undropped s e.1) : ∀ p, Undropped s p :=
  queues_all s _ h fun p hq hv => by rw [hq] at hv; cases hv
theorem readyNow_unlisted (s : State) (p : Nat) (h : s.queue p = {}) : readyNow s p = false := by simp [readyNow, h]
/-- The first of two at one level is chosen where their shares are equal; and no queue is ready. -/
theorem witness_DispatchChoice :
    (StepDue threeQueues ∧ (∀ p, Undropped threeQueues p) ∧ readyNow threeQueues 0 = true ∧
      (∀ p, readyNow threeQueues p = true → levelNow threeQueues p ≤ levelNow threeQueues 0) ∧
      ∀ p, p ≠ 0 → (readyNow threeQueues p && levelNow threeQueues p == levelNow threeQueues 0) = true →
        (threeQueues.queue p).cur + (threeQueues.queueWeight p : Int) < (threeQueues.queue 0).cur + (threeQueues.queueWeight 0 : Int) ∨
          (threeQueues.queue p).cur + (threeQueues.queueWeight p : Int) = (threeQueues.queue 0).cur + (threeQueues.queueWeight 0 : Int) ∧ 0 < p) ∧
    StepDue base ∧ (∀ p, Undropped base p) ∧ ∀ p, readyNow base p = false := by
  refine ⟨⟨?_, undropped_of _ ?_, ?_, queues_all threeQueues _ ?_ fun p hq hr => ?_, queues_all threeQueues _ ?_ fun p hq _ hr => ?_⟩,
    ?_, undropped_of _ ?_, queues_all base _ ?_ (readyNow_unlisted _)⟩
  all_goals first
    | (rw [readyNow_unlisted _ p hq] at hr; cases hr)
    | (unfold StepDue; decide +kernel)
    | (unfold Undropped; decide +kernel)
    | decide +kernel
/-- A halted queue, and one whose head has waited for 5 ticks. -/
theorem witness_DispatchDrops :
    (let s := signalQueue { valid := true, halt := true, cmds := [aSignal] }
     StepDue s ∧ (s.queue 0).valid = true ∧ (s.queue 0).run = none ∧ (s.queue 0).cmds = [aSignal] ∧ (s.queue 0).halt = true ∧ isResume aSignal = false) ∧
    (let s := { signalQueue { valid := true, cmds := [aDependent], headAt := some 0 } with now := 64 }
     StepDue s ∧ (s.queue 0).valid = true ∧ (s.queue 0).run = none ∧ (s.queue 0).cmds = [aDependent] ∧ (s.queue 0).halt = false ∧
       s.depsHold aDependent = false ∧ (s.queue 0).headAt = some 0 ∧ 0 + bits (cmdWord aDependent 5) 47 0 ≤ s.now) := by
  unfold StepDue; decide +kernel
/-- The records of the other two queries, by their lengths. -/
theorem writes_by_length (s : State) (ctx va n : Nat) (bs : List Byte) (h : bs.length = n) (t : okWith (s.translateAll ctx va n .write) (fun _ => true) = true) :
    (s.sysWrite ctx va bs).isSome = true := by
  unfold State.sysWrite State.sysCells
  rw [h]
  cases x : s.translateAll ctx va n .write <;> simp_all [okWith]
theorem bytesOf_length (x n : Nat) : (bytesOf x n).length = n := by
  induction n generalizing x with
  | zero => rfl
  | succ n ih => simp [bytesOf, ih]
theorem rounds_length (l : List (Nat × Nat)) (h : List Nat) : (l.foldl Sha256.round h).length = h.length := by
  induction l generalizing h with
  | nil => rfl
  | cons a l ih => rw [List.foldl_cons, ih]; unfold Sha256.round; split <;> simp
theorem blocks_length (bs : List (List Byte)) (h : List Nat) :
    (bs.foldl (fun h b => Sha256.compress h ((Sha256.groups 4 17 b).map Sha256.bigEndian)) h).length = h.length := by
  induction bs generalizing h with
  | nil => rfl
  | cons b bs ih => rw [List.foldl_cons, ih]; simp [Sha256.compress, rounds_length]
theorem digest_length (m : List Byte) : (Sha256.digest m).length = 32 := by
  simp [Sha256.digest, List.length_flatMap, bytesOf_length, blocks_length, Sha256.initial]
theorem identity_length (s : State) (ch : List Byte) (h : ch.length = 32) : (s.identityRecord ch).length = 49968 := by
  have e : (s.identityHead ch).length = 432 := by
    simp only [State.identityHead, State.measurement, List.length_append, bytesOf_length, digest_length, List.length_flatMap, List.map_const', List.sum_replicate, h]
    rfl
  simp only [State.identityRecord, List.length_append, bytesOf_length, e]
theorem witness_Queries :
    (let s := command 7 [0, 0x40000, 0] base
     (s.querying 0 0).isSome && (s.sysRead 0 0x40000 32).map List.length == some 32 && okWith (s.translateAll 0 0x40000 49968 .write) fun _ => true) = true ∧
    (let s := command 7 [2, 0x40000, 0] base
     (s.querying 0 2).isSome && okWith (s.translateAll 0 0x40000 32768 .write) fun _ => true) = true := by decide +kernel
def clu (f : Cluster → Cluster) (s : State) : State := s.onCluster 0 f
/-- A request of an operating point: voltage in mV, frequency in MHz. -/
def request (v f : Nat) : Word := BitVec.ofNat 64 (2 ^ 63 + f * 2 ^ 32 + v * 2 ^ 16)
def asks (v f : Nat) (ok slow : Bool) : Bool :=
  bit (request v f).toNat 63 && bits (request v f).toNat 31 16 == v && bits (request v f).toNat 47 32 == f && pointInRange v f == ok &&
    decide (v < vfloor f) == slow
theorem witness_PowerEvents :
    (asks 750 2400 true false ∧ asks 700 2400 true true ∧ asks 500 2400 false true ∧ (base.cluster 0).change = none ∧ (base.cluster 0).held = none ∧
      (base.cluster 0).freq < 2400 ∧ (base.sensor 0).state ≠ 2) ∧
    (let s := clu (fun c => { c with change := some (750, 2400, 0) }) base
     (s.cluster 0).change.isSome = true ∧ changeNext 750 2400 (s.cluster 0).volt (s.cluster 0).freq = some true ∧
       changeNext 715 2400 (s.cluster 0).volt (s.cluster 0).freq = some false ∧ s.now = 0) ∧
    (let s := clu (fun c => { c with held := some (request 715 2250) }) { base with now := 5 }
     (s.cluster 0).change = none ∧ (s.cluster 0).changed < s.now ∧ asks 715 2250 true false = true ∧ (s.cluster 0).volt = 715 ∧ (s.cluster 0).freq = 2250) ∧
    (bits (0x000000056A5F5500 : Word).toNat 35 32 = 5 ∧ bits (0x000000056A5F5500 : Word).toNat 15 8 < bits (0x000000056A5F5500 : Word).toNat 23 16 ∧
      bits (0x000000056A5F5500 : Word).toNat 23 16 < bits (0x000000056A5F5500 : Word).toNat 31 24 ∧ bits (0 : Word).toNat 35 32 = 0) ∧
    (let s := clu (fun c => { c with grants := [(0, 3, 0)] }) (standing (.pwra 3) false)
     (s.cluster 0).grants = [(0, 3, 0)] ∧ s.grantSum 0 + budget 3 ≤ (s.cluster 0).cal + budget (s.core 0).heldLevel ∧
       (clu (fun c => { c with cal := 0 }) s).cluster 0 = { s.cluster 0 with cal := 0 } ∧ 0 + budget (s.core 0).heldLevel < s.grantSum 0 + budget 3) ∧
    (base.now % 100000 = 0 ∧ base.polled ≠ some base.now ∧ 10000 % 10000 = 0 ∧ (base.cluster 0).srh.head? = none) := by
  refine ⟨?_, ?_, ?_, ?_, ?_, ?_⟩ <;> decide +kernel
theorem witness_grant : WaitsFor (standing (.pwra 3) false) 0 (aBundle (aWait (.pwra 3) false)) (aWait (.pwra 3) false) := by
  unfold WaitsFor; decide +kernel
theorem witness_HeldRequests :
    (let s := clu (fun c => { c with change := some (750, 2400, 0) }) base
     (s.cluster 0).change = some (750, 2400, 0) ∧ bit (request 750 2400).toNat 63 = true ∧ (s.cluster 0).code < 256 ∧ (s.cluster 0).detail < 256 ∧
       (s.cluster 0).volt < 2 ^ 16 ∧ (s.cluster 0).freq < 2 ^ 16) ∧
    (let s := clu (fun c => { c with held := some (request 750 2400) }) base
     (s.cluster 0).held = some (request 750 2400) ∧ (s.cluster 0).change = none ∧ s.now ≤ (s.cluster 0).changed ∧ (s.cluster 0).changed < { s with now := 1 }.now) ∧
    (match exec (.voltageStep 0) (clu (fun c => { c with change := some (750, 2400, 0) }) base) with | .next _ => true | _ => false) = true := by
  refine ⟨?_, ?_, ?_⟩ <;> decide +kernel
/-- Two contributors, an operand held at the other side of the first node, and packets in and out of the window. -/
def pair2 (held : List (Nat × Line × Nat)) : Reduction :=
  { grid := 0, op := 0, fmt := 0, chain := false, win := 4, contributors := [(0, 0), (1, 0)], receivers := [(0, 0)], rounds := [(0, { held := held })] }
def reducing (r : Reduction) (round place : Nat) : State := { base with reductions := [(0, r)], packets := [(0, round, place, 5, 0)] }
theorem witness_Reductions :
    ((reducing (pair2 []) 0 0).packets[0]? = some (0, 0, 0, 5, 0) ∧ assoc (reducing (pair2 []) 0 0).reductions 0 = some (pair2 []) ∧
      (pair2 []).accepts 0 = true ∧ treeDest false 2 64 8 0 = some (64, 0) ∧ assoc ((pair2 []).round 0).held 129 = none ∧
      assoc ((pair2 [(129, 7, 0)]).round 0).held 129 = some (7, 0) ∧ treeDest false 2 64 8 64 = none ∧ (pair2 []).sys = none ∧ (pair2 []).accepts 9 = false ∧
      ({ reducing (pair2 []) 9 0 with routers := [(1024, { valid := true, place := 64 })] } : State).nodeAt 0 64 = some 1024) ∧
    (roundOf (reducing { pair2 [] with rounds := [(0, { result := some (5, 0) })] } 0 0) 0 0 = some { result := some (5, 0) }) ∧
    (∀ r ∈ [none, some ((5 : Line), 0)], let d := ({ pair2 [] with rounds := [(0, { result := r, asking := [0] })] } : Reduction).round 0
      d.asking = [0] ∧ d.result = r ∧ d.cancelled = none) := by
  refine ⟨?_, ?_, ?_⟩ <;> decide +kernel
/-- A collective of two members: the packet of the root's result, and one that breaks its map. -/
def collective : Reduction := { pair2 [] with sys := some (3, 2, 1, false, 0) }
theorem witness_Collectives :
    let h : Word := BitVec.ofNat 64 (3 * 2 ^ 48 + 2 ^ 45 + 2 ^ 23)
    collectiveOk h.toNat = true ∧ bits h.toNat 33 23 = 1 ∧ bits h.toNat 47 45 = 1 ∧ bits h.toNat 63 48 = 3 ∧ 0 < collective.win ∧
    (collective.round collective.base).cancelled = none ∧ collectiveOk 1 = false ∧
    bits (BitVec.ofNat 64 (collectiveHash 3 2 false 0 0 * 2 ^ 32) : Word).toNat 63 32 = collectiveHash 3 2 false 0 0 := by decide +kernel
def registered (rd : Word) : State :=
  { words [(0x40000, 0x42000), (0x40018, rd), (0x42000, 0x0100000000044000), (0x42008, 0x46000), (0x42010, 64)] base with copyqs := [(0, 0, 0x40000)] }
def aRegion : List Word := [0, 0x10004, 0, 0x8] ++ List.replicate 12 0
def aFormat : List Word := [0x8000400000000000, 0x2D00000000000020, 0, 0x10000]
theorem witness_PackageEvents :
    ([0, 1].all fun rd =>
      let s := registered rd
      s.copyqs[0]? == some (0, 0, 0x40000) && (s.sysRead 0 0x40000 32).isSome && ((s.sysRead 0 0x42000 64).map fun b => word8 b 40) == some 0) = true ∧
    (let s := registered 0
     let r := s.runPacket 0 fun i => word8 ((s.sysRead 0 0x42000 64).getD []) (8 * i)
     r.1 == 64 && r.2.1 == 1 && ((r.2.2.sysWrite 0 0x42030 (bytesOf (64 * 2 ^ 16 + 1) 8)).bind fun v => v.sysWrite 0 0x40018 (bytesOf 1 8)).isSome) = true ∧
    (bits (0x8000000000020000 : Word).toNat 62 48 = 0 ∧ bits (0x8000000000020000 : Word).toNat 15 0 = 0 ∧
      bit (base.contexts.get 0 0).toNat 63 = true ∧ base.pteOk 1 placedLeaf = true ∧ base.tableAt 0 1 0 placedRoot = some placedTable) ∧
    (let node := rcbNode (aRegion.set 5 (2 ^ 63))
     rcbOk 128 node = true ∧ base.treeOk (assocSet base.regions 128 node) = true ∧
       (base.grids.any fun g => g.2.alive && { base with regions := assocSet base.regions 128 node }.within g.2.rcb 128) = false ∧ rcbOk 128 [] = false) ∧
    (State.reset.grids.all (fun g => !g.2.alive)) = true ∧ State.reset.formats = [] ∧ formatOk 0 aFormat = true ∧
    formatOk 0 [] = false ∧ (({ base with grids := [(5, { alive := true })] } : State).grids.any fun g => g.2.alive) = true ∧
    ((formatRegion aFormat).bind fun r => (formatRegion aFormat).map fun q => meets r.base r.size q.base q.size) = some true ∧
    (base.ready = true ∧ base.ports.length < 8 ∧ (base.sysRead 0 0x40000 8).map ofBytes = some 0 ∧ (base.sysWrite 0 0x40000 (bytesOf 7 8)).isSome = true) ∧
    (base.failingStep = 0 ∧ base.tripped = false ∧ base.trained = true ∧ (∀ n < 48, (base.sensor n).state ≠ 3) ∧ (base.cores.map Prod.fst).Nodup) ∧
    ((({ base with sensors := [(5, { state := 3 })] } : State).sensor 5).state = 3) ∧ ({ base with tripped := true } : State).tripped = true := by
  refine ⟨?_, ?_, ?_, ?_, ?_, ?_, ?_, ?_, ?_, ?_⟩ <;> decide +kernel
/-- The agenda's issue of the placed operation; one with a core that may not issue; an event; an empty agenda. -/
theorem witness_StepRuns :
    okWith (base.fetchWord 0 placedPc) (fun w => (decodeHeader w).map (fun h => (h.kind, h.rep, h.mask)) == some (0, 0, 2 ^ Slot.s.maskBit)) = true ∧
    okWith (base.fetchWord 0 (placedPc + 8)) (fun w => okWith (decodeSlot .s w) fun i => decide (i = addF)) = true ∧
    ((base.core 0).ctl.rep = 0 ∧ (base.core 0).regs.rw = [] ∧ base.mayIssue 0 = true ∧ base.soleInstr 0 = some addF ∧ base.mayIssue 1 = false) ∧
    (let s := { base with mem := Memory.writeCells base.mem (cellsOf placedPc 8 0xF040000000000000) }
     s.mayIssue 0 = true) ∧
    (let s : State := { base with polled := some 0, stepped := some 0 }
     s.agenda = [] ∧ s.ownEvent.isNone = true ∧ s.turn < 1024 ∧ s.mayIssue 0 = true ∧ s.inOrder 0 = true ∧ (s.teamOf 0).gang ≤ 1 ∧ s.turn = 0) ∧
    isIssue addF = true ∧ isIssue (.stickyReissue .s) = true ∧ isIssue (.portUp 0) = false ∧
    (({ base with tripped := false } : State).onCore 0 fun k => { k with flights := [flight 0 true (.load (.sreg 5) 7)] }).ownEvent.isSome = true := by
  refine ⟨?_, ?_, ?_, ?_, ?_, ?_⟩ <;> decide +kernel
/-- One step of the placed operation keeps the memory's canonical form. -/
theorem witness_StepKeepsMemoryCanonical : (Memory.wf base.mem && match step base with | .next t => Memory.wf t.mem | _ => false) = true := by decide +kernel
theorem witness_EncodeDecode : (match encode addF with
    | some (x, w) => addF.formOk && decide (x = .s) && (opcodeClass (bits w.toNat 63 56)).isSome && okWith (decodeSlot x w) fun i => decide (i = addF)
    | none => false) = true := by decide +kernel
/-- R245: the second corrected error, in the scratchpad at 0x40, bit 3, syndrome 5; COV stays. -/
theorem test_corrected_error :
    (let k := Core.correct 1 0x40 3 5 ((Core.correct 0 8 0 0 {}).setCsr csrECM 0x10003)
     (k.csr 0x022, k.csr 0x023, k.csr 0x024)) = (0x20007, 0x8000000000000040, 0x305) := by decide +kernel
end Sys2Proof.Tests
end

section
/-! SUPPORT. Writes of control registers (R7, R128, R129): what the three instructions come to, taken and refused. -/
namespace Sys2Proof.Machine
open Sys2Proof.Claims

/-- An operation of the scalar class that passes its steps stands in the S slot (R95). -/
theorem State.passes_scalarSlot {s : State} {i : Instr} {h : Head} {o : BitVec 8} {p : BitVec 48} {b : Bool}
    (hp : s.passes i = true) (he : encode i = some (h.slot, h.pack o ++ p)) (ho : opcodeClass o.toNat = some (.scalar, b)) :
    h.slot = .s := by
  obtain ⟨_, cl, b', hc, hs⟩ := State.passes_slot hp he
  rw [opcode_pack, ho] at hc
  obtain ⟨rfl, -⟩ := (Prod.mk.injEq ..).mp (Option.some.inj hc)
  revert hs
  cases h.slot <;> simp [SlotClass.has]

/-- The three instructions that write a control register, by what they do with its old value (R129). -/
def csrInstr : CsrOp → Head → XF → Instr
  | .write => .csrw
  | .set => .csrs
  | .clear => .csrc
/-- Their opcodes (R94). -/
def csrOpcode : CsrOp → BitVec 8
  | .write => 0x41
  | .set => 0x42
  | .clear => 0x43

theorem encode_csrInstr (op : CsrOp) (h : Head) (f : XF) :
    encode (csrInstr op h f) = some (h.slot, h.pack (csrOpcode op) ++ f.pack) := by cases op <;> rfl
theorem slotOp_csrInstr (op : CsrOp) (h : Head) (f : XF) : slotOp (csrInstr op h f) = csrWrite op f := by cases op <;> rfl
theorem exec_csrInstr (op : CsrOp) (h : Head) (f : XF) (s : State) :
    exec (csrInstr op h f) s = issueOne (csrInstr op h f) (slotOp (csrInstr op h f)) s := by cases op <;> rfl
theorem csrInstr_inS {op : CsrOp} {h : Head} {f : XF} {s : State} (hp : s.passes (csrInstr op h f) = true) : h.slot = .s :=
  State.passes_scalarSlot hp (encode_csrInstr op h f) (b := false) (by cases op <;> rfl)

/-- A plain register refuses no value (R128). -/
theorem Core.csrRefused_plain {k : Core} {op : CsrOp} {n : Nat} {x : Word} (hn : plainRegister n = true) :
    k.csrRefused op n x = none := by
  simp only [plainRegister, csrTSTAT, csrPMEV, Bool.and_eq_true, beq_iff_eq, bne_iff_ne, Bool.not_eq_true', Bool.and_eq_false_iff,
    decide_eq_false_iff_not] at hn
  obtain ⟨⟨⟨hc, _⟩, hp⟩, hv⟩ := hn
  unfold Core.csrRefused
  rw [hc]
  simp only []
  rw [if_neg (by omega), if_neg (by omega), if_neg hp]
/-- A write of a plain register keeps the bits of the formed value that are not res-z (R7, R129). -/
theorem Core.csrApply_plain {k : Core} {op : CsrOp} {n : Nat} {x : Word} (hn : plainRegister n = true) :
    k.csrApply op n x = k.setCsr n (formed op (k.csr n) x &&& csrMask n) := by
  simp only [plainRegister, csrTSTAT, csrPMEV, Bool.and_eq_true, beq_iff_eq, bne_iff_ne, Bool.not_eq_true', Bool.and_eq_false_iff,
    decide_eq_false_iff_not] at hn
  obtain ⟨⟨⟨_, ht⟩, _⟩, hv⟩ := hn
  unfold Core.csrApply
  rw [if_neg ht, if_neg (by omega)]
  cases op <;> rfl
/-- A write of a read-only register, or of a handler register outside a handler, is refused with PERM (R128). -/
theorem Core.csrRefused_perm {k : Core} {op : CsrOp} {n : Nat} {x : Word}
    (h : csrClass n = .ro ∨ csrClass n = .ho ∧ k.handler = false) : k.csrRefused op n x = some cPERM := by
  unfold Core.csrRefused
  rcases h with h | ⟨h, hh⟩ <;> rw [h]
  simp [hh]

/-- The value of a scalar source read back as the word that its register holds. -/
theorem val_sreg (x : Word) (t : Nat) (r : List SrcVal) : val ({ val := x.toNat, tag := t } :: r) 0 = x := by
  simp [val, wordN]

theorem CoreKeptBut.setCsr (k : Core) (n : Nat) (x : Word) : CoreKeptBut (· = n) k (k.setCsr n x) :=
  ⟨fun j hj => by simp [hj], rfl, rfl, rfl, rfl, rfl, rfl, rfl, rfl, rfl, rfl⟩
/-- What keeps a core, before and behind what keeps it but for some control registers. -/
theorem CoreKeptBut.between {p : Nat → Prop} {a b c d : Core} (hab : CoreKept a b) (hbc : CoreKeptBut p b c) (hcd : CoreKept c d) :
    CoreKeptBut p a d where
  csr n hn := (hcd.csr n).trans ((hbc.csr n hn).trans (hab.csr n))
  rs := hcd.rs.trans (hbc.rs.trans hab.rs)
  gtag := hcd.gtag.trans (hbc.gtag.trans hab.gtag)
  cells := hcd.cells.trans (hbc.cells.trans hab.cells)
  clocks := hcd.clocks.trans (hbc.clocks.trans hab.clocks)
  mx := hcd.mx.trans (hbc.mx.trans hab.mx)
  l1 := hcd.l1.trans (hbc.l1.trans hab.l1)
  wbuf := hcd.wbuf.trans (hbc.wbuf.trans hab.wbuf)
  copies := hcd.copies.trans (hbc.copies.trans hab.copies)
  team := hcd.team.trans (hbc.team.trans hab.team)
  owed := hcd.owed.trans (hbc.owed.trans hab.owed)
theorem Core.sreg_setCsr (k : Core) (n : Nat) (x : Word) (j : Nat) : (k.setCsr n x).sreg j = k.sreg j := rfl
theorem Core.stag_setCsr (k : Core) (n : Nat) (x : Word) (j : Nat) : (k.setCsr n x).stag j = k.stag j := rfl
theorem Noted.scalars {k k' : Core} (h : Noted k k') (j : Nat) : k'.sreg j = k.sreg j ∧ k'.stag j = k.stag j := by
  simp [Core.sreg, Core.stag, h.regs]

/-- The commit of a register write that its core applies with `setCsr`, seen from the core that issues it. -/
theorem csrWrite_frame {i : Instr} {s s2 : State} {w : Word} {o : Out} {k : Core} (n : Nat) (x : Word) (he : encode i = some (.s, w))
    (hp : (slotOp i).pre ((s.prepared i).core s.turn) 0 = []) (hj : o.jump = none) (hk : Noted (s.issuer i) k) :
    let k' := Core.settle ((s.prepared i).issueRecord s.turn s.soleFrame [s.soleOp i .s w]
      { s := s2, outs := [(s.soleOp i .s w, o)] }) (k.setCsr n x)
    CoreKeptBut (· = n) (s.issuer i) k' ∧ MovedOn (s.issuer i) k' ∧ ScalarKept [] (s.issuer i) k' ∧ k'.csr n = x := by
  refine ⟨.between hk.kept (.setCsr k n x) (.settle _ _), movedOn_settle he hp hj hk.mode, fun j _ => ?_, ?_⟩
  · obtain ⟨h1, h2⟩ := Core.settle_sreg ((s.prepared i).issueRecord s.turn s.soleFrame [s.soleOp i .s w]
      { s := s2, outs := [(s.soleOp i .s w, o)] }) (k.setCsr n x) j
    obtain ⟨h3, h4⟩ := hk.scalars j
    exact ⟨h1.trans h3, h2.trans h4⟩
  · rw [Core.settle_csr, Core.csr_setCsr, if_pos rfl]

/-- The core at the commit of a bundle that does nothing but write a register. -/
theorem core_applyCsr (c g cyc : Nat) (op : CsrOp) (n : Nat) (x : Word) (u : State) (f : Core → Core) :
    ((applyAll c g cyc [.csr op n x] u).onCore c f).core c = f ((u.core c).csrApply op n x) := by
  simp [applyAll, Eff.apply]

/-- A register write into a plain register: the commit applies it to the core, and nothing else happens. -/
theorem writes_csrInstr (op : CsrOp) : Writes (csrInstr op) op := by
  intro h f s hc hn
  have he : encode (csrInstr op h f) = some (Slot.s, h.pack (csrOpcode op) ++ f.pack) := by
    rw [encode_csrInstr, csrInstr_inS ((Bool.and_eq_true ..).mp hc).1]
  have hop := slotOp_csrInstr op h f
  have hpre : (slotOp (csrInstr op h f)).pre ((s.prepared (csrInstr op h f)).core s.turn) 0 = [] := by rw [hop]; rfl
  have hx := exec_scalar (l := [f.sa.toNat]) (es := [.csr op f.csr.toNat ((s.issuer (csrInstr op h f)).sreg f.sa.toNat)])
    (exec_csrInstr op h f s) hc he (by rw [hop]; rfl) (by rw [hop]; rfl) (by rw [hop]; rfl) hpre
    (by
      intro ctx _
      rw [hop]
      simp only [csrWrite, List.map_cons, List.map_nil, val_sreg, Core.csrRefused_plain hn])
    (by simp [Eff.plain]) (by simp [Eff.countClass])
  refine ⟨_, hx, ?_, ?_⟩
  · exact ((State.noteLead_onlyCore ..).trans (.onCore ..)).trans ((applyAll_onlyCore (by simp [Eff.local]) ..).trans (.onCore ..))
  · have hk := noted (s.prepared (csrInstr op h f)) s.turn ((s.prepared (csrInstr op h f)).cycleOf s.turn)
      (issueWeight (s.issuer (csrInstr op h f)) [s.soleOp (csrInstr op h f) .s (h.pack (csrOpcode op) ++ f.pack)]) 0
    rw [core_applyCsr, Core.csrApply_plain hn, hk.kept.csr]
    exact csrWrite_frame _ _ he hpre rfl hk

/-- One live slot whose sources read and whose body fails faults the bundle with that slot (R12, R97, R233). -/
theorem State.runSlots_trap {s : State} {c : Nat} {fr : Frame} {x : SlotOp} {t : Trap} (hn : x.op.nop = false)
    (hl : x.live (s.core c) = true) (he : (x.vals s c).findSome? (fun v => v.err) = none)
    (hb : x.op.body { x.ctx s c fr with earlier := [] } (x.vals s c) s = .trap t) (hr : clashes s c [x] = []) :
    s.runSlots c fr [x] = s.faultIssue c fr { t with fmask := 2 ^ x.slot.maskBit } := by
  have herr : (x.vals s c).filterMap SrcVal.err = [] :=
    List.filterMap_eq_nil_iff.2 (List.findSome?_eq_none_iff.1 he)
  have hd : s.execStep c fr [x] = { s := s, fails := [(x, t)] } := by
    unfold State.execStep
    simp only [hr, List.isEmpty_nil, Bool.not_true, Bool.false_and, List.foldl_cons, List.foldl_nil]
    unfold Done.slot
    simp [hn, hl, herr, hb, firstCause]
  unfold State.runSlots
  simp [hd, slotMask]
/-- An instruction that passes and executes, whose sources are scalar registers and whose body fails, traps. -/
theorem exec_traps {i : Instr} {s : State} {x : Slot} {w : Word} {l : List Nat} {cause : Nat} {frs : List Word}
    (hx : exec i s = issueOne i (slotOp i) s) (hc : s.clears i = true) (he : encode i = some (x, w)) (hn : (slotOp i).nop = false)
    (hs : (slotOp i).srcs = l.map Src.s)
    (hb : ∀ ctx, ctx.c = s.turn → (slotOp i).body ctx (l.map fun n => { val := ((s.issuer i).sreg n).toNat, tag := (s.issuer i).stag n })
      (s.prepared i) = .trap { cause := cause, step := 6, frs := frs }) :
    Traps i s cause frs := by
  obtain ⟨hpass, hg⟩ := (Bool.and_eq_true ..).mp hc
  obtain ⟨x', w', he', h⟩ := issueOne_passes hpass
  rw [he] at he'
  obtain ⟨rfl, rfl⟩ := (Prod.mk.injEq ..).mp (Option.some.inj he')
  obtain ⟨_, hnamed, herr⟩ := scalar_sources (s := s) (x := x) (w := w) hs
  have hl : (s.soleOp i x w).live ((s.prepared i).core s.turn) = true := by simpa [State.guards, he] using hg
  have hvals := SlotOp.vals_scalar (s.soleOp i x w) (s.prepared i) s.turn l hs
  rw [Traps, hx, h, State.runSlots_trap hn hl herr (by rw [hvals]; exact hb _ rfl) (clashes_none hnamed)]
  simp [slotBit, he, State.soleOp, slotOpOf]

/-- A register write that is refused with PERM traps. -/
theorem traps_csrInstr {op : CsrOp} {h : Head} {f : XF} {s : State} (hc : s.clears (csrInstr op h f) = true)
    (hr : csrClass f.csr.toNat = .ro ∨ csrClass f.csr.toNat = .ho ∧ (s.issuer (csrInstr op h f)).handler = false) :
    Traps (csrInstr op h f) s cPERM [] := by
  have hop := slotOp_csrInstr op h f
  refine exec_traps (l := [f.sa.toNat]) (exec_csrInstr op h f s) hc (encode_csrInstr op h f) (by rw [hop]; rfl) (by rw [hop]; rfl)
    fun ctx hctx => ?_
  have hk : ((s.prepared (csrInstr op h f)).core ctx.c) = s.issuer (csrInstr op h f) := by rw [hctx]; rfl
  rw [hop]
  simp only [csrWrite, hk, Core.csrRefused_perm hr]
  rfl

/-- Settles O14: a plain register refuses nothing and the commit applies the write; the others fail in the execution step. -/
theorem controlRegisterWrites : Obligations.ControlRegisterWrites := by
  refine ⟨⟨writes_csrInstr .write, writes_csrInstr .set, writes_csrInstr .clear⟩, ?_⟩
  intro p hp h f s hc hr
  simp only [List.mem_cons, List.not_mem_nil, or_false] at hp
  rcases hp with rfl | rfl | rfl
  · exact traps_csrInstr (op := .write) hc hr
  · exact traps_csrInstr (op := .set) hc hr
  · exact traps_csrInstr (op := .clear) hc hr

end Sys2Proof.Machine
end

section
/-! SUPPORT. Memory through folds, choices and the writes of the Laws: what leaves memory alone, and what keeps its canonical form. -/
namespace Sys2Proof.Machine

/-- A fold of steps each of which keeps a measure keeps it. -/
theorem List.foldl_keeps {α β γ : Type} (m : β → γ) (f : β → α → β) (hf : ∀ b x, m (f b x) = m b) (l : List α) (b : β) :
    m (l.foldl f b) = m b := by
  induction l generalizing b with
  | nil => rfl
  | cons x r ih => rw [List.foldl_cons, ih, hf]
/-- A fold of checks, each of which refuses what was refused before and else keeps a measure, keeps it. -/
theorem Except.foldl_keeps {α β ε γ : Type} (m : β → γ) (f : Except ε β → α → Except ε β)
    (hf : ∀ r x t, f r x = .ok t → ∃ u, r = .ok u ∧ m t = m u) (l : List α) :
    ∀ {r t}, l.foldl f r = .ok t → ∃ u, r = .ok u ∧ m t = m u := by
  induction l with
  | nil => exact fun {r t} h => ⟨t, h, rfl⟩
  | cons x l ih =>
    intro r t h
    obtain ⟨u, hu, ht⟩ := ih h
    obtain ⟨v, hv, hv'⟩ := hf _ _ _ hu
    exact ⟨v, hv, ht.trans hv'⟩
theorem Except.mem_foldl {α ε : Type} (f : Except ε State → α → Except ε State)
    (hf : ∀ r x t, f r x = .ok t → ∃ u, r = .ok u ∧ t.mem = u.mem) (l : List α) {s t : State}
    (h : l.foldl f (.ok s) = .ok t) : t.mem = s.mem := by
  obtain ⟨u, hu, ht⟩ := Except.foldl_keeps State.mem f hf l h
  cases hu
  exact ht

@[simp] theorem State.mem_foldl {α : Type} (f : State → α → State) (l : List α) (s : State)
    (hf : ∀ s x, (f s x).mem = s.mem) : (l.foldl f s).mem = s.mem := List.foldl_keeps State.mem f hf l s
theorem State.mem_foldl_onCore {α : Type} (g : α → Nat) (f : α → Core → Core) (l : List α) (s : State) :
    (l.foldl (fun t x => t.onCore (g x) (f x)) s).mem = s.mem := State.mem_foldl _ _ _ fun _ _ => rfl
@[simp] theorem State.mem_foldl_snd {α β : Type} (f : β × State → α → β × State) (l : List α) (p : β × State)
    (hf : ∀ p x, (f p x).2.mem = p.2.mem) : (l.foldl f p).2.mem = p.2.mem :=
  List.foldl_keeps (fun p : β × State => p.2.mem) f hf l p
@[simp] theorem State.wf_foldl_snd {α β : Type} (f : β × State → α → β × State) (l : List α) (p : β × State)
    (hf : ∀ p x, Memory.wf p.2.mem = true → Memory.wf (f p x).2.mem = true) (h : Memory.wf p.2.mem = true) :
    Memory.wf (l.foldl f p).2.mem = true :=
  List.foldlRecOn l f h fun p hp x _ => hf p x hp
@[simp] theorem State.mem_takeFree (s : State) : s.takeFree.2.mem = s.mem := rfl
@[simp] theorem State.mem_ite (c : Prop) [Decidable c] (a b : State) : (if c then a else b).mem = if c then a.mem else b.mem := by
  split <;> rfl
@[simp] theorem State.mem_snd_ite {β : Type} (c : Prop) [Decidable c] (a b : β × State) :
    (if c then a else b).2.mem = if c then a.2.mem else b.2.mem := by
  split <;> rfl
@[simp] theorem Memory.wf_ite (c : Prop) [Decidable c] (m n : List Host.Cell) :
    Memory.wf (if c then m else n) = true ↔ (c → Memory.wf m = true) ∧ (¬c → Memory.wf n = true) := by
  split <;> simp [*]

/-! The writes of memory that keep its canonical form (Laws), as `simp` uses them. -/
@[simp] theorem State.canonical_foldl {α : Type} (f : State → α → State) (l : List α) (s : State)
    (hf : ∀ s x, Memory.wf s.mem = true → Memory.wf (f s x).mem = true) (h : Memory.wf s.mem = true) :
    Memory.wf (l.foldl f s).mem = true :=
  State.wf_foldl f l s hf h
@[simp] theorem State.canonical_homeWrite (s : State) (cs : List (Nat × Byte)) (h : Memory.wf s.mem = true) :
    Memory.wf (s.homeWrite cs).mem = true :=
  State.wf_homeWrite s cs h
@[simp] theorem State.canonical_writeMem (s : State) (cs : List (Nat × Byte)) (h : Memory.wf s.mem = true) :
    Memory.wf (s.writeMem cs).mem = true :=
  State.wf_writeMem s cs h

end Sys2Proof.Machine
end

section
/-! SUPPORT. Caches, scratchpads and the tables of conflict checks: the writes of memory keep its canonical form, the checks leave memory
alone. -/
namespace Sys2Proof.Machine

@[simp] theorem State.mem_hostFill (s : State) (pa : Nat) : (s.hostFill pa).mem = s.mem := by
  unfold State.hostFill; split <;> simp
@[simp] theorem State.mem_pinSlice (s : State) (sl n : Nat) : (s.pinSlice sl n).mem = s.mem := by
  unfold State.pinSlice; simp
@[simp] theorem State.wf_writeBack (s : State) (x : L1Line) (h : Memory.wf s.mem = true) :
    Memory.wf (s.writeBack x).mem = true := by
  unfold State.writeBack; simp [h]
@[simp] theorem State.wf_l1Evict (s : State) (c g : Nat) (h : Memory.wf s.mem = true) :
    Memory.wf (s.l1Evict c g).mem = true := by
  simp only [State.l1Evict]; (repeat' split) <;> simp [h]
@[simp] theorem State.wf_l1Fill (s : State) (c pa evp : Nat) (latch : Option Nat) (h : Memory.wf s.mem = true) :
    Memory.wf (s.l1Fill c pa evp latch).mem = true := by
  unfold State.l1Fill; simp [h]
@[simp] theorem State.wf_l1Drop (s : State) (c : Nat) (wb : Bool) (f : L1Line → Bool) (h : Memory.wf s.mem = true) :
    Memory.wf (s.l1Drop c wb f).mem = true := by
  unfold State.l1Drop
  cases wb
  · exact h
  · exact State.wf_foldl _ _ _ (fun s x => s.wf_writeBack x) h
@[simp] theorem State.wf_l1Clean (s : State) (c : Nat) (f : L1Line → Bool) (h : Memory.wf s.mem = true) :
    Memory.wf (s.l1Clean c f).mem = true := State.wf_foldl _ _ _ (fun s x => s.wf_writeBack x) h
@[simp] theorem State.mem_l1DropClean (s : State) (c : Nat) (f : L1Line → Bool) : (s.l1DropClean c f).mem = s.mem := rfl
@[simp] theorem State.mem_l1Miss (s : State) (c : Nat) : (s.l1Miss c).mem = s.mem := rfl
@[simp] theorem State.mem_pastRead (s : State) (c : Nat) (p : Page) (hint : Bool) (pa n : Nat) :
    (s.pastRead c p hint pa n).2.mem = s.mem := by
  unfold State.pastRead; split <;> simp
@[simp] theorem State.wf_lineRead (s : State) (c : Nat) (p : Page) (by_ na : Bool) (pa n : Nat) (h : Memory.wf s.mem = true) :
    Memory.wf (s.lineRead c p by_ na pa n).2.mem = true := by
  unfold State.lineRead; (repeat' split) <;> simp [h]
@[simp] theorem State.mem_noteGranules (s : State) (c : Nat) (swz : Bool) (gs : List Nat) : (s.noteGranules c swz gs).mem = s.mem := rfl
@[simp] theorem State.mem_noteView (s : State) (c : Nat) (swz : Bool) (cs : List (Nat × Byte)) : (s.noteView c swz cs).mem = s.mem := rfl
@[simp] theorem State.mem_crossWrite (s : State) (c : Nat) (swz : Bool) (cs : List (Nat × Byte)) :
    (s.crossWrite c swz cs).2.mem = s.mem := by
  simp only [State.crossWrite]; split <;> rfl
@[simp] theorem State.wf_viewWrite (s : State) (c : Nat) (swz : Bool) (st : List (Nat × Byte)) (h : Memory.wf s.mem = true) :
    Memory.wf (s.viewWrite c swz st).mem = true := by
  unfold State.viewWrite; simp [h]
@[simp] theorem State.mem_spadRead (s : State) (c : Nat) (swz : Bool) (pa n : Nat) : (s.spadRead c swz pa n).2.mem = s.mem := by
  simp only [State.spadRead]; split <;> rfl
@[simp] theorem State.wf_pageRead (s : State) (c : Nat) (p : Page) (by_ na : Bool) (n : Nat) (h : Memory.wf s.mem = true) :
    Memory.wf (s.pageRead c p by_ na n).2.mem = true := by
  simp only [State.pageRead]
  split
  · simp [h]
  · exact State.wf_foldl_snd _ _ _ (fun q b hq => by simp [hq]) h
@[simp] theorem State.wf_landCells (s : State) (c : Nat) (joined : Bool) (cs : List (Nat × Byte)) (h : Memory.wf s.mem = true) :
    Memory.wf (s.landCells c joined cs).mem = true := by
  unfold State.landCells
  split
  · exact State.wf_homeWriteAll s _ h
  · exact State.wf_foldl _ _ _ (fun s _ => State.wf_foldl _ _ s fun s g => s.wf_viewWrite c _ g) (State.wf_homeWriteAll s _ h)
@[simp] theorem State.wf_copySome (s : State) (d va n : Nat) (cp : Copy) (h : Memory.wf s.mem = true) :
    Memory.wf (s.copySome d va n cp).mem = true := by
  unfold State.copySome; simp [h]
@[simp] theorem State.wf_copyMix (s : State) (c va n : Nat) (h : Memory.wf s.mem = true) :
    Memory.wf (s.copyMix c va n).mem = true := by
  refine State.wf_foldl _ _ _ (fun s e hs => ?_) h
  split
  · exact State.wf_foldl _ _ _ (fun s cp => s.wf_copySome e.1 va n cp) hs
  · exact hs
@[simp] theorem State.wf_loadValue (s : State) (c va n : Nat) (ps : List (Nat × Nat × Page)) (by_ na : Bool)
    (h : Memory.wf s.mem = true) : Memory.wf (s.loadValue c va n ps by_ na).2.mem = true := by
  refine State.wf_foldl_snd _ _ _ (fun q b hq => by simp [hq]) ?_
  split
  · exact h
  · exact State.wf_copyMix s c va n h
@[simp] theorem State.wf_lineWrite (s : State) (c mode evp : Nat) (lt : Option Nat) (cs : List (Nat × Byte)) (h : Memory.wf s.mem = true) :
    Memory.wf (s.lineWrite c mode evp lt cs).mem = true := by
  simp only [State.lineWrite]; (repeat' split) <;> simp [h]
@[simp] theorem State.wf_storeCells (s : State) (c mode evp : Nat) (lt : Option Nat) (cs : List (Nat × Byte))
    (h : Memory.wf s.mem = true) : Memory.wf (s.storeCells c mode evp lt cs).mem = true := by
  unfold State.storeCells
  split
  · exact h
  · split
    · exact State.wf_viewWrite s c _ _ h
    · exact State.wf_homeWriteAll _ _ (State.wf_l1Drop s c false _ h)
    · exact State.wf_foldl _ _ _ (fun s g => s.wf_lineWrite c mode evp lt g) h
@[simp] theorem State.wf_cacheBoundary (s : State) (h : Memory.wf s.mem = true) : Memory.wf s.cacheBoundary.mem = true :=
  State.wf_foldl _ _ _ (fun s c => s.wf_l1Drop c true _) h
@[simp] theorem State.mem_setRecord (s : State) (g : Nat) (r : Record) : (s.setRecord g r).mem = s.mem := rfl
@[simp] theorem State.mem_onRecords (s : State) (keys : List Nat) (f : Record → Record) : (s.onRecords keys f).mem = s.mem := by
  unfold State.onRecords; simp
@[simp] theorem State.mem_fold (s : State) (g : Nat) (e : Granule) : (s.fold g e).mem = s.mem := rfl
theorem State.mem_bringRecord {s t : State} {g : Nat} (h : s.bringRecord g = .ok t) : t.mem = s.mem := by
  unfold State.bringRecord at h
  grind [State.mem_setRecord]
theorem State.mem_spillOne {s t : State} {sl : Nat} (h : s.spillOne sl = some t) : t.mem = s.mem := by
  unfold State.spillOne at h
  grind
@[simp] theorem State.mem_spillEntries (s : State) (sl n : Nat) : (s.spillEntries sl n).mem = s.mem := by
  induction n generalizing s with
  | zero => rfl
  | succ n ih =>
    unfold State.spillEntries
    split
    · next t ht => rw [ih, State.mem_spillOne ht]
    · rfl
@[simp] theorem State.mem_fitSlice (s : State) (sl : Nat) : (s.fitSlice sl).mem = s.mem := by
  unfold State.fitSlice; split <;> simp
theorem State.mem_lookupGranule {s t : State} {g : Nat} {e : Option Granule} (h : s.lookupGranule g = .ok (e, t)) : t.mem = s.mem := by
  unfold State.lookupGranule at h
  grind [State.mem_fold]
theorem State.mem_acrossTeams {s u : State} {c g t : Nat} {read : Bool} {e : Option Granule}
    (h : s.acrossTeams c g t read e = .ok u) : u.mem = s.mem := by
  unfold State.acrossTeams at h
  grind [State.mem_setRecord]
theorem State.mem_admits {s t : State} {c g : Nat} {kind : Acc} {e : Option Granule} {l : Live}
    (h : s.admits c g kind e = .ok (l, t)) : t.mem = s.mem := by
  unfold State.admits at h
  grind [State.mem_acrossTeams]
theorem State.mem_intervalCheck {s t : State} {c g : Nat} {kind : Acc} (h : s.intervalCheck c g kind = .ok t) : t.mem = s.mem := by
  unfold State.intervalCheck at h
  simp only [] at h
  split at h
  · cases h
  · next hb =>
    split at h
    · cases h
    · next hl =>
      split at h
      · split at h
        · cases h
        · split at h <;> cases h
      · cases h
      · next ha =>
        rw [← State.mem_bringRecord hb, ← State.mem_lookupGranule hl, ← State.mem_admits ha]
        split at h
        · cases h
        · cases h; rfl
theorem State.mem_handoffCheck {s t : State} {c g num : Nat} {bases : List Nat} {n : Nat} {write : Bool}
    (h : s.handoffCheck c g num bases n write = .ok t) : t.mem = s.mem := by
  unfold State.handoffCheck at h
  grind
theorem State.mem_conflictCheck {s t : State} {c : Nat} {p : Page} {pa n : Nat} {kind : Acc}
    (h : s.conflictCheck c p pa n kind = .ok t) : t.mem = s.mem := by
  unfold State.conflictCheck at h
  split_ifs at h
  · cases h; rfl
  · simp only [] at h
    split_ifs at h
    refine Except.mem_foldl _ (fun r g t ht => ?_) _ h
    split at ht
    · cases ht
    · refine ⟨_, rfl, ?_⟩
      split at ht
      · exact State.mem_handoffCheck ht
      · exact State.mem_intervalCheck ht
@[simp] theorem State.mem_settleRecords (s : State) (old : Table Record) (c : Nat) : (s.settleRecords old c).mem = s.mem :=
  State.mem_foldl _ _ _ fun _ _ => rfl
@[simp] theorem State.mem_makeTentative (s : State) (c : Nat) (undo : List (Nat × Option Granule)) (old : List (Nat × Handoff)) :
    (s.makeTentative c undo old).mem = s.mem :=
  State.mem_foldl _ _ _ fun s u => by split <;> rfl
@[simp] theorem State.mem_confirmClaims (s : State) (c : Nat) (undo : List (Nat × Option Granule)) :
    (s.confirmClaims c undo).mem = s.mem := by
  unfold State.confirmClaims
  rw [State.mem_onRecords]
  refine State.mem_foldl _ _ _ fun s u => ?_
  (repeat' split) <;> rfl
@[simp] theorem State.mem_withdrawClaims (s : State) (c : Nat) (w : Waiting) : (s.withdrawClaims c w).mem = s.mem := by
  unfold State.withdrawClaims
  rw [State.mem_onRecords]
  refine State.mem_foldl _ _ _ fun s u => ?_
  (repeat' split) <;> rfl

end Sys2Proof.Machine
end

section
/-! SUPPORT. Traps, barriers, reductions and channels: of these only a boundary's write-back and the cells of channels write memory. -/
namespace Sys2Proof.Machine

@[simp] theorem State.mem_enterHandler (s : State) (c : Nat) (t : Trap) : (s.enterHandler c t).mem = s.mem := by
  simp only [State.enterHandler]
  split
  · rfl
  · split <;> rfl
@[simp] theorem State.mem_trapEntry (s : State) (c : Nat) (t : Trap) (fra tepc rep dmask : Nat) (handler : Bool) :
    (s.trapEntry c t fra tepc rep dmask handler).mem = s.mem := by
  unfold State.trapEntry; simp
@[simp] theorem State.mem_rewindGang (s : State) (c : Nat) : (s.rewindGang c).mem = s.mem := by
  simp only [State.rewindGang]; split <;> simp
@[simp] theorem State.mem_unclaimAll (s : State) (ws : List Wait) : (s.unclaimAll ws).mem = s.mem :=
  State.mem_foldl _ _ _ fun s x => by split <;> rfl
@[simp] theorem State.mem_takeBack (s : State) (c : Nat) (keep : Bool) : (s.takeBack c keep).mem = s.mem := by
  unfold State.takeBack
  split
  · rfl
  · simp
@[simp] theorem State.mem_joinTrap (s : State) (c m : Nat) (t : Trap) (h : Bool) : (s.joinTrap c m t h).mem = s.mem := by
  unfold State.joinTrap; simp
@[simp] theorem State.mem_gangEnters (s : State) (c : Nat) : (s.gangEnters c).mem = s.mem := by
  unfold State.gangEnters; simp
@[simp] theorem State.mem_takeTrap (s : State) (c : Nat) (t : Trap) (fra tepc rep dmask : Nat) :
    (s.takeTrap c t fra tepc rep dmask).mem = s.mem := by
  unfold State.takeTrap; simp
@[simp] theorem State.mem_takeTrap7 (s : State) (c : Nat) (t : Trap) : (s.takeTrap7 c t).mem = s.mem := by
  unfold State.takeTrap7; split <;> simp
@[simp] theorem State.mem_resumeCore (s : State) (c : Nat) : (s.resumeCore c).mem = s.mem := by
  unfold State.resumeCore; simp
@[simp] theorem State.mem_landNow (s : State) (c : Nat) : (s.landNow c).mem = s.mem := by
  unfold State.landNow; simp
@[simp] theorem State.mem_arrive (s : State) (c o : Nat) : (s.arrive c o).mem = s.mem := rfl
@[simp] theorem State.mem_withdraw (s : State) (c o : Nat) : (s.withdraw c o).mem = s.mem := rfl
@[simp] theorem State.mem_flipParity (s : State) (t : Nat) : (s.flipParity t).mem = s.mem :=
  State.mem_foldl _ _ _ fun _ _ => rfl
@[simp] theorem State.wf_completePhase (s : State) (o : Nat) (h : Memory.wf s.mem = true) :
    Memory.wf (s.completePhase o).mem = true := by
  have hc := State.wf_foldl (fun (s : State) (m : Nat × Nat) => s.l1Clean m.1 fun _ => true) (s.barrier o).members s
    (fun s m => s.wf_l1Clean m.1 _) h
  simp only [State.completePhase]
  split
  · exact hc
  · simpa using hc
@[simp] theorem State.mem_placeNodes (s : State) (cls : List Nat) (key : Nat) (r : Reduction) : (s.placeNodes cls key r).mem = s.mem := by
  unfold State.placeNodes; simp
@[simp] theorem State.mem_onReduction (s : State) (key : Nat) (f : Reduction → Reduction) : (s.onReduction key f).mem = s.mem := by
  unfold State.onReduction; split <;> simp
@[simp] theorem State.mem_countDrop (s : State) (cl : Nat) : (s.countDrop cl).mem = s.mem := rfl
@[simp] theorem State.mem_dropAt (s : State) (key place : Nat) : (s.dropAt key place).mem = s.mem := by
  unfold State.dropAt; split <;> simp
@[simp] theorem State.mem_sendCollective (s : State) (r : Reduction) (kind dst level side round : Nat) (v : Line) (fl : Nat) :
    (s.sendCollective r kind dst level side round v fl).mem = s.mem := by
  unfold State.sendCollective; split <;> simp
@[simp] theorem State.mem_rootComplete (s : State) (key round : Nat) (v : Line) (fl : Nat) :
    (s.rootComplete key round v fl).mem = s.mem := by
  unfold State.rootComplete; (repeat' split) <;> simp
@[simp] theorem State.mem_upperOperand (s : State) (key round fuel place : Nat) (v : Line) (fl : Nat) :
    (s.upperOperand key round fuel place v fl).mem = s.mem := by
  induction fuel generalizing s place v fl with
  | zero => rfl
  | succ n ih =>
    unfold State.upperOperand
    simp only []
    (repeat' split) <;> simp [ih]
@[simp] theorem State.mem_localRoot (s : State) (key round : Nat) (v : Line) (fl : Nat) : (s.localRoot key round v fl).mem = s.mem := by
  unfold State.localRoot; (repeat' split) <;> simp
@[simp] theorem State.mem_sendPacket (s : State) (key j : Nat) (v : Line) : (s.sendPacket key j v).mem = s.mem := by
  unfold State.sendPacket; split <;> simp
@[simp] theorem State.mem_operandArrives (s : State) (key round place : Nat) (v : Line) (fl : Nat) :
    (s.operandArrives key round place v fl).mem = s.mem := by
  simp only [State.operandArrives]; (repeat' split) <;> simp
@[simp] theorem State.mem_cancelRound (s : State) (key round i : Nat) : (s.cancelRound key round i).mem = s.mem := by
  unfold State.cancelRound; simp
@[simp] theorem State.mem_retireRound (s : State) (key i : Nat) : (s.retireRound key i).mem = s.mem := by
  unfold State.retireRound; simp
@[simp] theorem State.mem_writeEntries (s : State) (cls : List Nat) (key : Nat) : (s.writeEntries cls key).mem = s.mem := by
  unfold State.writeEntries; simp
@[simp] theorem State.wf_placeCell (s : State) (key ring : Nat) (data : List Byte) (stamp : Nat) (pres : Bool)
    (h : Memory.wf s.mem = true) :
    Memory.wf (s.placeCell key ring data stamp pres).mem = true := by
  unfold State.placeCell; split <;> simp [h]
@[simp] theorem State.wf_placeEarly (s : State) (key : Nat) (h : Memory.wf s.mem = true) : Memory.wf (s.placeEarly key).mem = true := by
  unfold State.placeEarly
  split
  · exact h
  · exact State.wf_foldl _ _ _ (fun s e => s.wf_placeCell key e.1 e.2.1 e.2.2.1 e.2.2.2) h
@[simp] theorem State.wf_rehome (s : State) (t : Nat) (h : Memory.wf s.mem = true) : Memory.wf (s.rehome t).mem = true :=
  State.wf_foldl _ _ _ (fun s key hs => by simp [hs]) h
@[simp] theorem State.mem_claimCell (s : State) (c key : Nat) : (s.claimCell c key).mem = s.mem := rfl
@[simp] theorem State.wf_consumeCell (s : State) (key : Nat) (h : Memory.wf s.mem = true) :
    Memory.wf (s.consumeCell key).mem = true := by
  unfold State.consumeCell; split <;> simp [h]
@[simp] theorem State.wf_consumeAt (s : State) (key rs : Nat) (h : Memory.wf s.mem = true) :
    Memory.wf (s.consumeAt key rs).mem = true := by
  unfold State.consumeAt; simp [h]
@[simp] theorem State.wf_discardStale (s : State) (key ic fuel : Nat) (h : Memory.wf s.mem = true) :
    Memory.wf (s.discardStale key ic fuel).2.mem = true := by
  induction fuel generalizing s with
  | zero => exact h
  | succ n ih =>
    unfold State.discardStale
    split
    · exact h
    · split
      · exact ih _ (State.wf_consumeCell s key h)
      · exact h

end Sys2Proof.Machine
end

section
/-! SUPPORT. Copies, the effects of an operation and the waits of a bundle, up to the commit of a bundle. -/
namespace Sys2Proof.Machine

@[simp] theorem State.mem_copyView (s : State) (c : Nat) (cp : Copy) : (s.copyView c cp).mem = s.mem :=
  State.mem_foldl _ _ _ fun s r => by split <;> simp
@[simp] theorem State.wf_copyLand (s : State) (c : Nat) (x : Copy) (offs : List Nat) (h : Memory.wf s.mem = true) :
    Memory.wf (s.copyLand c x offs).mem = true := by
  unfold State.copyLand; simp [h]
@[simp] theorem State.wf_copyOut (s : State) (c : Nat) (x : Copy) (a b : Nat) (h : Memory.wf s.mem = true) :
    Memory.wf (s.copyOut c x a b).mem = true := by
  unfold State.copyOut; simp [h]
@[simp] theorem State.wf_copyEnds (s : State) (c : Nat) (x : Copy) (h : Memory.wf s.mem = true) :
    Memory.wf (s.copyEnds c x).mem = true := by
  unfold State.copyEnds; simp [h]
@[simp] theorem State.wf_homeStore (s : State) (c : Nat) (cs : List (Nat × Byte)) (h : Memory.wf s.mem = true) :
    Memory.wf (s.homeStore c cs).mem = true := by
  simp only [State.homeStore]
  split
  · exact State.wf_viewWrite _ _ _ _ (State.wf_l1Drop s c true _ h)
  · exact State.wf_homeWrite _ _ (State.wf_l1Drop s c true _ h)
@[simp] theorem State.wf_atomicDo (s : State) (c op pa w : Nat) (b cmp : Word) (h : Memory.wf s.mem = true) :
    Memory.wf (s.atomicDo c op pa w b cmp).2.mem = true := by
  refine State.wf_homeStore _ _ _ ?_
  split
  · rw [State.mem_spadRead]; exact State.wf_l1Drop s c true _ h
  · exact State.wf_l1Drop s c true _ h
@[simp] theorem State.wf_queueAppend (s : State) (c desc : Nat) (data : List Byte) (h : Memory.wf s.mem = true) :
    Memory.wf (s.queueAppend c desc data).2.mem = true := by
  unfold State.queueAppend
  split
  · exact h
  · have hd : ∀ f, Memory.wf (s.l1Drop c true f).mem = true := fun f => State.wf_l1Drop s c true f h
    simp only []
    split
    · exact hd _
    · split
      · exact State.wf_homeStore _ _ _ (hd _)
      · exact State.wf_homeStore _ _ _ (State.wf_homeStore _ _ _ (hd _))
@[simp] theorem State.mem_postRecord (s : State) (c : Nat) (p : Post) : (s.postRecord c p).mem = s.mem := rfl
@[simp] theorem State.mem_armLatch (s : State) (l n : Nat) : (s.armLatch l n).mem = s.mem := rfl
@[simp] theorem State.wf_flushLines (s : State) (c : Nat) (sl : Bool) (lines : List Nat) (h : Memory.wf s.mem = true) :
    Memory.wf (s.flushLines c sl lines).mem = true := by
  unfold State.flushLines; simp [h]
/-- What an effect does to memory: stores, atomics, copies, packets of queues, flushes and cells write it, and through the cache alone. -/
@[simp] theorem Eff.wf_apply (c g cyc : Nat) (e : Eff) (s : State) (h : Memory.wf s.mem = true) :
    Memory.wf (e.apply c g cyc s).mem = true := by
  cases e with
  | store cs mode evp lt => exact State.wf_storeCells s c mode evp lt cs h
  | atomic op pa w b cmp dst scope remote =>
    have := State.wf_atomicDo s c op pa w b cmp h
    simp only [Eff.apply]
    (repeat' split) <;> exact this
  | cpy cp => exact State.wf_l1Drop _ c true _ (by rw [State.mem_copyView]; exact h)
  | cpyq desc d data =>
    have := State.wf_queueAppend s c desc data h
    simp only [Eff.apply]
    split <;> exact this
  | prefetch pa evp lt sl => simp only [Eff.apply]; (repeat' split) <;> simp [h]
  | flush sl ls => exact State.wf_flushLines s c sl ls h
  | drained mask scope => simp only [Eff.apply]; (repeat' split) <;> simp [h]
  | consume key rs => exact State.wf_consumeAt s key rs h
  | _ => simp [Eff.apply, h]
@[simp] theorem State.mem_readAgain (s : State) (c : Nat) (settled : List (Nat × Nat)) (src : List (Nat × Nat × Nat)) (x : Nat) :
    (s.readAgain c settled src x).2.mem = s.mem := by
  refine State.mem_foldl_snd _ _ _ fun r q => State.mem_foldl_snd _ _ _ fun r p => ?_
  simp only []
  split <;> simp
@[simp] theorem Eff.mem_again (c : Nat) (settled : List (Nat × Nat)) (e : Eff) (s : State) : (Eff.again c settled e s).2.mem = s.mem := by
  unfold Eff.again; split <;> simp
@[simp] theorem State.mem_afresh (s : State) (c : Nat) (settled : List (Nat × Nat)) (es : List Eff) :
    (s.afresh c settled es).2.mem = s.mem := by
  unfold State.afresh; simp
@[simp] theorem wf_applyAll (c g cyc : Nat) (es : List Eff) (s : State) (h : Memory.wf s.mem = true) :
    Memory.wf (applyAll c g cyc es s).mem = true :=
  State.wf_foldl _ _ _ (fun s e => e.wf_apply c g cyc s) h
@[simp] theorem State.mem_serveGrants (s : State) (cl fuel : Nat) : (s.serveGrants cl fuel).mem = s.mem := by
  induction fuel generalizing s with
  | zero => rfl
  | succ n ih =>
    unfold State.serveGrants
    (repeat' split) <;> simp [ih]
/-- A wait that is looked at writes memory where it discards stale cells, and nowhere else. -/
@[simp] theorem State.wf_pollWait (s : State) (c : Nat) (x : Wait) (h : Memory.wf s.mem = true) :
    Memory.wf (s.pollWait c x).2.mem = true := by
  unfold State.pollWait
  split
  · exact h
  · cases x.kind with
    | chrd key dst =>
      have := State.wf_discardStale s key (s.core c).ic ((s.channel key).depth + 1) h
      simp only []
      (repeat' split) <;> exact this
    | _ => simp only []; (repeat' split) <;> simp [h]
@[simp] theorem State.mem_timeoutWait (s : State) (c : Nat) (x : Wait) : (s.timeoutWait c x).2.mem = s.mem := by
  unfold State.timeoutWait
  cases x.kind <;> simp only [] <;> (repeat' split) <;> simp
@[simp] theorem State.mem_escalate (s : State) (c : Nat) (x : Wait) : (s.escalate c x).2.mem = s.mem := by
  unfold State.escalate; split <;> simp
@[simp] theorem State.wf_commitWait (s : State) (c cyc : Nat) (x : Wait) (esc : Option Trap) (h : Memory.wf s.mem = true) :
    Memory.wf (s.commitWait c cyc x esc).2.mem = true := by
  simp only [State.commitWait]; (repeat' split) <;> simp [h]
@[simp] theorem State.wf_commitSlot (s : State) (c : Nat) (w : Waiting) (settled : Nat → List (Nat × Nat)) (e : Nat × Nat × List Eff)
    (esc : Option Trap) (h : Memory.wf s.mem = true) : Memory.wf (s.commitSlot c w settled e esc).2.mem = true := by
  have hw := State.wf_foldl_snd (fun (p : Option Trap × State) x => p.2.commitWait c w.cyc x p.1) (w.waits.filter fun x => x.slot == e.1)
    (esc, applyAll c e.2.1 w.cyc (s.afresh c (settled e.1) e.2.2).1 (s.afresh c (settled e.1) e.2.2).2)
    (fun p x hp => State.wf_commitWait p.2 c w.cyc x p.1 hp) (by simp [h])
  simp only [State.commitSlot]
  split <;> exact hw
/-- A commit confirms the claims, commits slot after slot and enters the escalated trap; only the slots' effects and waits write memory. -/
@[simp] theorem State.wf_commitBundle (s : State) (c : Nat) (w : Waiting) (h : Memory.wf s.mem = true) :
    Memory.wf (s.commitBundle c w).mem = true := by
  have h0 : Memory.wf ((if w.waits.isEmpty then s else s.confirmClaims c w.undo).onRecords w.undoRec (Record.confirm c)).mem = true := by
    rw [State.mem_onRecords]; split <;> simp [h]
  unfold State.commitBundle
  generalize (if w.waits.isEmpty then s else s.confirmClaims c w.undo).onRecords w.undoRec (Record.confirm c) = u at h0 ⊢
  have hu := State.wf_foldl_snd (fun (p : Option Trap × State) e => p.2.commitSlot c w (u.settledBefore c w) e p.1) w.effs (none, u)
    (fun p e hp => State.wf_commitSlot p.2 c w _ e p.1 hp) h0
  simp only []
  generalize w.effs.foldl (fun (p : Option Trap × State) e => p.2.commitSlot c w (u.settledBefore c w) e p.1) (none, u) = p at hu ⊢
  (repeat' split) <;> simp [hu]
@[simp] theorem State.wf_lookBundle (s : State) (c : Nat) (look : State → Waiting → Wait → Wait × State)
    (hl : ∀ s w x, Memory.wf s.mem = true → Memory.wf (look s w x).2.mem = true) (h : Memory.wf s.mem = true) :
    Memory.wf (s.lookBundle c look).mem = true := by
  unfold State.lookBundle
  split
  · exact h
  · next w _ =>
    have hu := State.wf_foldl (fun (s : State) (x : Wait × Nat) => (look s w x.1).2.onCore c (Core.putWait x.2 (look s w x.1).1))
      w.waits.zipIdx s (fun s x hs => hl s w x.1 hs) h
    simp only []
    split
    · exact hu
    · split
      · exact State.wf_commitBundle _ _ _ hu
      · exact hu
@[simp] theorem State.wf_pollBundle (s : State) (c : Nat) (h : Memory.wf s.mem = true) : Memory.wf (s.pollBundle c).mem = true :=
  State.wf_lookBundle s c _ (fun s _ x hs => s.wf_pollWait c x hs) h
@[simp] theorem State.wf_expireBundle (s : State) (c : Nat) (h : Memory.wf s.mem = true) : Memory.wf (s.expireBundle c).mem = true := by
  refine State.wf_lookBundle s c _ (fun s w x hs => ?_) h
  simp only []
  split
  · rw [State.mem_timeoutWait]; exact State.wf_pollWait s c x hs
  · exact State.wf_pollWait s c x hs
@[simp] theorem State.wf_freshenHead (s : State) (c ix : Nat) (x : Src) (h : Memory.wf s.mem = true) :
    Memory.wf (s.freshenHead c ix x).mem = true := by
  simp only [State.freshenHead]
  (repeat' split) <;> simp [h]

end Sys2Proof.Machine
end

section
/-! SUPPORT. The predicate that O56 and O57 share: an outcome is a next state, with memory in canonical form where it was before; and
the issue of one operation, which goes on whatever the operation does. -/
namespace Sys2Proof.Machine

/-- What an operation goes on with has memory in canonical form. -/
def Res.Canonical : Res → Prop
  | .ok s _ => Memory.wf s.mem = true
  | _ => True
/-- An operation keeps memory's canonical form in its execution. -/
def Op.Keeps (op : Op) : Prop := ∀ x vs s, Memory.wf s.mem = true → (op.body x vs s).Canonical
/-- A machine goes on from `s` with an outcome: it has a next state, in which memory is canonical if it was before. -/
def Continues (s : State) (o : Host.Outcome State Fault Refusal) : Prop :=
  ∃ t, o = .next t ∧ (Memory.wf s.mem = true → Memory.wf t.mem = true)

@[simp] theorem Res.canonical_ok (s : State) (o : Out) : (Res.ok s o).Canonical ↔ Memory.wf s.mem = true := .rfl
@[simp] theorem Res.canonical_trap (t : Trap) : (Res.trap t).Canonical := trivial
@[simp] theorem Res.canonical_hold : Res.hold.Canonical := trivial
/-- An operation that fails goes on with nothing. -/
@[simp] theorem Res.canonical_unless (t : Trap) (r : Res) : (r.unless t).Canonical := by
  cases r with
  | ok s o => trivial
  | trap u | hold => simp only [Res.unless]; split <;> trivial
theorem withDst_canonical {r : Except Trap Nat} {go : Nat → Res} (h : ∀ a, (go a).Canonical) : (withDst r go).Canonical := by
  cases r with
  | ok a => exact h a
  | error t => exact Res.canonical_unless t _
@[simp] theorem Stop.canonical_res (e : Stop) : e.res.Canonical := by cases e <;> trivial

theorem Continues.next {s t : State} (h : Memory.wf s.mem = true → Memory.wf t.mem = true) : Continues s (.next t) := ⟨t, rfl, h⟩
/-- An event that leaves memory alone. -/
theorem Continues.same {s t : State} (h : t.mem = s.mem) : Continues s (.next t) := .next fun hs => h ▸ hs
@[simp] theorem continues_next (s t : State) : Continues s (.next t) ↔ (Memory.wf s.mem = true → Memory.wf t.mem = true) := by
  simp [Continues]
@[simp] theorem continues_ite (s : State) (p : Prop) [Decidable p] (a b : Host.Outcome State Fault Refusal) :
    Continues s (if p then a else b) ↔ (p → Continues s a) ∧ (¬p → Continues s b) := by
  split <;> simp [*]
theorem Continues.refl (s : State) : Continues s (.next s) := .next id

/-- A slot executes from canonical memory into canonical memory. -/
theorem Done.wf_slot (d : Done) (c : Nat) (fr : Frame) (clash : Bool) (x : SlotOp) (hx : x.op.Keeps) (h : Memory.wf d.s.mem = true) :
    Memory.wf (d.slot c fr clash x).s.mem = true := by
  have hb := hx { x.ctx d.s c fr with earlier := d.outs.flatMap fun o => o.2.effs } (x.vals d.s c) d.s h
  simp only [Done.slot]
  split
  · exact h
  · split
    · exact h
    · split
      · exact h
      · exact h
      · next s o hr =>
        split at hr
        · next t _ =>
          have := Res.canonical_unless t (x.op.body { x.ctx d.s c fr with earlier := d.outs.flatMap fun o => o.2.effs } (x.vals d.s c) d.s)
          rw [hr] at this; exact this
        · rw [hr] at hb; exact hb
theorem State.wf_execStep (s : State) (c : Nat) (fr : Frame) (ops : List SlotOp) (ho : ∀ x ∈ ops, x.op.Keeps)
    (h : Memory.wf s.mem = true) : Memory.wf (s.execStep c fr ops).s.mem = true := by
  unfold State.execStep
  exact List.foldlRecOn ops _ (motive := fun d : Done => Memory.wf d.s.mem = true) h fun d hd x hx => d.wf_slot c fr _ x (ho x hx) hd

@[simp] theorem State.mem_noteLead (s : State) (c code : Nat) : (s.noteLead c code).mem = s.mem := by
  simp only [State.noteLead]; split <;> simp
@[simp] theorem State.mem_dropBack (s : State) (c : Nat) : (s.dropBack c).mem = s.mem := by
  unfold State.dropBack; split <;> simp
@[simp] theorem State.mem_markHeld (s : State) (c why : Nat) : (s.markHeld c why).mem = s.mem := rfl
@[simp] theorem State.mem_faultIssue (s : State) (c : Nat) (fr : Frame) (t : Trap) : (s.faultIssue c fr t).mem = s.mem :=
  State.mem_takeTrap ..
@[simp] theorem State.mem_notePromise (s : State) (c : Nat) : (s.notePromise c).mem = s.mem := by
  simp only [State.notePromise]; split <;> rfl
@[simp] theorem State.mem_beforeIssue (s : State) (c : Nat) : (s.beforeIssue c).2.mem = s.mem := by
  simp only [State.beforeIssue]; split <;> simp
theorem State.mem_beforeIssue_trap {s t u : State} {c : Nat} (h : s.beforeIssue c = (some t, u)) : t.mem = s.mem := by
  unfold State.beforeIssue at h
  simp only [] at h
  split at h
  · cases h
  · cases h; simp
theorem State.mem_beforeIssue_next {s u : State} {c : Nat} {r : Option State} (h : s.beforeIssue c = (r, u)) : u.mem = s.mem := by
  rw [← State.mem_beforeIssue s c, h]

theorem State.wf_finishIssue (s0 : State) (c : Nat) (fr : Frame) (ops : List SlotOp) (d : Done) (h : Memory.wf d.s.mem = true) :
    Memory.wf (s0.finishIssue c fr ops d).mem = true := by
  simp only [State.finishIssue]
  split
  · exact State.wf_commitBundle _ _ _ (by simp [h])
  · exact State.wf_pollBundle _ _ (by simp [h])
theorem State.wf_runSlots (s : State) (c : Nat) (fr : Frame) (ops : List SlotOp) (ho : ∀ x ∈ ops, x.op.Keeps)
    (h : Memory.wf s.mem = true) : Memory.wf (s.runSlots c fr ops).mem = true := by
  have hd := s.wf_execStep c fr ops ho h
  simp only [State.runSlots]
  split
  · exact h
  · split
    · simp [h]
    · split
      · exact h
      · split
        · simp [h]
        · exact State.wf_finishIssue s c fr ops _ hd
@[simp] theorem State.wf_freshenOps (s : State) (c : Nat) (ops : List SlotOp) (h : Memory.wf s.mem = true) :
    Memory.wf (s.freshenOps c ops).mem = true :=
  State.wf_foldl _ _ _ (fun s x => State.wf_foldl _ _ s fun s y => s.wf_freshenHead c x.rx y) h
theorem State.wf_issueSlots (s : State) (c : Nat) (fr : Frame) (ops : List SlotOp) (ho : ∀ x ∈ ops, x.op.Keeps)
    (h : Memory.wf s.mem = true) : Memory.wf (s.issueSlots c fr ops).mem = true := by
  have hf := s.wf_freshenOps c ops h
  simp only [State.issueSlots]
  split
  · exact h
  · split
    · split <;> simp [hf]
    · exact State.wf_runSlots _ c fr ops ho hf
/-- The issue of one operation has a next state whatever the operation does; it keeps memory's canonical form where the operation does. -/
theorem issueOne_continues (i : Instr) (op : Op) (s : State) (ho : op.Keeps) : Continues s (issueOne i op s) := by
  simp only [issueOne]
  split
  · exact .refl s
  · next x w _ =>
    split
    · exact .refl s
    · split
      · next hb => exact .same (State.mem_beforeIssue_trap hb)
      · next u hb =>
        refine .next fun h => State.wf_issueSlots _ _ _ _ (by simpa [slotOpOf] using ho) ?_
        rw [State.mem_beforeIssue_next hb]; exact h

end Sys2Proof.Machine
end

section
/-! SUPPORT. The operations: in its execution each keeps memory's canonical form (the stores are effects of the commit). -/
namespace Sys2Proof.Machine

@[simp] theorem State.mem_noteAccess (s : State) (c pa n : Nat) (acc : Acc) : (s.noteAccess c pa n acc).mem = s.mem := by
  unfold State.noteAccess; split <;> simp
theorem State.mem_checkPiece {s t : State} {c va : Nat} {p : Page} {pa n : Nat} {acc : Acc} {frs : List Word}
    (h : s.checkPiece c va p pa n acc frs = .ok t) : t.mem = s.mem := by
  unfold State.checkPiece at h
  split at h
  · cases h
  · split at h
    · next hc => cases h; rw [State.mem_noteAccess, State.mem_conflictCheck hc]
    · cases h
    · cases h
    · cases h
theorem State.mem_checkPieces {s t : State} {c : Nat} {k : AccessKind} {size : Nat} {acc : Acc} {ps : List (Nat × Nat × Page)}
    (h : s.checkPieces c k size acc ps = .ok t) : t.mem = s.mem := by
  refine Except.mem_foldl _ (fun r q t ht => ?_) _ h
  cases r with
  | error e => cases ht
  | ok u => exact ⟨u, rfl, State.mem_checkPiece ht⟩
theorem State.mem_reach {s t : State} {c va n : Nat} {k : AccessKind} {size : Nat} {acc : Acc} {ps : List (Nat × Nat × Page)}
    (h : s.reach c va n k size acc = .ok (ps, t)) : t.mem = s.mem := by
  unfold State.reach at h
  split at h
  · cases h
  · split at h
    · cases h
    · next hc => cases h; exact State.mem_checkPieces hc
theorem State.mem_reachSegs {s t : State} {c : Nat} {segs : List Seg} {k : AccessKind} {size : Nat} {acc : Acc} {r : Reached}
    (h : s.reachSegs c segs k size acc = .ok (r, t)) : t.mem = s.mem := by
  unfold State.reachSegs at h
  split at h
  · cases h
  · obtain ⟨u, hu, ht⟩ := Except.foldl_keeps (fun q : Reached × State => q.2.mem) _ (fun r g t ht => by
      cases r with
      | error e => cases ht
      | ok q =>
        refine ⟨q, rfl, ?_⟩
        simp only [] at ht
        split at ht
        · cases ht
        · next hr => cases ht; exact State.mem_reach hr) _ h
    cases hu
    exact ht
theorem State.mem_checkReplicas {s t : State} {c : Nat} {ps : List (Nat × Nat × Page)} (h : s.checkReplicas c ps = .ok t) :
    t.mem = s.mem := by
  refine Except.mem_foldl _ (fun r q t ht => Except.foldl_keeps State.mem _ (fun r j t ht => ?_) _ ht) _ h
  split at ht
  · next u _ _ => exact ⟨u, rfl, State.mem_checkPiece ht⟩
  · exact ⟨t, ht, rfl⟩
theorem State.mem_checkCopy {s t : State} {c a n : Nat} {k : AccessKind} {id : Nat} {acc : Acc}
    (h : s.checkCopy c a n k id acc = .ok t) : t.mem = s.mem := by
  refine Except.mem_foldl _ (fun r q t ht => ?_) _ h
  cases r with
  | error e => cases ht
  | ok u =>
    refine ⟨u, rfl, ?_⟩
    simp only [] at ht
    split at ht
    · cases ht; rfl
    · exact State.mem_checkPiece ht
theorem State.mem_slotReach {s t : State} {c : Nat} {p : Page} (h : s.slotReach c p = .ok t) : t.mem = s.mem := by
  unfold State.slotReach at h
  simp only [] at h
  split at h
  · cases h; rfl
  · match hr : s.reach c _ 64 .write 0 .write, h with
    | .ok (ps, u), h => cases h; exact State.mem_reach hr
    | .error e, h => cases h
@[simp] theorem State.mem_freeBytes (s : State) (n : Nat) : (s.freeBytes n).2.mem = s.mem := by
  induction n with
  | zero => rfl
  | succ n ih => exact ih

@[simp] theorem State.wf_loadFor (s : State) (x : Ctx) (va n : Nat) (ps : List (Nat × Nat × Page)) (by_ na : Bool)
    (h : Memory.wf s.mem = true) : Memory.wf (s.loadFor x va n ps by_ na).2.mem = true :=
  State.wf_loadValue s x.c va n ps by_ na h
@[simp] theorem State.wf_loadSegs (s : State) (x : Ctx) (f : CF) (r : Reached) (h : Memory.wf s.mem = true) :
    Memory.wf (s.loadSegs x f r).2.mem = true :=
  State.wf_foldl_snd _ _ _ (fun p _ hp => State.wf_loadFor p.2 x _ _ _ _ _ hp) h
@[simp] theorem State.wf_copySource (s : State) (x : Ctx) (src n : Nat) (h : Memory.wf s.mem = true) :
    Memory.wf (s.copySource x src n).2.mem = true := by
  refine State.wf_foldl_snd _ _ _ (fun p q hp => ?_) (State.wf_l1Clean s x.c _ h)
  simp only []
  split
  · dsimp only; exact State.wf_loadFor p.2 x _ _ _ _ _ hp
  · exact hp

@[simp] theorem canonical_waits (w : Wait) (s : State) : (waits w s).Canonical ↔ Memory.wf s.mem = true := .rfl

/-! Operations, by the shape of their bodies. -/

/-- What checks alone have come between goes on with the memory that was there before. -/
theorem Res.canonical_of_mem {s t : State} {o : Out} (hm : t.mem = s.mem) (h : Memory.wf s.mem = true) : (Res.ok t o).Canonical :=
  (Res.canonical_ok t o).2 (hm ▸ h)
theorem writeVec_canonical {x : Ctx} {vd : BitVec 12} {lat : Nat} {r : Nat × Flags} {s : State} (h : Memory.wf s.mem = true) :
    (writeVec x vd lat r s).Canonical := withDst_canonical fun _ => h
theorem goTo_canonical {s : State} {c target : Nat} {kinds : List Nat} {sig : Option Nat} {effs : List Eff}
    (h : Memory.wf s.mem = true) : (s.goTo c target kinds sig effs).Canonical := by
  unfold State.goTo; split <;> simp [h]
theorem barWait_canonical {f : WF} {x : Ctx} {vs : List SrcVal} {o : Nat} {s : State} (h : Memory.wf s.mem = true) :
    (barWait f x vs o s).Canonical := by
  simp only [barWait]; split <;> exact h
theorem csrWrite_keeps (k : CsrOp) (f : XF) : (csrWrite k f).Keeps := by
  intro x vs s h
  simp only [csrWrite]
  split <;> simp [h]
theorem atomicOp_keeps (opc : Nat) (red ret : Bool) (f : SR) (srcs : List Src) : (atomicOp opc red ret f srcs).Keeps := by
  intro x vs s h
  simp only [atomicOp]
  split
  · trivial
  · split
    · simp
    · next hr =>
      have hm := State.mem_reach hr ▸ h
      split
      · rw [Res.canonical_ok]; split
        · exact hm
        · exact State.wf_copyMix _ _ _ _ hm
      · exact hm
theorem opLds_keeps (f : SI) : (opLds f).Keeps := by
  intro x vs s h
  simp only [opLds]
  split
  · trivial
  · split
    · simp
    · next hr => exact State.wf_loadFor _ _ _ _ _ _ _ (State.mem_reach hr ▸ h)
theorem opSts_keeps (f : SI) : (opSts f).Keeps := by
  intro x vs s h
  simp only [opSts]
  split
  · trivial
  · split
    · simp
    · next hr => exact Res.canonical_of_mem (State.mem_reach hr) h
theorem opTld_keeps (f : CF) : (opTld f).Keeps := by
  intro x vs s h
  refine withDst_canonical fun a => ?_
  simp only []
  split
  · trivial
  · split
    · simp
    · next hr => exact State.wf_loadSegs _ _ _ _ (State.mem_reachSegs hr ▸ h)
theorem opTst_keeps (f : CF) : (opTst f).Keeps := by
  intro x vs s h
  simp only [opTst]
  split
  · trivial
  · split
    · simp
    · next hr => exact Res.canonical_of_mem (State.mem_reachSegs hr) h
theorem opTldw_keeps (f : CF) : (opTldw f).Keeps := by
  intro x vs s h
  simp only [opTldw]
  split
  · trivial
  · split
    · simp
    · split
      · trivial
      · split
        · simp
        · next hr => exact State.wf_loadFor _ _ _ _ _ _ _ (State.mem_checkPieces hr ▸ h)
theorem opGath_keeps (f : CF) : (opGath f).Keeps := by
  intro x vs s h
  refine withDst_canonical fun a => ?_
  simp only []
  split
  · trivial
  · split
    · simp
    · next hr => exact State.wf_loadSegs _ _ _ _ (State.mem_reachSegs hr ▸ h)
theorem opScat_keeps (f : CF) : (opScat f).Keeps := by
  intro x vs s h
  simp only [opScat]
  split
  · trivial
  · split
    · simp
    · next hr => exact Res.canonical_of_mem (State.mem_reachSegs hr) h
theorem opMcst_keeps (f : CF) : (opMcst f).Keeps := by
  intro x vs s h
  simp only [opMcst]
  split
  · trivial
  · split
    · simp
    · split
      · simp
      · next hr => exact Res.canonical_of_mem (State.mem_checkReplicas hr) h
theorem opCpy_keeps (f : CF) : (opCpy f).Keeps := by
  intro x vs s h
  simp only [opCpy]
  split_ifs
  · trivial
  · trivial
  · trivial
  · trivial
  · split
    · trivial
    · split
      · simp
      · next h1 =>
        split
        · simp
        · next h2 => exact State.wf_copySource _ _ _ _ (by rw [State.mem_checkCopy h2, State.mem_checkCopy h1]; exact h)
theorem opCpyq_keeps (f : CF) : (opCpyq f).Keeps := by
  intro x vs s h
  simp only [opCpyq]
  split
  · trivial
  · split
    · simp
    · next h1 =>
      split
      · exact Res.canonical_of_mem (State.mem_reach h1) h
      · split
        · simp
        · next h2 =>
          refine Res.canonical_of_mem ?_ h
          rw [← State.mem_reach h1, ← State.mem_slotReach h2]
          split
          · exact State.mem_freeBytes _ 8
          · rfl
theorem opPfch_keeps (f : CF) : (opPfch f).Keeps := by
  intro x vs s h
  simp only [opPfch]
  split
  · exact h
  · split_ifs <;> exact h
theorem opRpkt_keeps (f : CF) : (opRpkt f).Keeps := by
  intro x vs s h
  simp only [opRpkt]
  split
  · trivial
  · split <;> simp [h]
theorem opRrcv_keeps (f : WF) : (opRrcv f).Keeps := by
  intro x vs s h
  refine withDst_canonical fun a => ?_
  split
  · trivial
  · simp only []
    split
    · trivial
    · exact h
theorem opChrd_keeps (f : WF) : (opChrd f).Keeps := by
  intro x vs s h
  refine withDst_canonical fun a => ?_
  split
  · trivial
  · exact h
theorem opBar_keeps (f : WF) : (opBar f).Keeps := by
  intro x vs s h
  simp only [opBar]
  split
  · trivial
  · refine barWait_canonical ?_
    split <;> simp [h]
theorem opPwra_keeps (f : WF) : (opPwra f).Keeps := by
  intro x vs s h
  simp only [opPwra]
  split_ifs <;> exact h
theorem opCpost_keeps (f : WF) : (opCpost f).Keeps := by
  intro x vs s h
  simp only [opCpost]
  split
  · trivial
  · split
    · trivial
    · exact h

/-- Execution keeps memory's canonical form, whatever the operation. -/
theorem slotOp_keeps (i : Instr) : (slotOp i).Keeps := by
  cases i with
  | lds h f => exact opLds_keeps f
  | sts h f => exact opSts_keeps f
  | aadd h f | amin h f | amax h f | aand h f | aor h f | axor h f | aaddr h f | axch h f | acas h f => exact atomicOp_keeps _ _ _ _ _
  | csrw h f | csrs h f | csrc h f => exact csrWrite_keeps _ f
  | tld h f => exact opTld_keeps f
  | tst h f => exact opTst_keeps f
  | tldw h f => exact opTldw_keeps f
  | gath h f => exact opGath_keeps f
  | scat h f => exact opScat_keeps f
  | mcst h f => exact opMcst_keeps f
  | cpy h f => exact opCpy_keeps f
  | cpyq h f => exact opCpyq_keeps f
  | pfch h f => exact opPfch_keeps f
  | rpkt h f => exact opRpkt_keeps f
  | rrcv h f => exact opRrcv_keeps f
  | chrd h f => exact opChrd_keeps f
  | bar h f => exact opBar_keeps f
  | pwra h f => exact opPwra_keeps f
  | cpost h f => exact opCpost_keeps f
  | jmp h f | jmpr h f | call h f | callr h f | ret h f => exact fun _ _ _ hs => goTo_canonical hs
  | br h f =>
    intro x vs s hs
    simp only [slotOp, opBr]
    split
    · exact goTo_canonical hs
    · exact hs
  | loop h f =>
    intro x vs s hs
    simp only [slotOp, opLoop]
    split
    · exact hs
    · exact goTo_canonical hs
  | barw h f =>
    intro x vs s hs
    simp only [slotOp, opBarw]
    split
    · trivial
    · exact barWait_canonical hs
  | eret h f | chk h f | mpw h f | lpset h f | clke h f | chwr h f | absn h f | chrdy h f | bara h f | barx h f | ltar h f | ltin h f
  | mcfg h f | mact h f | mstp h f | mrtn h f | vchk h f =>
    intro x vs s hs
    simp only [slotOp, opEret, opChk, opMpw, opLpset, opClke, opChwr, opAbsn, opChrdy, opBara, opBarx, opLtar, opLtin, opMcfg, opMact,
      opMstp, opMrtn, opVchk]
    (repeat' split) <;> simp [hs]
  | mrg h f =>
    intro x vs s hs
    simp only [slotOp, opMrg]
    split_ifs
    · trivial
    · exact writeVec_canonical hs
    · trivial
    · exact writeVec_canonical hs
  | vadd h f | vsub h f | vmul h f | vfma h f | vfms h f | vmin h f | vmax h f | vabs h f | vneg h f | vcmp h f | vsel h f | vcvt h f
  | vrnd h f | vdiv h f | vsqrt h f | vrcp h f | vrsq h f | vex2 h f | vlg2 h f | vtnh h f | viadd h f | visub h f | vimul h f
  | vand h f | vor h f | vxor h f | vshl h f | vshr h f | vsra h f | vimin h f | vimax h f | vclz h f | vpopc h f | vclmp h f
  | vbcst h f | vperm h f | vshf h f | vrsum h f | vrmax h f | vscan h f | vqnt h f | vdqnt h f | veps h f | vmov h f | vli h f
  | when h f | pmrg h f => exact fun _ _ _ hs => writeVec_canonical hs
  | mzro h f => exact fun _ _ _ hs => withDst_canonical fun _ => hs
  | _ => exact fun _ _ _ hs => hs

end Sys2Proof.Machine
end

section
/-! SUPPORT. The issue of a bundle, and of one whose access fails. -/
namespace Sys2Proof.Machine

/-- A bundle's slots issue operations, or nothing where a word does not decode. -/
theorem Core.slotIssue_keeps (k : Core) (x : Slot) (base : Word) (ix addr : Nat) : (k.slotIssue x base ix addr).op.Keeps := by
  simp only [Core.slotIssue]
  split
  · exact slotOp_keeps _
  · exact fun _ _ _ h => h
  · exact fun _ _ _ h => h
theorem Core.issueOps_keep (k : Core) (pc : Nat) (b : Fetched) : ∀ x ∈ k.issueOps pc b, x.op.Keeps := by
  intro x hx
  obtain ⟨y, -, hy⟩ := List.mem_filterMap.1 hx
  split at hy
  · cases hy; exact k.slotIssue_keeps _ _ _ _
  · split at hy
    · cases hy
    · cases hy; exact k.slotIssue_keeps _ _ _ _
theorem State.wf_viewJoin (s : State) (c : Nat) (go : State → State) (hg : ∀ s, Memory.wf s.mem = true → Memory.wf (go s).mem = true)
    (h : Memory.wf s.mem = true) : Memory.wf (s.viewJoin c go).mem = true := by
  unfold State.viewJoin
  split
  · exact h
  · simp only []
    split
    · exact hg _ h
    · exact hg _ h
/-- The issue of a bundle, whatever is done to its operations first. -/
theorem State.wf_issueAs (f : List SlotOp → List SlotOp) (hf : ∀ ops, (∀ x ∈ ops, x.op.Keeps) → ∀ x ∈ f ops, x.op.Keeps)
    (s : State) (c : Nat) (h : Memory.wf s.mem = true) : Memory.wf (s.issueAs f c).mem = true := by
  unfold State.issueAs
  split
  · next hb => rw [State.mem_beforeIssue_trap hb]; exact h
  · next u hb =>
    have hu : Memory.wf u.mem = true := by
      rw [State.mem_beforeIssue_next hb]; exact h
    simp only []
    split
    · simp [hu]
    · next b _ =>
      have hi : ∀ fr (v : State), Memory.wf v.mem = true →
          Memory.wf (v.issueSlots c fr (f ((v.core c).issueOps (u.core c).ctl.pc b))).mem = true :=
        fun fr v hv => v.wf_issueSlots c fr _ (hf _ (Core.issueOps_keep _ _ b)) hv
      have hr : Memory.wf (if resets b.hdr (u.core c).ctl.rep then u.onCore c Core.clearReissue else u).mem = true := by
        split <;> exact hu
      split
      · exact State.wf_viewJoin _ c _ (hi _) hr
      · exact hi _ _ hr
@[simp] theorem State.wf_issueBundle (s : State) (c : Nat) (h : Memory.wf s.mem = true) : Memory.wf (s.issueBundle c).mem = true :=
  State.wf_issueAs id (fun _ h => h) s c h
theorem SlotOp.failing_keeps (t : Trap) (x : SlotOp) (h : x.op.Keeps) : (x.failing t).op.Keeps := by
  unfold SlotOp.failing
  split
  · exact h
  · exact fun _ _ _ _ => Res.canonical_unless t _
@[simp] theorem State.wf_badIssue (s : State) (c mem a mask : Nat) (h : Memory.wf s.mem = true) :
    Memory.wf (s.badIssue c mem a mask).mem = true := by
  refine State.wf_issueAs _ (fun ops ho x hx => ?_) s c h
  obtain ⟨y, hy, rfl⟩ := List.mem_map.1 hx
  split
  · exact y.failing_keeps _ (ho y hy)
  · exact ho y hy

end Sys2Proof.Machine
end

section
/-! SUPPORT. Events of a core: its issue events and register writes, its engines, copies, waits and gang, and power. Each goes on, branch
by branch. -/
namespace Sys2Proof.Machine

theorem execStickyReissue_continues (x : Slot) (s : State) : Continues s (execStickyReissue x s) := by
  simp only [execStickyReissue]
  split
  · exact .refl s
  · split
    · next hb => exact .same (State.mem_beforeIssue_trap hb)
    · next u hb =>
      refine .next fun h => State.wf_issueSlots _ _ _ _ (by simpa using Core.slotIssue_keeps _ _ _ _ _) ?_
      rw [State.mem_beforeIssue_next hb]; exact h
theorem execIllegalOpcode_continues (hd : Head) (w : Word) (s : State) : Continues s (execIllegalOpcode hd w s) := by
  simp only [execIllegalOpcode]
  split
  · exact .refl s
  · split
    · next hb => exact .same (State.mem_beforeIssue_trap hb)
    · next u hb =>
      refine .next fun h => State.wf_issueSlots _ _ _ _ (fun x hx => by cases List.mem_singleton.1 hx; exact fun _ _ _ h => h) ?_
      rw [State.mem_beforeIssue_next hb]; exact h
theorem regWrite_continues (c : Nat) (op : CsrOp) (n : Nat) (x : Word) (s : State) : Continues s (regWrite c op n x s) := by
  unfold regWrite; split <;> simp
theorem execVwlPresetLoad_continues (c : Nat) (i : BitVec 5) (s : State) : Continues s (execVwlPresetLoad c i s) :=
  regWrite_continues ..
theorem execViewRegisterWrite_continues (c : Nat) (k : CsrOp) (n : BitVec 3) (x : Word) (s : State) :
    Continues s (execViewRegisterWrite c k n x s) :=
  regWrite_continues ..
theorem execTstatWrite_continues (c : Nat) (k : CsrOp) (x : Word) (s : State) : Continues s (execTstatWrite c k x s) :=
  regWrite_continues ..
theorem execPrdWrite_continues (c : Nat) (k : CsrOp) (x : Word) (s : State) : Continues s (execPrdWrite c k x s) :=
  regWrite_continues ..
theorem execPmevWrite_continues (c : Nat) (k : CsrOp) (x : Word) (s : State) : Continues s (execPmevWrite c k x s) :=
  regWrite_continues ..
theorem execPmcWrite_continues (c : Nat) (k : CsrOp) (n : BitVec 2) (x : Word) (s : State) : Continues s (execPmcWrite c k n x s) :=
  regWrite_continues ..
theorem execRegisterWrite_continues (c : Nat) (k : CsrOp) (n : BitVec 12) (x : Word) (s : State) :
    Continues s (execRegisterWrite c k n x s) := by
  unfold execRegisterWrite
  split
  · exact .refl s
  · exact regWrite_continues ..
theorem execVectorResultWrite_continues (c : Nat) (s : State) : Continues s (execVectorResultWrite c s) := by
  unfold execVectorResultWrite; simp +contextual
theorem execLoadDataArrival_continues (c : Nat) (id : Nat) (s : State) : Continues s (execLoadDataArrival c id s) := by
  unfold execLoadDataArrival; (repeat' split) <;> simp +contextual
theorem execAtomicPerform_continues (c : Nat) (id : Nat) (s : State) : Continues s (execAtomicPerform c id s) := by
  unfold execAtomicPerform; (repeat' split) <;> simp +contextual
theorem execStorePerform_continues (c : Nat) (id : Nat) (s : State) : Continues s (execStorePerform c id s) := by
  unfold execStorePerform; (repeat' split) <;> simp +contextual
theorem execHostWriteCompletion_continues (c : Nat) (id : Nat) (s : State) : Continues s (execHostWriteCompletion c id s) := by
  unfold execHostWriteCompletion; (repeat' split) <;> simp +contextual
theorem execTldwBlockWrite_continues (c : Nat) (id : Nat) (s : State) : Continues s (execTldwBlockWrite c id s) := by
  simp only [execTldwBlockWrite]; (repeat' split) <;> simp +contextual
theorem execPromise_continues (c : Nat) (s : State) : Continues s (execPromise c s) := by
  unfold execPromise; simp +contextual
@[simp] theorem State.mem_copyAdmit (s : State) (c : Nat) (x : Copy) : (s.copyAdmit c x).2.mem = s.mem := by
  unfold State.copyAdmit
  simp only [State.mem_onCore, State.mem_settleRecords]
  refine List.foldl_keeps (fun r : Option (Nat × AccessKind × Nat) × List (Nat × Nat × Bool) × State => r.2.2.mem) _ (fun r q => ?_) _ _
  obtain ⟨bad, left, s⟩ := r
  simp only []
  split
  · rfl
  · split
    · rfl
    · split
      · next hc =>
        have hm := State.mem_conflictCheck (s := s) (by
          split at hc
          · cases hc
          · exact hc)
        split <;> simp [hm]
      · rfl
      · rfl
      · rfl
theorem execCopyCompletion_continues (c : Nat) (id : Nat) (s : State) : Continues s (execCopyCompletion c id s) := by
  unfold execCopyCompletion; (repeat' split) <;> simp +contextual
@[simp] theorem State.wf_stopCopy (s : State) (c : Nat) (x : Copy) (n a : Nat) (k : AccessKind) (e : Nat) (h : Memory.wf s.mem = true) :
    Memory.wf (s.stopCopy c x n a k e).mem = true := by
  unfold State.stopCopy; simp [h]
theorem execCopyFault_continues (c : Nat) (id : Nat) (s : State) : Continues s (execCopyFault c id s) := by
  unfold execCopyFault; (repeat' split) <;> simp +contextual
@[simp] theorem State.wf_copyMore (s : State) (c : Nat) (x : Copy) (h : Memory.wf s.mem = true) :
    Memory.wf (s.copyMore c x).2.mem = true := by
  refine State.wf_foldl_snd _ _ _ (fun p q hp => ?_) h
  simp only []
  split
  · dsimp only; exact State.wf_loadValue p.2 c _ _ _ _ _ hp
  · exact hp
theorem execCopyResumption_continues (c id : Nat) (s : State) : Continues s (execCopyResumption c id s) := by
  unfold execCopyResumption
  split
  · next x _ =>
    split
    · exact .refl s
    · simp only [continues_ite]
      exact ⟨fun _ => .refl s, fun _ => .next fun h => State.wf_copyMore _ c x (by simpa using h)⟩
  · exact .refl s
@[simp] theorem State.wf_expireMarker (s : State) (c : Nat) (h : Memory.wf s.mem = true) : Memory.wf (s.expireMarker c).mem = true := by
  simp only [State.expireMarker]; split <;> simp [h]
@[simp] theorem State.wf_ownCycle (s : State) (m : Nat) (h : Memory.wf s.mem = true) : Memory.wf (s.ownCycle m).mem = true := by
  unfold State.ownCycle
  split
  · exact State.wf_expireBundle _ m (State.wf_expireMarker _ m (State.wf_pollBundle s m h))
  · split
    · exact State.wf_issueBundle s m h
    · exact h
theorem State.wf_alone (s : State) (m : Nat) (d : Bool) (f : State → Nat → State)
    (hf : ∀ s m, Memory.wf s.mem = true → Memory.wf (f s m).mem = true) (h : Memory.wf s.mem = true) :
    Memory.wf (s.alone m d f).mem = true := by
  simp only [State.alone, State.mem_foldl_onCore, State.mem_onCore]
  exact hf _ m (by rw [State.mem_onCore, State.mem_foldl_onCore]; exact h)
theorem State.wf_trapTogether (s : State) (c : Nat) (act : Nat → State → Nat → State)
    (ha : ∀ k s m, Memory.wf s.mem = true → Memory.wf (act k s m).mem = true) (h : Memory.wf s.mem = true) :
    Memory.wf (s.trapTogether c act).mem = true := by
  have hend : ∀ (inside : Bool) (t : State), Memory.wf t.mem = true → Memory.wf (if inside then t else t.gangEnters c).mem = true := by
    intro inside t ht
    split <;> simp [ht]
  refine hend _ _ ?_
  refine State.wf_foldl _ _ _ (fun _ _ hs => hs) ?_
  rw [State.mem_onCore]
  refine ha _ _ _ ?_
  rw [State.mem_onCore]
  refine State.wf_foldl_snd _ _ _ (fun r m hr => ?_) ?_
  · simp only []
    split
    · exact State.wf_alone _ _ _ _ (ha m) hr
    · exact hr
  · simp only []; split <;> simp [h]
/-- What a core does for itself and what its gang does with it: each member keeps memory's canonical form, and so do they together (R237). -/
theorem State.wf_inGang (s : State) (c : Nat) (f : State → Nat → State)
    (hf : ∀ s c, Memory.wf s.mem = true → Memory.wf (f s c).mem = true) (h : Memory.wf s.mem = true) :
    Memory.wf (s.inGang c f).mem = true := by
  unfold State.inGang
  split
  · exact hf s c h
  · refine State.wf_trapTogether s c _ (fun k s m hs => ?_) h
    split
    · exact hf s m hs
    · exact State.wf_ownCycle s m hs
@[simp] theorem State.wf_pollGang (s : State) (c : Nat) (h : Memory.wf s.mem = true) : Memory.wf (s.pollGang c).mem = true :=
  State.wf_inGang s c _ State.wf_pollBundle h
theorem execWaitResolve_continues (c : Nat) (s : State) : Continues s (execWaitResolve c s) := by
  unfold execWaitResolve; (repeat' split) <;> simp +contextual
theorem execDeadlineExpiry_continues (c : Nat) (s : State) : Continues s (execDeadlineExpiry c s) := by
  unfold execDeadlineExpiry
  split
  · exact .next (State.wf_inGang s c _ State.wf_expireBundle)
  · exact .refl s
theorem execMarkerDeadlineExpiry_continues (c : Nat) (s : State) : Continues s (execMarkerDeadlineExpiry c s) := by
  unfold execMarkerDeadlineExpiry
  split
  · exact .next (State.wf_inGang s c _ State.wf_expireMarker)
  · exact .refl s
theorem execMemberResume_continues (c : Nat) (s : State) : Continues s (execMemberResume c s) := by
  simp only [execMemberResume]; (repeat' split) <;> simp +contextual
theorem execStaleReclaim_continues (sl : Nat) (s : State) : Continues s (execStaleReclaim sl s) := by
  unfold execStaleReclaim; simp +contextual
theorem execLatchArrival_continues (c : Nat) (id : Nat) (s : State) : Continues s (execLatchArrival c id s) := by
  simp only [execLatchArrival]; (repeat' split) <;> simp +contextual
theorem execCellStamp_continues (c id : Nat) (s : State) : Continues s (execCellStamp c id s) := by
  unfold execCellStamp
  split
  · split
    · next pres _ =>
      have hm : (s.onCore c fun k => (k.endFlight id).addOut 1 (if pres then -1 else 0)).mem = s.mem := rfl
      simp only []
      generalize s.onCore c (fun k => (k.endFlight id).addOut 1 (if pres then -1 else 0)) = u at hm ⊢
      split <;> simp +contextual [hm]
    · exact .refl s
  · exact .refl s
theorem execChannelEntryMove_continues (g ch cl : Nat) (s : State) : Continues s (execChannelEntryMove g ch cl s) := by
  simp only [execChannelEntryMove]; (repeat' split) <;> simp +contextual
theorem execConflictEntryConfirm_continues (c : Nat) (ok : Bool) (s : State) : Continues s (execConflictEntryConfirm c ok s) := by
  unfold execConflictEntryConfirm
  split
  · exact .refl s
  · split
    · split
      · next w _ =>
        split
        · exact .next (State.wf_inGang s c _ fun s c => s.wf_commitBundle c w)
        · exact .refl s
      · exact .refl s
    · split
      · split
        · exact .same (State.mem_takeBack s c true)
        · exact .refl s
      · exact .refl s
@[simp] theorem State.mem_setSensor (s : State) (n : Nat) (x : Sensor) : (s.setSensor n x).mem = s.mem := rfl
@[simp] theorem State.mem_startRequest (s : State) (cl : Nat) (x : Word) : (s.startRequest cl x).mem = s.mem := by
  unfold State.startRequest; simp
@[simp] theorem State.mem_writeCpr (s : State) (cl : Nat) (x : Word) : (s.writeCpr cl x).mem = s.mem := by
  unfold State.writeCpr; simp
theorem execCprRequest_continues (cl : Nat) (x : Word) (s : State) : Continues s (execCprRequest cl x s) := by
  unfold execCprRequest; simp +contextual
theorem execHeldRequestStart_continues (cl : Nat) (s : State) : Continues s (execHeldRequestStart cl s) := by
  unfold execHeldRequestStart; (repeat' split) <;> simp +contextual
theorem execVoltageStep_continues (cl : Nat) (s : State) : Continues s (execVoltageStep cl s) := by
  unfold execVoltageStep; (repeat' split) <;> simp +contextual
theorem execFrequencyStep_continues (cl : Nat) (s : State) : Continues s (execFrequencyStep cl s) := by
  unfold execFrequencyStep; (repeat' split) <;> simp +contextual
theorem execCalWrite_continues (cl : Nat) (x : Word) (s : State) : Continues s (execCalWrite cl x s) := by
  unfold execCalWrite; (repeat' split) <;> simp +contextual
theorem execGrantStep_continues (cl : Nat) (s : State) : Continues s (execGrantStep cl s) :=
  .next fun h => State.wf_foldl _ _ _ State.wf_pollGang (by simpa using h)
theorem execTthWrite_continues (n : Nat) (x : Word) (s : State) : Continues s (execTthWrite n x s) := by
  simp only [execTthWrite]; (repeat' split) <;> simp +contextual
@[simp] theorem State.mem_refreshSideband (s : State) : s.refreshSideband.mem = s.mem := rfl
theorem execSensorPoll_continues (s : State) : Continues s (execSensorPoll s) := by
  unfold execSensorPoll; (repeat' split) <;> simp +contextual
theorem execWindowSample_continues (cl : Nat) (s : State) : Continues s (execWindowSample cl s) := by
  simp only [execWindowSample]; (repeat' split) <;> simp +contextual

end Sys2Proof.Machine
end

section
/-! SUPPORT. Events of the matrix unit and of teams: residency, leaving and the end of a team. -/
namespace Sys2Proof.Machine

theorem execRoutineStart_continues (c : Nat) (s : State) : Continues s (execRoutineStart c s) := by
  simp only [execRoutineStart]; (repeat' split) <;> simp +contextual
theorem execSequencerStep_continues (c : Nat) (s : State) : Continues s (execSequencerStep c s) := by
  simp only [execSequencerStep]; (repeat' split) <;> simp +contextual
theorem execRoutineEnd_continues (c : Nat) (s : State) : Continues s (execRoutineEnd c s) := by
  simp only [execRoutineEnd]; (repeat' split) <;> simp +contextual
theorem execMzroWrite_continues (c : Nat) (s : State) : Continues s (execMzroWrite c s) := by
  simp only [execMzroWrite]; (repeat' split) <;> simp +contextual
theorem State.wf_sysWrite {s t : State} {ctx va : Nat} {bs : List Byte} (h : Memory.wf s.mem = true) (ht : s.sysWrite ctx va bs = some t) :
    Memory.wf t.mem = true := by
  obtain ⟨cs, -, rfl⟩ := Option.map_eq_some_iff.1 ht
  exact State.wf_homeWriteAll s cs h
@[simp] theorem State.wf_mapFrom (s : State) (va pte fuel lvl base : Nat) (h : Memory.wf s.mem = true) :
    Memory.wf (s.mapFrom va pte fuel lvl base).mem = true := by
  induction fuel generalizing s lvl base with
  | zero => exact h
  | succ n ih =>
    unfold State.mapFrom
    simp only []
    split
    · exact State.wf_write8 s _ _ h
    · split
      · split
        · exact h
        · exact ih s _ _ h
      · exact ih _ _ _ (State.wf_write8 _ _ _ (State.wf_takeFrame s h))
@[simp] theorem State.wf_mapPage (s : State) (ctx va pte : Nat) (h : Memory.wf s.mem = true) :
    Memory.wf (s.mapPage ctx va pte).mem = true := by
  simp only [State.mapPage]; split <;> simp [h]
@[simp] theorem State.wf_mapSpads (s : State) (t : Nat) (on : Bool) (h : Memory.wf s.mem = true) :
    Memory.wf (s.mapSpads t on).mem = true :=
  State.wf_foldl _ _ _ (fun s _ => State.wf_foldl _ _ s fun s _ => State.wf_foldl _ _ s fun s _ => s.wf_mapPage _ _ _) h
@[simp] theorem State.mem_renameCores (s : State) (t : Nat) (f : Nat → Nat) : (s.renameCores t f).mem = s.mem := rfl
@[simp] theorem State.mem_moveEntries (s : State) (a n b : Nat) : (s.moveEntries a n b).mem = s.mem :=
  State.mem_foldl _ _ _ State.mem_fitSlice
@[simp] theorem State.mem_dropEntries (s : State) (a n : Nat) : (s.dropEntries a n).mem = s.mem := rfl
@[simp] theorem State.mem_entriesOut (s : State) (t : Nat) (x : Team) : (s.entriesOut t x).mem = s.mem := State.mem_moveEntries ..
@[simp] theorem State.mem_entriesIn (s : State) (t : Nat) (x : Team) : (s.entriesIn t x).mem = s.mem := State.mem_moveEntries ..
@[simp] theorem State.wf_launchCore (s : State) (t : Nat) (x : Team) (p : Nat) (h : Memory.wf s.mem = true) :
    Memory.wf (s.launchCore t x p).mem = true := State.wf_replaceMem _ _ _ _ h
theorem execResidency_continues (t : Nat) (s : State) : Continues s (execResidency t s) := by
  unfold execResidency
  split
  · exact .refl s
  · split
    · exact .refl s
    · refine .next fun h => State.wf_rehome _ _ (State.wf_mapSpads _ _ _ ?_)
      rw [State.mem_entriesIn, State.mem_renameCores]
      exact State.wf_foldl _ _ _ (fun s p => s.wf_launchCore t _ p) h
@[simp] theorem State.wf_saveCore (s : State) (ib c p : Nat) (h : Memory.wf s.mem = true) : Memory.wf (s.saveCore ib c p).mem = true := by
  simp only [State.saveCore]
  iterate 5 apply State.wf_replaceMem
  exact State.wf_moveMem _ _ _ _ (State.wf_replaceMem _ _ _ _ h)
@[simp] theorem State.wf_restoreCore (s : State) (x : Team) (ib : Nat) (old : Core) (p : Nat) (h : Memory.wf s.mem = true) :
    Memory.wf (s.restoreCore x ib old p).mem = true := State.wf_moveMem _ _ _ _ h
@[simp] theorem State.mem_beginLeave (s : State) (t : Nat) : (s.beginLeave t).mem = s.mem :=
  State.mem_foldl _ _ _ fun s c => s.mem_takeBack c true
@[simp] theorem State.wf_vacateTeam (s : State) (t : Nat) (h : Memory.wf s.mem = true) : Memory.wf (s.vacateTeam t).mem = true := by
  unfold State.vacateTeam
  rw [State.mem_entriesOut, State.mem_renameCores, State.mem_onBarrier]
  exact State.wf_foldl _ _ _ (fun s c => s.wf_l1Drop c true _) h
@[simp] theorem State.wf_saveTeam (s : State) (t slot : Nat) (h : Memory.wf s.mem = true) : Memory.wf (s.saveTeam t slot).mem = true :=
  State.wf_foldl _ _ _ (fun s p => s.wf_saveCore _ _ p) (State.wf_foldl _ _ _ (fun s c => s.wf_l1Drop c true _) h)
@[simp] theorem State.wf_swapOut (s : State) (t slot : Nat) (h : Memory.wf s.mem = true) : Memory.wf (s.swapOut t slot).mem = true := by
  have hv : Memory.wf (((s.saveTeam t slot).mapSpads t false).vacateTeam t).mem = true :=
    State.wf_vacateTeam _ t (State.wf_mapSpads _ t false (State.wf_saveTeam s t slot h))
  simp only [State.swapOut, State.mem_ite, State.mem_onTeam, ite_self]
  exact hv
theorem execPreEmption_continues (t : Nat) (s : State) : Continues s (execPreEmption t s) := by
  simp only [execPreEmption]
  split
  · exact .refl s
  · split
    · exact .same (State.mem_foldl_onCore (fun c => c) (fun _ k => (k.setYield none).runOn) _ s)
    · simp +contextual
theorem execSwapIn_continues (t : Nat) (s : State) : Continues s (execSwapIn t s) := by
  unfold execSwapIn
  split
  · exact .refl s
  · split
    · refine .next fun h => State.wf_rehome _ _ (State.wf_mapSpads _ _ _ ?_)
      rw [State.mem_entriesIn, State.mem_renameCores, State.mem_onBarrier]
      exact State.wf_foldl _ _ _ (fun s k => s.wf_restoreCore _ _ k.1 k.2) h
    · exact .refl s
theorem execParkReclaim_continues (t : Nat) (s : State) : Continues s (execParkReclaim t s) := by
  simp only [execParkReclaim]; (repeat' split) <;> simp +contextual
@[simp] theorem State.mem_postYield (s : State) (t dl : Nat) : (s.postYield t dl).mem = s.mem :=
  State.mem_foldl_onCore (fun c => c) (fun _ k => k.setYield (some dl)) _ s
theorem execYieldRequest_continues (t dl : Nat) (s : State) : Continues s (execYieldRequest t dl s) := by
  simp only [execYieldRequest]; (repeat' split) <;> simp +contextual
theorem execQuantumExpiry_continues (t : Nat) (s : State) : Continues s (execQuantumExpiry t s) := by
  simp only [execQuantumExpiry]; (repeat' split) <;> simp +contextual
theorem execYieldDeadlineExpiry_continues (t : Nat) (s : State) : Continues s (execYieldDeadlineExpiry t s) := by
  simp only [execYieldDeadlineExpiry]; (repeat' split) <;> simp +contextual
@[simp] theorem State.mem_wakeParked (s : State) : s.wakeParked.mem = s.mem :=
  State.mem_foldl _ _ _ fun s e => by split <;> rfl
theorem execBarrierCompletion_continues (o : Nat) (s : State) : Continues s (execBarrierCompletion o s) := by
  unfold execBarrierCompletion; (repeat' split) <;> simp +contextual
@[simp] theorem State.wf_writeResult (s : State) (x : Team) (cause : Nat) (done : Bool) (h : Memory.wf s.mem = true) :
    Memory.wf (s.writeResult x cause done).mem = true := by
  simp only [State.writeResult]
  split
  · cases ht : s.sysWrite _ _ _ with
    | none => exact h
    | some t => exact State.wf_sysWrite h ht
  · exact h
@[simp] theorem State.wf_retireTeam (s : State) (t : Nat) (m : TeamMode) (cause : Nat) (h : Memory.wf s.mem = true) :
    Memory.wf (s.retireTeam t m cause).mem = true := by
  simp only [State.retireTeam, State.mem_onTeam, State.mem_dropEntries]
  refine State.wf_vacateTeam _ t (State.wf_mapSpads _ t false ?_)
  refine State.wf_foldl _ _ _ (fun s c hs => State.wf_foldl _ _ _ (fun s cp => s.wf_copyEnds c cp) ?_) ?_
  · rw [State.mem_takeBack]; exact hs
  · rw [State.mem_onGrid]; exact State.wf_writeResult _ _ _ _ h
theorem execTeamCompletion_continues (t : Nat) (s : State) : Continues s (execTeamCompletion t s) := by
  simp only [execTeamCompletion]; (repeat' split) <;> simp +contextual
theorem execEndTeam_continues (t cause : Nat) (s : State) : Continues s (execEndTeam t cause s) := by
  unfold execEndTeam; (repeat' split) <;> simp +contextual

end Sys2Proof.Machine
end

section
/-! SUPPORT. Events of the supervisor, of grids and of the dispatcher. -/
namespace Sys2Proof.Machine

@[simp] theorem State.mem_resumeGang (s : State) (c : Nat) : (s.resumeGang c).mem = s.mem := State.mem_foldl _ _ _ State.mem_resumeCore
@[simp] theorem State.mem_enterGang (s : State) (c : Nat) : (s.enterGang c).mem = s.mem := by
  simp only [State.enterGang, State.mem_gangEnters]
  exact State.mem_foldl _ _ _ fun s m => by split <;> simp
@[simp] theorem State.mem_deliverTrap (s : State) (c : Nat) : (s.deliverTrap c).mem = s.mem := by
  unfold State.deliverTrap
  split
  · split <;> simp
  · rfl
theorem execSupervisorResume_continues (c : Nat) (s : State) : Continues s (execSupervisorResume c s) := by
  unfold execSupervisorResume
  split
  · exact .same (State.mem_resumeGang s c)
  · exact .refl s
theorem execSupervisorTrapEntry_continues (c : Nat) (s : State) : Continues s (execSupervisorTrapEntry c s) := by
  unfold execSupervisorTrapEntry
  split
  · exact .same (State.mem_enterGang s c)
  · exact .refl s
@[simp] theorem State.mem_takenTo (s : State) (frame : Nat) : (s.takenTo frame).mem = s.mem := rfl
theorem execConflictSpill_continues (sl n : Nat) (s : State) : Continues s (execConflictSpill sl n s) := by
  simp only [execConflictSpill]
  refine .same ?_
  rw [State.mem_foldl _ _ _ State.mem_deliverTrap, State.mem_foldl _ _ _ State.mem_resumeGang, State.mem_spillEntries]
@[simp] theorem State.wf_evictCold (s : State) (ctx va : Nat) (h : Memory.wf s.mem = true) : Memory.wf (s.evictCold ctx va).mem = true := by
  unfold State.evictCold; split
  · exact State.wf_mapPage s _ _ _ h
  · exact h
@[simp] theorem State.wf_fitQuota (s : State) (a ctx va : Nat) (h : Memory.wf s.mem = true) : Memory.wf (s.fitQuota a ctx va).mem = true :=
  State.wf_foldl _ _ _ (fun s p hs => by
    split
    · exact State.wf_evictCold s _ _ hs
    · exact hs) h
@[simp] theorem State.mem_deliverCold (s : State) (c : Nat) : (s.deliverCold c).mem = s.mem := by
  simp only [State.deliverCold, State.mem_deliverTrap]
  exact State.mem_foldl _ _ _ fun _ _ => rfl
theorem execColdtxtService_continues (c frame : Nat) (ok : Bool) (s : State) : Continues s (execColdtxtService c frame ok s) := by
  have hcold : ∀ l : List Nat, (l.foldl State.deliverCold s).mem = s.mem := fun l => State.mem_foldl _ _ _ State.mem_deliverCold
  unfold execColdtxtService
  split
  · exact .refl s
  · simp only []
    split
    · split
      · refine .next fun h => ?_
        rw [State.mem_foldl _ _ _ State.mem_resumeGang]
        exact State.wf_fitQuota _ _ _ _ (State.wf_mapPage _ _ _ _ (State.wf_replaceMem _ _ _ _ h))
      · split
        · exact .refl s
        · exact .same (hcold _)
    · exact .same (hcold _)
theorem execMemue_continues (c : Nat) (mem : BitVec 2) (a : Nat) (s : State) : Continues s (execMemue c mem a s) := by
  simp only [execMemue]
  exact .same (by rw [State.mem_onCore]; split <;> rfl)
/-- A frame that is mapped moves with what the first levels hold of it and with its entries (R246, R257). -/
@[simp] theorem State.wf_retireFrame (s : State) (old n frame : Nat) (h : Memory.wf s.mem = true) :
    Memory.wf (((((s.cores.map Prod.fst).foldl (fun (s : State) c => s.l1Drop c true fun x => meets x.pa 128 old n) s).moveMem
      old n (frame * 65536)).moveEntries old n (frame * 65536)).takenTo frame).mem = true := by
  rw [State.mem_takenTo, State.mem_moveEntries]
  exact State.wf_moveMem _ _ _ _ (State.wf_foldl _ _ _ (fun s c => s.wf_l1Drop c true _) h)
theorem execFrameRetire_continues (a frame : Nat) (clean : Bool) (s : State) : Continues s (execFrameRetire a frame clean s) := by
  simp only [execFrameRetire]
  refine .next fun h => ?_
  rw [State.mem_foldl _ _ _ fun s c => by cases clean <;> simp]
  refine State.wf_foldl _ _ _ (fun s l => s.wf_write8 _ _) ?_
  split
  · exact h
  · exact State.wf_retireFrame s _ _ _ h
@[simp] theorem State.mem_addTeam (s : State) (g : Nat) (x : Team) : (s.addTeam g x).mem = s.mem := rfl
@[simp] theorem State.mem_consumePost (s : State) (g : Nat) (p : Post) : (s.consumePost g p).mem = s.mem := by
  simp only [State.consumePost]
  split
  · split <;> simp
  · simp
@[simp] theorem State.mem_consumeAll (s : State) (g n fuel : Nat) : (s.consumeAll g n fuel).mem = s.mem := by
  induction fuel generalizing s with
  | zero => rfl
  | succ k ih =>
    unfold State.consumeAll
    split
    · rfl
    · rw [ih, State.mem_consumePost]
theorem execInstantClose_continues (g : Nat) (s : State) : Continues s (execInstantClose g s) := by
  unfold execInstantClose
  exact (continues_ite _ _ _ _).2 ⟨fun _ => .same (State.mem_consumeAll ..), fun _ => .refl s⟩
theorem execKernelBoundary_continues (g : Nat) (s : State) : Continues s (execKernelBoundary g s) := by
  simp only [execKernelBoundary]
  split
  · exact .refl s
  · exact .next fun h => State.wf_cacheBoundary s h
theorem execQueueConfiguration_continues (q : Nat) (prio : BitVec 3) (ctx : BitVec 8) (rcb : BitVec 56) (en : Option Word) (s : State) :
    Continues s (execQueueConfiguration q prio ctx rcb en s) := by
  unfold execQueueConfiguration
  split
  · exact .refl s
  · exact .same rfl
theorem execCommandArrival_continues (q : Nat) (ws : List Word) (s : State) : Continues s (execCommandArrival q ws s) := by
  simp only [execCommandArrival]
  split
  · exact .same rfl
  · exact .refl s
@[simp] theorem State.mem_completeCommand (s : State) (q : Nat) (ws : List Word) (start status detail val : Nat) (g : Option Grid) :
    (s.completeCommand q ws start status detail val g).mem = s.mem := by
  simp only [State.completeCommand, State.mem_onQueue]
  split <;> rfl
@[simp] theorem State.mem_finish (s : State) (q status detail val : Nat) : (s.finish q status detail val).mem = s.mem := rfl
@[simp] theorem State.mem_dropHead (s : State) (q : Nat) : (s.dropHead q).mem = s.mem := by
  simp only [State.dropHead]
  split
  · split
    · split <;> simp
    · split <;> simp
  · rfl
@[simp] theorem State.mem_promote (s : State) (q : Nat) : (s.promote q).mem = s.mem := rfl
@[simp] theorem State.mem_startHead (s : State) (q : Nat) : (s.startHead q).mem = s.mem := by
  unfold State.startHead; split <;> rfl
@[simp] theorem State.mem_choose (s : State) : s.choose.mem = s.mem := by
  simp only [State.choose]
  split
  · rfl
  · have hf : ∀ r : List Nat, (r.foldl (fun s q => s.onQueue q fun x => { x with cur := x.cur + (s.queueWeight q : Int) }) s).mem = s.mem :=
      fun r => State.mem_foldl _ _ _ fun _ _ => rfl
    split
    · exact hf _
    · rw [State.mem_startHead, State.mem_onQueue]
      exact hf _
theorem execDispatchStep_continues (s : State) : Continues s (execDispatchStep s) := by
  simp only [execDispatchStep]
  split
  · exact .refl s
  · refine .same ?_
    rw [State.mem_choose, State.mem_foldl _ _ _ State.mem_promote, State.mem_foldl _ _ _ State.mem_dropHead]
@[simp] theorem State.mem_releaseGrid (s : State) (g : Nat) : (s.releaseGrid g).mem = s.mem := rfl
theorem execCommandCompletion_continues (q : Nat) (s : State) : Continues s (execCommandCompletion q s) := by
  unfold execCommandCompletion
  split
  · exact .refl s
  · split
    · exact .refl s
    · split
      · split
        · exact .same (State.mem_completeCommand ..)
        · exact .refl s
      · split
        · exact .refl s
        · exact .same (by rw [State.mem_onGrid, State.mem_releaseGrid, State.mem_completeCommand])
theorem State.wf_sysWrite_getD (s : State) (ctx va : Nat) (bs : List Byte) (h : Memory.wf s.mem = true) :
    Memory.wf ((s.sysWrite ctx va bs).getD s).mem = true := by
  cases ht : s.sysWrite ctx va bs with
  | none => exact h
  | some t => exact State.wf_sysWrite h ht
theorem execCopy_continues (q : Nat) (s : State) : Continues s (execCopy q s) := by
  simp only [execCopy]
  split
  · exact .refl s
  · refine .next fun h => ?_
    rw [State.mem_finish]
    split
    · exact State.wf_sysWrite_getD s _ _ _ h
    · exact h
theorem execSignal_continues (q : Nat) (s : State) : Continues s (execSignal q s) := by
  simp only [execSignal]
  split
  · exact .refl s
  · refine .next fun h => ?_
    rw [State.mem_finish]
    split
    · exact h
    · exact State.wf_sysWrite_getD s _ _ _ h
theorem execWait_continues (q : Nat) (s : State) : Continues s (execWait q s) := by
  simp only [execWait]
  split
  · exact .refl s
  · split
    · exact .same rfl
    · split
      · exact .same rfl
      · split
        · exact .same rfl
        · exact .refl s
@[simp] theorem State.mem_giveShares (fuel a n : Nat) (s : State) : (State.giveShares fuel a n s).mem = s.mem := by
  induction fuel generalizing a n s with
  | zero => rfl
  | succ k ih =>
    exact List.foldl_keeps (fun r : State × Nat => r.1.mem) _ (fun r c => ih _ _ _) _ _
@[simp] theorem State.mem_shareOut (s : State) (cap : Nat) : (s.shareOut cap).mem = s.mem := by
  unfold State.shareOut
  split
  · rfl
  · rw [State.mem_giveShares]
@[simp] theorem State.mem_lowerPoint (s : State) (cl : Nat) : (s.lowerPoint cl).mem = s.mem := by
  simp only [State.lowerPoint, State.mem_onCluster, State.mem_takeFree, State.mem_writeCpr]
@[simp] theorem State.mem_setCap (s : State) (cap : Nat) : (s.setCap cap).mem = s.mem := by
  simp only [State.setCap, State.mem_shareOut]
  split
  · exact State.mem_foldl _ _ _ State.mem_lowerPoint
  · rfl
theorem execPowerCap_continues (q : Nat) (s : State) : Continues s (execPowerCap q s) := by
  simp only [execPowerCap]
  split
  · exact .refl s
  · split
    · split
      · exact .refl s
      · exact .same rfl
    · split
      · exact .same rfl
      · split
        · exact .same (State.mem_setCap ..)
        · exact .same (State.mem_setCap ..)
@[simp] theorem State.wf_answer (s : State) (q : Nat) (r : Running) (bs : List Byte) (h : Memory.wf s.mem = true) :
    Memory.wf (s.answer q r bs).mem = true := by
  unfold State.answer
  split
  · next t ht =>
    rw [State.mem_finish]
    exact State.wf_sysWrite h ht
  · exact h
theorem execQueryIdentity_continues (q : Nat) (s : State) : Continues s (execQueryIdentity q s) := by
  unfold execQueryIdentity
  split
  · exact .refl s
  · split
    · exact .same rfl
    · exact .next (State.wf_answer s _ _ _)
theorem execQueryQueueState_continues (q : Nat) (s : State) : Continues s (execQueryQueueState q s) := by
  unfold execQueryQueueState
  split
  · exact .refl s
  · exact .next (State.wf_answer s _ _ _)
theorem execQueryCounts_continues (q : Nat) (s : State) : Continues s (execQueryCounts q s) := by
  unfold execQueryCounts
  split
  · exact .refl s
  · exact .next (State.wf_answer s _ _ _)

end Sys2Proof.Machine
end

section
/-! SUPPORT. Folios, launches, copy queues, collectives, the host's configuration and the starts. -/
namespace Sys2Proof.Machine

@[simp] theorem State.wf_mapBytes (s : State) (ctx va : Nat) (bs : List Byte) (text cold : Bool) (h : Memory.wf s.mem = true) :
    Memory.wf (s.mapBytes ctx va bs text cold).mem = true :=
  State.wf_foldl _ _ _ (fun s p hs => by
    split
    · exact State.wf_mapPage s _ _ _ hs
    · exact State.wf_mapPage _ _ _ _ (Memory.wf_writeCells _ _ (State.wf_takeFrame s hs))) h
@[simp] theorem State.wf_mapFolio (s : State) (h ctx first rcb : Nat) (f : List Byte) (hs : Memory.wf s.mem = true) :
    Memory.wf (s.mapFolio h ctx first rcb f).2.mem = true := by
  unfold State.mapFolio
  dsimp only
  apply State.wf_foldl
  · intro u x hu
    exact State.wf_mapBytes u _ _ _ _ _ hu
  · exact State.wf_mapBytes s _ _ _ _ _ hs
theorem State.mem_register {s t : State} {ctx : Nat} {qs : List (Nat × Nat)} (h : s.register ctx qs = some t) : t.mem = s.mem := by
  simp only [State.register] at h
  split at h
  · cases h; rfl
  · cases h
/-- A load that succeeds has mapped the folio's sections; registering its queues leaves memory alone. -/
theorem State.wf_load {s t : State} {q ctx n : Nat} {f : List Byte} (h : Memory.wf s.mem = true) (ht : s.load q ctx f = .ok (n, t)) :
    Memory.wf t.mem = true := by
  have hx := State.wf_mapFolio s s.freeHandle ctx
    ((s.storeRange ctx ((((folioRoutines f).getD []).map fun r => r.steps.length).sum)).getD 0) (s.queue q).rcb f h
  unfold State.load at ht
  dsimp only at ht
  revert ht hx
  generalize s.mapFolio _ _ _ _ _ = x
  intro ht hx
  split at ht
  · cases ht
  · split at ht
    · cases ht
    · split at ht
      · cases ht
      · next u hu =>
        split at ht
        · cases ht
        · cases ht
          dsimp only
          rw [State.mem_register hu]
          exact hx
@[simp] theorem State.wf_writeLeafVas (s : State) (ctx a n : Nat) (f : List Byte) (h : Memory.wf s.mem = true) :
    Memory.wf (s.writeLeafVas ctx a n f).mem = true :=
  State.wf_foldl _ _ _ (fun s _ => s.wf_sysWrite_getD _ _ _) h
theorem execLoadFolio_continues (q : Nat) (s : State) : Continues s (execLoadFolio q s) := by
  unfold execLoadFolio
  split
  · exact .refl s
  · split
    · exact .refl s
    · split
      · exact .same rfl
      · split
        · exact .same rfl
        · next ht => exact .next fun h => State.wf_writeLeafVas _ _ _ _ _ (State.wf_load h ht)
@[simp] theorem State.wf_unload (s : State) (n : Nat) (f : Folio) (h : Memory.wf s.mem = true) : Memory.wf (s.unload n f).mem = true := by
  simp only [State.unload]
  rw [State.mem_foldl_onCore]
  exact State.wf_foldl _ _ _ (fun s p => State.wf_foldl _ _ s fun s i => s.wf_mapPage _ _ _) h
theorem execUnloadFolio_continues (q : Nat) (s : State) : Continues s (execUnloadFolio q s) := by
  simp only [execUnloadFolio]
  split
  · exact .refl s
  · split
    · exact .refl s
    · split
      · exact .same rfl
      · split
        · exact .same rfl
        · split
          · exact .same rfl
          · exact .next (State.wf_unload s _ _)
@[simp] theorem State.mem_setChan (s : State) (g : Nat) (cls : List Nat) (c : ChanRec) : (s.setChan g cls c).mem = s.mem :=
  State.mem_writeEntries ..
@[simp] theorem State.mem_setBar (s : State) (g : Nat) (b : BarRec) : (s.setBar g b).mem = s.mem := rfl
@[simp] theorem State.mem_setRed (s : State) (g : Nat) (cls : List Nat) (r : RedRec × Option Collective) : (s.setRed g cls r).mem = s.mem :=
  State.mem_placeNodes ..
/-- Stated for the field alone, so that the fold over a cluster's 64 cores is never computed. -/
theorem State.mem_setInstalls (s : State) (t : Table Nat) : ({ s with installs := t } : State).mem = s.mem := rfl
@[simp] theorem State.mem_installIn (s : State) (cl h : Nat) (f : Folio) : (s.installIn cl h f).mem = s.mem :=
  (State.mem_setInstalls _ _).trans (State.mem_foldl_onCore _ _ _ _)
@[simp] theorem State.mem_clearLatches (s : State) (g : Nat) (cls : List Nat) : (s.clearLatches g cls).mem = s.mem := rfl
@[simp] theorem State.mem_createGrid (s : State) (q : Nat) (r : Running) (f : Folio) (pc : Nat) (chans : List ChanRec) (bars : List BarRec)
    (reds : List (RedRec × Option Collective)) : (s.createGrid q r f pc chans bars reds).mem = s.mem := by
  simp only [State.createGrid]
  rw [State.mem_onQueue, State.mem_foldl _ _ _ fun s i => s.mem_addTeam _ _, State.mem_foldl _ _ _ fun s c => s.mem_setRed _ _ c,
    State.mem_foldl _ _ _ fun s c => s.mem_setBar _ c, State.mem_foldl _ _ _ fun s c => s.mem_setChan _ _ c, State.mem_clearLatches]
  split
  · exact State.mem_foldl _ _ _ fun _ _ => rfl
  · rw [State.mem_foldl _ _ _ fun s cl => s.mem_installIn _ _ _]
    exact State.mem_foldl _ _ _ fun _ _ => rfl
theorem execLaunch_continues (q : Nat) (s : State) : Continues s (execLaunch q s) := by
  simp only [execLaunch]
  split
  · exact .refl s
  · split
    · exact .refl s
    · split
      · exact .same rfl
      · split
        · exact .same rfl
        · refine (continues_ite _ _ _ _).2 ⟨fun _ => .same rfl, fun _ => ?_⟩
          split
          · exact .same rfl
          · split
            · split
              · exact .same rfl
              · exact .same (State.mem_createGrid ..)
            · exact .same rfl
@[simp] theorem State.wf_runPacket (s : State) (ctx : Nat) (p : Nat → Nat) (h : Memory.wf s.mem = true) :
    Memory.wf (s.runPacket ctx p).2.2.mem = true := by
  simp only [State.runPacket]
  split
  · exact h
  · split
    · exact h
    · exact State.wf_sysWrite_getD s _ _ _ h
theorem execCopyQueueServe_continues (k : Nat) (s : State) : Continues s (execCopyQueueServe k s) := by
  simp only [execCopyQueueServe]
  split
  · exact .refl s
  · split
    · exact .refl s
    · split
      · exact .refl s
      · split
        · exact .refl s
        · refine .next fun h => State.wf_sysWrite_getD _ _ _ _ ?_
          split
          · exact State.wf_sysWrite_getD _ _ _ _ (State.wf_sysWrite_getD _ _ _ _ (State.wf_runPacket s _ _ h))
          · exact State.wf_sysWrite_getD _ _ _ _ (State.wf_runPacket s _ _ h)
theorem execNodeOperandArrival_continues (k : Nat) (s : State) : Continues s (execNodeOperandArrival k s) := by
  unfold execNodeOperandArrival
  split
  · exact .refl s
  · exact .same (State.mem_operandArrives ..)
theorem execRootDelivery_continues (inst round : Nat) (s : State) : Continues s (execRootDelivery inst round s) := by
  simp only [execRootDelivery]
  split
  · exact .refl s
  · split
    · exact .same (State.mem_onReduction ..)
    · exact .refl s
@[simp] theorem State.mem_decideCancel (s : State) (key round i : Nat) : (s.decideCancel key round i).mem = s.mem := by
  simp only [State.decideCancel]
  split
  · rfl
  · split
    · split
      · rw [State.mem_foldl _ _ _ fun s m => s.mem_sendCollective _ _ _ _ _ _ _ _, State.mem_cancelRound]
      · exact State.mem_cancelRound ..
    · exact State.mem_cancelRound ..
@[simp] theorem State.mem_askRoot (s : State) (key round : Nat) (r : Reduction) (colln n : Nat) (chain : Bool) :
    (s.askRoot key round r colln n chain).mem = s.mem := by
  simp only [State.askRoot]
  split
  · rw [State.mem_onReduction, State.mem_sendCollective]
  · split
    · rw [State.mem_onReduction, State.mem_cancelRound]
    · rfl
theorem execCancelRequest_continues (inst round : Nat) (s : State) : Continues s (execCancelRequest inst round s) := by
  simp only [execCancelRequest]
  split
  · exact .refl s
  · split
    · exact .refl s
    · split
      · exact .refl s
      · split
        · exact .same (State.mem_onReduction ..)
        · split
          · split
            · exact .same (State.mem_decideCancel ..)
            · exact .same (State.mem_askRoot ..)
          · exact .same (State.mem_decideCancel ..)
@[simp] theorem State.mem_upperArrives (s : State) (key round node side : Nat) (v : Line) (fl : Nat) :
    (s.upperArrives key round node side v fl).mem = s.mem := by
  simp only [State.upperArrives]
  split
  · rfl
  · split
    · exact State.mem_onReduction ..
    · rw [State.mem_upperOperand, State.mem_onReduction]
@[simp] theorem State.mem_dropUpper (s : State) (key : Nat) : (s.dropUpper key).mem = s.mem := by
  unfold State.dropUpper; split <;> rfl
theorem execCollectivePacket_continues (ws : List Word) (v : Line) (s : State) : Continues s (execCollectivePacket ws v s) := by
  simp only [execCollectivePacket]
  split
  · exact .refl s
  · next key r _ =>
    have hdrop : Continues s (.next (s.dropUpper key)) := .same (State.mem_dropUpper s key)
    split
    · exact .refl s
    · split
      · exact hdrop
      · split
        · split
          · split
            · exact hdrop
            · exact .same (State.mem_upperArrives ..)
          · exact hdrop
        · exact hdrop
        · split
          · exact .refl s
          · exact .same (State.mem_onReduction ..)
        · split
          · exact .refl s
          · exact .same (State.mem_decideCancel ..)
        · split
          · exact .refl s
          · exact .same (State.mem_cancelRound ..)
        · exact .refl s
        · exact .refl s
theorem execPageInvalidation_continues (ctx va lvl : Nat) (pte : Word) (s : State) :
    Continues s (execPageInvalidation ctx va lvl pte s) := by
  simp only [execPageInvalidation]
  split
  · exact .refl s
  · split
    · exact .refl s
    · exact .next (State.wf_write8 s _ _)
theorem execContextDescriptorWrite_continues (ctx : Nat) (x : Word) (s : State) : Continues s (execContextDescriptorWrite ctx x s) := by
  unfold execContextDescriptorWrite
  split
  · exact .same rfl
  · exact .refl s
theorem execRegionInstall_continues (a : Nat) (ws : List Word) (s : State) : Continues s (execRegionInstall a ws s) := by
  simp only [execRegionInstall]
  split
  · exact .next fun h => Memory.wf_writeCells _ _ h
  · exact .refl s
theorem execFormatRegionWrite_continues (mc n : Nat) (ws : List Word) (s : State) : Continues s (execFormatRegionWrite mc n ws s) := by
  unfold execFormatRegionWrite
  exact (continues_ite _ _ _ _).2 ⟨fun _ => .same rfl, fun _ => .refl s⟩
@[simp] theorem State.mem_sendOut (s : State) (d : Dest) (bs : List Byte) : (s.sendOut d bs).mem = s.mem := rfl
theorem execSidebandRead_continues (off n : Nat) (s : State) : Continues s (execSidebandRead off n s) := .same rfl
theorem execUetRmaAccess_continues (ctx : Nat) (k : RmaOp) (va : Nat) (data : List Byte) (s : State) :
    Continues s (execUetRmaAccess ctx k va data s) := by
  unfold execUetRmaAccess
  split
  · exact .refl s
  · cases k with
    | read n =>
      dsimp only
      split
      · exact .same rfl
      · exact .refl s
    | write => exact .next (State.wf_sysWrite_getD s _ _ _)
    | compareSwap e d =>
      dsimp only
      split
      · exact .refl s
      · split
        · exact .refl s
        · split
          · next t ht =>
            refine .next fun h => ?_
            rw [State.mem_sendOut]
            split at ht
            · exact State.wf_sysWrite h ht
            · cases ht; exact h
          · exact .refl s
theorem execPortDown_continues (p : Nat) (s : State) : Continues s (execPortDown p s) := by
  unfold execPortDown
  split
  · exact .same rfl
  · exact .refl s
theorem execPortUp_continues (p : Nat) (s : State) : Continues s (execPortUp p s) := .same rfl
@[simp] theorem State.wf_started (s : State) (warm : Bool) (k : Nat) (h : Memory.wf s.mem = true) :
    Memory.wf (s.started warm k).mem = true :=
  Memory.wf_filter _ _ h
theorem execColdStart_continues (s : State) : Continues s (execColdStart s) := .next (State.wf_started s _ _)
theorem execWarmStart_continues (s : State) : Continues s (execWarmStart s) := by
  unfold execWarmStart
  split
  · exact .refl s
  · exact .next (State.wf_started s _ _)

end Sys2Proof.Machine
end

section
/-! SUPPORT. Every row of the table: an instruction issues its operation, an event has a lemma of its own above. -/
namespace Sys2Proof.Machine

/-- Every row of the table has a next state in every state (R12, R96, R97), and keeps memory's canonical form. -/
theorem exec_continues (i : Instr) (s : State) : Continues s (exec i s) := by
  have hissue := issueOne_continues i (slotOp i) s (slotOp_keeps i)
  cases i with
  | stickyReissue x => exact execStickyReissue_continues x s
  | vwlPresetLoad c n => exact execVwlPresetLoad_continues c n s
  | viewRegisterWrite c k n x => exact execViewRegisterWrite_continues c k n x s
  | tstatWrite c k x => exact execTstatWrite_continues c k x s
  | prdWrite c k x => exact execPrdWrite_continues c k x s
  | pmevWrite c k x => exact execPmevWrite_continues c k x s
  | pmcWrite c k n x => exact execPmcWrite_continues c k n x s
  | registerWrite c k n x => exact execRegisterWrite_continues c k n x s
  | cprRequest cl x => exact execCprRequest_continues cl x s
  | heldRequestStart cl => exact execHeldRequestStart_continues cl s
  | voltageStep cl => exact execVoltageStep_continues cl s
  | frequencyStep cl => exact execFrequencyStep_continues cl s
  | tthWrite n x => exact execTthWrite_continues n x s
  | calWrite cl x => exact execCalWrite_continues cl x s
  | grantStep cl => exact execGrantStep_continues cl s
  | waitResolve c => exact execWaitResolve_continues c s
  | deadlineExpiry c => exact execDeadlineExpiry_continues c s
  | markerDeadlineExpiry c => exact execMarkerDeadlineExpiry_continues c s
  | promise c => exact execPromise_continues c s
  | copyCompletion c id => exact execCopyCompletion_continues c id s
  | copyFault c id => exact execCopyFault_continues c id s
  | loadDataArrival c k => exact execLoadDataArrival_continues c k s
  | storePerform c k => exact execStorePerform_continues c k s
  | tldwBlockWrite c k => exact execTldwBlockWrite_continues c k s
  | vectorResultWrite c => exact execVectorResultWrite_continues c s
  | routineStart c => exact execRoutineStart_continues c s
  | sequencerStep c => exact execSequencerStep_continues c s
  | routineEnd c => exact execRoutineEnd_continues c s
  | mzroWrite c => exact execMzroWrite_continues c s
  | barrierCompletion o => exact execBarrierCompletion_continues o s
  | memberResume c => exact execMemberResume_continues c s
  | staleReclaim sl => exact execStaleReclaim_continues sl s
  | latchArrival c k => exact execLatchArrival_continues c k s
  | cellStamp c k => exact execCellStamp_continues c k s
  | channelEntryMove g ch cl => exact execChannelEntryMove_continues g ch cl s
  | conflictEntryConfirm c ok => exact execConflictEntryConfirm_continues c ok s
  | conflictSpill sl n => exact execConflictSpill_continues sl n s
  | supervisorResume c => exact execSupervisorResume_continues c s
  | endTeam t cause => exact execEndTeam_continues t cause s
  | coldtxtService c frame ok => exact execColdtxtService_continues c frame ok s
  | memue c mem a => exact execMemue_continues c mem a s
  | frameRetire a frame clean => exact execFrameRetire_continues a frame clean s
  | yieldRequest t dl => exact execYieldRequest_continues t dl s
  | yieldDeadlineExpiry t => exact execYieldDeadlineExpiry_continues t s
  | preEmption t => exact execPreEmption_continues t s
  | swapIn t => exact execSwapIn_continues t s
  | residency t => exact execResidency_continues t s
  | quantumExpiry t => exact execQuantumExpiry_continues t s
  | parkReclaim t => exact execParkReclaim_continues t s
  | teamCompletion t => exact execTeamCompletion_continues t s
  | instantClose g => exact execInstantClose_continues g s
  | kernelBoundary g => exact execKernelBoundary_continues g s
  | commandArrival q ws => exact execCommandArrival_continues q ws s
  | launch q => exact execLaunch_continues q s
  | copy q => exact execCopy_continues q s
  | signal q => exact execSignal_continues q s
  | wait q => exact execWait_continues q s
  | loadFolio q => exact execLoadFolio_continues q s
  | unloadFolio q => exact execUnloadFolio_continues q s
  | powerCap q => exact execPowerCap_continues q s
  | queryIdentity q => exact execQueryIdentity_continues q s
  | queryQueueState q => exact execQueryQueueState_continues q s
  | queryCounts q => exact execQueryCounts_continues q s
  | commandCompletion q => exact execCommandCompletion_continues q s
  | copyQueueServe k => exact execCopyQueueServe_continues k s
  | nodeOperandArrival k => exact execNodeOperandArrival_continues k s
  | rootDelivery inst round => exact execRootDelivery_continues inst round s
  | cancelRequest inst round => exact execCancelRequest_continues inst round s
  | collectivePacket ws v => exact execCollectivePacket_continues ws v s
  | windowSample cl => exact execWindowSample_continues cl s
  | hostWriteCompletion c k => exact execHostWriteCompletion_continues c k s
  | pageInvalidation ctx va lvl pte => exact execPageInvalidation_continues ctx va lvl pte s
  | regionInstall a ws => exact execRegionInstall_continues a ws s
  | formatRegionWrite mc n ws => exact execFormatRegionWrite_continues mc n ws s
  | sidebandRead off n => exact execSidebandRead_continues off n s
  | uetRmaAccess ctx k va data => exact execUetRmaAccess_continues ctx k va data s
  | portDown p => exact execPortDown_continues p s
  | portUp p => exact execPortUp_continues p s
  | queueConfiguration q prio ctx rcb en => exact execQueueConfiguration_continues q prio ctx rcb en s
  | contextDescriptorWrite ctx x => exact execContextDescriptorWrite_continues ctx x s
  | copyResumption c id => exact execCopyResumption_continues c id s
  | supervisorTrapEntry c => exact execSupervisorTrapEntry_continues c s
  | atomicPerform c k => exact execAtomicPerform_continues c k s
  | illegalOpcode h w => exact execIllegalOpcode_continues h w s
  | sensorPoll => exact execSensorPoll_continues s
  | dispatchStep => exact execDispatchStep_continues s
  | coldStart => exact execColdStart_continues s
  | warmStart => exact execWarmStart_continues s
  | _ => exact hissue

end Sys2Proof.Machine
end

section
/-! The step goes on: the agenda's entries and the default policy; and the two obligations. -/
namespace Sys2Proof.Machine

theorem Continues.of_mem {s s' : State} {o : Host.Outcome State Fault Refusal} (hm : s'.mem = s.mem) (h : Continues s' o) :
    Continues s o := by
  obtain ⟨t, ht, hw⟩ := h
  exact ⟨t, ht, fun hs => hw (hm ▸ hs)⟩
/-- What goes on twice goes on. -/
theorem Continues.andThen {s : State} {o : Host.Outcome State Fault Refusal} {f : State → Host.Outcome State Fault Refusal}
    (ho : Continues s o) (hf : ∀ t, Continues t (f t)) : Continues s (andThen o f) := by
  obtain ⟨t, rfl, ht⟩ := ho
  obtain ⟨u, hu, hw⟩ := hf t
  exact ⟨u, hu, fun hs => hw (ht hs)⟩
theorem issueAlone_continues (s : State) : Continues s s.issueAlone := by
  unfold State.issueAlone
  split
  · exact exec_continues _ s
  · exact .next (State.wf_issueBundle s _)
theorem issueTurn_continues (s : State) : Continues s s.issueTurn := by
  unfold State.issueTurn
  split
  · exact issueAlone_continues s
  · exact .next (State.wf_inGang s _ _ State.wf_issueBundle)
@[simp] theorem State.mem_timingEvents (s : State) (c : Nat) : (s.timingEvents c).mem = s.mem := by
  simp only [State.timingEvents]
  split <;> rfl
@[simp] theorem State.mem_classify (s : State) (cl : Nat) : (s.classify cl).mem = s.mem := rfl
@[simp] theorem State.mem_cycleEnds (s : State) (cl : Nat) : (s.cycleEnds cl).mem = s.mem := by
  simp only [State.cycleEnds, State.mem_onCluster]
  rw [State.mem_foldl _ _ _ fun s e => s.mem_onChannel _ _, State.mem_foldl _ _ _ fun s m => s.mem_onCore _ _,
    State.mem_foldl _ _ _ State.mem_timingEvents, State.mem_classify, State.mem_foldl _ _ _ fun s m => s.mem_markHeld _ _]
@[simp] theorem State.mem_passTurn (s : State) : s.passTurn.mem = s.mem := rfl
@[simp] theorem State.mem_beginCycle (s : State) (cl : Nat) : (s.beginCycle cl).mem = s.mem := rfl
theorem runEvents_continues (is : List Instr) (s : State) : Continues s (runEvents is s) := by
  induction is generalizing s with
  | nil => exact .refl s
  | cons i is ih => exact (exec_continues i s).andThen ih
theorem tick_continues (s : State) : Continues s s.tick := by
  simp only [State.tick]
  exact Continues.of_mem (by rw [State.mem_wakeParked]) (runEvents_continues _ _)
/-- An event that the policy takes has a next state: an outcome of `exec` that changes the machine. -/
theorem tryEvent_continues {s : State} {i : Instr} {o : Host.Outcome State Fault Refusal} (h : s.tryEvent i = some o) : Continues s o := by
  obtain ⟨t, ht, hw⟩ := exec_continues i s
  simp only [State.tryEvent, ht] at h
  split at h
  · cases h
  · cases h
    exact .next hw
theorem ownEvent_continues {s : State} {o : Host.Outcome State Fault Refusal} (h : s.ownEvent = some o) : Continues s o := by
  unfold State.ownEvent at h
  split at h
  · cases h
  · obtain ⟨i, -, hi⟩ := List.exists_of_findSome?_eq_some h
    exact tryEvent_continues hi
/-- The default policy (log 1, 2): an event, an issue, the end of a cycle, its beginning or a tick. -/
theorem policy_continues (s : State) : Continues s s.policy := by
  unfold State.policy
  split
  · next ho => exact ownEvent_continues ho
  · split
    · split
      · exact (issueTurn_continues s).andThen fun t => .same t.mem_passTurn
      · exact .same s.mem_passTurn
    · split
      · exact .same (s.mem_cycleEnds _)
      · split
        · exact .same (s.mem_beginCycle _)
        · exact (tick_continues _).of_mem (State.mem_foldl _ _ _ fun s cl => s.mem_onCluster _ _)
theorem perform_continues (a : Act) (s : State) : Continues s (State.perform a s) := by
  cases a with
  | issue c => exact (continues_ite _ _ _ _).2 ⟨fun _ => (issueTurn_continues _).of_mem rfl, fun _ => .same rfl⟩
  | event i => exact (continues_ite _ _ _ _).2 ⟨fun _ => .refl s, fun _ => exec_continues i s⟩
  | tick n =>
    match n with
    | 0 => exact .refl s
    | 1 => exact tick_continues s
    | n + 2 => exact (tick_continues _).of_mem rfl
  | cycle cl => exact .same (s.mem_cycleEnds cl)
  | hostWrite a bs => exact .next (State.wf_hostStore s a bs)
  | pin sl n => exact .same (s.mem_pinSlice sl n)
  | coldEvict ctx va => exact .next (State.wf_evictCold s ctx va)
  | badAccess c m a x =>
    refine .next fun h => ?_
    split
    · exact State.wf_inGang _ c _ (fun s c => s.wf_badIssue c m a x) h
    · exact h
  | engineBusy c e n | sliceEvict g | dataAttr chk | readings l | startInput k t | flash key l | corrected c src a b y
  | parityError c tbl i => exact .same rfl
theorem step_continues (s : State) : Continues s (step s) := by
  unfold step State.advance
  split
  · next a r _ => exact Continues.of_mem (s' := { s with agenda := r }) rfl (perform_continues a _)
  · exact policy_continues s

/-- Settles O56: the step goes on with canonical memory (`step_continues`). -/
theorem stepKeepsMemoryCanonical : Obligations.StepKeepsMemoryCanonical := by
  unfold Obligations.StepKeepsMemoryCanonical
  intro s t h ht
  obtain ⟨u, hu, hw⟩ := step_continues s
  obtain rfl : u = t := Host.Outcome.next.inj (hu.symm.trans ht)
  exact hw h
/-- Settles O57: every operation and event, and so every step, goes on (`exec_continues`, `step_continues`). -/
theorem neverStops : Obligations.NeverStops := by
  unfold Obligations.NeverStops
  have hgo : ∀ {s o}, Continues s o → ∃ t, o = .next t := fun ⟨t, ht, _⟩ => ⟨t, ht⟩
  exact ⟨fun i s => hgo (exec_continues i s), fun s => hgo (step_continues s)⟩

end Sys2Proof.Machine
end

section
/-! SUPPORT. What a step performs (R18, R73, R74, R77, R84): the one operation of a bundle, the issue of a core that traps by itself,
and the head of the agenda. -/
namespace Sys2Proof.Machine
open Sys2Proof.Claims

/-- No opcode begins with 0xF, the mark of a header (R73, R95). -/
theorem opcodeClass_header {o : Nat} (h : 0xF0 ≤ o) : opcodeClass o = none := by
  simp only [opcodeClass, Bool.or_eq_true, Bool.and_eq_true, decide_eq_true_eq]
  repeat rw [if_neg (by omega)]
/-- A word that decodes is no header (R84). -/
theorem decodeSlot_notHeader {x : Slot} {w : Word} {i : Instr} (h : decodeSlot x w = .ok i) : bits w.toNat 63 60 ≠ 0xF := by
  intro hw
  have ho : opcodeClass (w.extractLsb' 56 8).toNat = none := opcodeClass_header (by
    simp only [bits, Nat.shiftRight_eq_div_pow, BitVec.extractLsb'_toNat] at hw ⊢
    omega)
  unfold decodeSlot at h
  rw [ho] at h
  cases hr : readWord x w <;> simp [hr] at h

/-- Where nothing has been kept for a re-issue, no slot re-issues (R76). -/
theorem Core.word_of_rw_nil {k : Core} (h : k.regs.rw = []) (n : Nat) : k.word n = 0 := by
  simp [Core.word, h, Table.get]

/-- The one slot that a mask of one bit names (R73, R74). -/
theorem slots_inMask (x : Slot) : slots.filter (inMask (2 ^ x.maskBit)) = [x] := by
  cases x <;> decide

/-- A header's fields are those of its word (R73). -/
theorem decodeHeader_fields {w : Word} {h : Header} (hd : decodeHeader w = some h) :
    bits w.toNat 63 60 = 0xF ∧ h.mask = bits w.toNat 55 50 ∧ h.rep = bits w.toNat 49 44 := by
  simp only [decodeHeader, Option.ite_none_right_eq_some, Option.some.injEq, Bool.and_eq_true, decide_eq_true_eq] at hd
  obtain ⟨⟨⟨⟨⟨hF, _⟩, _⟩, _⟩, _⟩, rfl⟩ := hd
  exact ⟨hF, rfl, rfl⟩

/-- The bundle of a header that names one slot, with the word behind it (R73, R74). -/
theorem State.fetchBundle_one {s : State} {c pc : Nat} {x : Slot} {hw w : Word} {h : Header} (hf : s.fetchWord c pc = .ok hw)
    (hd : decodeHeader hw = some h) (hm : h.mask = 2 ^ x.maskBit) (hr : h.rep = 0) (hf' : s.fetchWord c (pc + 8) = .ok w)
    (hw' : bits w.toNat 63 60 ≠ 0xF) : s.fetchBundle c pc = .ok { hdr := h, words := [(x, w, pc + 8)] } := by
  obtain ⟨hF, hmask, hrep⟩ := decodeHeader_fields hd
  have hnamed : slots.filter (inMask (bits hw.toNat 55 50)) = [x] := by rw [← hmask, hm, slots_inMask]
  simp [State.fetchBundle, State.fetchWords, hf, hf', hd, hF, hnamed, ← hrep, hr, hw']

/-- A core issues alone where its issue brings no trap that its gang shares (R237). -/
theorem State.issueTurn_byItself {s : State} (h : byItself s s.turn) : s.issueTurn = s.issueAlone := by
  have : ((s.teamOf s.turn).gang ≤ 1 || (newTrap s (s.issueBundle s.turn) s.turn).isNone) = true := by
    rcases h with h | h | h <;> simp [newTrap, h]
  simp [State.issueTurn, this]
theorem State.issueAlone_some {s : State} {i : Instr} (h : s.soleInstr s.turn = some i) : s.issueAlone = exec i s := by
  simp [State.issueAlone, h]
theorem State.issueAlone_none {s : State} (h : s.soleInstr s.turn = none) : s.issueAlone = .next (s.issueBundle s.turn) := by
  simp [State.issueAlone, h]

/-- The agenda's head is performed, and leaves it (log 2). -/
theorem step_agenda (s : State) (a : Act) (rest : List Act) :
    step { s with agenda := a :: rest } = State.perform a { s with agenda := rest } := rfl
theorem perform_issue (s : State) (c : Nat) : State.perform (.issue c) s =
    if State.mayIssue { s with turn := c } c && State.inOrder { s with turn := c } c then State.issueTurn { s with turn := c }
    else .next { s with turn := c } := rfl
theorem step_policy {s : State} (h : s.agenda = []) : step s = s.policy := by
  simp [step, State.advance, h]

/-- Settles O58: the bundle is its one word (`State.fetchBundle_one`), and the agenda or the policy lets the core issue it. -/
theorem stepRuns : Obligations.StepRuns := by
  unfold Obligations.StepRuns
  refine ⟨?_, ?_, ?_, ?_, ?_, ?_⟩
  · intro s c x hw h w i hf hd hk hr hm hf' hi hrep hrw
    have hb := State.fetchBundle_one hf hd hm hr hf' (decodeSlot_notHeader hi)
    simp [State.soleInstr, hb, hk, hr, hrep, hi, Core.word_of_rw_nil hrw]
  · intro s c rest u hm ho hb
    have hgo : step { s with agenda := .issue c :: rest } = u.issueAlone := by
      rw [step_agenda, perform_issue, if_pos (by rw [Bool.and_eq_true]; exact ⟨hm, ho⟩)]
      exact State.issueTurn_byItself hb
    exact ⟨fun i hi => hgo.trans (State.issueAlone_some hi), fun hn => hgo.trans (State.issueAlone_none hn)⟩
  · intro s c rest u hno
    rw [step_agenda, perform_issue, if_neg]
    rw [Bool.and_eq_true, not_and_or, Bool.not_eq_true, Bool.not_eq_true]
    exact hno
  · intro s i rest
    refine ⟨fun hi => ?_, fun hi => ?_⟩ <;> rw [step_agenda] <;> simp [State.perform, hi]
  · intro s i ha he ht hm hb hi
    rw [step_policy ha]
    simp [State.policy, he, ht, hm, State.issueTurn_byItself hb, State.issueAlone_some hi]
  · intro s o ha ho
    rw [step_policy ha]
    simp [State.policy, ho]

end Sys2Proof.Machine
end

section
/-! SUPPORT. The commit of an issue of one slot that does not wait, in a bundle of any length, and a slot that is nullified. -/
namespace Sys2Proof.Machine
open Sys2Proof.Claims

/-- What one slot of an issue, by itself, has come to in a machine that it leaves to its commit. -/
def Done.one (s : State) (x : SlotOp) (es : List Eff) (n : Nat) : Done := { s := s, outs := [(x, { effs := es })], nulls := n }

/-- The record of such an issue, of a bundle that does not repeat. -/
theorem issueRecord_one {s : State} {c : Nat} {fr : Frame} {x : SlotOp} {es : List Eff} {n : Nat}
    (hpre : x.op.pre (s.core c) x.ix = []) (hr : fr.rep = 0) :
    let w := s.issueRecord c fr [x] (.one s x es n)
    w.effs = [(x.slot.ix, x.gk, es)] ∧ w.next = fr.h + fr.len ∧ w.rep = 0 ∧ w.undoRec = [] := by
  simp [State.issueRecord, Done.one, hpre, hr, changedRecords]

/-- The machine at the commit of such an issue: it has been noted, and its slot has done what it does. -/
def State.oneDone (s : State) (c : Nat) (x : SlotOp) (es : List Eff) : State :=
  ((s.noteLead c ((s.transferOutcome c [(x, { effs := es })]).getD 0)).onCore c
    (Core.noteIssue (s.cycleOf c) (issueWeight (s.core c) [x]))).slotDone c (s.cycleOf c) [] (x.slot.ix, x.gk, es)
theorem State.finishIssue_one {s : State} {c : Nat} {fr : Frame} {x : SlotOp} {es : List Eff} {n : Nat}
    (hpre : x.op.pre (s.core c) x.ix = []) (hr : fr.rep = 0) (hpl : ∀ e ∈ es, e.plain = true) :
    s.finishIssue c fr [x] (.one s x es n) =
      (s.oneDone c x es).onCore c (Core.settle (s.issueRecord c fr [x] (.one s x es n))) := by
  obtain ⟨heffs, _, _, hrec⟩ := issueRecord_one (s := s) (c := c) (x := x) (es := es) (n := n) hpre hr
  rw [State.finishIssue_plain (by simp [Done.one]) hrec (by rw [heffs]; simpa using hpl), heffs]
  have hno : ∀ t : State, t.settledBefore c (s.issueRecord c fr [x] (.one s x es n)) x.slot.ix = [] := fun t => by
    simp [State.settledBefore, heffs]
  simp only [List.foldl_cons, List.foldl_nil, hno]
  rfl
/-- One slot that has executed or been nullified, and is no transfer, commits. -/
theorem State.runSlots_one {s : State} {c : Nat} {fr : Frame} {x : SlotOp} {es : List Eff} {n : Nat}
    (hd : s.execStep c fr [x] = .one s x es n) (ht : x.op.transfer = false) (hct : ∀ e ∈ es, e.countClass = none) :
    s.runSlots c fr [x] = s.finishIssue c fr [x] (.one s x es n) := by
  have hv : (s.core c).overLimit [({ effs := es } : Out)] = false := Core.overLimit_none (by simpa using hct)
  unfold State.runSlots
  rw [hd]
  simp [Done.one, hv, State.gangDiffers_none _ _ _ _ ht]
theorem State.oneDone_onlyCore {s : State} {c : Nat} {x : SlotOp} {es : List Eff} (h : ∀ e ∈ es, e.local = true) :
    OnlyCore c s (s.oneDone c x es) :=
  ((State.noteLead_onlyCore ..).trans (.onCore ..)).trans (State.slotDone_onlyCore (es := (_, _, es)) h ..)

/-- A slot that executes on scalar registers and leaves the machine to its commit. -/
theorem State.execStep_scalar {s : State} {c : Nat} {fr : Frame} {x : SlotOp} {l : List Nat} {es : List Eff} (hS : x.slot = .s)
    (hn : x.op.nop = false) (hl : x.live (s.core c) = true) (hs : x.op.srcs = l.map Src.s)
    (hb : ∀ ctx, x.op.body ctx (l.map fun n => { val := ((s.core c).sreg n).toNat, tag := (s.core c).stag n }) s = .ok s { effs := es }) :
    s.execStep c fr [x] = .one s x es 0 := by
  have hvals := SlotOp.vals_scalar x s c l hs
  have hheads : ∀ ops, (∀ y ∈ ops, y = x) → headsNamed s c ops = [] := by
    intro ops h
    have : (ops.flatMap fun y => (y.vals s c).filterMap fun v => v.head) = [] := by
      rw [List.flatMap_eq_nil_iff]
      intro y hy
      rw [h y hy, hvals, List.filterMap_eq_nil_iff]
      simp
    rw [headsNamed, this]; rfl
  have hcl : clashes s c [x] = [] := clashes_none (hheads _ (by simp))
  have hrd : headsRead s c [x] = [] := hheads _ (by simp)
  have hlat : ∀ vs, latchLoads x vs = [] := fun vs => by simp [latchLoads, hS, isS]
  unfold State.execStep
  simp only [hcl, hrd, List.foldl_cons, List.foldl_nil, List.map_nil]
  unfold Done.slot
  simp [hn, hl, firstCause, hvals, hb, hlat, Done.one]

/-- A slot that is nullified loads its latches, and does nothing else (R16, R80). -/
theorem State.execStep_nullified {s : State} {c : Nat} {fr : Frame} {x : SlotOp} (hn : x.op.nop = false)
    (hl : x.live (s.core c) = false) (h0 : x.op.nullified = fun _ _ => []) :
    s.execStep c fr [x] = .one s x (latchLoads x (x.vals s c)) 1 := by
  have hrd : headsRead s c [x] = [] := by simp [headsRead, hl, headsNamed]
  unfold State.execStep
  simp only [hrd, List.foldl_cons, List.foldl_nil, List.map_nil]
  unfold Done.slot
  simp [hn, hl, h0, Done.one]

/-! What a nullified slot leaves of its core. -/

/-- Core k' is core k but for its input latches. -/
def LatchesOnly (k k' : Core) : Prop := k' = { k with regs := { k.regs with latch := k'.regs.latch } }
theorem mem_latchLoads {x : SlotOp} {vs : List SrcVal} {e : Eff} (h : e ∈ latchLoads x vs) : ∃ i l, e = .latch i l := by
  unfold latchLoads at h
  split at h
  · simp at h
  · obtain ⟨⟨v, i⟩, _, hv⟩ := List.mem_filterMap.1 h
    dsimp only at hv
    split at hv <;> simp at hv
    exact ⟨_, _, hv.2.symm⟩
theorem applyAll_latches {es : List Eff} (h : ∀ e ∈ es, ∃ i l, e = .latch i l) (c g cyc : Nat) (s : State) :
    LatchesOnly (s.core c) ((applyAll c g cyc es s).core c) := by
  unfold applyAll
  induction es generalizing s with
  | nil => rfl
  | cons e r ih =>
    obtain ⟨i, l, rfl⟩ := h e (List.mem_cons_self ..)
    have := ih (fun x hx => h x (List.mem_cons_of_mem _ hx)) ((Eff.latch i l).apply c g cyc s)
    rw [List.foldl_cons]
    simpa [LatchesOnly, Eff.apply] using this
/-- A slot whose effects load latches takes no entry of an engine's queue. -/
theorem State.slotDone_latches {es : List Eff} (h : ∀ e ∈ es, ∃ i l, e = .latch i l) (c cyc x g : Nat) (s : State) :
    LatchesOnly (s.core c) ((s.slotDone c cyc [] (x, g, es)).core c) := by
  have ha := applyAll_latches h c g cyc s
  have hseq : ((applyAll c g cyc es s).core c).ctl.seq = (s.core c).ctl.seq := by rw [ha]
  unfold State.slotDone State.afresh
  simp only [List.isEmpty_nil, if_true]
  split
  · rw [State.core_onCore, if_pos rfl, Core.enqueue, if_pos hseq]; exact ha
  · exact ha
theorem LatchesOnly.kept {k k' : Core} (h : LatchesOnly k k') : CoreKept k k' := by
  rw [h]; exact ⟨fun _ => rfl, rfl, rfl, rfl, rfl, rfl, rfl, rfl, rfl, rfl, rfl, rfl⟩

/-- A core behind the commit of a bundle of one slot (R77, R120). -/
theorem Core.settle_place {s : State} {c : Nat} {fr : Frame} {x : SlotOp} {es : List Eff} {n : Nat}
    (hpre : x.op.pre (s.core c) x.ix = []) (hr : fr.rep = 0) (k : Core) :
    let k' := Core.settle (s.issueRecord c fr [x] (.one s x es n)) k
    k'.ctl.pc = fr.h + fr.len ∧ k'.ctl.rep = 0 ∧ k'.ctl.wait = none ∧ k'.ctl.mode = k.ctl.mode := by
  obtain ⟨_, hnext, hrep, _⟩ := issueRecord_one (s := s) (c := c) (x := x) (es := es) (n := n) hpre hr
  obtain ⟨a1, a2, a3, a4, _⟩ := Core.settle_spec (s.issueRecord c fr [x] (.one s x es n)) k
  exact ⟨a1.trans hnext, a2.trans hrep, a3, a4⟩

end Sys2Proof.Machine
end

section
/-! SUPPORT. Fields of a word: what reading one gives after a replacement, and what the steps of a re-issue make of them (R78). -/
namespace Sys2Proof

theorem testBit_bits (x h l i : Nat) : (bits x h l).testBit i = (decide (i < h + 1 - l) && x.testBit (l + i)) := by
  rw [bits, Nat.testBit_mod_two_pow, Nat.testBit_shiftRight]
/-- A replaced field holds the value, and every other bit is as it was. -/
theorem testBit_setBits (x h l v i : Nat) (hl : l ≤ h + 1) :
    (setBits x h l v).testBit i = if l ≤ i ∧ i ≤ h then v.testBit (i - l) else x.testBit i := by
  have hsum : setBits x h l v = 2 ^ l * (2 ^ (h + 1 - l) * (x >>> (h + 1)) + v % 2 ^ (h + 1 - l)) + x % 2 ^ l := by
    have hp : 2 ^ (h + 1) = 2 ^ l * 2 ^ (h + 1 - l) := by rw [← pow_add]; congr 1; omega
    rw [setBits, Nat.shiftLeft_eq, Nat.shiftLeft_eq, hp]
    ring
  rw [hsum, Nat.testBit_two_pow_mul_add _ (Nat.mod_lt _ (by positivity)),
    Nat.testBit_two_pow_mul_add _ (Nat.mod_lt _ (by positivity)), Nat.testBit_mod_two_pow, Nat.testBit_mod_two_pow,
    Nat.testBit_shiftRight]
  by_cases h1 : i < l
  · simp [h1, show ¬l ≤ i by omega]
  · by_cases h2 : i - l < h + 1 - l
    · simp [h1, h2, show l ≤ i ∧ i ≤ h by omega]
    · simp [h1, h2, show ¬(l ≤ i ∧ i ≤ h) by omega, show h + 1 + (i - l - (h + 1 - l)) = i by omega]
theorem bits_setBits_same (x h l v : Nat) (hl : l ≤ h + 1) : bits (setBits x h l v) h l = v % 2 ^ (h + 1 - l) := by
  refine Nat.eq_of_testBit_eq fun i => ?_
  rw [testBit_bits, testBit_setBits _ _ _ _ _ hl, Nat.testBit_mod_two_pow]
  by_cases hi : i < h + 1 - l
  · simp [hi, show l + i ≤ h by omega]
  · simp [hi]
theorem bits_setBits_other (x h l v h' l' : Nat) (hl : l ≤ h + 1) (ho : h' < l ∨ h < l') :
    bits (setBits x h l v) h' l' = bits x h' l' := by
  refine Nat.eq_of_testBit_eq fun i => ?_
  rw [testBit_bits, testBit_bits, testBit_setBits _ _ _ _ _ hl]
  by_cases hi : i < h' + 1 - l'
  · rw [if_neg (by omega)]
  · simp [hi]
/-- A field of a word is the word's own slice. -/
theorem bits_extract (w : Word) (h l n : Nat) (hn : l + n = h + 1) : bits w.toNat h l = (w.extractLsb' l n).toNat := by
  rw [BitVec.extractLsb'_toNat, bits, show h + 1 - l = n by omega]
/-- A word of a number has the number's fields. -/
theorem bits_wordN (x h l : Nat) (hh : h < 64) : bits (wordN x).toNat h l = bits x h l := by
  refine Nat.eq_of_testBit_eq fun i => ?_
  rw [testBit_bits, testBit_bits, wordN, BitVec.toNat_ofNat, Nat.testBit_mod_two_pow]
  by_cases hi : i < h + 1 - l
  · simp [show l + i < 64 by omega]
  · simp [hi]

end Sys2Proof
namespace Sys2Proof.Machine
open Sys2Proof.Claims

/-- The step of a scalar field at bit `l`, n issues behind, under the stride of byte i of `sd` (R78). -/
def steppedField (sd n w l i : Nat) : Nat := (((bits w (l + 5) l : Int) + n * sextN (bits sd (8 * i + 7) (8 * i)) 8) % 64).toNat
/-- The word of a scalar operation with three registers, its four register fields replaced (R78, R87). -/
def withFields (w a b c d : Nat) : Nat := setBits (setBits (setBits (setBits w 47 42 a) 41 36 b) 35 30 c) 29 24 d
theorem bits_withFields (w a b c d : Nat) :
    bits (withFields w a b c d) 47 42 = a % 64 ∧ bits (withFields w a b c d) 41 36 = b % 64 ∧
    bits (withFields w a b c d) 35 30 = c % 64 ∧ ∀ h l, 48 ≤ l → bits (withFields w a b c d) h l = bits w h l := by
  refine ⟨?_, ?_, ?_, fun h l hl => ?_⟩ <;>
    simp (disch := omega) only [withFields, bits_setBits_same, bits_setBits_other, Nat.reduceAdd, Nat.reduceSub, Nat.reducePow]
/-- A re-issue of a scalar operation with three registers steps each of its fields by its own stride (R78). -/
theorem Core.stepWord_scalar {k : Core} {w : Word} {n : Nat} (hn : n ≠ 0) (ho : 0 < bits w.toNat 63 56 ∧ bits w.toNat 63 56 < 0x20) :
    let q := steppedField (k.csr csrSDS).toNat n w.toNat
    k.stepWord .s w n = wordN (withFields w.toNat (q 42 3) (q 36 2) (q 30 1) (q 24 0)) := by
  unfold Core.stepWord withFields steppedField
  rw [if_neg hn]
  dsimp only
  rw [if_neg (by omega), if_neg (by omega)]
  simp (disch := omega) only [bits_setBits_other, Nat.reduceAdd]
/-- The fields of a word of the scalar format (R87). -/
theorem bits_scalarWord (h : Head) (o : BitVec 8) (f : SR) :
    bits (h.pack o ++ f.pack).toNat 55 51 = h.gk.toNat ∧ bits (h.pack o ++ f.pack).toNat 47 42 = f.sd.toNat ∧
    bits (h.pack o ++ f.pack).toNat 41 36 = f.sa.toNat ∧ bits (h.pack o ++ f.pack).toNat 35 30 = f.sb.toNat := by
  have hf := SR.ofWord_pack (h.pack o) f
  have hh := Head.fields_pack h o f.pack
  rw [bits_extract _ 55 51 5 rfl, bits_extract _ 47 42 6 rfl, bits_extract _ 41 36 6 rfl, bits_extract _ 35 30 6 rfl]
  exact ⟨congrArg (fun g => g.gk.toNat) hh, congrArg (fun g => g.sd.toNat) hf, congrArg (fun g => g.sa.toNat) hf,
    congrArg (fun g => g.sb.toNat) hf⟩

end Sys2Proof.Machine
end

section
/-! SUPPORT. Re-issue of an `ADD`, an opcode that no profile has, and an operation that is nullified (R16, R76-R78, R96, R97). -/
namespace Sys2Proof.Machine
open Sys2Proof.Claims

theorem steppedField_stepped (k : Core) (w l i n : Nat) (r : BitVec 6) (hr : bits w (l + 5) l = r.toNat) :
    steppedField (k.csr csrSDS).toNat n w l i = stepped k r i n := by
  have hb : bits (k.csr csrSDS).toNat (8 * i + 7) (8 * i) = (k.csr csrSDS).toNat / 256 ^ i % 256 := by
    rw [bits, Nat.shiftRight_eq_div_pow, pow_mul, show 8 * i + 7 + 1 - 8 * i = 8 by omega]
    norm_num
  rw [steppedField, stepped, hr, hb]
theorem stepped_zero (k : Core) (r : BitVec 6) (i : Nat) : stepped k r i 0 = r.toNat := by
  have := r.isLt
  simp only [stepped]
  omega
theorem stepped_lt (k : Core) (r : BitVec 6) (i n : Nat) : stepped k r i n % 64 = stepped k r i n := by
  simp only [stepped]
  omega

/-- What stands in a slot that passes the decode step decodes (R97). -/
theorem Core.slotIssue_ok {k : Core} {x : Slot} {base : Word} {ix addr : Nat} (hb : (k.slotIssue x base ix addr).bad = none) :
    ∃ i, decodeSlot x base = .ok i ∧ k.slotIssue x base ix addr =
      { slot := x, gk := bits (k.stepWord x base ix).toNat 55 51, gs := bits (k.stepWord x base ix).toNat 50 48, base := base, ix := ix,
        word := k.stepWord x base ix, op := slotOp ((readWord x (k.stepWord x base ix)).getD i), addr := addr } := by
  cases hd : decodeSlot x base with
  | ok i => exact ⟨i, rfl, by simp [Core.slotIssue, hd]⟩
  | error e => cases e <;> simp [Core.slotIssue, hd] at hb
theorem State.checkSteps_bad {s : State} {c : Nat} {fr : Frame} {x : SlotOp} (h : s.checkSteps c fr [x] = none) : x.bad = none := by
  cases hb : x.bad with
  | none => rfl
  | some b => simp [State.checkSteps, decodeStep, SlotOp.cause, hb] at h

/-- The fields of an `ADD` that has issued n times before (R78). -/
theorem Core.stepWord_add (k : Core) (h : Head) (f : SR) (n : Nat) :
    let w := k.stepWord .s (h.pack 0x01 ++ f.pack) n
    bits w.toNat 63 56 = 1 ∧ bits w.toNat 55 51 = h.gk.toNat ∧ bits w.toNat 47 42 = stepped k f.sd 3 n ∧
      bits w.toNat 41 36 = stepped k f.sa 2 n ∧ bits w.toNat 35 30 = stepped k f.sb 1 n := by
  obtain ⟨hgk, hsd, hsa, hsb⟩ := bits_scalarWord h 0x01 f
  have ho : bits (h.pack 0x01 ++ f.pack : Word).toNat 63 56 = 1 := opcode_pack h 0x01 f.pack
  by_cases hn : n = 0
  · subst hn
    simp only [stepped_zero]
    exact ⟨ho, hgk, hsd, hsa, hsb⟩
  · rw [Core.stepWord_scalar hn (by omega)]
    simp (disch := omega) only [bits_wordN]
    obtain ⟨h1, h2, h3, hhigh⟩ := bits_withFields (h.pack 0x01 ++ f.pack : Word).toNat
      (steppedField (k.csr csrSDS).toNat n (h.pack 0x01 ++ f.pack : Word).toNat 42 3)
      (steppedField (k.csr csrSDS).toNat n (h.pack 0x01 ++ f.pack : Word).toNat 36 2)
      (steppedField (k.csr csrSDS).toNat n (h.pack 0x01 ++ f.pack : Word).toNat 30 1)
      (steppedField (k.csr csrSDS).toNat n (h.pack 0x01 ++ f.pack : Word).toNat 24 0)
    rw [h1, h2, h3, hhigh _ _ (by omega), hhigh _ _ (by omega), steppedField_stepped k _ 42 3 n f.sd hsd,
      steppedField_stepped k _ 36 2 n f.sa hsa, steppedField_stepped k _ 30 1 n f.sb hsb]
    exact ⟨ho, hgk, stepped_lt .., stepped_lt .., stepped_lt ..⟩
/-- A word of opcode 1 is an `ADD` of its fields (R87, R94). -/
theorem readWord_add {x : Slot} {w : Word} (ho : bits w.toNat 63 56 = 1) :
    readWord x w = some (.add { slot := x, gk := w.extractLsb' 51 5, gs := w.extractLsb' 48 3 } (.ofWord w)) := by
  rw [bits_extract w 63 56 8 rfl] at ho
  rw [readWord, ho]
  rfl

/-- What slot S issues where it re-issues an `ADD` (R77, R78). -/
theorem Core.slotIssue_add {k : Core} {h : Head} {f : SR} {n addr : Nat} {x : SlotOp}
    (hx : x = k.slotIssue .s (h.pack 0x01 ++ f.pack) n addr) (hb : x.bad = none) :
    x.slot = .s ∧ x.gk = h.gk.toNat ∧ x.base = h.pack 0x01 ++ f.pack ∧ x.ix = n ∧
      ∃ g : SR, x.op = opAdd g ∧ g.sd.toNat = stepped k f.sd 3 n ∧ g.sa.toNat = stepped k f.sa 2 n ∧ g.sb.toNat = stepped k f.sb 1 n := by
  rw [hx] at hb
  obtain ⟨i, _, hi⟩ := Core.slotIssue_ok hb
  rw [hi] at hx
  obtain ⟨ho, hgk, hsd, hsa, hsb⟩ := k.stepWord_add h f n
  rw [readWord_add ho, Option.getD_some] at hx
  subst hx
  exact ⟨rfl, hgk, rfl, rfl, _, rfl, (bits_extract _ 47 42 6 rfl).symm.trans hsd, (bits_extract _ 41 36 6 rfl).symm.trans hsa,
    (bits_extract _ 35 30 6 rfl).symm.trans hsb⟩

/-- A re-issue that passes its steps and executes runs its slot (R77, R97). -/
theorem exec_reissue {s : State} {x : Slot} (hr : Reissues s x) :
    exec (.stickyReissue x) s =
      .next ((againIn s x).runSlots s.turn { h := (s.landed.core s.turn).ctl.pc, len := 8 } [again s x]) := by
  obtain ⟨hat, hw, hb, hheld, hchk, _⟩ := hr
  have hbe : s.beforeIssue s.turn = (none, s.landed) := by rw [State.landed, ← hb]
  have hx : exec (.stickyReissue x) s = execStickyReissue x s := rfl
  rw [hx, execStickyReissue]
  simp only [hat, hw, hbe, Bool.not_true, beq_iff_eq, Bool.false_or, if_false]
  unfold State.issueSlots
  have hheld' : s.landed.heldBy s.turn [(s.landed.core s.turn).slotIssue x ((s.landed.core s.turn).word x.ix)
    ((s.landed.core s.turn).count x.ix) (s.landed.core s.turn).ctl.pc] = 0 := hheld
  have hchk' : (s.landed.freshenOps s.turn [(s.landed.core s.turn).slotIssue x ((s.landed.core s.turn).word x.ix)
    ((s.landed.core s.turn).count x.ix) (s.landed.core s.turn).ctl.pc]).checkSteps s.turn
      { h := (s.landed.core s.turn).ctl.pc, len := 8 } [(s.landed.core s.turn).slotIssue x ((s.landed.core s.turn).word x.ix)
    ((s.landed.core s.turn).count x.ix) (s.landed.core s.turn).ctl.pc] = none := hchk
  simp only [hheld', hchk', ne_eq, not_true_eq_false, if_false]
  rfl
theorem againIn_core (s : State) (x : Slot) (c : Nat) : (againIn s x).core c = s.landed.core c := by
  simp [againIn, State.core, State.freshenOps_cores]

/-- A result written to a scalar register: the register holds it, and the others stay (R81, R113). -/
theorem Core.writeS_holds (k : Core) (d : Nat) (v : Word) (g : Nat) : Holds (k.writeS d v g) d v g ∧ ScalarKept [d] k (k.writeS d v g) := by
  refine ⟨?_, fun n hn => ?_⟩
  · unfold Holds Core.writeS
    split
    · next hd => subst hd; simp
    · next hd => simp [hd]
  · have hn : n ≠ d := by simpa using hn
    unfold Core.writeS
    rw [Core.sreg_setS, Core.stag_setS, if_neg (by tauto), if_neg (by tauto)]
    exact ⟨rfl, rfl⟩
/-- The words and counts of a slot's re-issue behind its issue (R77). -/
theorem Core.settle_word {w : Waiting} {k : Core} {x : Nat} {v : Word} {n : Nat} (h : w.steps = [(x, v, n)]) :
    (Core.settle w k).word x = v ∧ (Core.settle w k).count x = n := by
  simp [Core.settle, h, Core.word, Core.count, Core.setWord]

/-- An `ADD` is sticky, and not the opcode whose slot forgets its word (R77, R95). -/
theorem sticky_add (h : Head) (f : SR) : stickyWord (h.pack 0x01 ++ f.pack) = true ∧ ¬(h.pack 0x01 ++ f.pack : Word).toNat / 2 ^ 56 = 0 := by
  have ho : bits (h.pack 0x01 ++ f.pack : Word).toNat 63 56 = 1 := opcode_pack h 0x01 f.pack
  refine ⟨?_, ?_⟩
  · rw [stickyWord, ← bits_extract _ 63 56 8 rfl, ho]; rfl
  · simp only [bits, Nat.shiftRight_eq_div_pow] at ho
    omega
/-- An `ADD` in slot S executes (R114). -/
theorem State.execStep_add {s : State} {c : Nat} {fr : Frame} {x : SlotOp} {g : SR} (hS : x.slot = .s) (hop : x.op = opAdd g)
    (hl : x.live (s.core c) = true) :
    s.execStep c fr [x] =
      .one s x [.sreg g.sd.toNat ((s.core c).sreg g.sa.toNat + (s.core c).sreg g.sb.toNat) 1] 0 := by
  refine State.execStep_scalar (l := [g.sa.toNat, g.sb.toNat]) hS (by rw [hop]; rfl) hl (by rw [hop]; rfl) fun ctx => ?_
  rw [hop]
  simp [opAdd, aluOp, resultOp, val, wordN]
/-- What a slot S whose one effect is a scalar result that is readable at once makes of its core: the core as noted, with the result. -/
theorem State.oneDone_sreg {s : State} {c : Nat} {x : SlotOp} (hS : x.slot = .s) (d : Nat) (v : Word) :
    ∃ k, Noted (s.core c) k ∧ (s.oneDone c x [.sreg d v 1]).core c = k.writeS d v x.gk := by
  refine ⟨_, noted s c (s.cycleOf c) (issueWeight (s.core c) [x])
    ((s.transferOutcome c [(x, { effs := [.sreg d v 1] })]).getD 0), ?_⟩
  simp [State.oneDone, State.slotDone, State.afresh, applyAll, Eff.apply, hS, Slot.ix]

/-- A slot S whose one effect is a scalar result that is readable at once, behind its commit. -/
theorem State.commit_sreg {s : State} {c : Nat} {fr : Frame} {x : SlotOp} (hS : x.slot = .s) (hpre : x.op.pre (s.core c) x.ix = [])
    (hr : fr.rep = 0) (d : Nat) (v : Word) :
    let k := s.core c
    let k' := ((s.oneDone c x [.sreg d v 1]).onCore c (Core.settle (s.issueRecord c fr [x] (.one s x [.sreg d v 1] 0)))).core c
    CoreKept k k' ∧ k'.ctl.pc = fr.h + fr.len ∧ k'.ctl.rep = 0 ∧ ScalarKept [d] k k' ∧ Holds k' d v x.gk := by
  obtain ⟨q, hq, hcore⟩ := State.oneDone_sreg (s := s) (c := c) hS d v
  obtain ⟨hpc, hrep, _, _⟩ := Core.settle_place (fr := fr) (n := 0) (es := [.sreg d v 1]) hpre hr (q.writeS d v x.gk)
  obtain ⟨hholds, hothers⟩ := q.writeS_holds d v x.gk
  rw [State.core_onCore, if_pos rfl, hcore]
  generalize s.issueRecord _ _ _ _ = r at *
  have hregs := Core.settle_sreg r (q.writeS d v x.gk)
  refine ⟨(hq.kept.trans (.writeS ..)).trans (.settle ..), hpc, hrep, fun j hj => ?_, ?_⟩
  · obtain ⟨h1, h2⟩ := hregs j
    obtain ⟨h3, h4⟩ := hothers j hj
    obtain ⟨h5, h6⟩ := hq.scalars j
    exact ⟨h1.trans (h3.trans h5), h2.trans (h4.trans h6)⟩
  · unfold Holds at hholds ⊢
    simpa only [(hregs _).1, (hregs _).2] using hholds
/-- A slot whose word re-issues keeps it, with one more issue counted (R77). -/
theorem issueRecord_sticky {s : State} {c : Nat} {fr : Frame} {x : SlotOp} {d : Done} (h : stickyWord x.base = true)
    (h0 : ¬x.base.toNat / 2 ^ 56 = 0) : (s.issueRecord c fr [x] d).steps = [(x.slot.ix, x.base, x.ix + 1)] := by
  simp only [State.issueRecord, List.map_cons, List.map_nil, h, Bool.true_and, Bool.not_eq_true', beq_eq_false_iff_ne, ne_eq, h0,
    not_false_eq_true, if_true]
/-- The first clause of O38: the slot executes on its stepped fields (`Core.slotIssue_add`) and commits alone. -/
theorem reissue_add {h : Head} {f : SR} {s : State} {w : Word} (he : encode (.add h f) = some (.s, w))
    (hw : (s.landed.core s.turn).word Slot.s.ix = w) (hr : Reissues s .s) :
    let k := s.landed.core s.turn
    let n := k.count Slot.s.ix
    ∃ t, exec (.stickyReissue .s) s = .next t ∧ OnlyCore s.turn (againIn s .s) t ∧ CoreKept k (t.core s.turn) ∧
      (t.core s.turn).ctl.pc = k.ctl.pc + 8 ∧ (t.core s.turn).ctl.rep = 0 ∧
      ScalarKept [stepped k f.sd 3 n] k (t.core s.turn) ∧
      Holds (t.core s.turn) (stepped k f.sd 3 n) (k.sreg (stepped k f.sa 2 n) + k.sreg (stepped k f.sb 1 n)) h.gk.toNat ∧
      (t.core s.turn).word Slot.s.ix = w ∧ (t.core s.turn).count Slot.s.ix = n + 1 := by
  intro k n
  have hexec := exec_reissue hr
  have hk := againIn_core s .s s.turn
  obtain ⟨_, _, _, _, hchk, hlive⟩ := hr
  simp only [encode, Option.some.injEq, Prod.mk.injEq] at he
  obtain ⟨_, rfl⟩ := he
  obtain ⟨hslot, hgk, hbase, hix, g, hop, hsd, hsa, hsb⟩ := Core.slotIssue_add (x := again s .s) (k := k) (n := n) (by rw [← hw]; rfl)
    (State.checkSteps_bad hchk)
  generalize againIn s .s = u at *
  generalize again s .s = x at *
  have hstep := State.execStep_add (fr := { h := k.ctl.pc, len := 8 }) hslot hop hlive
  have hpre : x.op.pre (u.core s.turn) x.ix = [] := by rw [hop]; rfl
  have hframe := State.commit_sreg (fr := { h := k.ctl.pc, len := 8 }) hslot hpre rfl (stepped k f.sd 3 n)
    (k.sreg (stepped k f.sa 2 n) + k.sreg (stepped k f.sb 1 n))
  rw [hk, hsd, hsa, hsb] at hstep
  rw [State.runSlots_one hstep (by rw [hop]; rfl) (by simp [Eff.countClass]), State.finishIssue_one hpre rfl (by simp [Eff.plain])] at hexec
  rw [hk, hgk] at hframe
  obtain ⟨hkept, hpc, hrep, hothers, hholds⟩ := hframe
  refine ⟨_, hexec, (State.oneDone_onlyCore (by simp [Eff.local])).trans (.onCore ..), hkept, hpc, hrep, hothers, hholds, ?_⟩
  rw [State.core_onCore, if_pos rfl]
  obtain ⟨hsticky, hopcode⟩ := sticky_add h f
  rw [← hbase] at hsticky hopcode ⊢
  rw [← hix, ← hslot]
  exact Core.settle_word (issueRecord_sticky hsticky hopcode)

/-- The second clause of O38: an opcode of no range is refused in the decode step, before anything holds the bundle (R96, R97). -/
theorem exec_illegalOpcode {h : Head} {w : Word} {s : State} (hat : s.atIssue s.turn = true) (hF : bits w.toNat 63 60 ≠ 0xF)
    (ho : opcodeClass (bits w.toNat 63 56) = none) (hb : (s.beforeIssue s.turn).1 = none) :
    exec (.illegalOpcode h w) s = .next (s.landed.faultIssue s.turn { h := (s.landed.core s.turn).ctl.pc, len := 16 }
      { cause := cILLOP, step := 3, fmask := 2 ^ h.slot.maskBit, frs := [w, wordN ((s.landed.core s.turn).ctl.pc + 8)] }) := by
  have hbe : s.beforeIssue s.turn = (none, s.landed) := by rw [State.landed, ← hb]
  have hx : exec (.illegalOpcode h w) s = execIllegalOpcode h w s := rfl
  rw [hx, execIllegalOpcode]
  simp [hat, hF, ho, hbe, State.issueSlots, State.heldBy, State.freshenOps, State.checkSteps, decodeStep, SlotOp.cause, slotMask]

/-- What a word encodes issues its operation (R77). -/
theorem exec_issues {i : Instr} {p : Slot × Word} (h : encode i = some p) (s : State) : exec i s = issueOne i (slotOp i) s := by
  cases i <;> cases h <;> rfl
/-- The third clause of O38: a nullified operation loads its latches, and its core moves on (R16, R80). -/
theorem exec_nullified {i : Instr} {s : State} (hp : s.passes i = true) (hg : s.guards i = false) (hn : (slotOp i).nop = false)
    (h0 : (slotOp i).nullified = fun _ _ => []) (hpre : (slotOp i).pre = fun _ _ => []) (ht : (slotOp i).transfer = false) :
    ∃ t, exec i s = .next t ∧ OnlyCore s.turn (s.prepared i) t ∧ CoreKept (s.issuer i) (t.core s.turn) ∧
      MovedOn (s.issuer i) (t.core s.turn) ∧ ScalarKept [] (s.issuer i) (t.core s.turn) ∧
      (t.core s.turn).flights = (s.issuer i).flights := by
  obtain ⟨x, w, he, hexec⟩ := issueOne_passes hp
  have hl : (s.soleOp i x w).live ((s.prepared i).core s.turn) = false := by simpa [State.guards, he] using hg
  have hpc : s.soleFrame.h = (s.issuer i).ctl.pc := by rw [State.issuer, State.prepared_core he]; rfl
  have hpre' : (s.soleOp i x w).op.pre ((s.prepared i).core s.turn) (s.soleOp i x w).ix = [] := congrFun (congrFun hpre _) _
  have hlat : ∀ e ∈ latchLoads (s.soleOp i x w) ((s.soleOp i x w).vals (s.prepared i) s.turn), ∃ j l, e = .latch j l :=
    fun e he => mem_latchLoads he
  rw [← exec_issues he, State.runSlots_one (State.execStep_nullified hn hl h0) ht (fun e he => by obtain ⟨_, _, rfl⟩ := hlat e he; rfl),
    State.finishIssue_one hpre' rfl (fun e he => by obtain ⟨_, _, rfl⟩ := hlat e he; rfl)] at hexec
  refine ⟨_, hexec, (State.oneDone_onlyCore (fun e he => by obtain ⟨_, _, rfl⟩ := hlat e he; rfl)).trans (.onCore ..), ?_⟩
  generalize latchLoads _ _ = es at *
  rw [State.core_onCore, if_pos rfl]
  have hnoted := noted (s.prepared i) s.turn ((s.prepared i).cycleOf s.turn) (issueWeight ((s.prepared i).core s.turn) [s.soleOp i x w])
    (((s.prepared i).transferOutcome s.turn [(s.soleOp i x w, { effs := es })]).getD 0)
  have hdone : LatchesOnly _ (((s.prepared i).oneDone s.turn (s.soleOp i x w) es).core s.turn) := State.slotDone_latches hlat ..
  obtain ⟨h1, h2, h3, h4⟩ := Core.settle_place (s := s.prepared i) (c := s.turn) (fr := s.soleFrame) (x := s.soleOp i x w) (es := es) (n := 1)
    hpre' rfl (((s.prepared i).oneDone s.turn (s.soleOp i x w) es).core s.turn)
  generalize State.issueRecord _ _ _ _ _ = r at *
  generalize ((s.prepared i).oneDone s.turn (s.soleOp i x w) es).core s.turn = k at *
  generalize (State.onCore _ _ _).core s.turn = q at *
  have hregs := Core.settle_sreg r k
  obtain ⟨_, _, _, _, _, _, _, _, _, _, _, hfl, _⟩ := Core.settle_spec r k
  have hsreg : ∀ j, k.sreg j = q.sreg j ∧ k.stag j = q.stag j := fun j => by rw [hdone]; exact ⟨rfl, rfl⟩
  refine ⟨(hnoted.kept.trans hdone.kept).trans (.settle ..), ⟨h1.trans ?_, h2, h3, h4.trans ?_⟩, fun j _ => ?_, hfl.trans ?_⟩
  · rw [hpc]; rfl
  · rw [hdone]; exact hnoted.mode
  · exact ⟨(hregs j).1.trans ((hsreg j).1.trans (hnoted.scalars j).1), (hregs j).2.trans ((hsreg j).2.trans (hnoted.scalars j).2)⟩
  · rw [hdone]; exact hnoted.flights

/-- Settles O38: a re-issue, a refusal in the decode step, and a nullified slot, each in a bundle of its own. -/
theorem reissueAndIllegal : Obligations.ReissueAndIllegal := by
  unfold Obligations.ReissueAndIllegal
  exact ⟨fun _ _ _ _ he hw hr => reissue_add he hw hr, fun _ _ _ hat hF ho hb => exec_illegalOpcode hat hF ho hb,
    fun _ _ hp hg hn h0 hpre ht => exec_nullified hp hg hn h0 hpre ht⟩

end Sys2Proof.Machine
end

section
/-! SUPPORT. The commit of a bundle with one wait: what precedes it leaves the machine alone but for the conflict checker's tables, and
the wait's outcome takes effect (R77, R183, R186, R275). -/
namespace Sys2Proof.Machine
open Sys2Proof.Claims

/-! The conflict checker's claims, as tables of the machine that nothing else reads at a commit. -/

/-- Machine t is machine s but for the conflict checker's tables (R275). -/
def ClaimsOnly (s t : State) : Prop := t = { s with granules := t.granules, handoffs := t.handoffs, records := t.records }
theorem ClaimsOnly.refl (s : State) : ClaimsOnly s s := rfl
theorem ClaimsOnly.trans {s t u : State} (h : ClaimsOnly s t) (h' : ClaimsOnly t u) : ClaimsOnly s u := by
  unfold ClaimsOnly at *; rw [h', h]
theorem ClaimsOnly.foldl {α : Type} {f : State → α → State} (hf : ∀ s x, ClaimsOnly s (f s x)) (l : List α) (s : State) :
    ClaimsOnly s (l.foldl f s) := by
  induction l generalizing s with
  | nil => exact .refl s
  | cons x r ih => exact (hf s x).trans (ih _)
theorem ClaimsOnly.handoffs {s t : State} (h : ClaimsOnly s t) (l : List (Nat × Handoff)) : ClaimsOnly s { t with handoffs := l } := by
  unfold ClaimsOnly at *; rw [h]
theorem State.onRecords_claimsOnly (s : State) (ks : List Nat) (f : Record → Record) : ClaimsOnly s (s.onRecords ks f) :=
  .foldl (f := fun (s : State) k => { s with records := s.records.put {} k (f (s.records.get {} k)) }) (fun _ _ => rfl) ks s
theorem State.confirmClaims_claimsOnly (s : State) (c : Nat) (undo : List (Nat × Option Granule)) :
    ClaimsOnly s (s.confirmClaims c undo) := by
  refine ((ClaimsOnly.foldl (fun u v => ?_) undo s).trans (State.onRecords_claimsOnly ..)).handoffs _
  split
  · exact .refl u
  · split <;> rfl
theorem State.makeTentative_claimsOnly (s : State) (c : Nat) (undo : List (Nat × Option Granule)) (old : List (Nat × Handoff)) :
    ClaimsOnly s (s.makeTentative c undo old) := by
  refine (ClaimsOnly.foldl (fun u v => ?_) undo s).handoffs _
  split <;> rfl

/-- The machine in which a bundle that has waited commits: its claims are confirmed (R275). -/
def State.claimed (s : State) (c : Nat) (w : Waiting) : State := (s.confirmClaims c w.undo).onRecords w.undoRec (Record.confirm c)
theorem State.claimed_claimsOnly (s : State) (c : Nat) (w : Waiting) : ClaimsOnly s (s.claimed c w) :=
  (s.confirmClaims_claimsOnly c w.undo).trans (State.onRecords_claimsOnly ..)

/-! The outcome of a wait that is no timeout. -/

/-- A wait whose outcome is no timeout escalates nothing (R185). -/
theorem State.commitWait_quiet {s : State} {c cyc code d m : Nat} {x : Wait} (ho : x.out = some (code, d, m)) (hc : isTimeout code = false) :
    s.commitWait c cyc x none = (none, (s.commitWait c cyc x none).2) := by
  have he : ∀ u : State, (u.escalate c x).1 = false := fun u => by
    cases hx : x.kind <;> simp [State.escalate, hx, ho, hc]
  simp [State.commitWait, ho, he]
/-- The wait has a status, and so its outcome sets ESCN (R182, R185). -/
def WaitKind.status : WaitKind → Bool
  | .absn _ => false
  | .sleep _ => false
  | _ => true
theorem State.commitWait_status {s : State} {c cyc code d m : Nat} {x : Wait} (ho : x.out = some (code, d, m)) (hc : isTimeout code = false)
    (hk : x.kind.status = true) :
    (s.commitWait c cyc x none).2 = ((applyAll c x.guard cyc x.effs s).onCore c fun k => k.writeS x.st (statusWord code d m) x.guard).onCore c
      fun k => k.setCsr csrESCN 0 := by
  cases hx : x.kind <;> simp [WaitKind.status, hx] at hk <;> simp [State.commitWait, State.escalate, ho, hx, hc]
theorem State.commitWait_noStatus {s : State} {c cyc code d m : Nat} {x : Wait} (ho : x.out = some (code, d, m)) (hk : x.kind.status = false) :
    (s.commitWait c cyc x none).2 = applyAll c x.guard cyc x.effs s := by
  cases hx : x.kind <;> simp [WaitKind.status, hx] at hk <;> simp [State.commitWait, State.escalate, ho, hx]

/-- An operation of slot x that a commit has put in flight takes an entry of its engine's queue (R301). -/
def State.queued (s : State) (c x lo : Nat) : State := if 4 ≤ x then s.onCore c (Core.enqueue (x - 4) lo) else s
theorem State.queued_cores (s : State) (c x lo : Nat) : s.queued c x lo = { s with cores := (s.queued c x lo).cores } := by
  unfold State.queued; split <;> rfl
theorem State.queued_core (s : State) (c x lo : Nat) :
    (∃ l, (s.queued c x lo).core c = { s.core c with engq := l }) ∧ ∀ d, d ≠ c → (s.queued c x lo).core d = s.core d := by
  unfold State.queued Core.enqueue
  split
  · refine ⟨?_, fun d hd => by simp [hd]⟩
    rw [State.core_onCore, if_pos rfl]
    split <;> exact ⟨_, rfl⟩
  · exact ⟨⟨_, rfl⟩, fun _ _ => rfl⟩
/-- Nothing ends, yields, traps or returns where every effect is a plain one. -/
theorem plain_ends {es : List Eff} (h : ∀ e ∈ es, e.plain = true) :
    (∀ e : Eff, e.plain = false → es.contains e = false) ∧ es.findSome? Eff.trapCode = none := by
  refine ⟨fun e he => ?_, List.findSome?_eq_none_iff.2 fun e he => ?_⟩
  · rw [List.contains_eq_mem, decide_eq_false_iff_not]
    exact fun hm => absurd (h e hm) (by simp [he])
  · cases e with
    | trap n => exact absurd (h _ he) (by simp [Eff.plain])
    | _ => rfl
/-- A bundle that has waited with one wait commits: its slot's effects, then the wait's outcome. -/
theorem State.commitBundle_wait {s : State} {c g code d m : Nat} {w : Waiting} {x : Wait} {es : List Eff} (hw : w.waits = [x])
    (he : w.effs = [(x.slot, g, es)]) (hes : ∀ e ∈ es, e.plain = true) (ho : x.out = some (code, d, m)) (hc : isTimeout code = false) :
    ∃ lo, s.commitBundle c w =
      (((applyAll c g w.cyc es (s.claimed c w)).commitWait c w.cyc x none).2.queued c x.slot lo).onCore c (Core.settle w) := by
  refine ⟨((s.claimed c w).core c).ctl.seq, ?_⟩
  have hslot : (s.claimed c w).commitSlot c w ((s.claimed c w).settledBefore c w) (x.slot, g, es) none =
      (none, ((applyAll c g w.cyc es (s.claimed c w)).commitWait c w.cyc x none).2.queued c x.slot ((s.claimed c w).core c).ctl.seq) := by
    have hsettled : (s.claimed c w).settledBefore c w x.slot = [] := by simp [State.settledBefore, he]
    simp only [State.commitSlot, hsettled, State.afresh, List.isEmpty_nil, if_true, hw, List.filter_cons, List.filter_nil, beq_self_eq_true,
      List.foldl_cons, List.foldl_nil]
    rw [State.commitWait_quiet ho hc]
    rfl
  have hcl : s.claimed c w = (if w.waits.isEmpty then s else s.confirmClaims c w.undo).onRecords w.undoRec (Record.confirm c) := by
    simp [State.claimed, hw]
  obtain ⟨hno, htrap⟩ := plain_ends hes
  unfold State.commitBundle
  rw [← hcl]
  simp only [he, List.foldl_cons, List.foldl_nil, hslot, List.any_cons, List.any_nil, List.findSome?_cons, List.findSome?_nil, htrap,
    hno .endOp rfl, hno .yld rfl, hno .eret rfl, Bool.or_false, Bool.false_and, Bool.false_eq_true, if_false, Option.map_none]

end Sys2Proof.Machine
end

section
/-! SUPPORT. A core behind the commit of a bundle with one wait: what the commit leaves, whatever the wait was for (R77, R182, R186). -/
namespace Sys2Proof.Machine
open Sys2Proof.Claims

/-- Core c has committed the bundle of record `w`, in the machine `u` in which the bundle's effects have taken place: it goes to its next
bundle, and what its cycle, its re-issue words, its results and ESCN come to aside, nothing else has changed. -/
structure Finished (c : Nat) (w : Waiting) (u t : State) : Prop where
  rest : t = { u with cores := t.cores }
  others : ∀ d, d ≠ c → t.core d = u.core d
  pc : (t.core c).ctl.pc = w.next
  rep : (t.core c).ctl.rep = w.rep
  wait : (t.core c).ctl.wait = none
  mode : (t.core c).ctl.mode = (u.core c).ctl.mode
  nested : (t.core c).ctl.nested = (u.core c).ctl.nested
  csr : ∀ n, n ≠ csrESCN → (t.core c).csr n = (u.core c).csr n
  flying : ∀ f ∈ (u.core c).flights, ∃ g ∈ (t.core c).flights, g.what = f.what

/-- A commit's last step leaves the nested trap. -/
theorem Core.settle_nested (w : Waiting) (k : Core) : (Core.settle w k).ctl.nested = k.ctl.nested := by
  have hf : ∀ (l : List (Nat × Word × Nat)) (k : Core), (l.foldl (fun k x => k.setWord x.1 x.2.1 x.2.2) k).ctl = k.ctl := by
    intro l
    induction l with
    | nil => exact fun _ => rfl
    | cons e r ih => exact fun k => ih _
  simpa [Core.settle] using congrArg Ctl.nested (hf w.steps k)
/-- A later write to a scalar register takes nothing out of flight (R81). -/
theorem mem_killScalar {fs : List Flight} {f : Flight} (h : f ∈ fs) (d id : Nat) : ∃ g ∈ killScalar fs d id, g.what = f.what := by
  refine ⟨_, List.mem_map_of_mem h, ?_⟩
  (repeat' split) <;> rfl
theorem Core.flights_writeS (k : Core) (d : Nat) (v : Word) (g : Nat) : (k.writeS d v g).flights = killScalar k.flights d k.ctl.seq := by
  simp [Core.writeS]
theorem Core.ctl_writeS (k : Core) (d : Nat) (v : Word) (g : Nat) : (k.writeS d v g).ctl = k.ctl := by simp [Core.writeS]
theorem Core.csr_writeS (k : Core) (d : Nat) (v : Word) (g n : Nat) : (k.writeS d v g).csr n = k.csr n := by simp [Core.writeS, Core.csr]

/-- The last step of the commit of a bundle whose core its outcome has left in machine v. -/
theorem Finished.settle {c x lo : Nat} {w : Waiting} {u v : State} (hrest : v = { u with cores := v.cores })
    (hothers : ∀ d, d ≠ c → v.core d = u.core d) (hctl : (v.core c).ctl = (u.core c).ctl)
    (hcsr : ∀ n, n ≠ csrESCN → (v.core c).csr n = (u.core c).csr n)
    (hfly : ∀ f ∈ (u.core c).flights, ∃ g ∈ (v.core c).flights, g.what = f.what) :
    let t := (v.queued c x lo).onCore c (Core.settle w)
    Finished c w u t ∧ (∀ n, (t.core c).sreg n = (v.core c).sreg n ∧ (t.core c).stag n = (v.core c).stag n) ∧
      (t.core c).csr csrESCN = (v.core c).csr csrESCN := by
  intro t
  obtain ⟨⟨l, hl⟩, hd⟩ := v.queued_core c x lo
  have ht : t.core c = Core.settle w { v.core c with engq := l } := by rw [State.core_onCore, if_pos rfl, hl]
  obtain ⟨h1, h2, h3, h4, _, _, _, _, _, _, _, h5, _⟩ := Core.settle_spec w { v.core c with engq := l }
  have hq := v.queued_cores c x lo
  refine ⟨⟨?_, fun d hne => ?_, ?_, ?_, ?_, ?_, ?_, fun n hn => ?_, fun f hf => ?_⟩, fun n => ?_, ?_⟩
  · show State.onCore (v.queued c x lo) c (Core.settle w) = _
    simp only [t, State.onCore, State.setCore]
    rw [hq, hrest]
  · rw [State.core_onCore, if_neg hne, hd d hne, hothers d hne]
  · rw [ht, h1]
  · rw [ht, h2]
  · rw [ht, h3]
  · rw [ht, h4]; exact congrArg Ctl.mode hctl
  · rw [ht, Core.settle_nested]; exact congrArg Ctl.nested hctl
  · rw [ht, Core.settle_csr]; exact hcsr n hn
  · rw [ht, h5]; exact hfly f hf
  · rw [ht]; exact Core.settle_sreg w _ n
  · rw [ht, Core.settle_csr]; rfl

/-- A bundle that has waited with one wait of a status commits with an outcome that is no timeout (R9, R182, R185). -/
theorem commitBundle_status {s : State} {c g code d m : Nat} {w : Waiting} {x : Wait} {es : List Eff} (hw : w.waits = [x])
    (he : w.effs = [(x.slot, g, es)]) (hes : ∀ e ∈ es, e.plain = true) (ho : x.out = some (code, d, m)) (hc : isTimeout code = false)
    (hk : x.kind.status = true) :
    let u := applyAll c x.guard w.cyc x.effs (applyAll c g w.cyc es (s.claimed c w))
    let t := s.commitBundle c w
    Finished c w u t ∧ Holds (t.core c) x.st (statusWord code d m) x.guard ∧ ScalarKept [x.st] (u.core c) (t.core c) ∧
      (t.core c).csr csrESCN = 0 := by
  intro u t
  obtain ⟨lo, ht⟩ := State.commitBundle_wait hw he hes ho hc
  rw [State.commitWait_status ho hc hk] at ht
  have ht : t = _ := ht
  rw [ht]
  obtain ⟨hfin, hregs, hescn⟩ := Finished.settle (c := c) (x := x.slot) (lo := lo) (w := w) (u := u)
    (v := (u.onCore c fun k => k.writeS x.st (statusWord code d m) x.guard).onCore c fun k => k.setCsr csrESCN 0)
    rfl (fun d hd => by simp [hd]) (by simp [Core.ctl_writeS]) (fun n hn => by simp [hn, Core.csr_writeS])
    (fun f hf => by simpa [Core.flights_writeS] using mem_killScalar hf x.st (u.core c).ctl.seq)
  obtain ⟨hholds, hkept⟩ := (u.core c).writeS_holds x.st (statusWord code d m) x.guard
  have hv : ((u.onCore c fun k => k.writeS x.st (statusWord code d m) x.guard).onCore c fun k => k.setCsr csrESCN 0).core c =
      ((u.core c).writeS x.st (statusWord code d m) x.guard).setCsr csrESCN 0 := by simp
  rw [hv] at hregs hescn
  refine ⟨hfin, ?_, fun n hn => ?_, hescn.trans (by simp)⟩
  · unfold Holds at hholds ⊢
    rw [(hregs 0).1, (hregs 0).2, (hregs x.st).1, (hregs x.st).2]
    exact hholds
  · rw [(hregs n).1, (hregs n).2]
    exact hkept n hn
/-- A bundle that has waited with one wait that has no status commits (R198, R207). -/
theorem commitBundle_noStatus {s : State} {c g code d m : Nat} {w : Waiting} {x : Wait} {es : List Eff} (hw : w.waits = [x])
    (he : w.effs = [(x.slot, g, es)]) (hes : ∀ e ∈ es, e.plain = true) (ho : x.out = some (code, d, m)) (hc : isTimeout code = false)
    (hk : x.kind.status = false) :
    let u := applyAll c x.guard w.cyc x.effs (applyAll c g w.cyc es (s.claimed c w))
    let t := s.commitBundle c w
    Finished c w u t ∧ ScalarKept [] (u.core c) (t.core c) ∧ (t.core c).csr csrESCN = (u.core c).csr csrESCN := by
  intro u t
  obtain ⟨lo, ht⟩ := State.commitBundle_wait hw he hes ho hc
  rw [State.commitWait_noStatus ho hk] at ht
  have ht : t = _ := ht
  rw [ht]
  obtain ⟨hfin, hregs, hescn⟩ := Finished.settle (c := c) (x := x.slot) (lo := lo) (w := w) (u := u) (v := u)
    rfl (fun _ _ => rfl) rfl (fun _ _ => rfl) (fun f hf => ⟨f, hf, rfl⟩)
  exact ⟨hfin, fun n _ => hregs n, hescn⟩

/-- The cycle in which a waiting bundle commits counts as one of its waits (R359). -/
def Core.countWait (n : Nat) (k : Core) : Core := { k with ctl := { k.ctl with did := if k.ctl.did = 0 then n else k.ctl.did } }
/-- A core whose bundle waits with one wait: once the wait has an outcome the bundle commits, and before that the wait stands as it is. -/
theorem State.lookBundle_one {s u : State} {c : Nat} {look : State → Waiting → Wait → Wait × State} {w : Waiting} {x y : Wait}
    (hw : (s.core c).ctl.wait = some w) (hx : w.waits = [x]) (hl : look s w x = (y, u)) (hu : (u.core c).ctl.wait = some w) :
    s.lookBundle c look =
      if y.out.isSome then ((u.onCore c (Core.putWait 0 y)).onCore c (Core.countWait w.code)).commitBundle c { w with waits := [y] }
      else u.onCore c (Core.putWait 0 y) := by
  have hfold : w.waits.zipIdx.foldl (fun s x => (look s w x.1).2.onCore c (Core.putWait x.2 (look s w x.1).1)) s =
      u.onCore c (Core.putWait 0 y) := by simp [hx, hl]
  have hwait : ((u.onCore c (Core.putWait 0 y)).core c).ctl.wait = some { w with waits := [y] } := by
    simp [Core.putWait, hu, hx]
  unfold State.lookBundle
  simp only [hw, hfold, hwait, List.all_cons, List.all_nil, Bool.and_true]
  rfl

/-- Core k' is core k but for its waits and how its cycle counts. -/
def WaitOnly (k k' : Core) : Prop := k' = { k with ctl := { k.ctl with wait := k'.ctl.wait, did := k'.ctl.did } }
theorem State.putWait_core (u : State) (c n : Nat) (y : Wait) :
    WaitOnly (u.core c) (((u.onCore c (Core.putWait 0 y)).onCore c (Core.countWait n)).core c) := by
  simp [WaitOnly, Core.putWait, Core.countWait]

end Sys2Proof.Machine
end

section
/-! SUPPORT. Barriers: a phase completes, and a member resumes at its release time (R26, R201, R202, R272, R280). -/
namespace Sys2Proof.Machine
open Sys2Proof.Claims

/-! What a completion leaves of the machine. -/

/-- What the release times of a phase are made of stays: time, clusters, teams, barriers and the control of every core. -/
structure TimesKept (s t : State) : Prop where
  now : t.now = s.now
  clusters : t.clusters = s.clusters
  teams : t.teams = s.teams
  barriers : t.barriers = s.barriers
  ctl : ∀ c, (t.core c).ctl = (s.core c).ctl
theorem TimesKept.refl (s : State) : TimesKept s s := ⟨rfl, rfl, rfl, rfl, fun _ => rfl⟩
theorem TimesKept.trans {s t u : State} (h : TimesKept s t) (h' : TimesKept t u) : TimesKept s u :=
  ⟨h'.now.trans h.now, h'.clusters.trans h.clusters, h'.teams.trans h.teams, h'.barriers.trans h.barriers,
    fun c => (h'.ctl c).trans (h.ctl c)⟩
theorem TimesKept.foldl {α : Type} {f : State → α → State} (hf : ∀ s x, TimesKept s (f s x)) (l : List α) (s : State) :
    TimesKept s (l.foldl f s) := by
  induction l generalizing s with
  | nil => exact .refl s
  | cons x r ih => exact (hf s x).trans (ih _)
theorem State.homeWrite_timesKept (s : State) (cs : List (Nat × Byte)) : TimesKept s (s.homeWrite cs) := by
  unfold State.homeWrite
  split
  · exact .refl s
  · split
    · unfold State.apertureWrite
      refine .foldl (fun _ _ => ?_) _ s
      exact ⟨rfl, rfl, rfl, rfl, fun _ => rfl⟩
    · exact ⟨rfl, rfl, rfl, rfl, fun _ => rfl⟩
    · exact ⟨rfl, rfl, rfl, rfl, fun _ => rfl⟩
theorem State.l1Clean_timesKept (s : State) (c : Nat) (f : L1Line → Bool) : TimesKept s (s.l1Clean c f) := by
  have hfold := TimesKept.foldl (f := State.writeBack) (fun s x => s.homeWrite_timesKept x.dirtyCells)
    ((s.core c).l1.filter fun x => f x && x.dirty != 0) s
  refine ⟨hfold.now, hfold.clusters, hfold.teams, hfold.barriers, fun d => ?_⟩
  simp only [State.l1Clean, State.core_setCore]
  split
  · next hd => rw [hd]
  · exact hfold.ctl d
theorem TimesKept.releaseAt {s t : State} (h : TimesKept s t) (b : Barrier) (m : Nat × Nat) : t.releaseAt b m = s.releaseAt b m := by
  simp only [State.releaseAt, State.teamOf, State.team, State.cycleOf, State.cluster, h.now, h.clusters, h.teams, h.ctl]

/-- Parked teams that become ready change no barrier, and of a team nothing but that it is parked (R297). -/
theorem State.wakeParked_kept (s : State) : (∀ o, s.wakeParked.barrier o = s.barrier o) ∧ ∀ u, (s.wakeParked.team u).parity = (s.team u).parity := by
  have hfold : ∀ (l : List (Nat × Team)) (s : State) (f : State → Nat × Team → State),
      (∀ s e, (∀ o, (f s e).barrier o = s.barrier o) ∧ ∀ u, ((f s e).team u).parity = (s.team u).parity) →
      (∀ o, (l.foldl f s).barrier o = s.barrier o) ∧ ∀ u, ((l.foldl f s).team u).parity = (s.team u).parity := by
    intro l
    induction l with
    | nil => exact fun _ _ _ => ⟨fun _ => rfl, fun _ => rfl⟩
    | cons e r ih =>
      intro s f hf
      obtain ⟨h1, h2⟩ := ih (f s e) f hf
      exact ⟨fun o => (h1 o).trans ((hf s e).1 o), fun u => (h2 u).trans ((hf s e).2 u)⟩
  refine hfold _ s _ fun s e => ?_
  split
  · refine ⟨fun _ => rfl, fun u => ?_⟩
    show ((s.onTeam e.1 fun x => { x with parked := false }).team u).parity = _
    rw [State.team_onTeam]
    split
    · next h => rw [h]
    · rfl
  · exact ⟨fun _ => rfl, fun _ => rfl⟩
theorem State.flipParity_kept (s : State) (u : Nat) :
    (∀ o, (s.flipParity u).barrier o = s.barrier o) ∧ ((s.flipParity u).team u).parity = (s.team u).parity + 1 := by
  have hfold : ∀ (l : List Nat) (s : State),
      (l.foldl (fun s c => s.onCore c (Core.establish s.now)) s).barriers = s.barriers ∧
      (l.foldl (fun s c => s.onCore c (Core.establish s.now)) s).teams = s.teams := by
    intro l
    induction l with
    | nil => exact fun _ => ⟨rfl, rfl⟩
    | cons c r ih => exact fun s => ih (s.onCore c (Core.establish s.now))
  have hb : (s.flipParity u).barriers = s.barriers := (hfold _ _).1
  have ht : (s.flipParity u).teams = (s.onTeam u fun t => { t with parity := t.parity + 1 }).teams := (hfold _ _).2
  refine ⟨fun o => by simp only [State.barrier, hb], ?_⟩
  rw [State.team, ht]
  exact congrArg Team.parity ((State.team_onTeam ..).trans (if_pos rfl))

/-- The next phase of an object opens, with the release times of the members of `b` (R26, R201). -/
def State.openPhase (u : State) (o : Nat) (b : Barrier) : State :=
  let rel := b.members.map fun m => u.releaseAt b m
  u.onBarrier o fun x =>
    { x with phase := x.phase + 1, arrivals := [], lastDone := (u.cluster (o / 32)).cycle,
             release := (x.release.filter fun r => !(rel.any fun q => q.1 == r.1)) ++ rel }
theorem State.completePhase_eq (s : State) (o : Nat) :
    s.completePhase o =
      let u := ((s.barrier o).members.foldl (fun s m => s.l1Clean m.1 fun _ => true) s).openPhase o (s.barrier o)
      if (s.barrier o).owner = 0 then u
      else (u.flipParity ((s.barrier o).owner - 1)).onBarrier o fun b =>
        { b with reclaim := b.lastDone + (u.flipParity ((s.barrier o).owner - 1)).reclaimTime (b.owner - 1) } := rfl
/-- The object of a phase that has opened. -/
theorem State.openPhase_spec {s u : State} {o : Nat} (h : TimesKept s u) :
    let b := (u.openPhase o (s.barrier o)).barrier o
    b.phase = (s.barrier o).phase + 1 ∧ b.arrivals = [] ∧ b.members = (s.barrier o).members ∧
      ∀ m ∈ (s.barrier o).members, s.releaseAt (s.barrier o) m ∈ b.release := by
  have hb : u.barrier o = s.barrier o := by simp [State.barrier, h.barriers]
  have hrel : ∀ m ∈ (s.barrier o).members, s.releaseAt (s.barrier o) m ∈ (s.barrier o).members.map fun m => u.releaseAt (s.barrier o) m :=
    fun m hm => List.mem_map.2 ⟨m, hm, h.releaseAt _ m⟩
  have hopen : (u.openPhase o (s.barrier o)).barrier o = _ := (State.barrier_onBarrier ..).trans (if_pos rfl)
  rw [hopen, hb]
  exact ⟨rfl, rfl, rfl, fun m hm => List.mem_append.2 (.inr (hrel m hm))⟩
/-- The object of a phase that completes, and its team (R26, R201, R280). -/
theorem State.completePhase_spec (s : State) (o : Nat) :
    let b := (s.completePhase o).barrier o
    (b.phase = (s.barrier o).phase + 1 ∧ b.arrivals = [] ∧ b.members = (s.barrier o).members ∧
      ∀ m ∈ (s.barrier o).members, s.releaseAt (s.barrier o) m ∈ b.release) ∧
    ∀ u, (s.barrier o).owner = u + 1 → ((s.completePhase o).team u).parity = (s.team u).parity + 1 := by
  have hclean := TimesKept.foldl (f := fun (s : State) (m : Nat × Nat) => s.l1Clean m.1 fun _ => true)
    (fun s m => s.l1Clean_timesKept m.1 _) (s.barrier o).members s
  rw [State.completePhase_eq]
  generalize (s.barrier o).members.foldl (fun s m => s.l1Clean m.1 fun _ => true) s = u at *
  have hopen := State.openPhase_spec (o := o) hclean
  split
  · next h0 => exact ⟨hopen, fun v hv => by omega⟩
  · next h0 =>
    obtain ⟨hflip, hpar⟩ := (u.openPhase o (s.barrier o)).flipParity_kept ((s.barrier o).owner - 1)
    simp only [State.barrier_onBarrier, if_true, hflip]
    refine ⟨hopen, fun v hv => ?_⟩
    obtain rfl : (s.barrier o).owner - 1 = v := by omega
    have hteam : (u.openPhase o (s.barrier o)).team ((s.barrier o).owner - 1) = s.team ((s.barrier o).owner - 1) :=
      congrArg (fun T : Table Team => T.get {} ((s.barrier o).owner - 1)) hclean.teams
    exact hpar.trans (congrArg (fun x : Team => x.parity + 1) hteam)

/-- The first clauses of O43: a completion opens the next phase with its release times, and wakes what was parked. -/
theorem exec_barrierCompletion {o : Nat} {s : State} (h : s.phaseComplete o = true) :
    exec (.barrierCompletion o) s = .next (s.completePhase o).wakeParked := by
  show execBarrierCompletion o s = _
  simp [execBarrierCompletion, h]

/-! A member that resumes. -/

/-- A member's release time has come, as its wait tests it (R26). -/
theorem released_iff (s : State) (c o : Nat) :
    ((s.barrier o).release.any fun r => r.1 == c && decide (r.2.1 ≤ s.now) && decide (r.2.2 ≤ s.cycleOf c)) = true ↔ Released s c o := by
  simp [Released, and_assoc]
/-- The event of a member whose one wait is for a barrier. -/
theorem exec_memberResume {c o : Nat} {s : State} {w : Waiting} {x : Wait} (h : WaitsFor s c w x) (hk : x.kind = .bar o) :
    exec (.memberResume c) s =
      if ((s.barrier o).release.any fun r => r.1 == c && decide (r.2.1 ≤ s.now) && decide (r.2.2 ≤ s.cycleOf c)) = true then .next (s.pollGang c)
      else .next s := by
  obtain ⟨hwaits, hw, hx, _⟩ := h
  show execMemberResume c s = _
  simp only [execMemberResume, hw, hx, hk, hwaits, Option.any_some, List.any_cons, List.any_nil, Bool.or_false, Bool.true_and]

/-- With what a core stands trapped depends on its mode, its nested trap and its CSRs other than ESCN (R236). -/
theorem Core.trapId_eq {k k' : Core} (hmode : k'.ctl.mode = k.ctl.mode) (hnested : k'.ctl.nested = k.ctl.nested)
    (hcsr : ∀ n, n ≠ csrESCN → k'.csr n = k.csr n) : k'.trapId = k.trapId := by
  rw [Core.trapId, Core.handler, hmode, hnested, hcsr csrTSTAT (by decide), hcsr csrTCAUSE (by decide)]
  rfl
/-- What traps no core of a gang is the core's own affair (R237). -/
theorem State.inGang_of_noTrap {s : State} {c : Nat} {f : State → Nat → State} (h : ((f s c).core c).trapId = (s.core c).trapId) :
    s.inGang c f = f s c := by
  simp [State.inGang, newTrap, h]
/-- What a member's resume does: its core drops clean first-level lines and its object forgets its release (R26, R393). -/
theorem applyAll_resumed (v : State) (c g cyc o : Nat) :
    let u := applyAll c g cyc [.resumed, .forget o] v
    u.core c = { v.core c with l1 := (u.core c).l1 } ∧ ∀ r ∈ (u.barrier o).release, r.1 ≠ c := by
  have hcore : applyAll c g cyc [.resumed, .forget o] v =
      (v.l1DropClean c fun _ => true).onBarrier o fun b => { b with release := b.release.filter fun r => r.1 != c } := rfl
  simp only [hcore, State.core_onBarrier, State.barrier_onBarrier, if_true, List.mem_filter, bne_iff_ne]
  refine ⟨?_, fun r hr => hr.2⟩
  simp [State.l1DropClean]

/-- A waiting core whose release time has come resumes: its bundle commits and its object forgets it (R26, R202). -/
theorem pollBundle_resumes {s : State} {c o : Nat} {w : Waiting} {x : Wait} (h : WaitsFor s c w x) (hk : x.kind = .bar o)
    (hr : Released s c o) :
    let t := s.pollBundle c
    Commits c s t w x stOK 0 (s.barrier o).members.length ∧ (t.core c).csr csrESCN = 0 ∧ (¬∃ r ∈ (t.barrier o).release, r.1 = c) ∧
      (t.core c).trapId = (s.core c).trapId := by
  obtain ⟨_, hw, hx, heffs, hlen, hout⟩ := h
  obtain ⟨⟨slot, g, es⟩, he⟩ := List.length_eq_one_iff.1 hlen
  obtain ⟨rfl, rfl⟩ : es = [] ∧ slot = x.slot := heffs (slot, g, es) (he ▸ List.mem_singleton.2 rfl)
  let y := x.done stOK 0 (s.barrier o).members.length [.resumed, .forget o]
  have hpoll : s.pollWait c x = (y, s) := by
    simp only [State.pollWait, hout, hk, Option.isSome_none, Bool.false_eq_true, if_false]
    rw [if_pos ((released_iff s c o).2 hr)]
  have hlook := State.lookBundle_one (look := fun s _ x => s.pollWait c x) hw hx hpoll hw
  let v := (s.onCore c (Core.putWait 0 y)).onCore c (Core.countWait w.code)
  have hv : WaitOnly (s.core c) (v.core c) := s.putWait_core c w.code y
  have ht : s.pollBundle c = v.commitBundle c { w with waits := [y] } := hlook.trans (if_pos rfl)
  obtain ⟨hfin, hholds, hkept, hescn⟩ := commitBundle_status (s := v) (c := c) (g := g) (w := { w with waits := [y] }) (x := y)
    rfl he (by simp) rfl rfl (by simp [y, Wait.done, hk, WaitKind.status])
  rw [← ht] at hfin hholds hkept hescn
  set cl := v.claimed c { w with waits := [y] } with hcldef
  have hcl : cl.core c = v.core c := by rw [hcldef, State.claimed_claimsOnly v c { w with waits := [y] }]; rfl
  obtain ⟨hcore, hforget⟩ := applyAll_resumed cl c y.guard w.cyc o
  set u := applyAll c y.guard w.cyc [.resumed, .forget o] cl
  rw [hcl] at hcore
  have hcsr : ∀ n, (u.core c).csr n = (s.core c).csr n := fun n => by rw [hcore, hv]; rfl
  refine ⟨⟨hfin.pc, hfin.rep, hfin.wait, hholds, fun n hn => ?_⟩, hescn, ?_, Core.trapId_eq ?_ ?_ fun n hn => ?_⟩
  · rw [(hkept n hn).1, (hkept n hn).2]
    show (u.core c).sreg n = _ ∧ (u.core c).stag n = _
    rw [hcore, hv]
    exact ⟨rfl, rfl⟩
  · rintro ⟨r, hr, hrc⟩
    refine hforget r ?_ hrc
    rw [hfin.rest] at hr
    exact hr
  · rw [hfin.mode]
    show (u.core c).ctl.mode = _
    rw [hcore, hv]
  · rw [hfin.nested]
    show (u.core c).ctl.nested = _
    rw [hcore, hv]
  · exact (hfin.csr n hn).trans (hcsr n)

/-- Settles O43: a phase that completes opens the next with its members' release times, and a released member's bundle commits. -/
theorem barrierPhases : Obligations.BarrierPhases := by
  refine ⟨fun o s h => ⟨_, exec_barrierCompletion h, ?_⟩, fun o s h => ?_, fun c s w x o h hk hr => ?_, fun c s w x o h hk hr => ?_⟩
  · obtain ⟨⟨hphase, harr, hmem, hrel⟩, hpar⟩ := s.completePhase_spec o
    obtain ⟨hbar, hteam⟩ := (s.completePhase o).wakeParked_kept
    rw [hbar o]
    exact ⟨hphase, harr, hmem, hrel, fun u hu => (hteam u).trans (hpar u hu)⟩
  · show execBarrierCompletion o s = _
    simp [execBarrierCompletion, h]
  · obtain ⟨hcommits, hescn, hforget, htrap⟩ := pollBundle_resumes h hk hr
    refine ⟨s.pollBundle c, ?_, hcommits, hescn, hforget⟩
    rw [exec_memberResume h hk, if_pos ((released_iff s c o).2 hr), State.pollGang, State.inGang_of_noTrap htrap]
  · rw [exec_memberResume h hk, if_neg (mt (released_iff s c o).1 hr)]

end Sys2Proof.Machine
end

section
/-! SUPPORT. What the supervisor and the loader leave alone when they write memory: page tables, frames and sections (R257, R266, R354). -/
namespace Sys2Proof.Machine
open Sys2Proof.Claims

/-- Machine t is machine s but for its memory, the slices' lines of host memory, and the frames that are taken. -/
def MemOnly (s t : State) : Prop := t = { s with mem := t.mem, hostLines := t.hostLines, frames := t.frames }
theorem MemOnly.refl (s : State) : MemOnly s s := rfl
theorem MemOnly.trans {s t u : State} (h : MemOnly s t) (h' : MemOnly t u) : MemOnly s u := by
  unfold MemOnly at *; rw [h', h]
theorem MemOnly.foldl {α : Type} {f : State → α → State} (hf : ∀ s x, MemOnly s (f s x)) (l : List α) (s : State) :
    MemOnly s (l.foldl f s) := by
  induction l generalizing s with
  | nil => exact .refl s
  | cons x r ih => exact (hf s x).trans (ih _)
theorem MemOnly.queue {s t : State} (h : MemOnly s t) (q : Nat) : t.queue q = s.queue q := by rw [h]; rfl
theorem MemOnly.folios {s t : State} (h : MemOnly s t) : t.folios = s.folios := by rw [h]

theorem State.apertureWrite_memOnly (s : State) (cs : List (Nat × Byte)) : MemOnly s (s.apertureWrite cs) := by
  unfold State.apertureWrite
  refine .foldl (fun u r => ?_) _ s
  rfl
theorem State.homeWrite_memOnly (s : State) (cs : List (Nat × Byte)) : MemOnly s (s.homeWrite cs) := by
  unfold State.homeWrite
  split
  · rfl
  · split
    · exact s.apertureWrite_memOnly _
    · rfl
    · rfl
theorem State.homeWriteAll_memOnly (s : State) (cs : List (Nat × Byte)) : MemOnly s (s.homeWriteAll cs) :=
  ((s.apertureWrite_memOnly _).trans (State.homeWrite_memOnly ..)).trans (State.homeWrite_memOnly ..)
theorem State.sysWrite_memOnly (s : State) (ctx va : Nat) (bs : List Byte) : MemOnly s ((s.sysWrite ctx va bs).getD s) := by
  cases h : s.sysCells ctx va bs with
  | none => simp [State.sysWrite, h, MemOnly.refl]
  | some cs => simpa [State.sysWrite, h] using s.homeWriteAll_memOnly cs
theorem State.mapFrom_memOnly (va pte fuel lvl base : Nat) (s : State) : MemOnly s (s.mapFrom va pte fuel lvl base) := by
  induction fuel generalizing s lvl base with
  | zero => rfl
  | succ n ih =>
    simp only [State.mapFrom]
    split
    · rfl
    · split
      · split
        · rfl
        · exact ih _ _ s
      · exact MemOnly.trans (s := s) (t := s.takeFrame.2.write8 _ _) rfl (ih _ _ _)
theorem State.mapPage_memOnly (s : State) (ctx va pte : Nat) : MemOnly s (s.mapPage ctx va pte) := by
  unfold State.mapPage
  simp only []
  split
  · exact State.mapFrom_memOnly ..
  · rfl
theorem State.mapBytes_memOnly (s : State) (ctx va : Nat) (bs : List Byte) (text cold : Bool) : MemOnly s (s.mapBytes ctx va bs text cold) := by
  refine .foldl (fun s p => ?_) _ s
  simp only []
  split
  · exact State.mapPage_memOnly ..
  · have htake : ∀ m, MemOnly s { s.takeFrame.2 with mem := m } := fun _ => rfl
    exact (htake _).trans (State.mapPage_memOnly ..)

end Sys2Proof.Machine
end

section
/-! SUPPORT. Grids: teams that are added, instants that close, and launches (R22, R31, R288, R296, R300). -/
namespace Sys2Proof.Machine
open Sys2Proof.Claims

/-! A team is added to a grid. -/

/-- The number that the next team of a grid gets (R22). -/
def State.nextTeam (s : State) (g : Nat) : Nat := g * 65536 + (s.grid g).created
/-- A team as the grid that creates it has it. -/
def Team.createdIn (x : Team) (g i : Nat) : Team := { x with mode := .waiting, grid := g, index := i }
theorem State.addTeam_spec (s : State) (g : Nat) (x : Team) :
    (s.addTeam g x).grid g = { s.grid g with created := (s.grid g).created + 1 } ∧
    (∀ v, (s.addTeam g x).team v = if v = s.nextTeam g then x.createdIn g (s.grid g).created else s.team v) ∧
    s.nextTeam g ∈ (s.addTeam g x).residency ∧ (∀ v ∈ s.residency, v ∈ (s.addTeam g x).residency) ∧
    ∀ q, (s.addTeam g x).queue q = s.queue q := by
  have hq : ∀ v, v ∈ (s.addTeam g x).residency ↔ v = s.nextTeam g ∨ v ∈ s.residency := fun v => by
    have hsplit : ∀ p : Nat → Bool, v ∈ s.residency.takeWhile p ∨ v ∈ s.residency.dropWhile p ↔ v ∈ s.residency := fun p => by
      rw [← List.mem_append, List.takeWhile_append_dropWhile]
    simp only [State.addTeam, State.enqueueTeam]
    split
    · simp [or_comm, State.nextTeam]
    · rw [← hsplit]
      simp only [List.mem_append, List.mem_cons, State.nextTeam]
      exact or_left_comm
  refine ⟨?_, fun v => ?_, (hq _).2 (.inl rfl), fun v hv => (hq v).2 (.inr hv), fun q => rfl⟩
  · show ((s.setTeam (s.nextTeam g) (x.createdIn g (s.grid g).created)).onGrid g fun y => { y with created := y.created + 1 }).grid g = _
    simp
  · show (s.setTeam (s.nextTeam g) (x.createdIn g (s.grid g).created)).team v = _
    simp
/-- The first n teams of a launch are added in the order of their indices (R22). -/
theorem State.addTeams_spec (s : State) (g : Nat) (x : Nat → Team) (n : Nat) :
    let t := (List.range n).foldl (fun s i => s.addTeam g (x i)) s
    t.grid g = { s.grid g with created := (s.grid g).created + n } ∧
    (∀ j < n, t.team (s.nextTeam g + j) = (x j).createdIn g ((s.grid g).created + j) ∧ s.nextTeam g + j ∈ t.residency) ∧
    ∀ q, t.queue q = s.queue q := by
  induction n with
  | zero => exact ⟨rfl, fun j hj => absurd hj (Nat.not_lt_zero j), fun _ => rfl⟩
  | succ n ih =>
    simp only [List.range_succ, List.foldl_append, List.foldl_cons, List.foldl_nil] at ih ⊢
    set u := (List.range n).foldl (fun s i => s.addTeam g (x i)) s
    obtain ⟨hgrid, hteams, hqueue⟩ := ih
    obtain ⟨h1, h2, h3, h4, h5⟩ := u.addTeam_spec g (x n)
    have hnext : u.nextTeam g = s.nextTeam g + n := by simp only [State.nextTeam, hgrid, Nat.add_assoc]
    refine ⟨by rw [h1, hgrid]; rfl, fun j hj => ?_, fun q => (h5 q).trans (hqueue q)⟩
    rw [h2, hnext]
    rcases Nat.lt_succ_iff_lt_or_eq.1 hj with hlt | rfl
    · rw [if_neg (by omega)]
      exact ⟨(hteams j hlt).1, h4 _ (hteams j hlt).2⟩
    · rw [if_pos rfl, hgrid]
      exact ⟨rfl, hnext ▸ h3⟩

/-! An instant closes. -/

/-- With no record of an instant, nothing is consumed (R300). -/
theorem State.consumeAll_nil {s : State} {g : Nat} (h : (s.grid g).posts = []) (n fuel : Nat) : s.consumeAll g n fuel = s := by
  cases fuel <;> simp [State.consumeAll, h, firstPost]
/-- An instant without records closes (R31). -/
theorem exec_instantClose_empty {g : Nat} {s : State} (ha : (s.grid g).alive = true) (hp : (s.grid g).posts = [])
    (h : ∀ e ∈ gridTeams s g, s.passed e.2 (s.grid g).closed = true) :
    exec (.instantClose g) s = .next (s.onGrid g fun y => { y with closed := (s.grid g).closed + 1 }) := by
  show execInstantClose g s = _
  simp only [execInstantClose, hp, ha, Bool.true_and]
  rw [if_pos (List.all_eq_true.2 h), State.consumeAll_nil hp]
/-- An instant with one record consumes it and closes (R300). -/
theorem exec_instantClose_one {g : Nat} {s : State} {p : Post} (ha : (s.grid g).alive = true) (hp : (s.grid g).posts = [p])
    (hc : (s.grid g).closed ≤ p.instant) (h : ∀ e ∈ gridTeams s g, s.passed e.2 p.instant = true)
    (hleft : ((s.consumePost g p).grid g).posts = []) :
    exec (.instantClose g) s = .next ((s.consumePost g p).onGrid g fun y => { y with closed := p.instant + 1 }) := by
  show execInstantClose g s = _
  have hall : s.consumeAll g p.instant 2 = s.consumePost g p := by
    rw [State.consumeAll]
    simp [hp, firstPost, State.consumeAll_nil hleft]
  simp only [execInstantClose, hp, ha, Bool.true_and, List.foldl_nil, Nat.max_eq_right hc]
  rw [if_pos (List.all_eq_true.2 h)]
  exact congrArg (fun u : State => Host.Outcome.next (u.onGrid g _)) hall
/-- A record creates a team (R288, R300). -/
def Post.valid (p : Post) (cores : Nat) : Prop :=
  bit p.entry 31 = false ∧ bit p.entry 27 = false ∧ bit p.entry 23 = false ∧ bits p.entry 26 24 ≤ 4 ∧ bits p.entry 22 16 ≠ 0 ∧
  bits p.entry 22 16 ≤ 64 ∧ bits p.entry 22 16 % 2 ^ bits p.entry 26 24 = 0 ∧ bits p.entry 22 16 ≤ cores
/-- The team that a record creates. -/
def Post.team (p : Post) (entry : Nat) : Team :=
  { size := bits p.entry 22 16, gang := 2 ^ bits p.entry 26 24, skew := bits p.entry 30 28, entry := entry, ic0 := p.instant + 1,
    block := p.block, tail := true }
theorem State.consumePost_valid {s : State} {g : Nat} {p : Post} {f : Folio} {y : Symbol} (hf : assoc s.folios (s.grid g).folio = some f)
    (hy : f.entries[bits p.entry 15 0]? = some y) (hv : p.valid (regionCores s (s.grid g).rcb)) :
    s.consumePost g p = (s.onGrid g fun y => { y with posts := y.posts.erase p }).addTeam g (p.team y.va) := by
  obtain ⟨h1, h2, h3, h4, h5, h6, h7, h8⟩ := hv
  have hcores : regionCores (s.onGrid g fun y => { y with posts := y.posts.erase p })
      ((s.onGrid g fun y => { y with posts := y.posts.erase p }).grid g).rcb = regionCores s (s.grid g).rcb := by
    rw [State.grid_onGrid, if_pos rfl]
    rfl
  have hbad : ¬(4 < bits p.entry 26 24 ∨ bits p.entry 22 16 = 0 ∨ 64 < bits p.entry 22 16 ∨
      bits p.entry 22 16 % 2 ^ bits p.entry 26 24 ≠ 0 ∨ regionCores s (s.grid g).rcb < bits p.entry 22 16) := by omega
  simp only [State.consumePost, hf, hy, Option.bind_some, Option.map_some, h1, h2, h3, Bool.false_or, hcores, hbad, decide_false,
    Bool.false_eq_true, if_false]
  rfl

/-! A launch. -/

/-- A launch whose folio has no lists of channels, barriers and reductions creates its grid (R22, R287). -/
theorem exec_launch {q : Nat} {s : State} {r : Running} {f : Folio} {e : Symbol} (hr : s.running q 1 = some r) (hg : r.grid = none)
    (hb : s.boundariesFor q = []) (hf : assoc s.folios (bits (cmdBody r.words 0) 31 0) = some f)
    (he : f.entries[bits (cmdBody r.words 0) 63 48]? = some e) (hctx : f.ctx = (s.queue q).ctx) (hsince : ∃ m, f.since = some m ∧ m ≤ r.order)
    (hn : bits (cmdBody r.words 1) 22 16 ≤ regionCores s (s.queue q).rcb)
    (hc : s.chanList f (bits (cmdBody r.words 1) 15 0 + 1) (bits (cmdBody r.words 1) 22 16) = some [])
    (hbar : s.barList f (bits (cmdBody r.words 1) 15 0 + 1) (bits (cmdBody r.words 1) 22 16) (regionClusters s (s.queue q).rcb) = some [])
    (hred : s.redList f (bits (cmdBody r.words 1) 15 0 + 1) (bits (cmdBody r.words 1) 22 16) = some []) :
    exec (.launch q) s = .next (s.createGrid q r f e.va [] [] []) := by
  obtain ⟨m, hm, hle⟩ := hsince
  show execLaunch q s = _
  have hchan : ∀ cls, s.chanHeld cls [] = false := fun cls => by simp [State.chanHeld]
  simp only [execLaunch, hr, hg, hb, hf, he, hctx, hm, hc, hbar, hred, hchan, hle, Nat.not_lt.2 hn, State.nodesShort]
  simp
/-- A launch that names no folio is refused (R287). -/
theorem exec_launch_noFolio {q : Nat} {s : State} {r : Running} (hr : s.running q 1 = some r) (hg : r.grid = none)
    (hb : s.boundariesFor q = []) (hf : assoc s.folios (bits (cmdBody r.words 0) 31 0) = none) :
    exec (.launch q) s = .next (s.finish q 1 2 0) := by
  show execLaunch q s = _
  simp [execLaunch, hr, hg, hb, hf]

end Sys2Proof.Machine
end

section
/-! SUPPORT. What a launch creates, and folios that the loader takes, refuses and unloads (R22, R288, R352-R354). -/
namespace Sys2Proof.Machine
open Sys2Proof.Claims

/-! The grid of a launch. -/

/-- The grid that a launch opens, before its teams (R22, R288). -/
def Running.grid0 (r : Running) (x : Queue) (q : Nat) (f : Folio) : Grid :=
  { alive := true, queue := q, ctx := x.ctx, folio := bits (cmdBody r.words 0) 31 0, strict := f.strict, rcb := x.rcb,
    result := cmdBody r.words 4, rlen := cmdBody r.words 5, start := r.start, order := r.order }
/-- The machine in which a launch without lists has opened its grid, before its teams (R13, R354, R364). -/
def State.opened (s : State) (q : Nat) (r : Running) (f : Folio) : State :=
  let cls := regionClusters s (s.queue q).rcb
  let s := cls.foldl (fun s cl => s.onCluster cl fun c => { c with drpk := 0 }) (s.onGrid s.freeGrid fun _ => r.grid0 (s.queue q) q f)
  let u := if f.routines.isEmpty then s else cls.foldl (fun s cl => s.installIn cl (bits (cmdBody r.words 0) 31 0) f) s
  u
/-- An initial team of a launch (R288). -/
def Running.team (r : Running) (f : Folio) (pc i : Nat) : Team :=
  let b := cmdBody r.words
  { size := bits (b 1) 22 16, gang := 2 ^ bits (b 1) 26 24, skew := bits (b 1) 30 28, entry := pc, ic0 := bits (b 1) 63 48,
    period := bits (b 1) 47 32, block := f.launch, args := if b 2 = 0 then 0 else b 2 + i * b 3, die := none }
theorem State.createGrid_nil (s : State) (q : Nat) (r : Running) (f : Folio) (pc : Nat) :
    s.createGrid q r f pc [] [] [] =
      ((List.range (bits (cmdBody r.words 1) 15 0 + 1)).foldl (fun u i => u.addTeam s.freeGrid (r.team f pc i))
        ((s.opened q r f).clearLatches s.freeGrid (regionClusters s (s.queue q).rcb))).onQueue q
        fun x => { x with run := some { r with grid := some s.freeGrid } } := rfl
/-- Clusters and cores that a launch sets up leave the grids and the queues (R354, R364). -/
theorem State.foldl_onCluster_keeps (f : Cluster → Cluster) (l : List Nat) (s : State) :
    (l.foldl (fun s cl => s.onCluster cl f) s).grids = s.grids ∧ (l.foldl (fun s cl => s.onCluster cl f) s).queues = s.queues :=
  ⟨List.foldl_keeps State.grids _ (by intros; rfl) _ _, List.foldl_keeps State.queues _ (by intros; rfl) _ _⟩
theorem State.foldl_onCore_keeps {α : Type} (g : α → Nat) (f : α → Core → Core) (l : List α) (s : State) :
    (l.foldl (fun t x => t.onCore (g x) (f x)) s).grids = s.grids ∧ (l.foldl (fun t x => t.onCore (g x) (f x)) s).queues = s.queues :=
  ⟨List.foldl_keeps State.grids _ (by intros; rfl) _ _, List.foldl_keeps State.queues _ (by intros; rfl) _ _⟩
theorem State.installIn_keeps (s : State) (cl h : Nat) (f : Folio) :
    (s.installIn cl h f).grids = s.grids ∧ (s.installIn cl h f).queues = s.queues := by
  obtain ⟨hgrids, hqueues⟩ := State.foldl_onCore_keeps (fun i => cl * 64 + i) (fun _ => f.install) (List.range 64) s
  unfold State.installIn
  simp only []
  rw [hgrids, hqueues]
  exact ⟨rfl, rfl⟩
theorem State.opened_keeps (s : State) (q : Nat) (r : Running) (f : Folio) :
    (s.opened q r f).grid s.freeGrid = r.grid0 (s.queue q) q f ∧ (s.opened q r f).queues = s.queues := by
  obtain ⟨hg, hq⟩ := State.foldl_onCluster_keeps (fun c => { c with drpk := 0 }) (regionClusters s (s.queue q).rcb)
    (s.onGrid s.freeGrid fun _ => r.grid0 (s.queue q) q f)
  have hkeeps : (s.opened q r f).grids = (s.onGrid s.freeGrid fun _ => r.grid0 (s.queue q) q f).grids ∧ (s.opened q r f).queues = s.queues := by
    unfold State.opened
    simp only []
    split
    · exact ⟨hg, hq⟩
    · exact ⟨(List.foldl_keeps State.grids _ (fun u cl => (u.installIn_keeps cl _ f).1) _ _).trans hg,
        (List.foldl_keeps State.queues _ (fun u cl => (u.installIn_keeps cl _ f).2) _ _).trans hq⟩
  refine ⟨?_, hkeeps.2⟩
  rw [State.grid, hkeeps.1]
  exact (State.grid_onGrid ..).trans (if_pos rfl)
/-- A launch without lists: its grid, its teams and its queue (R22, R288). -/
theorem State.createGrid_spec (s : State) (q : Nat) (r : Running) (f : Folio) (pc : Nat) :
    let t := s.createGrid q r f pc [] [] []
    let g := s.freeGrid
    let teams := bits (cmdBody r.words 1) 15 0 + 1
    (t.queue q).run = some { r with grid := some g } ∧ t.grid g = { r.grid0 (s.queue q) q f with created := teams } ∧
    ∀ j < teams, t.team (g * 65536 + j) = (r.team f pc j).createdIn g j ∧ g * 65536 + j ∈ t.residency := by
  intro t g teams
  have ht : t = _ := s.createGrid_nil q r f pc
  rw [ht]
  set u := (s.opened q r f).clearLatches s.freeGrid (regionClusters s (s.queue q).rcb)
  have hgrid : u.grid g = r.grid0 (s.queue q) q f := (s.opened_keeps q r f).1
  obtain ⟨h1, h2, -⟩ := u.addTeams_spec g (r.team f pc) teams
  have hzero : (u.grid g).created = 0 := by rw [hgrid]; rfl
  simp only [State.nextTeam, hzero, Nat.add_zero, Nat.zero_add] at h1 h2
  refine ⟨by rw [State.queue_onQueue, if_pos rfl], ?_, h2⟩
  rw [hgrid] at h1
  exact h1

/-! Folios. -/

/-- A running command's outcome is noted in its queue (R283). -/
theorem State.finish_spec (s : State) (q status detail val : Nat) :
    ((s.finish q status detail val).queue q).run =
      (s.queue q).run.map fun r => { r with fin := true, status := status, detail := detail, value := val } := by
  simp [State.finish]
/-- The outcome of a command whose effects have left its queue alone. -/
theorem finishes_of {i : Instr} {s u : State} {q status detail val : Nat} {p : State → Prop} (hx : exec i s = .next (u.finish q status detail val))
    (hq : u.queue q = s.queue q) (hp : p (u.finish q status detail val)) : Finishes i s q status detail val p :=
  ⟨_, hx, hp, by rw [State.finish_spec, hq]⟩

/-- A number from 1 to one more than the folios that none of them holds (log 9). -/
theorem State.freeHandle_free (s : State) : assoc s.folios s.freeHandle = none := by
  have hex : ∃ i ∈ List.range (s.folios.length + 1), (assoc s.folios (i + 1)).isNone = true := by
    by_contra hall
    have hkeys : (List.range (s.folios.length + 1)).map (· + 1) ⊆ s.folios.map Prod.fst := fun n hn => by
      obtain ⟨i, hi, rfl⟩ := List.mem_map.1 hn
      have hsome : (assoc s.folios (i + 1)).isSome = true := by
        have := fun h => hall ⟨i, hi, h⟩
        cases h : assoc s.folios (i + 1) with
        | none => simp [h] at this
        | some f => rfl
      obtain ⟨x, hx⟩ := Option.isSome_iff_exists.1 (Option.isSome_map.symm.trans hsome)
      exact List.mem_map.2 ⟨x, List.mem_of_find?_eq_some hx, by simpa using List.find?_some hx⟩
    have hnodup : ((List.range (s.folios.length + 1)).map (· + 1)).Nodup := List.nodup_range.map (add_left_injective 1)
    have hlen := (hnodup.subperm hkeys).length_le
    simp at hlen
  obtain ⟨i, hi⟩ := Option.isSome_iff_exists.1 (List.find?_isSome.2 hex)
  have hi' := List.find?_some hi
  rw [State.freeHandle, hi]
  exact Option.isNone_iff_eq_none.1 hi'
theorem assoc_append_self {α : Type} (l : List (Nat × α)) (h : Nat) (x : α) : (assoc (l ++ [(h, x)]) h).isSome = true := by
  simp [assoc]
theorem assoc_assocDel {α : Type} (l : List (Nat × α)) (h : Nat) : assoc (assocDel l h) h = none := by
  simp [assoc, assocDel]

/-- The machine in which the loader has mapped a folio's sections (R354). -/
theorem State.mapFolio_memOnly (s : State) (h ctx first rcb : Nat) (f : List Byte) : MemOnly s (s.mapFolio h ctx first rcb f).2 :=
  (State.mapBytes_memOnly ..).trans (.foldl (fun _ _ => State.mapBytes_memOnly ..) _ _)
/-- A folio that is loaded gets a handle that no folio holds, and leaves the queues alone (R352, R354). -/
theorem State.load_spec {s u : State} {q ctx h : Nat} {bs : List Byte} (hl : s.load q ctx bs = .ok (h, u)) :
    assoc s.folios h = none ∧ (assoc u.folios h).isSome = true ∧ ∀ q, u.queue q = s.queue q := by
  unfold State.load at hl
  simp only [] at hl
  split at hl
  · cases hl
  · have hmap := s.mapFolio_memOnly s.freeHandle ctx ((s.storeRange ctx ((((folioRoutines bs).getD []).map fun r => r.steps.length).sum)).getD 0)
      (s.queue q).rcb bs
    split at hl
    · cases hl
    · split at hl
      · cases hl
      · next t hreg =>
        split at hl
        · cases hl
        · cases hl
          unfold State.register at hreg
          simp only [] at hreg
          split at hreg
          · cases hreg
            exact ⟨s.freeHandle_free, assoc_append_self .., hmap.queue⟩
          · cases hreg
theorem State.load_refused {s : State} {q ctx e : Nat} {bs : List Byte} (he : s.refusal ctx bs = some e) : s.load q ctx bs = .error e := by
  unfold State.load
  split
  · next e' h => rw [he] at h; cases h; rfl
  · next h => rw [he] at h; cases h
theorem State.writeLeafVas_memOnly (s : State) (ctx a h : Nat) (f : List Byte) : MemOnly s (s.writeLeafVas ctx a h f) :=
  .foldl (fun _ _ => State.sysWrite_memOnly ..) _ s
/-- A folio that is unloaded is no longer listed, and the queues stay (R354). -/
theorem State.unload_spec (s : State) (h : Nat) (f : Folio) : assoc (s.unload h f).folios h = none ∧ ∀ q, (s.unload h f).queue q = s.queue q := by
  have hmap : MemOnly s (f.pages.foldl (fun s p => (List.range p.2).foldl (fun (s : State) i => s.mapPage f.ctx (p.1 + 65536 * i) 0) s) s) :=
    .foldl (fun _ _ => .foldl (fun _ _ => State.mapPage_memOnly ..) _ _) _ s
  refine ⟨assoc_assocDel .., fun q => Eq.trans ?_ (hmap.queue q)⟩
  exact congrArg (fun T : Table Queue => T.get {} q) (State.foldl_onCore_keeps id ..).2

/-- A load of a folio that begins in its turn (R352, R353). -/
theorem exec_loadFolio {q : Nat} {s : State} {r : Running} {bs : List Byte} (hr : s.running q 5 = some r)
    (hb : bit (cmdBody r.words 2) 8 = false) (hread : s.sysRead (s.queue q).ctx (cmdBody r.words 0) (cmdBody r.words 1) = some bs)
    (hbefore : s.loadsBefore q = false) :
    exec (.loadFolio q) s = match s.load q (bits (cmdBody r.words 2) 7 0) bs with
      | .error e => .next (s.finish q 1 4 e)
      | .ok (h, t) => .next ((t.writeLeafVas (s.queue q).ctx (cmdBody r.words 0) h bs).finish q 0 0 h) := by
  show execLoadFolio q s = _
  simp only [execLoadFolio, hr, hb, hread, hbefore, Bool.or_false, Bool.false_eq_true, if_false] <;> rfl
/-- Loads and unloads wait for those of their context that were started earlier (R353). -/
theorem exec_loads_wait {q : Nat} {s : State} (h : s.loadsBefore q = true) :
    exec (.loadFolio q) s = .next s ∧ exec (.unloadFolio q) s = .next s := by
  constructor
  · show execLoadFolio q s = _
    unfold execLoadFolio
    split
    · rfl
    · rw [h, Bool.or_true, if_pos rfl]
  · show execUnloadFolio q s = _
    unfold execUnloadFolio
    split
    · rfl
    · rw [h, Bool.or_true, if_pos rfl]
/-- An unload of a folio of the queue's context that begins in its turn (R352, R354). -/
theorem exec_unloadFolio {q : Nat} {s : State} {r : Running} {f : Folio} (hr : s.running q 5 = some r)
    (hb : bit (cmdBody r.words 2) 8 = true) (hf : assoc s.folios (cmdBody r.words 3) = some f)
    (hctx : f.ctx = bits (cmdBody r.words 2) 7 0) (hbefore : s.loadsBefore q = false) :
    exec (.unloadFolio q) s = if s.folioBusy (cmdBody r.words 3) = true then .next (s.finish q 1 4 10)
      else .next ((s.unload (cmdBody r.words 3) f).finish q 0 0 (cmdBody r.words 3)) := by
  show execUnloadFolio q s = _
  simp only [execUnloadFolio, hr, hb, hf, hctx, hbefore, Bool.not_true, Bool.or_false, Bool.false_eq_true, if_false, ne_eq, not_true]

/-- An instant with one valid record closes, and its team waits to start in the next instant (R288, R300). -/
theorem instantClose_createsTeam {g : Nat} {s : State} {p : Post} {f : Folio} {y : Symbol} (ha : (s.grid g).alive = true)
    (hp : (s.grid g).posts = [p]) (hc : (s.grid g).closed ≤ p.instant) (hf : assoc s.folios (s.grid g).folio = some f)
    (hy : f.entries[bits p.entry 15 0]? = some y) (h : ∀ e ∈ gridTeams s g, s.passed e.2 p.instant = true)
    (hv : p.valid (regionCores s (s.grid g).rcb)) :
    let u := g * 65536 + (s.grid g).created
    ∃ t, exec (.instantClose g) s = .next t ∧
      t.grid g = { s.grid g with posts := [], created := (s.grid g).created + 1, closed := p.instant + 1 } ∧
      t.team u = (p.team y.va).createdIn g (s.grid g).created ∧ u ∈ t.residency := by
  intro u
  obtain ⟨hgrid, hteam, hin, -, -⟩ := (s.onGrid g fun y => { y with posts := y.posts.erase p }).addTeam_spec g (p.team y.va)
  rw [← State.consumePost_valid hf hy hv] at hgrid hteam hin
  have hnext : (s.onGrid g fun y => { y with posts := y.posts.erase p }).nextTeam g = u := by simp [State.nextTeam, u]
  have hold : (s.onGrid g fun y => { y with posts := y.posts.erase p }).grid g = { s.grid g with posts := [] } := by simp [hp]
  rw [hnext] at hteam hin
  rw [hold] at hgrid hteam
  refine ⟨_, exec_instantClose_one ha hp hc h (by rw [hgrid]), ?_, (hteam u).trans (if_pos rfl), hin⟩
  rw [State.grid_onGrid, if_pos rfl, hgrid]

/-- Settles O48: instants close, launches open grids, and folios load and unload, each as its event says. -/
theorem gridsAndFolios : Obligations.GridsAndFolios := by
  refine ⟨fun g s ha hp h => ⟨_, exec_instantClose_empty ha hp h, by simp, rfl⟩, ?_, ?_, fun q s r hr hg hb hf => ?_,
    fun q s r bs h u hr hb hread hl hbefore => ?_, fun q s h => exec_loads_wait h, fun q s r bs e hr hb hread he hbefore => ?_,
    fun q s r f hr hb hf hctx hbefore => ⟨fun hbusy => ?_, fun hbusy => ?_⟩⟩
  · intro g s p f y ha hp hc hf hy h n gs h1 h2 h3 h4 h5 h6 h7 h8 u
    obtain ⟨t, ht, hgrid, hteam, hin⟩ := instantClose_createsTeam ha hp hc hf hy h ⟨h1, h2, h3, h4, h5, h6, h7, h8⟩
    refine ⟨t, ht, ?_⟩
    rw [hgrid, hteam]
    exact ⟨rfl, rfl, rfl, rfl, rfl, rfl, rfl, rfl, rfl, hin⟩
  · intro q s r f e hr hg hb b teams n hf he hctx hsince hn hc hbar hred
    obtain ⟨hrun, hgrid, hteams⟩ := s.createGrid_spec q r f e.va
    refine ⟨_, exec_launch hr hg hb hf he hctx hsince hn hc hbar hred, hrun, by rw [hgrid]; rfl, by rw [hgrid], by rw [hgrid]; rfl, fun j hj => ?_⟩
    rw [(hteams j hj).1]
    exact ⟨rfl, rfl, rfl, rfl, rfl, rfl, (hteams j hj).2⟩
  · exact finishes_of (exec_launch_noFolio hr hg hb hf) rfl rfl
  · obtain ⟨hfree, hlisted, hqueue⟩ := State.load_spec hl
    have hwrite := u.writeLeafVas_memOnly (s.queue q).ctx (cmdBody r.words 0) h bs
    refine finishes_of (by rw [exec_loadFolio hr hb hread hbefore, hl]) ((hwrite.queue q).trans (hqueue q)) ⟨hfree, ?_, rfl⟩
    rw [← hwrite.folios] at hlisted
    exact hlisted
  · have hl := State.load_refused (q := q) he
    exact finishes_of (by rw [exec_loadFolio hr hb hread hbefore, hl]) rfl ⟨rfl, rfl⟩
  · obtain ⟨hgone, hqueue⟩ := s.unload_spec (cmdBody r.words 3) f
    exact finishes_of (by rw [exec_unloadFolio hr hb hf hctx hbefore, if_neg (by simp [hbusy])]) (hqueue q) hgone
  · exact finishes_of (by rw [exec_unloadFolio hr hb hf hctx hbefore, if_pos hbusy]) rfl rfl

end Sys2Proof.Machine
end

section
/-! SUPPORT. A stopped core that its supervisor resumes, or whose handler it enters (R20, R235, R236, R239). -/
namespace Sys2Proof.Machine
open Sys2Proof.Claims

/-! The core itself. -/

/-- A core that is not in a nested trap resumes from its record (R239). -/
theorem Core.resume_spec {k : Core} (h : k.ctl.nested = none) :
    k.resume.ctl.mode = Claims.behind k ∧ k.resume.ctl.supervisor = none ∧ k.resume.ctl.pc = bits (k.csr csrTEPC).toNat 55 3 * 8 ∧
    k.resume.handler = false ∧ k.resume.regs.s = k.regs.s ∧ k.resume.regs.stag = k.regs.stag := by
  have hbit : ∀ k : Core, (k.setHandler false).handler = false := fun k => by
    simp only [Core.setHandler, Core.handler, Core.csr_setCsr, if_true, Bool.false_eq_true, if_false]
    have hb := bits_setBits_same (k.csr csrTSTAT).toNat 1 1 0 (by omega)
    have hw := bits_wordN (setBits (k.csr csrTSTAT).toNat 1 1 0) 1 1 (by omega)
    rw [hb] at hw
    have hz : (wordN (setBits (k.csr csrTSTAT).toNat 1 1 0)).toNat >>> 1 % 2 = 0 := hw
    simp [bit, hz]
  cases hs : k.ctl.shadow with
  | none => simp only [Core.resume, h, hs, Claims.behind, hbit]; exact ⟨rfl, rfl, rfl, trivial, rfl, rfl⟩
  | some sh => simp only [Core.resume, h, hs, Claims.behind, hbit]; exact ⟨rfl, rfl, rfl, trivial, rfl, rfl⟩
/-- Cores that are one but for their gang's log agree in everything else. -/
theorem Core.unlogged_eq {k k' : Core} (h : k'.unlogged = k.unlogged) :
    k'.regs = k.regs ∧ k'.ctl.mode = k.ctl.mode ∧ k'.ctl.team = k.ctl.team ∧ k'.ctl.gpos = k.ctl.gpos ∧ k'.ctl.pc = k.ctl.pc ∧
    k'.ctl.supervisor = k.ctl.supervisor ∧ k'.ctl.nested = k.ctl.nested ∧ k'.ctl.shadow = k.ctl.shadow ∧ k'.ctl.later = k.ctl.later :=
  ⟨(congrArg Core.regs h :), congrArg (·.ctl.mode) h, congrArg (·.ctl.team) h, congrArg (·.ctl.gpos) h, congrArg (·.ctl.pc) h,
    congrArg (·.ctl.supervisor) h, congrArg (·.ctl.nested) h, congrArg (·.ctl.shadow) h, congrArg (·.ctl.later) h⟩
/-- Core k' has resumed from the record of core k, and stands where that sends it. -/
def Resumed (k k' : Core) : Prop :=
  k'.ctl.mode = Claims.behind k ∧ k'.ctl.supervisor = none ∧ k'.ctl.pc = bits (k.csr csrTEPC).toNat 55 3 * 8 ∧ k'.handler = false ∧ ScalarKept [] k k'
theorem Resumed.of_unlogged {k j k' : Core} (h : Resumed k j) (hu : k'.unlogged = j.unlogged) : Resumed k k' := by
  obtain ⟨hregs, hmode, -, -, hpc, hsup, -, -, -⟩ := Core.unlogged_eq hu
  obtain ⟨h1, h2, h3, h4, h5⟩ := h
  refine ⟨hmode.trans h1, hsup.trans h2, hpc.trans h3, ?_, fun n hn => ?_⟩
  · rw [← h4, Core.handler, Core.handler, Core.csr, Core.csr, hregs]
  · rw [← (h5 n hn).1, ← (h5 n hn).2, Core.sreg, Core.sreg, Core.stag, Core.stag, hregs]
    exact ⟨rfl, rfl⟩
theorem Core.resume_resumed {k : Core} (h : k.ctl.nested = none) : Resumed k k.resume := by
  obtain ⟨h1, h2, h3, h4, h5, h6⟩ := Core.resume_spec h
  refine ⟨h1, h2, h3, h4, fun n _ => ?_⟩
  simp only [Core.sreg, Core.stag, h5, h6]
  exact ⟨trivial, trivial⟩

/-! The machine in which a core resumes. -/

/-- What a change of one core, and of the log that another one keeps, leaves (R19, R20). -/
theorem onlyCore_onCore_log {s : State} {c d : Nat} {f g : Core → Core} (hg : ∀ k, (g k).unlogged = k.unlogged) :
    let t := (s.onCore c f).onCore d g
    OnlyCore c s t ∧ (t.core c).unlogged = (f (s.core c)).unlogged := by
  refine ⟨⟨rfl, fun e he => ?_⟩, ?_⟩
  · simp only [State.core_onCore]
    split
    · next h => subst h; rw [hg, if_neg he]
    · simp
  · simp only [State.core_onCore, if_true]
    split
    · next h => subst h; rw [hg, if_pos rfl]
    · rfl
/-- A core resumes, and of the others nothing changes but the log of its gang (R20, R239). -/
theorem State.resumeCore_only (s : State) (c : Nat) : OnlyCore c s (s.resumeCore c) ∧
    ((s.core c).ctl.nested = none → ((s.resumeCore c).core c).unlogged = (s.core c).resume.unlogged) := by
  let f : Core → Core := fun k =>
    let r := k.resume
    if k.ctl.nested.isSome && k.ctl.owesReturn then { r with ctl := { r.ctl with owesReturn := false } }.resume else r
  have hf : (s.core c).ctl.nested = none → f (s.core c) = (s.core c).resume := fun h => by simp [f, h]
  have hlog := fun g hg => onlyCore_onCore_log (s := s) (c := c) (d := c - ((s.onCore c f).core c).ctl.gpos) (f := f) (g := g) hg
  unfold State.resumeCore
  simp only []
  split
  · refine ⟨⟨rfl, fun e he => by simp [he]⟩, fun h => ?_⟩
    rw [← hf h]
    simp [f]
  · obtain ⟨h1, h2⟩ := hlog (fun l =>
      if l.ctl.glog.any fun e => decide (handlerIssue ≤ e.1) then
        { l with ctl := { l.ctl with glog := l.ctl.glog.filter (fun e => decide (e.1 < handlerIssue)), gclock := l.ctl.gsave } }
      else l) (fun k => by split <;> rfl)
    exact ⟨h1, fun h => h2.trans (congrArg Core.unlogged (hf h))⟩
/-- A core that is alone in its gang and stands stopped. -/
theorem State.gangOf_alone {s : State} {c : Nat} (h : Claims.alone s c) : s.gangOf c = [c] := by
  obtain ⟨h1, h2⟩ := h
  simp [State.gangOf, h1, h2]
theorem State.stoppedGang_alone {s : State} {c : Nat} (h : Claims.alone s c) (hs : s.isStopped c = true) : s.stoppedGang c = [c] := by
  simp [State.stoppedGang, State.gangOf_alone h, hs]
/-- The supervisor resumes a core that is alone in its gang (R20, R239). -/
theorem exec_supervisorResume {c : Nat} {s : State} (hs : s.isStopped c = true) (ha : Claims.alone s c) :
    exec (.supervisorResume c) s = .next (s.resumeCore c) := by
  show execSupervisorResume c s = _
  simp [execSupervisorResume, hs, State.resumeGang, State.stoppedGang_alone ha hs]

/-! Its handler is entered. -/

/-- A count of events changes no fetch of text (R361). -/
theorem State.fetchWord_perf (s : State) (c ev n va : Nat) : (s.onCore c fun k => k.perf ev n).fetchWord c va = s.fetchWord c va := by
  have hteam : ((s.onCore c fun k => k.perf ev n).core c).ctl.team = (s.core c).ctl.team := by
    simp only [State.core_onCore, if_true, Core.perf]
    split <;> rfl
  have hctx : (s.onCore c fun k => k.perf ev n).ctxOf c = s.ctxOf c := by
    simp only [State.ctxOf, State.teamOf, hteam]
    rfl
  unfold State.fetchWord
  rw [hctx]
  rfl
/-- A core as its handler's entry leaves it (R236). -/
def Core.entered (k : Core) : Core :=
  { k with ctl := { k.ctl with
      shadow := some { rw := k.regs.rw, rc := k.regs.rc, latch := k.regs.latch, issued := k.ctl.issued, back := k.ctl.back, later := k.ctl.later },
      pc := bundleAddr (k.csr csrTVEC).toNat, rep := 0, dmask := 0, issued := handlerIssue, back := none, supervisor := none, mode := .run,
      later := .run } }.setHandler true
/-- The handler's entry, where its first bundle is one (R236). -/
theorem State.enterHandler_ok {s : State} {c : Nat} {t : Trap} {w : Word}
    (hw : s.fetchWord c (bundleAddr ((s.core c).csr csrTVEC).toNat) = .ok w) (h1 : bits w.toNat 63 60 = 0xF) (h2 : bits w.toNat 59 56 = 5) :
    s.enterHandler c t = s.setCore c (s.core c).entered := by
  unfold State.enterHandler
  simp only [hw, h1, h2, and_self, if_true]
  rfl
theorem Core.entered_spec (k : Core) : k.entered.ctl.mode = .run ∧ k.entered.handler = true ∧
    k.entered.ctl.pc = bits (k.csr csrTVEC).toNat 55 3 * 8 ∧ k.entered.csr csrTCAUSE = k.csr csrTCAUSE := by
  refine ⟨rfl, ?_, rfl, ?_⟩
  · have hset : k.entered.csr csrTSTAT = wordN (setBits (k.csr csrTSTAT).toNat 1 1 1) := (Core.csr_setCsr ..).trans (if_pos rfl)
    have hb := bits_wordN (setBits (k.csr csrTSTAT).toNat 1 1 1) 1 1 (by omega)
    rw [bits_setBits_same _ _ _ _ (by omega)] at hb
    have hone : (wordN (setBits (k.csr csrTSTAT).toNat 1 1 1)).toNat >>> 1 % 2 = 1 := hb
    simp [Core.handler, hset, bit, hone]
  · exact (Core.csr_setCsr ..).trans (if_neg (by decide))
/-- The clock of a gang that enters its handler is of the log (R20). -/
theorem State.gangEnters_only (s : State) (c d : Nat) : s.gangEnters c = { s with cores := (s.gangEnters c).cores } ∧
    ((s.gangEnters c).core d).unlogged = (s.core d).unlogged := by
  unfold State.gangEnters
  split
  · refine ⟨rfl, ?_⟩
    simp only [State.core_onCore]
    split
    · next h => rw [h]; rfl
    · rfl
  · exact ⟨rfl, rfl⟩
/-- The supervisor enters the handler of a stopped core that is alone in its gang (R235, R236). -/
theorem exec_supervisorTrapEntry {c : Nat} {s : State} {tr : Trap} {w : Word} (hs : s.isStopped c = true) (ha : Claims.alone s c)
    (ht : (s.core c).ctl.supervisor = some tr) (hv : bit ((s.core c).csr csrTVEC).toNat 0 = true) (hh : (s.core c).handler = false)
    (hw : s.fetchWord c (bits ((s.core c).csr csrTVEC).toNat 55 3 * 8) = .ok w) (h1 : bits w.toNat 63 60 = 0xF) (h2 : bits w.toNat 59 56 = 5) :
    exec (.supervisorTrapEntry c) s =
      .next (((s.onCore c fun k => k.perf 13 1).setCore c ((s.core c).perf 13 1).entered).gangEnters c) := by
  have hperf : (s.onCore c fun k => k.perf 13 1).core c = (s.core c).perf 13 1 := by simp
  have hfetch : (s.onCore c fun k => k.perf 13 1).fetchWord c (bundleAddr (((s.onCore c fun k => k.perf 13 1).core c).csr csrTVEC).toNat) =
      .ok w := by
    rw [hperf, State.fetchWord_perf]
    exact hw
  show execSupervisorTrapEntry c s = _
  simp only [execSupervisorTrapEntry, hs, hv, hh, State.enterGang, State.stoppedGang_alone ha hs, ht, List.foldl_cons, List.foldl_nil,
    State.enterHandler_ok hfetch h1 h2, hperf]
  rfl
/-- What the handler's entry leaves (R236). -/
theorem enteredHandler_spec (s : State) (c : Nat) :
    let t := ((s.onCore c fun k => k.perf 13 1).setCore c ((s.core c).perf 13 1).entered).gangEnters c
    OnlyCore c s t ∧ (t.core c).ctl.mode = .run ∧ (t.core c).handler = true ∧
      (t.core c).ctl.pc = bits ((s.core c).csr csrTVEC).toNat 55 3 * 8 ∧ (t.core c).csr csrTCAUSE = (s.core c).csr csrTCAUSE := by
  intro t
  set u := (s.onCore c fun k => k.perf 13 1).setCore c ((s.core c).perf 13 1).entered with hu
  have hcore : u.core c = ((s.core c).perf 13 1).entered := by simp [hu]
  obtain ⟨hregs, hmode, -, -, hpc, -, -, -, -⟩ := Core.unlogged_eq (u.gangEnters_only c c).2
  obtain ⟨h1, h2, h3, h4⟩ := ((s.core c).perf 13 1).entered_spec
  rw [hcore] at hregs hmode hpc
  refine ⟨⟨(u.gangEnters_only c c).1, fun d hd => ?_⟩, hmode.trans h1, ?_, hpc.trans h3, ?_⟩
  · rw [(u.gangEnters_only c d).2, hu]
    simp [hd]
  · rw [← h2, Core.handler, Core.handler, Core.csr, Core.csr, hregs]
  · exact (by rw [Core.csr, hregs]; rfl : (t.core c).csr csrTCAUSE = ((s.core c).perf 13 1).entered.csr csrTCAUSE).trans h4

end Sys2Proof.Machine
end

section
/-! SUPPORT. Cores that go on together once what stopped them is over (R237, R239, R257, R266). -/
namespace Sys2Proof.Machine
open Sys2Proof.Claims

/-- Core c stands stopped, in no nested trap, alone in its gang, and is to run on behind its stop. -/
structure Resumable (s : State) (c : Nat) : Prop where
  stopped : s.isStopped c = true
  alone : Claims.alone s c
  nested : (s.core c).ctl.nested = none
  behind : Claims.behind (s.core c) ≠ .stopped

theorem behind_unlogged {k k' : Core} (h : k'.unlogged = k.unlogged) : Claims.behind k' = Claims.behind k := by
  obtain ⟨-, -, -, -, -, -, -, hshadow, hlater⟩ := Core.unlogged_eq h
  simp only [Claims.behind, hshadow, hlater]
theorem Resumed.of_unlogged_left {k j k' : Core} (h : Resumed j k') (hu : j.unlogged = k.unlogged) : Resumed k k' := by
  obtain ⟨hregs, -⟩ := Core.unlogged_eq hu
  obtain ⟨h1, h2, h3, h4, h5⟩ := h
  refine ⟨h1.trans (behind_unlogged hu), h2, ?_, h4, fun n hn => ?_⟩
  · rw [h3, Core.csr, Core.csr, hregs]
  · rw [(h5 n hn).1, (h5 n hn).2, Core.sreg, Core.sreg, Core.stag, Core.stag, hregs]
    exact ⟨rfl, rfl⟩
/-- What the log of a core's gang says does not bear on its being resumed. -/
theorem Resumable.of_unlogged {s u : State} {c : Nat} (h : Resumable s c) (hu : (u.core c).unlogged = (s.core c).unlogged) (ht : u.teams = s.teams) :
    Resumable u c := by
  obtain ⟨-, hmode, hteam, hgpos, -, -, hnested, -, -⟩ := Core.unlogged_eq hu
  have hof : u.teamOf c = s.teamOf c := by simp only [State.teamOf, State.team, ht, hteam]
  refine ⟨?_, ?_, hnested.trans h.nested, ?_⟩
  · rw [← h.stopped, State.isStopped, State.isStopped, hof, hmode]
  · exact ⟨by rw [hof]; exact h.alone.1, hgpos.trans h.alone.2⟩
  · rw [behind_unlogged hu]; exact h.behind
/-- Cores of a list, each once, resume: core c with them, or it stays as it is. -/
theorem State.foldl_resumeCore (c : Nat) (l : List Nat) (s : State) (hl : l.Nodup) :
    (l.foldl State.resumeCore s).teams = s.teams ∧
    (c ∉ l → ((l.foldl State.resumeCore s).core c).unlogged = (s.core c).unlogged) ∧
    (c ∈ l → (s.core c).ctl.nested = none → Resumed (s.core c) ((l.foldl State.resumeCore s).core c)) := by
  induction l generalizing s with
  | nil => exact ⟨rfl, fun _ => rfl, fun h => absurd h List.not_mem_nil⟩
  | cons d r ih =>
    obtain ⟨hd, hr⟩ := List.nodup_cons.1 hl
    obtain ⟨hteams, hout, hin⟩ := ih (s.resumeCore d) hr
    obtain ⟨⟨hrest, hothers⟩, hself⟩ := s.resumeCore_only d
    have hkeep : (s.resumeCore d).teams = s.teams := by rw [hrest]
    refine ⟨hteams.trans hkeep, fun hc => ?_, fun hc hn => ?_⟩
    · rw [List.mem_cons, not_or] at hc
      exact (hout hc.2).trans (hothers c hc.1)
    · rcases List.mem_cons.1 hc with rfl | hcr
      · exact ((Core.resume_resumed hn).of_unlogged (hself hn)).of_unlogged (hout hd)
      · have hcd : c ≠ d := fun h => hd (h ▸ hcr)
        have hu := hothers c hcd
        exact (hin hcr ((Core.unlogged_eq hu).2.2.2.2.2.2.1.trans hn)).of_unlogged_left hu
theorem State.nodup_stoppedGang (s : State) (d : Nat) : (s.stoppedGang d).Nodup :=
  (List.nodup_range.map fun _ _ h => Nat.add_left_cancel h).filter _
/-- A core that has resumed stays so while other gangs resume. -/
theorem Resumed.foldl_resumeGang {k : Core} {c : Nat} (hk : Claims.behind k ≠ .stopped) (l : List Nat) (s : State) (h : Resumed k (s.core c)) :
    Resumed k ((l.foldl State.resumeGang s).core c) := by
  induction l generalizing s with
  | nil => exact h
  | cons d r ih =>
    have hc : c ∉ s.stoppedGang d := fun hm => by
      have hstop := (List.mem_filter.1 hm).2
      rw [State.isStopped, h.1] at hstop
      simp [hk] at hstop
    exact ih _ (h.of_unlogged ((State.foldl_resumeCore c _ s (s.nodup_stoppedGang d)).2.1 hc))
/-- Of cores that resume with their gangs, core c resumes from its record. -/
theorem Resumable.foldl_resumeGang {c : Nat} (l : List Nat) (s : State) (h : Resumable s c) (hc : c ∈ l) :
    Resumed (s.core c) ((l.foldl State.resumeGang s).core c) := by
  induction l generalizing s with
  | nil => exact absurd hc List.not_mem_nil
  | cons d r ih =>
    obtain ⟨hteams, hout, hin⟩ := State.foldl_resumeCore c _ s (s.nodup_stoppedGang d)
    by_cases hg : c ∈ s.stoppedGang d
    · exact Resumed.foldl_resumeGang h.behind r _ (hin hg h.nested)
    · have hcr : c ∈ r := by
        rcases List.mem_cons.1 hc with rfl | hcr
        · exact absurd (State.stoppedGang_alone h.alone h.stopped ▸ List.mem_singleton.2 rfl) hg
        · exact hcr
      exact (ih _ (h.of_unlogged (hout hg) hteams) hcr).of_unlogged_left (hout hg)

/-- A number that a table does not list has the default. -/
theorem get_of_notMem {α : Type} {d : α} {t : Table α} {k : Nat} (h : k ∉ t.map Prod.fst) : t.get d k = d := by
  induction t with
  | nil => rfl
  | cons e r ih =>
    rw [List.map_cons, List.mem_cons, not_or] at h
    rw [Table.get, if_neg (Ne.symm h.1)]
    exact ih h.2
/-- A core that has stopped is one of the listed ones. -/
theorem State.mem_cores_of_stopped {s : State} {c : Nat} (h : s.isStopped c = true) : c ∈ s.cores.map Prod.fst := by
  by_contra hc
  rw [State.isStopped, State.core, get_of_notMem hc] at h
  simp at h
theorem State.stoppedBy_eq_some {s : State} {c cause : Nat} {tr : Trap} (h : s.stoppedBy c cause = some tr) :
    s.isStopped c = true ∧ (s.core c).ctl.supervisor = some tr ∧ tr.cause = cause := by
  unfold State.stoppedBy at h
  split at h
  · next hs =>
    obtain ⟨t, ht, hc⟩ := Option.bind_eq_some_iff.1 h
    split at hc
    · next he => cases hc; exact ⟨hs, ht, he⟩
    · cases hc
  · cases h

end Sys2Proof.Machine
end

section
/-! SUPPORT. Memory that the supervisor writes: what is cleared, moved and replaced, and the entry that it writes for a page (R257, R266,
R336). -/
namespace Sys2Proof.Machine
open Sys2Proof.Claims

theorem Memory.byte_cons (c : Host.Cell) (m : List Host.Cell) (j : Nat) :
    Memory.byte (c :: m) j = if c.1 = j then c.2 else Memory.byte m j := rfl
/-- A cleared range reads as zero, and the rest as before. -/
theorem Memory.byte_clear (m : List Host.Cell) (a n j : Nat) :
    Memory.byte (Memory.clear m a n) j = if a ≤ j ∧ j < a + n then 0 else Memory.byte m j := by
  induction m with
  | nil => simp [Memory.clear, Memory.byte, Table.get]
  | cons c r ih =>
    simp only [Memory.clear, List.filter_cons] at ih ⊢
    split
    · next hc =>
      rw [Memory.byte_cons, Memory.byte_cons, ih]
      split
      · next hj => subst hj; simp at hc; rw [if_neg (by omega)]
      · rfl
    · next hc =>
      rw [ih, Memory.byte_cons]
      simp at hc
      split
      · rfl
      · rw [if_neg (by omega)]
/-- The last byte of a list of cells for an address is the one that stands there, where the list has one. -/
theorem Memory.byte_writeCells_mem (cs : List (Nat × Byte)) (m : List Host.Cell) (j : Nat) (b : Byte) (hm : (j, b) ∈ cs)
    (hu : ∀ c ∈ cs, c.1 = j → c.2 = b) : Memory.byte (Memory.writeCells m cs) j = b := by
  induction cs using List.reverseRecOn with
  | nil => exact absurd hm List.not_mem_nil
  | append_singleton r c ih =>
    rw [Memory.writeCells_append]
    show Memory.byte (Memory.setByte _ c.1 c.2) j = b
    rw [Memory.byte_setByte]
    split
    · next h => exact hu c (by simp) h.symm
    · next h =>
      refine ih ?_ fun x hx => hu x (by simp [hx])
      simp only [List.mem_append, List.mem_singleton] at hm
      exact hm.resolve_right fun he => h (by rw [← he])
theorem mem_cellsAt {a : Nat} {bs : List Byte} {c : Nat × Byte} (h : c ∈ cellsAt a bs) :
    ∃ i, i < bs.length ∧ c = (a + i, bs.getD i 0) := by
  obtain ⟨⟨b, i⟩, hm, rfl⟩ := List.mem_map.1 h
  have hi := List.mem_zipIdx' hm
  exact ⟨i, hi.1, by simp [hi.2, List.getD, hi.1]⟩
/-- Bytes written from an address stand there, and nothing else changes. -/
theorem Memory.byte_cellsAt (m : List Host.Cell) (a : Nat) (bs : List Byte) (j : Nat) (h : j < bs.length) :
    Memory.byte (Memory.writeCells m (cellsAt a bs)) (a + j) = bs.getD j 0 := by
  refine Memory.byte_writeCells_mem _ m _ _ (List.mem_map.2 ⟨(bs.getD j 0, j), ?_, rfl⟩) fun c hc hj => ?_
  · rw [List.mem_zipIdx_iff_getElem?]
    simp [List.getD, h]
  · obtain ⟨i, -, rfl⟩ := mem_cellsAt hc
    rw [Nat.add_left_cancel hj]
theorem Memory.byte_cellsAt_other (m : List Host.Cell) (a : Nat) (bs : List Byte) (j : Nat) (h : j < a ∨ a + bs.length ≤ j) :
    Memory.byte (Memory.writeCells m (cellsAt a bs)) j = Memory.byte m j :=
  Memory.byte_writeCells m _ j fun c hc => by
    obtain ⟨i, hi, rfl⟩ := mem_cellsAt hc
    simp only [ne_eq]
    omega
/-- A range that is replaced by bytes from its start holds them, and zeros behind them; the rest of memory stays. -/
theorem State.byte_replaceMem (s : State) (a n : Nat) (bs : List Byte) (j : Nat) :
    Memory.byte (s.replaceMem a n (cellsAt a (bs.take n))).mem j =
      if a ≤ j ∧ j < a + n then bs.getD (j - a) 0 else Memory.byte s.mem j := by
  show Memory.byte (Memory.writeCells (Memory.clear s.mem a n) (cellsAt a (bs.take n))) j = _
  by_cases hj : a ≤ j ∧ j < a + (bs.take n).length
  · obtain ⟨i, rfl⟩ := Nat.exists_eq_add_of_le hj.1
    have hi : i < (bs.take n).length := by omega
    have hlt : i < n := by simp at hi; omega
    rw [Memory.byte_cellsAt _ _ _ _ hi, if_pos (by omega), Nat.add_sub_cancel_left]
    simp [List.getD, hlt]
  · rw [Memory.byte_cellsAt_other _ _ _ _ (by omega), Memory.byte_clear]
    split
    · next h =>
      have hlen : bs.length ≤ j - a := by simp at hj; omega
      simp [List.getD, List.getElem?_eq_none hlen]
    · rfl
/-- A read depends on its bytes alone. -/
theorem Memory.read_congr {m m' : List Host.Cell} {a n : Nat} (h : ∀ i < n, Memory.byte m (a + i) = Memory.byte m' (a + i)) :
    Memory.read m a n = Memory.read m' a n := by
  induction n with
  | zero => rfl
  | succ n ih => rw [Memory.read, Memory.read, ih fun i hi => h i (by omega), h n (by omega)]
/-- What a read gives fits in its bytes. -/
theorem Memory.read_lt (m : List Host.Cell) (a n : Nat) : Memory.read m a n < 2 ^ (8 * n) := by
  induction n with
  | zero => simp [Memory.read]
  | succ n ih =>
    have hb : (Memory.byte m (a + n)).toNat < 256 := (Memory.byte m (a + n)).isLt
    rw [Memory.read, Nat.shiftLeft_eq, show 8 * (n + 1) = 8 * n + 8 by ring, pow_add]
    nlinarith [ih, hb]
/-- A number that is written reads back. -/
theorem Memory.read_write8 (m : List Host.Cell) (a x : Nat) : Memory.read (Memory.writeCells m (cellsOf a 8 x)) a 8 = x % 2 ^ 64 := by
  have hread : ∀ n ≤ 8, Memory.read (Memory.writeCells m (cellsOf a 8 x)) a n = x % 2 ^ (8 * n) := fun n => by
    induction n with
    | zero => simp [Memory.read, Nat.mod_one]
    | succ n ih =>
      intro hn
      rw [Memory.read, ih (by omega), Memory.byte_cellsOf m a 8 x n (by omega), byteOf, BitVec.toNat_ofNat, Nat.shiftLeft_eq,
        Nat.shiftRight_eq_div_pow, show 8 * (n + 1) = 8 * n + 8 by ring, pow_add, Nat.mod_mul]
      ring
  exact hread 8 le_rfl

/-! The entry of a page. -/

/-- The walk to a table goes the same way where the entries that it reads are the same (R336). -/
theorem State.tableAt_congr {s u : State} {va : Nat} (n lvl base : Nat)
    (h : ∀ k < n, ∀ b, s.tableAt va k lvl base = some b →
      Memory.read u.mem (b + 8 * bits va (55 - 10 * (lvl + k)) (46 - 10 * (lvl + k))) 8 =
      Memory.read s.mem (b + 8 * bits va (55 - 10 * (lvl + k)) (46 - 10 * (lvl + k))) 8) :
    u.tableAt va n lvl base = s.tableAt va n lvl base := by
  induction n generalizing lvl base with
  | zero => rfl
  | succ n ih =>
    have h0 := h 0 (by omega) base rfl
    rw [Nat.add_zero] at h0
    simp only [State.tableAt, h0]
    split
    · next hd =>
      refine ih _ _ fun k hk b hb => ?_
      have hk' := h (k + 1) (by omega) b (by simp only [State.tableAt, hd, if_true]; exact hb)
      rwa [show lvl + (k + 1) = lvl + 1 + k by omega] at hk'
    · rfl
/-- Where the tables of a page stand, its entry is written, and no table is made (R336, R338). -/
theorem State.mapFrom_tables {s : State} {va pte : Nat} (n lvl base b : Nat) (hl : lvl + n = 3) (h : s.tableAt va n lvl base = some b) :
    s.mapFrom va pte (n + 1) lvl base = s.write8 (b + 8 * bits va 25 16) pte := by
  induction n generalizing lvl base with
  | zero =>
    obtain rfl : lvl = 3 := by omega
    cases h
    rw [State.mapFrom]
    exact if_pos rfl
  | succ n ih =>
    simp only [State.tableAt] at h
    split at h
    · next hd =>
      simp only [Bool.and_eq_true, Bool.not_eq_true'] at hd
      rw [State.mapFrom]
      simp only [hd.1, hd.2, if_true, Bool.false_eq_true, if_false, show lvl ≠ 3 by omega]
      exact ih _ _ (by omega) h
    · cases h
theorem entryAt_eq_some {s : State} {ctx va lvl e : Nat} (h : entryAt s ctx va lvl = some e) :
    bit (s.contexts.get 0 ctx).toNat 63 = true ∧ ∃ b, s.tableAt va lvl 0 (bits (s.contexts.get 0 ctx).toNat 47 16 * 2 ^ 16) = some b ∧
      b + 8 * bits va (55 - 10 * lvl) (46 - 10 * lvl) = e := by
  simp only [entryAt] at h
  split at h
  · next hd => exact ⟨hd, Option.map_eq_some_iff.1 h⟩
  · cases h
/-- A page whose entries all stand is mapped by its level-3 entry, also once memory apart from these entries is another. -/
theorem State.mapPage_entries {s u : State} {ctx va pte : Nat} {es : List Nat} (hes : (List.range 4).map (entryAt s ctx va) = es.map some)
    (hctx : u.contexts = s.contexts) (hread : ∀ e ∈ es, Memory.read u.mem e 8 = Memory.read s.mem e 8) :
    u.mapPage ctx va pte = u.write8 (es.getD 3 0) pte := by
  have hentry : ∀ k < 4, entryAt s ctx va k = some (es.getD k 0) ∧ es.getD k 0 ∈ es := fun k hk => by
    have hk' := congrArg (fun l : List (Option Nat) => l[k]?) hes
    simp only [List.getElem?_map, List.getElem?_range hk, Option.map_some] at hk'
    obtain ⟨e, he, hs⟩ := Option.map_eq_some_iff.1 hk'.symm
    simp only [List.getD, he, Option.getD_some]
    exact ⟨hs.symm, List.mem_of_getElem? he⟩
  obtain ⟨hd, b, hb, hb3⟩ := entryAt_eq_some (hentry 3 (by omega)).1
  have hwalk : u.tableAt va 3 0 (bits (s.contexts.get 0 ctx).toNat 47 16 * 2 ^ 16) = some b := by
    refine (State.tableAt_congr 3 0 _ fun k hk b' hb' => ?_).trans hb
    obtain ⟨-, b'', hb'', he⟩ := entryAt_eq_some (hentry k (by omega)).1
    obtain rfl : b' = b'' := Option.some.inj (hb'.symm.trans hb'')
    rw [Nat.zero_add, he]
    exact hread _ (hentry k (by omega)).2
  simp only [State.mapPage, hctx, hd, if_true, Nat.shiftLeft_eq]
  rw [State.mapFrom_tables 3 0 _ b rfl hwalk]
  exact congrArg (u.write8 · pte) hb3
/-- A machine within its quotas drops no piece of cold text (R266). -/
theorem State.fitQuota_within {s : State} {a : Nat} (ctx va : Nat) (h : s.overQuota a = false) : s.fitQuota a ctx va = s := by
  have hstay : ∀ l : List (Nat × Nat), l.foldl (fun s p => if s.overQuota a then s.evictCold p.1 p.2 else s) s = s := fun l => by
    induction l with
    | nil => rfl
    | cons p r ih => rw [List.foldl_cons, h]; exact ih
  exact hstay _
theorem State.fitQuota_memOnly (s : State) (a ctx va : Nat) : MemOnly s (s.fitQuota a ctx va) := by
  refine .foldl (fun u p => ?_) _ s
  split
  · unfold State.evictCold
    split
    · exact State.mapPage_memOnly ..
    · rfl
  · rfl
/-- Where all pages of the folios fit the quota, those that are mapped do (R24, R266). -/
theorem MemOnly.overQuota {s u : State} (h : MemOnly s u) {a : Nat} (hq : withinQuota s a) : u.overQuota a = false := by
  rw [State.overQuota, List.any_eq_false]
  intro b hb
  have hpages : u.regionPages b ≤ (s.folios.map fun f => (f.2.pages.map Prod.snd).sum).sum + (32 * s.spilledIn b + 65535) / 65536 := by
    have hspill : u.spilledIn b = s.spilledIn b := by rw [h]; rfl
    simp only [State.regionPages, State.pagesWith, hspill, Nat.add_zero]
    refine Nat.add_le_add_right ?_ _
    rw [h.folios]
    refine List.sum_le_sum fun f _ => ?_
    split
    · exact Nat.sub_le ..
    · exact Nat.zero_le _
  have habove : u.above a = s.above a := by
    have hpath : ∀ n a, regionPath u n a = regionPath s n a := fun n => by
      induction n with
      | zero => exact fun _ => rfl
      | succ n ih =>
        intro a
        have hreg : u.regions = s.regions := by rw [h]
        simp only [regionPath, hreg, ih]
    exact hpath 9 a
  have hregion : u.region b 2 2 = s.region b 2 2 := by rw [h]; rfl
  have hle := hq b (habove ▸ hb)
  rw [hregion]
  simp only [decide_eq_true_eq, not_lt]
  exact hpages.trans hle

end Sys2Proof.Machine
end

section
/-! SUPPORT. Cold text that is mapped (R266), and errors that engines find (R245, R246). -/
namespace Sys2Proof.Machine
open Sys2Proof.Claims

/-! Cold text. -/

/-- The cores that wait for the piece of a context that holds an address (R266). -/
def State.coldHeld (s : State) (ctx va : Nat) : List Nat :=
  (s.cores.map Prod.fst).filter fun d =>
    match s.stoppedBy d cCOLDTXT with
    | some u => s.ctxOf d == ctx && (u.frs.getD 0 0).toNat / 65536 == va / 65536
    | none => false
/-- The machine in which a frame holds a piece, before the piece is mapped. -/
def State.pieceRead (s : State) (frame : Nat) (bs : List Byte) : State :=
  (s.replaceMem (frame * 65536) 65536 (cellsAt (frame * 65536) (bs.take 65536))).takenTo frame
/-- The machine in which the piece is mapped, before its context has to fit its quota. -/
def State.pieceEntered (s : State) (c frame va : Nat) (bs : List Byte) : State :=
  (s.pieceRead frame bs).mapPage (s.ctxOf c) (va / 65536 * 65536) (pteOf frame 0 false false false true)
/-- The machine in which the piece is mapped, and its context fits its quota. -/
def State.pieceMapped (s : State) (c frame va : Nat) (bs : List Byte) : State :=
  let u := s.pieceEntered c frame va bs
  u.fitQuota (u.rcbOf (u.teamOf c)) (s.ctxOf c) (va / 65536 * 65536)
theorem exec_coldtxtService {c frame p : Nat} {s : State} {tr : Trap} {bs : List Byte} (ht : s.stoppedBy c cCOLDTXT = some tr)
    (hp : s.coldPiece (s.ctxOf c) (tr.frs.getD 0 0).toNat = some (p, bs)) (hf : frame < 4 * dieBytes / 65536) :
    exec (.coldtxtService c frame true) s = .next ((s.coldHeld (s.ctxOf c) (tr.frs.getD 0 0).toNat).foldl State.resumeGang
      (s.pieceMapped c frame (tr.frs.getD 0 0).toNat bs)) := by
  show execColdtxtService c frame true s = _
  simp only [execColdtxtService, ht, hp, hf, decide_true, Bool.and_self, if_true]
  rfl
theorem State.pieceEntered_memOnly (s : State) (c frame va : Nat) (bs : List Byte) : MemOnly s (s.pieceEntered c frame va bs) :=
  MemOnly.trans (t := s.pieceRead frame bs) rfl (State.mapPage_memOnly ..)
theorem State.pieceMapped_memOnly (s : State) (c frame va : Nat) (bs : List Byte) : MemOnly s (s.pieceMapped c frame va bs) :=
  (s.pieceEntered_memOnly c frame va bs).trans (State.fitQuota_memOnly ..)
/-- A core that waits for a piece is one of those that it lets go on. -/
theorem State.mem_coldHeld {s : State} {c : Nat} {tr : Trap} (ht : s.stoppedBy c cCOLDTXT = some tr) :
    c ∈ s.coldHeld (s.ctxOf c) (tr.frs.getD 0 0).toNat := by
  refine List.mem_filter.2 ⟨State.mem_cores_of_stopped (State.stoppedBy_eq_some ht).1, ?_⟩
  simp [ht]
/-- Memory once a piece is mapped whose entries stand outside its frame, and that fits the quotas (R266, R336). -/
theorem State.pieceMapped_mem {s : State} {c frame va : Nat} {bs : List Byte} {es : List Nat}
    (hes : (List.range 4).map (entryAt s (s.ctxOf c) (va / 65536 * 65536)) = es.map some)
    (hout : ∀ e ∈ es, e + 8 ≤ frame * 65536 ∨ frame * 65536 + 65536 ≤ e) (hq : withinQuota s (s.rcbOf (s.teamOf c))) :
    (s.pieceMapped c frame va bs).mem =
      Memory.writeCells (s.pieceRead frame bs).mem (cellsOf (es.getD 3 0) 8 (pteOf frame 0 false false false true)) := by
  have hread : ∀ e ∈ es, Memory.read (s.pieceRead frame bs).mem e 8 = Memory.read s.mem e 8 := fun e he =>
    Memory.read_congr fun i hi => (s.byte_replaceMem ..).trans (if_neg (by have := hout e he; omega))
  have hmap := State.mapPage_entries (u := s.pieceRead frame bs) (pte := pteOf frame 0 false false false true) hes rfl hread
  have hentered := s.pieceEntered_memOnly c frame va bs
  have hrcb : (s.pieceEntered c frame va bs).rcbOf ((s.pieceEntered c frame va bs).teamOf c) = s.rcbOf (s.teamOf c) := by rw [hentered]; rfl
  simp only [State.pieceMapped, hrcb]
  rw [State.fitQuota_within _ _ (hentered.overQuota hq), State.pieceEntered, hmap]
  rfl

/-! Errors that an engine finds. -/

/-- Byte i of a number in which another byte is zero. -/
theorem byteOf_zeroByte (x o i : Nat) : byteOf (setBits x (8 * o + 7) (8 * o) 0) i = if i = o then 0 else byteOf x i := by
  refine BitVec.eq_of_getLsbD_eq fun j hj => ?_
  have hbit : (setBits x (8 * o + 7) (8 * o) 0).testBit (8 * i + j) = if i = o then false else x.testBit (8 * i + j) := by
    rw [testBit_setBits _ _ _ _ _ (by omega), Nat.zero_testBit]
    by_cases h : i = o
    · rw [if_pos h, if_pos (by omega)]
    · rw [if_neg h, if_neg (by omega)]
  rw [byteOf, BitVec.getLsbD_ofNat, Nat.testBit_shiftRight, hbit]
  split
  · simp
  · rw [byteOf, BitVec.getLsbD_ofNat, Nat.testBit_shiftRight]
/-- The bytes that a load of one range has read at `b` to `b + 8` are zero (R246). -/
theorem byteOf_zeroRead (b p n x i : Nat) (hi : i < n) :
    byteOf (zeroRead b [(p, n, 0)] x) i = if b ≤ p + i ∧ p + i < b + 8 then 0 else byteOf x i := by
  have hfold : ∀ m, byteOf ((List.range m).foldl (fun x k => if p ≤ b + k ∧ b + k < p + n then
      setBits x (8 * (0 + (b + k - p)) + 7) (8 * (0 + (b + k - p))) 0 else x) x) i =
      if b ≤ p + i ∧ p + i < b + m then 0 else byteOf x i := fun m => by
    induction m with
    | zero => rw [if_neg (by omega)]; rfl
    | succ m ih =>
      simp only [List.range_succ, List.foldl_append, List.foldl_cons, List.foldl_nil]
      split
      · rw [byteOf_zeroByte, ih]
        split
        · rw [if_pos (by omega)]
        · split
          · rw [if_pos (by omega)]
          · rw [if_neg (by omega)]
      · rw [ih]
        split
        · rw [if_pos (by omega)]
        · rw [if_neg (by omega)]
  exact hfold 8

/-- Bytes of a store of lines that lie in one line (R212). -/
theorem linesRead_line (t : Table Line) (a n : Nat) (hn : 0 < n) (h : a % 128 + n ≤ 128) :
    linesRead t a n = ((t.get 0 (a / 128)).toNat >>> (8 * (a % 128))) % 2 ^ (8 * n) := by
  have hone : (a % 128 + n + 127) / 128 = 1 := by omega
  simp [linesRead, hone]
/-- Eight bytes of a store of lines become zero: they are in one line (R212, R246). -/
theorem linesWrite_zero8 (t : Table Line) (a : Nat) (h : a % 8 = 0) :
    linesWrite t a 8 0 = t.put 0 (a / 128) (BitVec.ofNat 1024 (setBits (t.get 0 (a / 128)).toNat (8 * (a % 128) + 63) (8 * (a % 128)) 0)) := by
  have hone : (a % 128 + 8 + 127) / 128 = 1 := by omega
  have hlo : max a (a / 128 * 128) = a := by omega
  have hhi : min (a + 8) ((a / 128 + 1) * 128) = a + 8 := by omega
  have htop : 8 * (a + 8 - a / 128 * 128) - 1 = 8 * (a % 128) + 63 := by omega
  have hbot : a - a / 128 * 128 = a % 128 := by omega
  simp [linesWrite, hone, hlo, hhi, htop, hbot]
/-- Bit i of the line that holds the zeroed bytes. -/
theorem testBit_zeroedLine (t : Table Line) (a i : Nat) :
    (BitVec.ofNat 1024 (setBits (t.get 0 (a / 128)).toNat (8 * (a % 128) + 63) (8 * (a % 128)) 0)).toNat.testBit i =
      (decide (i < 1024) && if 8 * (a % 128) ≤ i ∧ i ≤ 8 * (a % 128) + 63 then false else (t.get 0 (a / 128)).toNat.testBit i) := by
  rw [BitVec.toNat_ofNat, Nat.testBit_mod_two_pow, testBit_setBits _ _ _ _ _ (by omega), Nat.zero_testBit]
theorem linesRead_zero8 (t : Table Line) (a : Nat) (h : a % 8 = 0) : linesRead (linesWrite t a 8 0) a 8 = 0 := by
  rw [linesRead_line _ _ _ (by omega) (by omega), linesWrite_zero8 t a h, Table.get_put, if_pos rfl]
  refine Nat.eq_of_testBit_eq fun i => ?_
  rw [Nat.testBit_mod_two_pow, Nat.testBit_shiftRight, testBit_zeroedLine, Nat.zero_testBit]
  by_cases hi : i < 64
  · rw [if_pos (by omega)]; simp
  · simp; omega
theorem linesRead_zero8_other (t : Table Line) (a b : Nat) (h : a % 8 = 0) (hb : b < a ∨ a + 8 ≤ b) :
    linesRead (linesWrite t a 8 0) b 1 = linesRead t b 1 := by
  rw [linesRead_line _ _ _ (by omega) (by omega), linesRead_line _ _ _ (by omega) (by omega), linesWrite_zero8 t a h, Table.get_put]
  split
  · next hg =>
    refine Nat.eq_of_testBit_eq fun i => ?_
    simp only [Nat.testBit_mod_two_pow, Nat.testBit_shiftRight, testBit_zeroedLine, hg]
    by_cases hi : i < 8
    · rw [if_neg (by omega)]
      simp [hi]
      omega
    · simp [hi]
  · rfl

/-- The machine in which an engine has found an uncorrectable error (R246). -/
def State.errorFound (s : State) (c : Nat) (m : BitVec 2) (a : Nat) : State :=
  let b := a / 8 * 8
  let k := s.core c
  match m.toNat with
  | 0 => s.setCore c { k with regs := { k.regs with rs := linesWrite k.regs.rs (b % 131072) 8 0 } }
  | 1 => s.zeroReads c (s.spadNames c a)
  | 2 => s.setCore c { k with wbuf := linesWrite k.wbuf (b % 98304) 8 0 }
  | _ => s.zeroReads c [b]
theorem exec_memue (c : Nat) (m : BitVec 2) (a : Nat) (s : State) : exec (.memue c m a) s =
    .next ((s.errorFound c m a).onCore c (Core.owe { cause := cMEMUE, step := 7, frs := [wordN a, wordN m.toNat] })) := rfl
/-- An error that an engine finds concerns its core alone, and neither memory nor the core's control. -/
theorem State.errorFound_keeps (s : State) (c : Nat) (m : BitVec 2) (a : Nat) :
    (∀ d, d ≠ c → (s.errorFound c m a).core d = s.core d) ∧ (s.errorFound c m a).mem = s.mem ∧
    ((s.errorFound c m a).core c).ctl = (s.core c).ctl := by
  unfold State.errorFound State.zeroReads
  simp only []
  split <;> exact ⟨fun d hd => by simp [hd], rfl, by simp⟩
/-- The error in a load that is in flight (R246). -/
theorem State.errorFound_load {s : State} {c a x p n : Nat} {d : Dst} {f : Flight} (hf : (s.core c).flights = [f]) (hw : f.what = .load d x)
    (hsrc : f.src = [(p, n, 0)]) :
    ((s.errorFound c 3 a).core c).flights = [{ f with what := .load d (zeroRead (a / 8 * 8) [(p, n, 0)] x) }] := by
  have hfound : s.errorFound c 3 a = s.zeroReads c [a / 8 * 8] := rfl
  rw [hfound]
  simp [State.zeroReads, hf, Flight.zeroed, hw, hsrc]

end Sys2Proof.Machine
end

section
/-! SUPPORT. A frame that is retired: its page moves with its bytes, its entry names the new frame, and cores go on (R246, R257). -/
namespace Sys2Proof.Machine
open Sys2Proof.Claims

/-- What a frame's retirement changes before cores go on: memory, first-level lines, conflict entries and the lists of frames. -/
structure PageMoved (s u : State) : Prop where
  teams : u.teams = s.teams
  contexts : u.contexts = s.contexts
  lines : ∀ c, u.core c = { s.core c with l1 := (u.core c).l1 }
theorem PageMoved.refl (s : State) : PageMoved s s := ⟨rfl, rfl, fun _ => rfl⟩
theorem PageMoved.trans {s t u : State} (h : PageMoved s t) (h' : PageMoved t u) : PageMoved s u :=
  ⟨h'.teams.trans h.teams, h'.contexts.trans h.contexts, fun c => by rw [h'.lines c, h.lines c]⟩
theorem PageMoved.foldl {α : Type} {f : State → α → State} (hf : ∀ s x, PageMoved s (f s x)) (l : List α) (s : State) :
    PageMoved s (l.foldl f s) := by
  induction l generalizing s with
  | nil => exact .refl s
  | cons x r ih => exact (hf s x).trans (ih _)
theorem MemOnly.pageMoved {s u : State} (h : MemOnly s u) : PageMoved s u := by
  rw [h]; exact ⟨rfl, rfl, fun _ => rfl⟩
theorem ClaimsOnly.pageMoved {s u : State} (h : ClaimsOnly s u) : PageMoved s u := by
  rw [h]; exact ⟨rfl, rfl, fun _ => rfl⟩
theorem State.l1Drop_pageMoved (s : State) (c : Nat) (wb : Bool) (f : L1Line → Bool) : PageMoved s (s.l1Drop c wb f) := by
  have hset : ∀ u : State, MemOnly s u → PageMoved s (u.setCore c { s.core c with l1 := (s.core c).l1.filter fun x => !f x }) := fun u hu => by
    refine ⟨by rw [hu]; rfl, by rw [hu]; rfl, fun d => ?_⟩
    rw [State.core_setCore]
    split
    · next h => rw [h]
    · rw [hu]; rfl
  unfold State.l1Drop
  simp only []
  split
  · exact hset _ (.foldl (fun u x => State.homeWrite_memOnly u _) _ s)
  · exact hset _ rfl
/-- Entries that a slice spills are the conflict checker's alone (R281). -/
theorem State.spillEntries_claimsOnly (sl n : Nat) (s : State) : ClaimsOnly s (s.spillEntries sl n) := by
  induction n generalizing s with
  | zero => rfl
  | succ n ih =>
    unfold State.spillEntries
    split
    · next t ht =>
      refine ClaimsOnly.trans ?_ (ih t)
      unfold State.spillOne at ht
      simp only [] at ht
      split at ht <;> cases ht <;> rfl
    · rfl
theorem State.moveEntries_claimsOnly (s : State) (a n b : Nat) : ClaimsOnly s (s.moveEntries a n b) := by
  refine ClaimsOnly.trans ?_ (.foldl (fun u sl => ?_) _ _)
  · rfl
  · unfold State.fitSlice
    split
    · rfl
    · exact u.spillEntries_claimsOnly ..

/-- The machine in which a page has moved to another frame, and its old frame is retired. -/
def State.pageMoved (s : State) (f : Nat) (l : Nat × Nat × Nat) (frame : Nat) : State :=
  let old := bits l.2.1 31 0 * 65536
  let s := (s.cores.map Prod.fst).foldl (fun (s : State) c => s.l1Drop c true fun x => meets x.pa 128 old l.2.2) s
  let s := ((s.moveMem old l.2.2 (frame * 65536)).moveEntries old l.2.2 (frame * 65536)).takenTo frame
  { s with retired := joined f s.retired }
/-- The machine in which a frame is retired and its entries name another one, before cores go on. -/
def State.frameRetired (s : State) (a frame : Nat) : State :=
  let ls := frameLeaves s a frame
  ls.foldl (fun s l => s.write8 l.1 (setBits l.2.1 31 0 frame)) (match ls.head? with
    | none => { s with retired := joined (a / 65536) s.retired }
    | some l => s.pageMoved (a / 65536) l frame)
/-- The cores that an error in a frame of an address has stopped. -/
def State.errorHeld (s : State) (a : Nat) : List Nat :=
  (s.cores.map Prod.fst).filter fun c =>
    match s.stoppedBy c cMEMUE with
    | some t => t.frs.getD 1 0 == 3 && (t.frs.getD 0 0).toNat / 65536 == a / 65536
    | none => false
theorem exec_frameRetire (a frame : Nat) (clean : Bool) (s : State) : exec (.frameRetire a frame clean) s =
    .next (((s.frameRetired a frame).errorHeld a).foldl (if clean then State.resumeGang else State.deliverTrap) (s.frameRetired a frame)) := by
  show execFrameRetire a frame clean s = _
  have hroot : ∀ d : Nat × Word, bits d.2.toNat 47 16 <<< 16 = bits d.2.toNat 47 16 * 2 ^ 16 := fun d => Nat.shiftLeft_eq ..
  simp only [execFrameRetire, hroot]
  rfl
theorem State.pageMoved_spec (s : State) (f : Nat) (l : Nat × Nat × Nat) (frame : Nat) : PageMoved s (s.pageMoved f l frame) := by
  have hdrop := PageMoved.foldl (f := fun (s : State) c => s.l1Drop c true fun x => meets x.pa 128 (bits l.2.1 31 0 * 65536) l.2.2)
    (fun s c => s.l1Drop_pageMoved c true _) (s.cores.map Prod.fst) s
  have hlast : ∀ w : State, PageMoved w { w.takenTo frame with retired := joined f (w.takenTo frame).retired } := fun _ => ⟨rfl, rfl, fun _ => rfl⟩
  unfold State.pageMoved
  simp only []
  refine hdrop.trans (PageMoved.trans ?_ (PageMoved.trans (State.moveEntries_claimsOnly ..).pageMoved (hlast _)))
  exact MemOnly.pageMoved rfl
theorem State.frameRetired_spec (s : State) (a frame : Nat) : PageMoved s (s.frameRetired a frame) := by
  have hwrite : ∀ (u : State) (l : Nat × Nat × Nat), PageMoved u (u.write8 l.1 (setBits l.2.1 31 0 frame)) := fun _ _ => MemOnly.pageMoved rfl
  refine PageMoved.trans ?_ (.foldl hwrite _ _)
  split
  · exact ⟨rfl, rfl, fun _ => rfl⟩
  · exact s.pageMoved_spec ..

/-- A core that an error in a frame has stopped goes on once a clean page of it has moved (R257). -/
theorem frameRetire_resumes {c a frame : Nat} {s : State} {tr : Trap} (ht : s.stoppedBy c cMEMUE = some tr) (h3 : tr.frs.getD 1 0 = 3)
    (hf : (tr.frs.getD 0 0).toNat / 65536 = a / 65536) (hs : Resumable s c) :
    Resumed (s.core c) ((((s.frameRetired a frame).errorHeld a).foldl State.resumeGang (s.frameRetired a frame)).core c) := by
  obtain ⟨hteams, -, hlines⟩ := s.frameRetired_spec a frame
  set u := s.frameRetired a frame
  have hof : u.teamOf c = s.teamOf c := by rw [State.teamOf, State.teamOf, State.team, State.team, hteams, hlines c]
  have hstop : u.isStopped c = s.isStopped c := by rw [State.isStopped, State.isStopped, hof, hlines c]
  have hu : Resumable u c := by
    refine ⟨hstop.trans hs.stopped, ⟨by rw [hof]; exact hs.alone.1, by rw [hlines c]; exact hs.alone.2⟩, ?_, ?_⟩
    · rw [hlines c]; exact hs.nested
    · rw [hlines c]; exact hs.behind
  have hby : u.stoppedBy c cMEMUE = some tr := by
    rw [← ht, State.stoppedBy, State.stoppedBy, hstop, hlines c]
  have hheld : c ∈ u.errorHeld a := by
    refine List.mem_filter.2 ⟨State.mem_cores_of_stopped hu.stopped, ?_⟩
    rw [hby]
    simp only [h3, hf, beq_self_eq_true, Bool.and_self]
  have hres := hu.foldl_resumeGang _ u hheld
  rw [hlines c] at hres
  exact hres

/-! The bytes of the page. -/

/-- First-level lines that are not dirty go without a write (R253). -/
theorem State.mem_l1Drop_clean {s : State} {c : Nat} {f : L1Line → Bool} (h : ∀ x ∈ (s.core c).l1, x.dirty = 0) :
    (s.l1Drop c true f).mem = s.mem := by
  have hstay : ∀ l : List L1Line, (∀ x ∈ l, x.dirty = 0) → l.foldl State.writeBack s = s := fun l => by
    induction l with
    | nil => exact fun _ => rfl
    | cons x r ih =>
      intro hl
      have hx : s.writeBack x = s := by
        have hcells : x.dirtyCells = [] := by simp [L1Line.dirtyCells, hl x (List.mem_cons_self ..), bit]
        rw [State.writeBack, hcells]
        rfl
      rw [List.foldl_cons, hx]
      exact ih fun y hy => hl y (List.mem_cons_of_mem _ hy)
  simp only [State.l1Drop, if_true]
  rw [hstay _ fun x hx => h x (List.mem_of_mem_filter hx)]
  rfl

/-- No first-level line is dirty. -/
def Undirtied (s : State) : Prop := ∀ c, ∀ x ∈ (s.core c).l1, x.dirty = 0
theorem mem_of_get_ne {α : Type} {d : α} {t : Table α} {k : Nat} (h : k ∈ t.map Prod.fst) : (k, t.get d k) ∈ t := by
  induction t with
  | nil => exact absurd h List.not_mem_nil
  | cons e r ih =>
    rw [Table.get]
    split
    · next he => rw [← he]; exact List.mem_cons_self
    · next he => exact List.mem_cons_of_mem _ (ih ((List.mem_cons.1 h).resolve_left (Ne.symm he)))
theorem undirtied_of_listed {s : State} (h : ∀ e ∈ s.cores, ∀ x ∈ e.2.l1, x.dirty = 0) : Undirtied s := fun c x hx => by
  by_cases hc : c ∈ s.cores.map Prod.fst
  · exact h _ (mem_of_get_ne hc) x hx
  · rw [State.core, get_of_notMem hc] at hx
    exact absurd hx List.not_mem_nil
/-- Lines that no store has touched go from every core without a write. -/
theorem Undirtied.mem_foldl_l1Drop (f : L1Line → Bool) (cs : List Nat) {s : State} (h : Undirtied s) :
    (cs.foldl (fun (s : State) c => s.l1Drop c true f) s).mem = s.mem := by
  induction cs generalizing s with
  | nil => rfl
  | cons c r ih =>
    have hstep : Undirtied (s.l1Drop c true f) := fun d x hx => by
      simp only [State.l1Drop, State.core_setCore] at hx
      split at hx
      · exact h c x (List.mem_of_mem_filter hx)
      · refine h d x ?_
        have hcores : ∀ l : List L1Line, (l.foldl State.writeBack s).core d = s.core d := fun l => by
          rw [MemOnly.foldl (f := State.writeBack) (fun u y => State.homeWrite_memOnly u _) l s]
          rfl
        rwa [if_pos trivial, hcores] at hx
    exact (ih hstep).trans (State.mem_l1Drop_clean (h c))
/-- In canonical memory a listed byte is the one that is read. -/
theorem Memory.byte_of_mem {m : List Host.Cell} (h : Memory.wf m = true) {c : Host.Cell} (hc : c ∈ m) : Memory.byte m c.1 = c.2 := by
  have hrise := ((Memory.wf_iff m).1 h).1
  clear h
  induction m with
  | nil => exact absurd hc List.not_mem_nil
  | cons e r ih =>
    obtain ⟨hlt, hr⟩ := (Table.rising_cons e r).1 hrise
    rw [Memory.byte_cons]
    rcases List.mem_cons.1 hc with rfl | hcr
    · exact if_pos rfl
    · rw [if_neg (by have := hlt c hcr; omega)]
      exact ih hcr hr
/-- What a range held stands at its new place (R257). -/
theorem Memory.byte_moveMem {m : List Host.Cell} (h : Memory.wf m = true) (a n b j : Nat) (hj : j < n) :
    Memory.byte (Memory.writeCells (Memory.clear m b n) (Memory.moved m a n b)) (b + j) = Memory.byte m (a + j) := by
  have hmoved : ∀ c ∈ Memory.moved m a n b, c.1 = b + j → c.2 = Memory.byte m (a + j) ∧ a + j ∈ m.map Prod.fst := fun c hc hcj => by
    obtain ⟨e, he, rfl⟩ := List.mem_map.1 hc
    obtain ⟨hem, hin⟩ := List.mem_filter.1 he
    simp only [Bool.and_eq_true, decide_eq_true_eq] at hin
    have hkey : e.1 = a + j := by simp only at hcj; omega
    exact ⟨by rw [← hkey, Memory.byte_of_mem h hem], hkey ▸ List.mem_map_of_mem hem⟩
  by_cases hk : a + j ∈ m.map Prod.fst
  · refine Memory.byte_writeCells_mem _ _ _ _ (List.mem_map.2 ⟨(a + j, Memory.byte m (a + j)), ?_, ?_⟩) fun c hc hcj => (hmoved c hc hcj).1
    · refine List.mem_filter.2 ⟨mem_of_get_ne hk, ?_⟩
      simp only [Bool.and_eq_true, decide_eq_true_eq]
      omega
    · rw [Nat.add_sub_cancel_left, Nat.add_comm]
  · rw [Memory.byte_writeCells _ _ _ fun c hc hcj => hk (hmoved c hc hcj).2, Memory.byte_clear, if_pos (by omega), Memory.byte, get_of_notMem hk]

/-- A leaf entry is a number of 64 bits. -/
theorem State.leaves_lt {s : State} {fuel lvl base : Nat} {l : Nat × Nat × Nat} (h : l ∈ s.leaves fuel lvl base) : l.2.1 < 2 ^ 64 := by
  induction fuel generalizing lvl base with
  | zero => exact absurd h List.not_mem_nil
  | succ n ih =>
    obtain ⟨i, -, hi⟩ := List.mem_flatMap.1 h
    simp only [] at hi
    split at hi
    · exact absurd hi List.not_mem_nil
    · split at hi
      · rw [List.mem_singleton.1 hi]
        exact Memory.read_lt ..
      · split at hi
        · exact absurd hi List.not_mem_nil
        · exact ih hi
theorem frameLeaves_lt {s : State} {a frame : Nat} {l : Nat × Nat × Nat} (h : l ∈ frameLeaves s a frame) : l.2.1 < 2 ^ 64 := by
  obtain ⟨d, -, hd⟩ := List.mem_flatMap.1 (List.mem_of_mem_filter h)
  split at hd
  · exact State.leaves_lt hd
  · exact absurd hd List.not_mem_nil
/-- An entry with another frame number is a number of 64 bits. -/
theorem setBits_frame_lt {x frame : Nat} (hx : x < 2 ^ 64) : setBits x 31 0 frame < 2 ^ 64 := by
  have hlow : frame % 2 ^ 32 < 2 ^ 32 := Nat.mod_lt _ (by norm_num)
  simp only [setBits, Nat.shiftLeft_eq, Nat.shiftRight_eq_div_pow, pow_zero, Nat.mod_one]
  omega

/-! Cores that go on, or whose handlers are entered, are all that a delivery changes. -/

/-- Machine t is machine s but for its cores. -/
def CoresOnly (s t : State) : Prop := t = { s with cores := t.cores }
theorem CoresOnly.trans {s t u : State} (h : CoresOnly s t) (h' : CoresOnly t u) : CoresOnly s u := by
  unfold CoresOnly at *; rw [h', h]
theorem CoresOnly.foldl {α : Type} {f : State → α → State} (hf : ∀ s x, CoresOnly s (f s x)) (l : List α) (s : State) :
    CoresOnly s (l.foldl f s) := by
  induction l generalizing s with
  | nil => rfl
  | cons x r ih => exact (hf s x).trans (ih _)
theorem State.resumeGang_coresOnly (s : State) (c : Nat) : CoresOnly s (s.resumeGang c) :=
  .foldl (fun s c => (s.resumeCore_only c).1.rest) _ s
theorem State.enterHandler_coresOnly (s : State) (c : Nat) (t : Trap) : CoresOnly s (s.enterHandler c t) := by
  unfold State.enterHandler
  simp only []
  split
  · rfl
  · split <;> rfl
theorem State.deliverTrap_coresOnly (s : State) (c : Nat) : CoresOnly s (s.deliverTrap c) := by
  have henter : CoresOnly s (s.enterGang c) := by
    refine CoresOnly.trans (.foldl (fun u m => ?_) (s.stoppedGang c) s) (State.gangEnters_only _ c c).1
    split
    · exact CoresOnly.trans (t := u.onCore m fun k => k.perf 13 1) rfl (State.enterHandler_coresOnly ..)
    · rfl
  unfold State.deliverTrap
  split
  · split
    · exact henter
    · rfl
  · rfl
theorem exec_frameRetire_coresOnly (a frame : Nat) (clean : Bool) (s : State) :
    ∃ t, exec (.frameRetire a frame clean) s = .next t ∧ CoresOnly (s.frameRetired a frame) t := by
  refine ⟨_, exec_frameRetire a frame clean s, .foldl (fun u c => ?_) _ _⟩
  cases clean
  · exact u.deliverTrap_coresOnly c
  · exact u.resumeGang_coresOnly c
/-- A frame that one entry maps: the entry names the new frame, which holds the bytes of the old one (R246, R257). -/
theorem frameRetired_one {s : State} {a frame : Nat} {l : Nat × Nat × Nat} (hl : frameLeaves s a frame = [l]) :
    Memory.read (s.frameRetired a frame).mem l.1 8 = setBits l.2.1 31 0 frame ∧ a / 65536 ∈ (s.frameRetired a frame).retired ∧
    (Memory.wf s.mem = true → Undirtied s → (l.1 + 8 ≤ frame * 65536 ∨ frame * 65536 + l.2.2 ≤ l.1) → ∀ j < l.2.2,
      Memory.byte (s.frameRetired a frame).mem (frame * 65536 + j) = Memory.byte s.mem (bits l.2.1 31 0 * 65536 + j)) := by
  have hone : s.frameRetired a frame = (s.pageMoved (a / 65536) l frame).write8 l.1 (setBits l.2.1 31 0 frame) := by
    simp [State.frameRetired, hl]
  have hmem : (s.frameRetired a frame).mem =
      Memory.writeCells (s.pageMoved (a / 65536) l frame).mem (cellsOf l.1 8 (setBits l.2.1 31 0 frame)) := by rw [hone]; rfl
  refine ⟨?_, ?_, fun hwf hclean hout j hj => ?_⟩
  · rw [hmem, Memory.read_write8, Nat.mod_eq_of_lt (setBits_frame_lt (frameLeaves_lt (hl ▸ List.mem_singleton.2 rfl)))]
  · rw [hone]
    show a / 65536 ∈ joined (a / 65536) _
    unfold joined
    split
    · next h => exact List.contains_iff_mem.1 h
    · simp
  · rw [hmem, Memory.byte_cellsOf_other _ _ _ _ _ (by omega)]
    have hmoved : (s.pageMoved (a / 65536) l frame).mem = Memory.writeCells (Memory.clear s.mem (frame * 65536) l.2.2)
        (Memory.moved s.mem (bits l.2.1 31 0 * 65536) l.2.2 (frame * 65536)) := by
      have hdrop := hclean.mem_foldl_l1Drop (fun x => meets x.pa 128 (bits l.2.1 31 0 * 65536) l.2.2) (s.cores.map Prod.fst)
      have hmove : ∀ (u : State) (a n b : Nat), (u.moveMem a n b).mem = Memory.writeCells (Memory.clear u.mem b n) (Memory.moved u.mem a n b) :=
        fun _ _ _ _ => rfl
      simp only [State.pageMoved, State.mem_takenTo, State.mem_moveEntries, hmove, hdrop]
    rw [hmoved, Memory.byte_moveMem hwf _ _ _ _ hj]

end Sys2Proof.Machine
end

section
/-! SUPPORT. A team that the supervisor ends (R235, R291), and what its supervisor does for a core, together (O46). -/
namespace Sys2Proof.Machine
open Sys2Proof.Claims

/-- Grids and teams stay. -/
structure PlacesKept (s t : State) : Prop where
  grids : t.grids = s.grids
  teams : t.teams = s.teams
theorem PlacesKept.refl (s : State) : PlacesKept s s := ⟨rfl, rfl⟩
theorem PlacesKept.trans {s t u : State} (h : PlacesKept s t) (h' : PlacesKept t u) : PlacesKept s u :=
  ⟨h'.grids.trans h.grids, h'.teams.trans h.teams⟩
theorem PlacesKept.foldl {α : Type} {f : State → α → State} (hf : ∀ s x, PlacesKept s (f s x)) (l : List α) (s : State) :
    PlacesKept s (l.foldl f s) :=
  ⟨List.foldl_keeps State.grids f (fun s x => (hf s x).grids) l s, List.foldl_keeps State.teams f (fun s x => (hf s x).teams) l s⟩
theorem MemOnly.placesKept {s u : State} (h : MemOnly s u) : PlacesKept s u := by rw [h]; exact ⟨rfl, rfl⟩
theorem ClaimsOnly.placesKept {s u : State} (h : ClaimsOnly s u) : PlacesKept s u := by rw [h]; exact ⟨rfl, rfl⟩
theorem CoresOnly.placesKept {s u : State} (h : CoresOnly s u) : PlacesKept s u := by rw [h]; exact ⟨rfl, rfl⟩

theorem State.withdrawClaims_claimsOnly (s : State) (c : Nat) (w : Waiting) : ClaimsOnly s (s.withdrawClaims c w) := by
  have hundo := ClaimsOnly.foldl (f := fun (s : State) (u : Nat × Option Granule) =>
    match assoc s.granules u.1 with
    | none => s
    | some e =>
      if !(e.tent.any fun x => x.1 == c) then s
      else
        match e.withdraw c (u.2.filter fun x => x.team == e.team && x.par == e.par) with
        | some x => { s with granules := assocSet s.granules u.1 x }
        | none => { s with granules := assocDel s.granules u.1 }) (fun s u => by
      split
      · rfl
      · split
        · rfl
        · split <;> rfl) w.undo s
  exact (hundo.trans (State.onRecords_claimsOnly ..)).handoffs _
theorem State.rewindGang_coresOnly (s : State) (c : Nat) : CoresOnly s (s.rewindGang c) := by
  unfold State.rewindGang
  simp only []
  split <;> rfl
theorem State.unclaimAll_placesKept (s : State) (ws : List Wait) : PlacesKept s (s.unclaimAll ws) :=
  .foldl (fun s x => by split <;> exact ⟨rfl, rfl⟩) ws s
theorem State.onCore_placesKept (s : State) (c : Nat) (f : Core → Core) : PlacesKept s (s.onCore c f) := ⟨rfl, rfl⟩
theorem State.onCluster_placesKept (s : State) (c : Nat) (f : Cluster → Cluster) : PlacesKept s (s.onCluster c f) := ⟨rfl, rfl⟩
theorem State.takeBack_placesKept (s : State) (c : Nat) (keep : Bool) : PlacesKept s (s.takeBack c keep) := by
  unfold State.takeBack
  split
  · exact .refl s
  · next w hw =>
    have hback := ((s.withdrawClaims_claimsOnly c w).placesKept.trans (State.rewindGang_coresOnly _ c).placesKept).trans
      (State.onCluster_placesKept _ (clusterOf c) fun cl => { cl with grants := cl.grants.filter fun g => g.1 != c })
    simp only []
    split
    · exact hback.trans (State.onCore_placesKept ..)
    · exact hback.trans ((State.unclaimAll_placesKept _ w.waits).trans (State.onCore_placesKept ..))
theorem State.viewWrite_placesKept (s : State) (c : Nat) (swz : Bool) (st : List (Nat × Byte)) : PlacesKept s (s.viewWrite c swz st) := by
  have hcross : PlacesKept s (s.crossWrite c swz st).2 := by
    unfold State.crossWrite
    simp only []
    split <;> exact ⟨rfl, rfl⟩
  unfold State.viewWrite State.noteView State.onView
  simp only []
  exact hcross.trans ((State.onCore_placesKept ..).trans (State.homeWrite_memOnly ..).placesKept)
theorem State.copyEnds_placesKept (s : State) (c : Nat) (x : Copy) : PlacesKept s (s.copyEnds c x) := by
  have hland : ∀ joined cs, PlacesKept s (s.landCells c joined cs) := fun joined cs => by
    unfold State.landCells
    split
    · exact (State.homeWriteAll_memOnly ..).placesKept
    · exact (State.homeWriteAll_memOnly ..).placesKept.trans
        (.foldl (fun u swz => .foldl (fun u g => u.viewWrite_placesKept c swz g) _ u) _ _)
  unfold State.copyEnds
  split
  · exact .refl s
  · unfold State.copyLand
    exact (hland _ _).trans (State.onCore_placesKept ..)
theorem State.l1Drop_placesKept (s : State) (c : Nat) (wb : Bool) (f : L1Line → Bool) : PlacesKept s (s.l1Drop c wb f) := by
  have hset : ∀ (u : State) k, PlacesKept u (u.setCore c k) := fun _ _ => ⟨rfl, rfl⟩
  unfold State.l1Drop
  simp only []
  split
  · exact (MemOnly.foldl (f := State.writeBack) (fun u x => State.homeWrite_memOnly u _) _ s).placesKept.trans (hset ..)
  · exact hset ..
theorem State.mapSpads_memOnly (s : State) (t : Nat) (on : Bool) : MemOnly s (s.mapSpads t on) :=
  .foldl (fun s _ => .foldl (fun s _ => .foldl (fun _ _ => State.mapPage_memOnly ..) _ s) _ s) _ s

/-- The cores of a team, each vacated. -/
def State.emptied (s : State) (cs : List Nat) : State := cs.foldl (fun s c => (s.l1Drop c true fun _ => true).onCore c Core.vacate) s
theorem State.emptied_placesKept (s : State) (cs : List Nat) : PlacesKept s (s.emptied cs) :=
  .foldl (fun s c => (s.l1Drop_placesKept c true _).trans (State.onCore_placesKept ..)) cs s
theorem State.emptied_idle (cs : List Nat) (s : State) {c : Nat} (h : c ∈ cs ∨ (s.core c).ctl.mode = .idle) :
    ((s.emptied cs).core c).ctl.mode = .idle := by
  induction cs generalizing s with
  | nil => exact h.resolve_left List.not_mem_nil
  | cons d r ih =>
    have hd : ((s.l1Drop d true fun _ => true).onCore d Core.vacate).core c =
        if c = d then ((s.l1Drop d true fun _ => true).core d).vacate else (s.l1Drop d true fun _ => true).core c := State.core_onCore ..
    refine ih _ ?_
    by_cases hc : c ∈ r
    · exact .inl hc
    · refine .inr ?_
      rw [hd]
      split
      · rfl
      · next hne =>
        rw [(s.l1Drop_pageMoved d true _).lines c]
        exact h.resolve_left fun hm => (List.mem_cons.1 hm).elim hne hc
/-- A team's cores become free, and grids and teams stay (R127). -/
theorem State.vacateTeam_spec (s : State) (t : Nat) : PlacesKept s (s.vacateTeam t) ∧
    ∀ c ∈ (s.team t).cores, ((s.vacateTeam t).core c).ctl.mode = .idle := by
  have hclaims : ∀ u : State, ClaimsOnly u (u.entriesOut t (s.team t)) := fun u => u.moveEntries_claimsOnly _ _ _
  have hbar : ∀ u : State, PlacesKept u ((u.onBarrier ((s.team t).cluster * 32 + (s.team t).bn) fun _ => {}).renameCores t
      (leaveName t (s.team t))) := fun _ => ⟨rfl, rfl⟩
  have hout := hclaims (((s.emptied (s.team t).cores).onBarrier ((s.team t).cluster * 32 + (s.team t).bn) fun _ => {}).renameCores t
      (leaveName t (s.team t)))
  have hvac : s.vacateTeam t = (((s.emptied (s.team t).cores).onBarrier ((s.team t).cluster * 32 + (s.team t).bn) fun _ => {}).renameCores t
      (leaveName t (s.team t))).entriesOut t (s.team t) := rfl
  rw [hvac]
  refine ⟨(s.emptied_placesKept _).trans ((hbar _).trans hout.placesKept), fun c hc => ?_⟩
  have hcore := hout.pageMoved.lines c
  rw [hcore]
  exact State.emptied_idle _ s (.inl hc)

/-- A grid once a team of it has been ended by its supervisor (R289, R291). -/
def Grid.teamEnded (g : Grid) (x : Team) (cause : Nat) (txp : Bool) : Grid :=
  { g with txp := g.txp || txp,
           fteam := match g.fteam with
             | some (i, c) => if x.index < i then some (x.index, cause) else some (i, c)
             | none => some (x.index, cause) }
/-- What a team's core has left unfinished ends with it (R175, R186). -/
def State.dropWork (s : State) (c : Nat) : State := (s.core c).copies.foldl (fun s cp => s.copyEnds c cp) (s.takeBack c false)
theorem State.retireTeam_eq {s : State} {t cause : Nat} (h : (s.grid (s.team t).grid).result = 0) :
    let txp := (s.team t).cores.any fun c => (s.core c).txp
    s.retireTeam t (.ended cause) cause =
      ((((((s.team t).cores.foldl State.dropWork (s.onGrid (s.team t).grid fun g => g.teamEnded (s.team t) cause txp)).mapSpads t
        false).vacateTeam t).dropEntries (outSpad t) 0x2000000).onTeam t fun x =>
          { x with mode := .ended cause, slot := none, image := none, yreq := none, leaving := false, txp := txp }) := by
  have hresult : ∀ d, s.writeResult (s.team t) cause d = s := fun d => by simp [State.writeResult, h]
  intro txp
  unfold State.retireTeam
  simp only [hresult]
  rfl
theorem State.retireTeam_spec {s : State} {t cause : Nat} (h : (s.grid (s.team t).grid).result = 0) :
    let u := s.retireTeam t (.ended cause) cause
    (u.team t).mode = .ended cause ∧ (∀ c ∈ (s.team t).cores, (u.core c).ctl.mode = .idle) ∧
    ∃ txp, u.grid (s.team t).grid = (s.grid (s.team t).grid).teamEnded (s.team t) cause txp := by
  rw [State.retireTeam_eq h]
  set txp := (s.team t).cores.any fun c => (s.core c).txp
  have hwork : ∀ (u : State) c, PlacesKept u (u.dropWork c) := fun u c =>
    (u.takeBack_placesKept c false).trans (.foldl (fun v x => v.copyEnds_placesKept c x) _ _)
  set v := ((s.team t).cores.foldl State.dropWork (s.onGrid (s.team t).grid fun g => g.teamEnded (s.team t) cause txp)).mapSpads t false
  have hv : PlacesKept (s.onGrid (s.team t).grid fun g => g.teamEnded (s.team t) cause txp) v :=
    (PlacesKept.foldl hwork _ _).trans (State.mapSpads_memOnly ..).placesKept
  obtain ⟨hvac, hidle⟩ := v.vacateTeam_spec t
  have hteam : v.team t = s.team t := congrArg (fun T : Table Team => T.get ({} : Team) t) hv.teams
  have hgrid : (v.vacateTeam t).grid (s.team t).grid = (s.grid (s.team t).grid).teamEnded (s.team t) cause txp := by
    rw [State.grid, hvac.grids, hv.grids]
    exact (State.grid_onGrid ..).trans (if_pos rfl)
  rw [hteam] at hidle
  generalize v.vacateTeam t = x at hidle hgrid
  refine ⟨?_, hidle, txp, hgrid⟩
  rw [State.team_onTeam, if_pos rfl]
/-- The supervisor ends a team (R235, R291). -/
theorem exec_endTeam {t cause : Nat} {s : State} (h : s.mayEnd t cause = true) :
    exec (.endTeam t cause) s = .next (s.retireTeam t (.ended cause) cause) := by
  show execEndTeam t cause s = _
  rw [execEndTeam, if_pos h]

/-- Settles O46: the supervisor's events, each by what it leaves of cores, memory and grids. -/
theorem supervisorEvents : Obligations.SupervisorEvents := by
  refine ⟨fun c s hs ha hn => ?_, fun c s tr w hs ha ht hv hh hw h1 h2 =>
    ⟨_, exec_supervisorTrapEntry hs ha ht hv hh hw h1 h2, enteredHandler_spec s c⟩,
    fun u cause s he hr => ?_, fun c s tr p bs frame ht hp hf ha hn hb => ?_, fun c m a s => ?_,
    fun c a frame s tr ht h3 hf ha hn hb => ?_, fun a frame clean s l hl hf => ?_⟩
  · obtain ⟨honly, hself⟩ := s.resumeCore_only c
    obtain ⟨hmode, hsup, hpc, hhandler, hkept⟩ := (Core.resume_resumed hn).of_unlogged (hself hn)
    exact ⟨_, exec_supervisorResume hs ha, honly, hmode, hsup, hpc, hhandler, hkept⟩
  · obtain ⟨hmode, hidle, txp, hgrid⟩ := State.retireTeam_spec (cause := cause) hr
    refine ⟨_, exec_endTeam he, hmode, hidle, by rw [hgrid]; rfl, fun hnone => ?_⟩
    rw [hgrid]
    simp [Grid.teamEnded, hnone]
  · have hs : Resumable s c := ⟨(State.stoppedBy_eq_some ht).1, ha, hn, hb⟩
    have hmap := s.pieceMapped_memOnly c frame (tr.frs.getD 0 0).toNat bs
    set u := s.pieceMapped c frame (tr.frs.getD 0 0).toNat bs with hu
    have hcore : u.core c = s.core c := by rw [hmap]; rfl
    have hres := (hs.of_unlogged (u := u) (by rw [hcore]) (by rw [hmap])).foldl_resumeGang _ u (State.mem_coldHeld ht)
    rw [hcore] at hres
    refine ⟨_, exec_coldtxtService ht hp hf, hres.1, hres.2.2.1, fun es hes hout hq => ?_⟩
    rw [State.mem_foldl _ _ _ State.mem_resumeGang, ← hu, hu, State.pieceMapped_mem hes hout hq]
    have he3 : es.getD 3 0 ∈ es := by
      have hlen : es.length = 4 := by simpa using (congrArg List.length hes).symm
      rw [List.getD_eq_getElem _ _ (by omega)]
      exact List.getElem_mem _
    have hsmall : pteOf frame 0 false false false true < 2 ^ 64 := by
      simp only [dieBytes] at hf
      simp [pteOf]
      omega
    refine ⟨by rw [Memory.read_write8, Nat.mod_eq_of_lt hsmall], fun j hj => ?_, fun x hx hxe => ?_⟩
    · rw [Memory.byte_cellsOf_other _ _ _ _ _ (by have := hout _ he3; omega)]
      exact (s.byte_replaceMem ..).trans (by rw [if_pos (by omega), Nat.add_sub_cancel_left])
    · rw [Memory.byte_cellsOf_other _ _ _ _ _ hxe]
      exact (s.byte_replaceMem ..).trans (if_neg (by omega))
  · obtain ⟨hothers, hmem, hctl⟩ := s.errorFound_keeps c m a
    refine ⟨_, exec_memue c m a s, fun d hd => by rw [State.core_onCore, if_neg hd, hothers d hd], hmem, ?_, ?_, ?_⟩
    · rw [State.core_onCore, if_pos rfl, Core.owe, hctl]
    · rintro rfl
      have hrs : ((s.errorFound c 0 a).core c).regs.rs = linesWrite (s.core c).regs.rs (a / 8 * 8 % 131072) 8 0 := by
        show ((s.setCore c _).core c).regs.rs = _
        rw [State.core_setCore, if_pos rfl]
      simp only [State.core_onCore, if_true, Core.space, Core.owe, hrs]
      exact ⟨linesRead_zero8 _ _ (by omega), fun b hb' => linesRead_zero8_other _ _ _ (by omega) hb'⟩
    · rintro f d x p n rfl hf hw hsrc
      refine ⟨zeroRead (a / 8 * 8) [(p, n, 0)] x, ?_, fun i hi => byteOf_zeroRead _ _ _ _ _ hi⟩
      rw [State.core_onCore, if_pos rfl, Core.owe]
      exact State.errorFound_load hf hw hsrc
  · obtain ⟨hmode, -, hpc, -⟩ := frameRetire_resumes ht h3 hf ⟨(State.stoppedBy_eq_some ht).1, ha, hn, hb⟩ (frame := frame)
    exact ⟨_, exec_frameRetire a frame true s, hmode, hpc⟩
  · obtain ⟨t, ht, hcores⟩ := exec_frameRetire_coresOnly a frame clean s
    obtain ⟨hentry, hretired, hbytes⟩ := frameRetired_one hl
    refine ⟨t, ht, by rw [hcores]; exact hentry, by rw [hcores]; exact (s.frameRetired_spec a frame).contexts, by rw [hcores]; exact hretired,
      fun hwf hclean hout j hj => ?_⟩
    rw [hcores]
    exact hbytes hwf (undirtied_of_listed hclean) hout j hj

end Sys2Proof.Machine
end

section
/-! SUPPORT. An issue that waits: the machine in which its one wait stands, before the wait is looked at (R77, R183, R186). -/
namespace Sys2Proof.Machine
open Sys2Proof.Claims

/-! Of a change of one core, what a test over all cores sees. -/

theorem Table.any_of_get {α : Type} {d : α} {q : α → Bool} (hd : q d = false) {t : Table α} {k : Nat} (h : q (t.get d k) = true) :
    (t.any fun e => q e.2) = true := by
  induction t with
  | nil => simp [Table.get, hd] at h
  | cons e r ih =>
    obtain ⟨j, v⟩ := e
    rw [Table.get] at h
    split at h
    · simp [h]
    · simp [ih h]
theorem Table.any_insert {α : Type} {d : α} {q : α → Bool} (hd : q d = false) {k : Nat} {v : α} (t : Table α)
    (h : q v = q (t.get d k)) : ((Table.insert k v t).any fun e => q e.2) = t.any fun e => q e.2 := by
  induction t with
  | nil => simpa [Table.insert, Table.get, hd] using h
  | cons e r ih =>
    obtain ⟨j, y⟩ := e
    rw [Table.insert]
    split_ifs with hlt heq
    · rw [List.any_cons, h]
      cases hq : q (Table.get d ((j, y) :: r) k) with
      | false => rfl
      | true => rw [Table.any_of_get hd hq]; rfl
    · subst heq
      simp [h, Table.get]
    · rw [Table.get, if_neg (Ne.symm heq)] at h
      simp [ih h]
/-- A core that changes in nothing that the test sees. -/
theorem State.any_onCore {q : Core → Bool} (hd : q {} = false) {s : State} {c : Nat} {f : Core → Core} (hne : f (s.core c) ≠ {})
    (h : q (f (s.core c)) = q (s.core c)) : ((s.onCore c f).cores.any fun e => q e.2) = s.cores.any fun e => q e.2 := by
  show ((s.cores.put {} c (f (s.core c))).any fun e => q e.2) = _
  rw [Table.put, if_neg hne]
  exact Table.any_insert hd _ h

/-! The claims of cells that are still to be written. -/

/-- The cores that hold a claim of a channel's cell that is still to be written (R29). -/
def State.cellClaimed (s : State) (key ring depth : Nat) : Bool := s.cores.any fun e => e.2.claims key ring depth
theorem State.noteLead_cellClaimed (s : State) (c code key ring depth : Nat) :
    (s.noteLead c code).cellClaimed key ring depth = s.cellClaimed key ring depth := by
  unfold State.noteLead
  dsimp only
  split
  · rfl
  · refine State.any_onCore (q := fun k => k.claims key ring depth) rfl (fun h => ?_) rfl
    have := congrArg (fun k : Core => k.ctl.glog.length) h
    simp at this
theorem State.noteIssue_cellClaimed (s : State) (c n wt key ring depth : Nat) :
    (s.onCore c (Core.noteIssue n wt)).cellClaimed key ring depth = s.cellClaimed key ring depth :=
  State.any_onCore (q := fun k => k.claims key ring depth) rfl (fun h => Nat.one_ne_zero (congrArg (fun k : Core => k.ctl.did) h)) rfl

/-! The machine in which a wait stands. -/

/-- The machine in which the bundle of record w stands and waits, its issue noted with transfer code `code` (R77, R186, R275). -/
def State.standing (s : State) (c code : Nat) (w : Waiting) : State :=
  (((s.noteLead c code).onCore c (Core.noteIssue (s.cycleOf c) w.weight)).makeTentative c w.undo s.handoffs).onCore c fun k =>
    { k with ctl := { k.ctl with wait := some w } }
/-- In machine v core c stands and waits with record w, and nothing but that and the note of its issue has changed since p. -/
structure Stands (p : State) (c : Nat) (w : Waiting) (v : State) : Prop where
  rest : v = { p with cores := v.cores, granules := v.granules, handoffs := v.handoffs, records := v.records }
  others : ∀ d, d ≠ c → (v.core d).unlogged = (p.core d).unlogged
  wait : (v.core c).ctl.wait = some w
  noted : Noted (p.core c) (v.core c)
  pc : (v.core c).ctl.pc = (p.core c).ctl.pc
  claims : ∀ key ring depth, v.cellClaimed key ring depth = p.cellClaimed key ring depth
theorem Noted.trans {a b c : Core} (h : Noted a b) (h' : Noted b c) : Noted a c :=
  ⟨h.kept.trans h'.kept, h'.regs.trans h.regs, h'.flights.trans h.flights, h'.seq.trans h.seq, h'.mode.trans h.mode⟩
/-- A bundle that did not wait before, and whose one wait has claimed nothing yet, stands (R186). -/
theorem State.standing_stands {p : State} {c code : Nat} {w : Waiting} {x : Wait} (hwait : (p.core c).ctl.wait = none)
    (hback : (p.core c).ctl.back = none) (hw : w.waits = [x]) (hx : x.claim = none) : Stands p c w (p.standing c code w) := by
  have hlead := p.noteLead_onlyCore c code
  obtain ⟨f, g, hcore⟩ := noted_core p c (p.cycleOf c) w.weight code
  have hnoted := noted p c (p.cycleOf c) w.weight code
  have hclaims : ∀ key ring depth, ((p.noteLead c code).onCore c (Core.noteIssue (p.cycleOf c) w.weight)).cellClaimed key ring depth =
      p.cellClaimed key ring depth := fun key ring depth => (State.noteIssue_cellClaimed ..).trans (State.noteLead_cellClaimed ..)
  have honly : OnlyCore c p ((p.noteLead c code).onCore c (Core.noteIssue (p.cycleOf c) w.weight)) := hlead.trans (.onCore ..)
  have hmake := ((p.noteLead c code).onCore c (Core.noteIssue (p.cycleOf c) w.weight)).makeTentative_claimsOnly c w.undo p.handoffs
  unfold State.standing
  generalize (p.noteLead c code).onCore c (Core.noteIssue (p.cycleOf c) w.weight) = q at *
  generalize q.makeTentative c w.undo p.handoffs = u at *
  have hcores : u.cores = q.cores := by rw [hmake]
  have hu : ∀ d, u.core d = q.core d := fun d => by rw [State.core, hcores]; rfl
  have hv : (u.onCore c fun k => { k with ctl := { k.ctl with wait := some w } }).core c =
      { q.core c with ctl := { (q.core c).ctl with wait := some w } } := by simp [hu]
  refine ⟨?_, fun d hd => ?_, by simp, ?_, ?_, fun key ring depth => ?_⟩
  · show State.onCore u c _ = _
    simp only [State.onCore, State.setCore]
    rw [hmake, honly.rest]
  · rw [State.core_onCore, if_neg hd, hu]
    exact honly.others d hd
  · rw [hv]
    exact hnoted.trans ⟨⟨fun _ => rfl, rfl, rfl, rfl, rfl, rfl, rfl, rfl, rfl, rfl, rfl, rfl⟩, rfl, rfl, rfl, rfl⟩
  · rw [hv, hcore]
  · have hset : (u.onCore c fun k => { k with ctl := { k.ctl with wait := some w } }).cellClaimed key ring depth =
        u.cellClaimed key ring depth := by
      refine State.any_onCore (q := fun k => k.claims key ring depth) rfl (fun h => ?_) ?_
      · exact absurd (congrArg (fun k : Core => k.ctl.wait) h) (by simp)
      · rw [hu, hcore]
        simp [Core.claims, hwait, hback, hw, hx]
    rw [hset, ← hclaims, State.cellClaimed, hcores]
    rfl
/-- A channel as core c finds it where its bundle stands. -/
theorem Stands.channel {p v : State} {c : Nat} {w : Waiting} (h : Stands p c w v) (key : Nat) : v.channel key = p.channel key := by
  rw [h.rest]; rfl
theorem Stands.cellFree {p v : State} {c : Nat} {w : Waiting} (h : Stands p c w v) (key : Nat) : v.cellFree key = p.cellFree key := by
  have hcl := h.claims key ((p.channel key).ws % max (p.channel key).depth 1) (p.channel key).depth
  simp only [State.cellClaimed] at hcl
  have hplace : ∀ ch j, v.cellPlace ch j = p.cellPlace ch j := fun ch j => by rw [h.rest]; rfl
  have hfull : ∀ a, v.cellFull a = p.cellFull a := fun a => by rw [h.rest]; rfl
  simp only [State.cellFree, h.channel, hplace, hfull, hcl]
theorem Stands.ic {p v : State} {c : Nat} {w : Waiting} (h : Stands p c w v) : (v.core c).ic = (p.core c).ic := by
  simp only [Core.ic, h.noted.kept.csr]

/-- An issue with a wait that takes up no earlier one stands, and its wait is looked at (R186). -/
theorem State.finishIssue_waits {s : State} {c : Nat} {fr : Frame} {ops : List SlotOp} {outs : List (SlotOp × Out)} {x : Wait}
    (hback : (s.core c).ctl.back = none) (hw : (s.issueRecord c fr ops { s := s, outs := outs }).waits = [x]) :
    s.finishIssue c fr ops { s := s, outs := outs } =
      (s.standing c ((s.transferOutcome c outs).getD 0) (s.issueRecord c fr ops { s := s, outs := outs })).pollBundle c := by
  have hb : (s.core c).waitBack = none := by simp [Core.waitBack, hback]
  have hne : (s.issueRecord c fr ops { s := s, outs := outs }).waits.isEmpty = false := by simp [hw]
  simp only [State.finishIssue, hb, Waiting.continued, hne, Bool.false_eq_true, if_false]
  rfl

end Sys2Proof.Machine
end

section
/-! SUPPORT. An operation of one wait, alone in its bundle: its issue stands, and its commit reads its sources (R77, R80, R186, R224). -/
namespace Sys2Proof.Machine
open Sys2Proof.Claims

/-! What precedes an issue leaves the wait of its core. -/

theorem Core.landDue_ctl (k : Core) (n : Nat) (v : Bool) : (k.landDue n v).ctl = k.ctl := by
  have hS : ∀ (k : Core) f d x, (k.landS f d x).ctl = k.ctl := fun k f d x => by
    unfold Core.landS
    dsimp only
    split <;> simp
  have hV : ∀ (k : Core) f a x m fl, (k.landV f a x m fl).ctl = k.ctl := fun k f a x m fl => by
    unfold Core.landV
    dsimp only
    (repeat' split) <;> rfl
  unfold Core.landDue
  generalize k.flights = fs
  induction fs generalizing k with
  | nil => rfl
  | cons f r ih =>
    rw [List.foldl_cons, ih]
    (repeat' split) <;> simp only [hS, hV]
theorem State.landNow_ctl (s : State) (c : Nat) : ((s.landNow c).core c).ctl = (s.core c).ctl := by
  unfold State.landNow
  dsimp only
  split
  · rfl
  · simp [Core.landDue_ctl]
theorem State.notePromise_wait (s : State) (c : Nat) : ((s.notePromise c).core c).ctl.wait = (s.core c).ctl.wait := by
  unfold State.notePromise
  dsimp only
  split
  · rfl
  · simp
theorem State.unclaimAll_cores (s : State) (ws : List Wait) : (s.unclaimAll ws).cores = s.cores := by
  unfold State.unclaimAll
  induction ws generalizing s with
  | nil => rfl
  | cons x r ih =>
    rw [List.foldl_cons, ih]
    split <;> rfl
theorem State.dropBack_wait (s : State) (c : Nat) : ((s.dropBack c).core c).ctl.wait = (s.core c).ctl.wait := by
  unfold State.dropBack
  split
  · next b _ _ =>
    rw [State.core_onCore, if_pos rfl]
    exact congrArg (fun T : Table Core => (T.get {} c).ctl.wait) (s.unclaimAll_cores b.waits)
  · rfl
/-- A core that issues does not wait. -/
theorem State.issuer_wait {s : State} {i : Instr} (h : s.clears i = true) : (s.issuer i).ctl.wait = none := by
  simp only [State.clears, Bool.and_eq_true] at h
  have hp := h.1
  unfold State.passes at hp
  split at hp
  · exact absurd hp (by simp)
  · next x w he =>
    simp only [Bool.and_eq_true, State.atIssue, Option.isNone_iff_eq_none, beq_iff_eq] at hp
    obtain ⟨⟨⟨⟨⟨⟨⟨_, hwait⟩, _⟩, _⟩, _⟩, hnone⟩, _⟩, _⟩ := hp
    have hl : s.landed = ((s.landNow s.turn).notePromise s.turn).dropBack s.turn := by
      unfold State.landed State.beforeIssue
      dsimp only
      split
      · rfl
      · next h => simp [State.beforeIssue, h] at hnone
    rw [State.issuer, State.prepared_core he, hl, State.dropBack_wait, State.notePromise_wait, State.landNow_ctl, hwait]

/-! What reading a slot's sources does at its commit. -/

/-- The effects by which a slot's sources are read: a latch is loaded, a head is consumed (R80, R224). -/
def Eff.ofSource : Eff → Bool
  | .latch .. | .consume .. => true
  | _ => false
/-- The sources of a slot of core c have been read between s and t. -/
structure SourcesRead (c : Nat) (s t : State) : Prop where
  core : LatchesOnly (s.core c) (t.core c)
  others : ∀ d, d ≠ c → t.core d = s.core d
  channel : ∀ key, (t.channel key).ws = (s.channel key).ws ∧ (t.channel key).lw = (s.channel key).lw
theorem LatchesOnly.trans {a b k : Core} (h : LatchesOnly a b) (h' : LatchesOnly b k) : LatchesOnly a k := by
  unfold LatchesOnly at *; rw [h', h]
theorem SourcesRead.refl (c : Nat) (s : State) : SourcesRead c s s := ⟨rfl, fun _ _ => rfl, fun _ => ⟨rfl, rfl⟩⟩
theorem SourcesRead.trans {c : Nat} {s t u : State} (h : SourcesRead c s t) (h' : SourcesRead c t u) : SourcesRead c s u :=
  ⟨h.core.trans h'.core, fun d hd => (h'.others d hd).trans (h.others d hd),
    fun key => ⟨(h'.channel key).1.trans (h.channel key).1, (h'.channel key).2.trans (h.channel key).2⟩⟩
theorem State.consumeCell_sourcesRead (c : Nat) (s : State) (key : Nat) : SourcesRead c s (s.consumeCell key) := by
  unfold State.consumeCell
  split
  · exact .refl c s
  · refine ⟨rfl, fun _ _ => rfl, fun j => ?_⟩
    rw [State.channel_onChannel]
    split
    · next h => rw [h]; exact ⟨rfl, rfl⟩
    · exact ⟨rfl, rfl⟩
theorem Eff.apply_sourcesRead {e : Eff} (h : e.ofSource = true) (c g cyc : Nat) (s : State) : SourcesRead c s (e.apply c g cyc s) := by
  cases e with
  | latch i l => exact ⟨by simp [Eff.apply, LatchesOnly], fun d hd => by simp [Eff.apply, hd], fun _ => ⟨rfl, rfl⟩⟩
  | consume key rs =>
    simp only [Eff.apply, State.consumeAt]
    split
    · exact s.consumeCell_sourcesRead c key
    · exact .refl c s
  | _ => simp [Eff.ofSource] at h
theorem applyAll_sourcesRead {es : List Eff} (h : ∀ e ∈ es, e.ofSource = true) (c g cyc : Nat) (s : State) :
    SourcesRead c s (applyAll c g cyc es s) := by
  unfold applyAll
  induction es generalizing s with
  | nil => exact .refl c s
  | cons e r ih =>
    exact (Eff.apply_sourcesRead (h e (List.mem_cons_self ..)) c g cyc s).trans (ih (fun x hx => h x (List.mem_cons_of_mem _ hx)) _)
theorem Eff.ofSource_plain {e : Eff} (h : e.ofSource = true) : e.plain = true ∧ e.countClass = none := by
  cases e <;> simp_all [Eff.ofSource, Eff.plain, Eff.countClass]

/-! The issue. -/

/-- The record of an operation in slot x, alone in its bundle, that waits for `y` and does nothing else. -/
structure Recorded (i : Instr) (s : State) (x : Slot) (r : Waiting) (y : Wait) : Prop where
  waits : r.waits = [y]
  effs : ∃ es, r.effs = [(x.ix, guardOf i, es)] ∧ ∀ e ∈ es, e.ofSource = true
  next : r.next = (s.issuer i).ctl.pc + 16
  rep : r.rep = 0
theorem State.soleOut_waits (s : State) (i : Instr) (x : Slot) (w : Word) (y : Wait) :
    (s.soleOut i x w { waits := [y] }).waits = [y] ∧ ∀ e ∈ (s.soleOut i x w { waits := [y] }).effs, e.ofSource = true := by
  refine ⟨rfl, fun e he => ?_⟩
  simp only [State.soleOut, List.append_nil, List.mem_append, List.mem_map] at he
  rcases he with he | ⟨key, _, rfl⟩
  · obtain ⟨j, l, rfl⟩ := mem_latchLoads he; rfl
  · rfl
/-- An operation that waits, and whose wait takes up no earlier one, stands, and its wait is looked at. -/
theorem exec_waits {i : Instr} {s : State} {x : Slot} {w : Word} {y : Wait} (hc : s.clears i = true) (he : encode i = some (x, w))
    (hn : (slotOp i).nop = false) (ht : (slotOp i).transfer = false) (hpre : (slotOp i).pre = fun _ _ => [])
    (herr : s.readable i = true) (hr : clashes (s.prepared i) s.turn [s.soleOp i x w] = [])
    (hb : (slotOp i).body { (s.soleOp i x w).ctx (s.prepared i) s.turn s.soleFrame with earlier := [] }
      ((s.soleOp i x w).vals (s.prepared i) s.turn) (s.prepared i) = .ok (s.prepared i) { waits := [y] })
    (hv : (s.issuer i).overLimit [s.soleOut i x w { waits := [y] }] = false)
    (hy : y.claim = none) (hback : (s.issuer i).ctl.back = none) :
    ∃ r, Recorded i s x r y ∧ Stands (s.prepared i) s.turn r ((s.prepared i).standing s.turn 0 r) ∧
      exec i s = .next (((s.prepared i).standing s.turn 0 r).pollBundle s.turn) := by
  have herr' : ((s.soleOp i x w).vals (s.prepared i) s.turn).findSome? (fun v => v.err) = none := by
    rw [List.findSome?_eq_none_iff]
    intro v hv
    have hall := List.all_eq_true.1 herr v (by simpa [State.sources, he] using hv)
    simpa using hall
  have hexec := exec_issue (exec_issues he s) hc he hn herr' hb hr hv (State.gangDiffers_none _ _ _ _ ht)
  obtain ⟨hwaits, heffs⟩ := s.soleOut_waits i x w y
  have hp : (slotOp i).pre ((s.prepared i).core s.turn) 0 = [] := by rw [hpre]
  obtain ⟨h1, h2, h3⟩ := soleRecord (s := s) (s2 := s.prepared i) (x := x) (w := w) (o := s.soleOut i x w { waits := [y] }) hp rfl
  have hw : ((s.prepared i).issueRecord s.turn s.soleFrame [s.soleOp i x w]
      { s := s.prepared i, outs := [(s.soleOp i x w, s.soleOut i x w { waits := [y] })] }).waits = [y] := by
    simp [State.issueRecord, hwaits]
  have hto : ((s.prepared i).transferOutcome s.turn [(s.soleOp i x w, s.soleOut i x w { waits := [y] })]).getD 0 = 0 := by
    have : (s.soleOp i x w).op.transfer = false := ht
    simp [State.transferOutcome, this]
  rw [State.finishIssue_waits hback hw, hto] at hexec
  refine ⟨_, ⟨hw, ⟨_, ?_, heffs⟩, ?_, h3⟩, State.standing_stands (State.issuer_wait hc) hback hw hy, hexec⟩
  · rw [h1]; simp [guardOf, he]
  · rw [h2, State.soleFrame, State.issuer, State.prepared_core he]

end Sys2Proof.Machine
end

section
/-! SUPPORT. The outcome of a wait at its issue, and the writes of a channel (R29, R196-R198, R307). -/
namespace Sys2Proof.Machine
open Sys2Proof.Claims

/-! The bundle commits with the outcome that its wait has at once. -/

/-- The scalar registers and the mode of core c, and the other cores, are as in p. -/
structure Still (c : Nat) (p t : State) : Prop where
  scalars : ScalarKept [] (p.core c) (t.core c)
  mode : (t.core c).ctl.mode = (p.core c).ctl.mode
  others : ∀ d, d ≠ c → (t.core d).unlogged = (p.core d).unlogged
/-- So are the control registers of core c: all that a bundle changes by reading its sources and by waiting is elsewhere. -/
structure Unmoved (c : Nat) (p t : State) : Prop where
  still : Still c p t
  csr : ∀ n, (t.core c).csr n = (p.core c).csr n
theorem Still.trans {c : Nat} {p s t : State} (h : Still c p s) (h' : Still c s t) : Still c p t :=
  ⟨fun n hn => ⟨(h'.scalars n hn).1.trans (h.scalars n hn).1, (h'.scalars n hn).2.trans (h.scalars n hn).2⟩, h'.mode.trans h.mode,
    fun d hd => (h'.others d hd).trans (h.others d hd)⟩
theorem Unmoved.trans {c : Nat} {p s t : State} (h : Unmoved c p s) (h' : Unmoved c s t) : Unmoved c p t :=
  ⟨h.still.trans h'.still, fun n => (h'.csr n).trans (h.csr n)⟩
theorem Stands.unmoved {p v : State} {c : Nat} {w : Waiting} (h : Stands p c w v) : Unmoved c p v :=
  ⟨⟨fun n _ => h.noted.scalars n, h.noted.mode, h.others⟩, h.noted.kept.csr⟩
/-- A core whose wait has changed, and that has read its sources. -/
theorem Unmoved.read {c : Nat} {s t : State} {k : Core} (hw : WaitOnly (s.core c) k) (hl : LatchesOnly k (t.core c))
    (ho : ∀ d, d ≠ c → t.core d = s.core d) : Unmoved c s t := by
  refine ⟨⟨fun n _ => ?_, ?_, fun d hd => by rw [ho d hd]⟩, fun n => ?_⟩
  · rw [hl, hw]; exact ⟨rfl, rfl⟩
  · rw [hl, hw]
  · rw [hl, hw]; rfl

/-- The record of a bundle whose one wait has come to `y`. -/
def Waiting.settled (w : Waiting) (y : Wait) : Waiting := { w with waits := [y] }
/-- The machine in which a bundle that has waited with one wait commits, the wait having come to `y` in u (R275, R359). -/
def State.looked (u : State) (c : Nat) (w : Waiting) (y : Wait) : State :=
  ((u.onCore c (Core.putWait 0 y)).onCore c (Core.countWait w.code)).claimed c (w.settled y)
theorem State.looked_spec (u : State) (c : Nat) (w : Waiting) (y : Wait) :
    WaitOnly (u.core c) ((u.looked c w y).core c) ∧ (∀ d, d ≠ c → (u.looked c w y).core d = u.core d) ∧
      ∀ key, (u.looked c w y).channel key = u.channel key := by
  have hcl := State.claimed_claimsOnly ((u.onCore c (Core.putWait 0 y)).onCore c (Core.countWait w.code)) c (w.settled y)
  have hcore : ∀ d, (u.looked c w y).core d = ((u.onCore c (Core.putWait 0 y)).onCore c (Core.countWait w.code)).core d :=
    fun d => by rw [State.looked, hcl]; rfl
  refine ⟨?_, fun d hd => ?_, fun key => ?_⟩
  · rw [hcore]; exact u.putWait_core c w.code y
  · rw [hcore]; simp [hd]
  · rw [State.looked, hcl]; rfl

/-- Behind the effects of its slot, a bundle that stands and has come to an outcome has read its sources, and no more. -/
theorem Stands.slotDone {p v u : State} {c g : Nat} {w : Waiting} {y : Wait} {es : List Eff} (hs : Stands p c w v) (hu : u.cores = v.cores)
    (hes : ∀ e ∈ es, e.ofSource = true) :
    let A := applyAll c g w.cyc es (u.looked c w y)
    Unmoved c p A ∧ ∀ key, (A.channel key).ws = (u.channel key).ws ∧ (A.channel key).lw = (u.channel key).lw := by
  have hcore : ∀ d, u.core d = v.core d := fun d => by rw [State.core, hu]; rfl
  obtain ⟨hwait, hothers, hchan⟩ := u.looked_spec c w y
  have hread := applyAll_sourcesRead hes c g w.cyc (u.looked c w y)
  refine ⟨hs.unmoved.trans (.read (hcore c ▸ hwait) hread.core fun d hd => ?_), fun key => hchan key ▸ hread.channel key⟩
  rw [hread.others d hd, hothers d hd, hcore]
/-- The wait of a bundle that stands comes to an outcome when it is looked at: the bundle commits (R183, R186). -/
theorem Stands.commits {p v u : State} {c : Nat} {w : Waiting} {x y : Wait} (hs : Stands p c w v) (hw : w.waits = [x])
    (hpoll : v.pollWait c x = (y, u)) (hu : u.cores = v.cores) (ho : y.out.isSome = true) :
    v.pollBundle c = ((u.onCore c (Core.putWait 0 y)).onCore c (Core.countWait w.code)).commitBundle c (w.settled y) := by
  have hcore : u.core c = v.core c := by rw [State.core, hu]; rfl
  refine (State.lookBundle_one hs.wait hw hpoll (hcore ▸ hs.wait)).trans ?_
  rw [if_pos ho]; rfl
/-- A bundle that stands commits with an outcome that is no timeout: its status stands in its register, and ESCN is 0 (R9, R182, R185). -/
theorem Stands.commits_status {p v u : State} {code d m : Nat} {w : Waiting} {i : Instr} {s : State} {x : Slot} {y z : Wait} {c : Nat}
    (hs : Stands p c w v) (hr : Recorded i s x w y) (hpoll : v.pollWait c y = (z, u)) (hu : u.cores = v.cores) (hslot : z.slot = x.ix)
    (ho : z.out = some (code, d, m)) (ht : isTimeout code = false) (hk : z.kind.status = true) :
    ∃ A, Unmoved c p A ∧ (∀ key, (A.channel key).ws = (u.channel key).ws ∧ (A.channel key).lw = (u.channel key).lw) ∧
      let B := applyAll c z.guard w.cyc z.effs A
      let t := v.pollBundle c
      Finished c (w.settled z) B t ∧ Holds (t.core c) z.st (statusWord code d m) z.guard ∧ ScalarKept [z.st] (B.core c) (t.core c) ∧
        (t.core c).csr csrESCN = 0 := by
  obtain ⟨hw, ⟨es, heffs, hes⟩, _, _⟩ := hr
  obtain ⟨hA, hchan⟩ := hs.slotDone (g := guardOf i) (y := z) hu hes
  refine ⟨_, hA, hchan, ?_⟩
  rw [hs.commits hw hpoll hu (by simp [ho])]
  exact commitBundle_status (w := w.settled z) rfl (by rw [hslot]; exact heffs) (fun e he => (Eff.ofSource_plain (hes e he)).1) ho ht hk
/-- A bundle that stands commits with the outcome of a wait without a status (R198). -/
theorem Stands.commits_noStatus {p v u : State} {code d m : Nat} {w : Waiting} {i : Instr} {s : State} {x : Slot} {y z : Wait} {c : Nat}
    (hs : Stands p c w v) (hr : Recorded i s x w y) (hpoll : v.pollWait c y = (z, u)) (hu : u.cores = v.cores) (hslot : z.slot = x.ix)
    (ho : z.out = some (code, d, m)) (ht : isTimeout code = false) (hk : z.kind.status = false) :
    ∃ A, Unmoved c p A ∧ (∀ key, (A.channel key).ws = (u.channel key).ws ∧ (A.channel key).lw = (u.channel key).lw) ∧
      let B := applyAll c z.guard w.cyc z.effs A
      let t := v.pollBundle c
      Finished c (w.settled z) B t ∧ ScalarKept [] (B.core c) (t.core c) ∧ (t.core c).csr csrESCN = (B.core c).csr csrESCN := by
  obtain ⟨hw, ⟨es, heffs, hes⟩, _, _⟩ := hr
  obtain ⟨hA, hchan⟩ := hs.slotDone (g := guardOf i) (y := z) hu hes
  refine ⟨_, hA, hchan, ?_⟩
  rw [hs.commits hw hpoll hu (by simp [ho])]
  exact commitBundle_noStatus (w := w.settled z) rfl (by rw [hslot]; exact heffs) (fun e he => (Eff.ofSource_plain (hes e he)).1) ho ht hk

/-- The wait of a bundle that stands has no outcome when it is looked at: the bundle stands on (R186). -/
theorem Stands.stays {p v : State} {c : Nat} {w : Waiting} {x : Wait} (hs : Stands p c w v) (hw : w.waits = [x])
    (hpoll : v.pollWait c x = (x, v)) (ho : x.out = none) :
    let t := v.pollBundle c
    (t.core c).ctl.wait = some (w.settled x) ∧ (t.core c).ctl.pc = (p.core c).ctl.pc ∧ (t.core c).regs = (p.core c).regs ∧
      ∀ key, t.channel key = p.channel key := by
  intro t
  have ht : t = v.onCore c (Core.putWait 0 x) :=
    (State.lookBundle_one (look := fun s _ x => s.pollWait c x) hs.wait hw hpoll hs.wait).trans (if_neg (by simp [ho]))
  have hcore : t.core c = Core.putWait 0 x (v.core c) := by rw [ht]; simp
  refine ⟨?_, ?_, ?_, fun key => ?_⟩
  · rw [hcore]; simp [Core.putWait, hs.wait, hw, Waiting.settled]
  · rw [hcore]; exact hs.pc
  · rw [hcore]; exact hs.noted.regs
  · rw [ht]; exact hs.channel key

/-! A cell that leaves. -/

/-- A claimed cell leaves its core: it is in flight, counted where it holds a value (R197, R360). -/
theorem cellOut_spec (c g cyc key r : Nat) (data : List Byte) (ic : Nat) (pres : Bool) (A : State) :
    let B := applyAll c g cyc [.cellOut key r data ic pres] A
    Still c A B ∧ (∀ n, n ≠ csrOUT + 1 → (B.core c).csr n = (A.core c).csr n) ∧
      (B.core c).csr (csrOUT + 1) = wordN ((A.core c).out 1 + if pres then 1 else 0) ∧ (∀ j, B.channel j = A.channel j) ∧
      ∃ f ∈ (B.core c).flights, f.what = .cell key r data ic pres := by
  intro B
  have hB : B = A.onCore c fun k => (k.launch g (.cell key r data ic pres)).addOut 1 (if pres then 1 else 0) := rfl
  have hcore : B.core c = ((A.core c).launch g (.cell key r data ic pres)).addOut 1 (if pres then 1 else 0) := by rw [hB]; simp
  refine ⟨⟨fun n _ => by rw [hcore]; exact ⟨rfl, rfl⟩, by rw [hcore]; rfl, fun d hd => by rw [hB]; simp [hd]⟩, fun n hn => ?_, ?_,
    fun j => by rw [hB]; simp, ?_⟩
  · rw [hcore]; simp [Core.addOut, Core.launch, hn]; rfl
  · rw [hcore]
    cases pres <;> simp [Core.addOut, Core.out, Core.launch] <;> rfl
  · rw [hcore]
    exact ⟨_, List.mem_append_right _ (List.mem_singleton.2 rfl), rfl⟩
/-- A claim of a cell takes the next sequence number and the core's instant (R197, R307). -/
theorem State.claimCell_channel (s : State) (c key : Nat) :
    ((s.claimCell c key).channel key).ws = (s.channel key).ws + 1 ∧ ((s.claimCell c key).channel key).lw = (s.core c).ic ∧
      ((s.claimCell c key).channel key).rs = (s.channel key).rs := by
  simp [State.claimCell]

end Sys2Proof.Machine
end

section
/-! `CHWR` and `ABSN` (R29, R196-R198, R307). -/
namespace Sys2Proof.Machine
open Sys2Proof.Claims

/-! The looks at the waits of the two. -/

theorem State.pollWait_chwr_denied {s : State} {c key : Nat} {data : List Byte} {x : Wait} (ho : x.out = none)
    (hk : x.kind = .chwr key data) (h : ((s.core c).ic : Int) ≤ (s.channel key).lw) : s.pollWait c x = (x.done stDENIED 0 0 [], s) := by
  simp [State.pollWait, ho, hk, h]
theorem State.pollWait_chwr_claims {s : State} {c key : Nat} {data : List Byte} {x : Wait} (ho : x.out = none)
    (hk : x.kind = .chwr key data) (h : (s.channel key).lw < ((s.core c).ic : Int)) (hf : s.cellFree key = true) :
    s.pollWait c x = ({ x with claim := some (key, (s.channel key).ws, (s.channel key).lw) }.done stOK 0 ((s.claimCell c key).occupied key)
      [s.cellEff c key true data], s.claimCell c key) := by
  simp [State.pollWait, ho, hk, hf, not_le.2 h]
theorem State.pollWait_chwr_waits {s : State} {c key : Nat} {data : List Byte} {x : Wait} (ho : x.out = none)
    (hk : x.kind = .chwr key data) (h : (s.channel key).lw < ((s.core c).ic : Int)) (hf : s.cellFree key = false) :
    s.pollWait c x = (x, s) := by
  simp [State.pollWait, ho, hk, hf, not_le.2 h]
theorem State.pollWait_absn_claims {s : State} {c key : Nat} {x : Wait} (ho : x.out = none)
    (hk : x.kind = .absn key) (h : (s.channel key).lw < ((s.core c).ic : Int)) (hf : s.cellFree key = true) :
    s.pollWait c x = ({ x with claim := some (key, (s.channel key).ws, (s.channel key).lw) }.done stOK 0 0 [s.cellEff c key false []],
      s.claimCell c key) := by
  simp [State.pollWait, ho, hk, hf, not_le.2 h]

/-! Their issues. -/

theorem clashes_noChannelRead {s : State} {c : Nat} {x : SlotOp} (h : bits x.word.toNat 63 56 ≠ 0x58 ∧ bits x.word.toNat 63 56 ≠ 0x59) :
    clashes s c [x] = [] := by
  have hr : x.reads s c = none := by simp [SlotOp.reads, h]
  simp [clashes, hr]
/-- One waiting operation is within the limits of the counts: only a `CHWR` will add to one (R360). -/
theorem Core.overLimit_wait {k : Core} {o : Out} {y : Wait} (hw : o.waits = [y]) (he : ∀ e ∈ o.effs, e.countClass = none)
    (hk : (∃ key data, y.kind = .chwr key data) → k.out 1 < 256) : k.overLimit [o] = false := by
  have hnone : ∀ cls, (o.effs.filter fun e => e.countClass == some cls) = [] := fun cls =>
    List.filter_eq_nil_iff.2 fun e h => by simp [he e h]
  have hrise : ∀ cls, o.rise cls = 0 ∨ o.rise cls = 1 ∧ cls = 1 ∧ ∃ key data, y.kind = .chwr key data := fun cls => by
    unfold Out.rise
    rw [hnone, hw, List.filter_cons]
    cases hy : y.kind with
    | chwr key data => by_cases h : cls = 1 <;> cases ho : y.out <;> simp [h]
    | _ => simp
  unfold Core.overLimit
  rw [List.any_eq_false]
  intro cls _
  rcases hrise cls with h | ⟨h, rfl, hc⟩
  · simp [h]
  · have := hk hc
    simp [h, outLimit]
    omega

/-- The channel number and the element of a `CHWR`. -/
theorem chNum_eq (f : WF) : chNum f = f.imm.toNat / 2 ^ 12 % 256 := by simp [chNum, bits, Nat.shiftRight_eq_div_pow]
theorem chElem_eq (f : WF) : chElem f = Claims.chanElem f := by simp [chElem, Claims.chanElem, bits]

/-- A `CHWR` issues, passes every check and is within the limit of its class, and the core takes up no earlier wait (R97, R196, R360). -/
structure ChwrPasses (h : Head) (f : WF) (s : State) : Prop where
  clears : s.clears (.chwr h f) = true
  readable : s.readable (.chwr h f) = true
  fault : (s.prepared (.chwr h f)).channelFault s.turn (f.imm.toNat / 2 ^ 12 % 256) true
    (some ((s.issuer (.chwr h f)).elemSize (Claims.chanElem f))) = none
  out : (s.issuer (.chwr h f)).out 1 < 256
  back : (s.issuer (.chwr h f)).ctl.back = none
/-- The bytes that a `CHWR` writes to its channel. -/
def chwrData (h : Head) (f : WF) (s : State) : List Byte :=
  bytesOf (s.source (.chwr h f) 3) ((s.issuer (.chwr h f)).elemSize (Claims.chanElem f))
/-- A `CHWR` that passes its checks waits with the bytes of its element (R197). -/
theorem exec_chwr {h : Head} {f : WF} {s : State} (hp : ChwrPasses h f s) :
    ∃ v y r, y.out = none ∧ y.slot = h.slot.ix ∧ y.st = f.st.toNat ∧ y.guard = guardOf (.chwr h f) ∧
      y.kind = .chwr (chanKey (.chwr h f) s f) (chwrData h f s) ∧ Recorded (.chwr h f) s h.slot r y ∧
      Stands (s.prepared (.chwr h f)) s.turn r v ∧ exec (.chwr h f) s = .next (v.pollBundle s.turn) := by
  obtain ⟨hc, herr, hfault, hout, hback⟩ := hp
  have he : encode (.chwr h f) = some (h.slot, h.pack 0x5A ++ f.pack) := rfl
  have hop := opcode_pack h 0x5A f.pack
  rw [State.issuer, ← chNum_eq] at hfault
  let x := s.soleOp (.chwr h f) h.slot (h.pack 0x5A ++ f.pack)
  let y := waitOf (x.ctx (s.prepared (.chwr h f)) s.turn s.soleFrame) f (x.vals (s.prepared (.chwr h f)) s.turn)
    (.chwr (chanKey (.chwr h f) s f) (chwrData h f s))
  obtain ⟨hwaits, heffs⟩ := s.soleOut_waits (.chwr h f) h.slot (h.pack 0x5A ++ f.pack) y
  obtain ⟨r, hr, hs, hexec⟩ := exec_waits (y := y) hc he rfl rfl rfl herr
    (clashes_noChannelRead ⟨by rw [show (s.soleOp _ _ _).word = h.pack 0x5A ++ f.pack from rfl, hop]; decide,
      by rw [show (s.soleOp _ _ _).word = h.pack 0x5A ++ f.pack from rfl, hop]; decide⟩)
    (by
      have hkey : (s.prepared (.chwr h f)).channelKey s.turn (chNum f) = chanKey (.chwr h f) s f := by rw [chNum_eq]; rfl
      show (opChwr f).body _ _ _ = _
      simp only [opChwr, SlotOp.ctx, chElem_eq, hfault, hkey]
      rfl)
    (Core.overLimit_wait hwaits (fun e he => (Eff.ofSource_plain (heffs e he)).2) fun _ => hout) rfl hback
  exact ⟨_, y, r, rfl, rfl, rfl, rfl, rfl, hr, hs, hexec⟩
/-- The wait of an `ABSN` in slot n for a cell of a channel (R198). -/
def absnWait (n key dl : Nat) (w : Word) : Wait :=
  { slot := n, kind := .absn key, st := 0, wall := false, dl := dl, esc := false, word := w, guard := bits w.toNat 55 51 }
/-- An `ABSN` that passes its checks waits with its marker (R198). -/
theorem exec_absn {h : Head} {f : XF} {s : State} (hc : s.clears (.absn h f) = true)
    (hfault : (s.prepared (.absn h f)).channelFault s.turn (f.imm.toNat % 256) true none = none)
    (hback : (s.issuer (.absn h f)).ctl.back = none) :
    ∃ v y r, y.out = none ∧ y.slot = h.slot.ix ∧ y.kind = .absn ((s.prepared (.absn h f)).channelKey s.turn (f.imm.toNat % 256)) ∧
      Recorded (.absn h f) s h.slot r y ∧ Stands (s.prepared (.absn h f)) s.turn r v ∧
      exec (.absn h f) s = .next (v.pollBundle s.turn) := by
  have he : encode (.absn h f) = some (h.slot, h.pack 0x5B ++ f.pack) := rfl
  have hop := opcode_pack h 0x5B f.pack
  have hn : bits f.imm.toNat 7 0 = f.imm.toNat % 256 := by simp [bits]
  let p := s.prepared (.absn h f)
  let key := p.channelKey s.turn (f.imm.toNat % 256)
  let y := absnWait h.slot.ix key (2 ^ (p.channel key).mdl) (h.pack 0x5B ++ f.pack)
  obtain ⟨hwaits, heffs⟩ := s.soleOut_waits (.absn h f) h.slot (h.pack 0x5B ++ f.pack) y
  obtain ⟨r, hr, hs, hexec⟩ := exec_waits (y := y) hc he rfl rfl rfl rfl
    (clashes_noChannelRead ⟨by rw [show (s.soleOp _ _ _).word = h.pack 0x5B ++ f.pack from rfl, hop]; decide,
      by rw [show (s.soleOp _ _ _).word = h.pack 0x5B ++ f.pack from rfl, hop]; decide⟩)
    (by
      show (opAbsn f).body _ _ _ = _
      simp only [opAbsn, SlotOp.ctx, hn, hfault]
      rfl)
    (Core.overLimit_wait hwaits (fun e he => (Eff.ofSource_plain (heffs e he)).2) (by simp [y, absnWait])) rfl hback
  exact ⟨_, y, r, rfl, rfl, rfl, hr, hs, hexec⟩

/-! Their outcomes. -/

/-- What a core whose bundle has committed has come to, where the bundle's effects have left it still. -/
theorem Finished.resolved {i : Instr} {s B t : State} {w : Waiting} {x : Slot} {y z : Wait} {ds : List Nat}
    (hf : Finished s.turn (w.settled z) B t) (hr : Recorded i s x w y) (hB : Still s.turn (s.prepared i) B)
    (hk : ScalarKept ds (B.core s.turn) (t.core s.turn)) :
    MovedOn (s.issuer i) (t.core s.turn) ∧ ScalarKept ds (s.issuer i) (t.core s.turn) ∧
      (∀ d, d ≠ s.turn → (t.core d).unlogged = ((s.prepared i).core d).unlogged) ∧ ∀ key, t.channel key = B.channel key := by
  refine ⟨⟨hf.pc.trans hr.next, hf.rep.trans hr.rep, hf.wait, hf.mode.trans hB.mode⟩, fun n hn => ?_, fun d hd => ?_, fun key => ?_⟩
  · obtain ⟨h1, h2⟩ := hB.scalars n (by simp)
    exact ⟨(hk n hn).1.trans h1, (hk n hn).2.trans h2⟩
  · rw [hf.others d hd]; exact hB.others d hd
  · rw [hf.rest]; rfl
/-- What a `CHWR` or `ABSN` leaves where it has claimed cell `key`: the claim, and the cell in flight. -/
theorem Finished.cellSent {B t A v : State} {w : Waiting} {c key r ic cyc g : Nat} {data : List Byte} {pres : Bool}
    (hB : B = applyAll c g cyc [.cellOut key r data ic pres] A) (hf : Finished c w B t)
    (hA : ∀ j, (A.channel j).ws = ((v.claimCell c key).channel j).ws ∧ (A.channel j).lw = ((v.claimCell c key).channel j).lw) :
    (t.channel key).ws = (v.channel key).ws + 1 ∧ (t.channel key).lw = (v.core c).ic ∧
      (t.core c).csr (csrOUT + 1) = wordN ((A.core c).out 1 + if pres then 1 else 0) ∧
      ∃ f ∈ (t.core c).flights, f.what = .cell key r data ic pres := by
  obtain ⟨_, _, hout, hchan, f, hf', hwhat⟩ := cellOut_spec c g cyc key r data ic pres A
  rw [← hB] at hout hchan hf'
  obtain ⟨hws, hlw, _⟩ := v.claimCell_channel c key
  have ht : t.channel key = A.channel key := by rw [hf.rest]; exact hchan key
  obtain ⟨q, hq, hqw⟩ := hf.flying f hf'
  refine ⟨?_, ?_, (hf.csr _ (by decide)).trans hout, q, hq, hqw.trans hwhat⟩
  · rw [ht, (hA key).1, hws]
  · rw [ht, (hA key).2, hlw]

/-- A second value for an instant is denied (R197). -/
theorem chwr_denied {h : Head} {f : WF} {s : State} (hp : ChwrPasses h f s) :
    let p := s.prepared (.chwr h f)
    let key := chanKey (.chwr h f) s f
    ((s.issuer (.chwr h f)).ic : Int) ≤ (p.channel key).lw →
      Resolves (.chwr h f) s f.st stDENIED 0 0 fun t => (t.channel key).ws = (p.channel key).ws := by
  intro p key hlw _
  obtain ⟨v, y, r, hyout, hslot, hst, hguard, hkind, hr, hs, hexec⟩ := exec_chwr hp
  have hpoll := State.pollWait_chwr_denied hyout hkind (s := v) (c := s.turn) (by rw [hs.ic, hs.channel]; exact hlw)
  obtain ⟨A, hA, hchan, hfin, hholds, hkept, hescn⟩ := hs.commits_status hr hpoll rfl hslot rfl rfl
    (by simp [Wait.done, hkind, WaitKind.status])
  obtain ⟨hmoved, hregs, hothers, hch⟩ := hfin.resolved hr hA.still hkept
  simp only [Wait.done, hst, hguard] at hholds hregs
  refine ⟨_, hexec, hmoved, hregs, hholds, hescn, hothers, ?_⟩
  exact (congrArg Channel.ws (hch key)).trans ((hchan key).1.trans (congrArg Channel.ws (hs.channel key)))
/-- A `CHWR` into a free cell claims it (R197, R307). -/
theorem chwr_claims {h : Head} {f : WF} {s : State} (hp : ChwrPasses h f s) :
    let p := s.prepared (.chwr h f)
    let k := s.issuer (.chwr h f)
    let key := chanKey (.chwr h f) s f
    (p.channel key).lw < (k.ic : Int) → p.cellFree key = true →
      Resolves (.chwr h f) s f.st stOK 0 ((p.channel key).ws + 1 - (p.channel key).rs) fun t =>
        (t.channel key).ws = (p.channel key).ws + 1 ∧ (t.channel key).lw = k.ic ∧ (t.core s.turn).out 1 = k.out 1 + 1 ∧
        ∃ g ∈ (t.core s.turn).flights, g.what =
          .cell key ((p.channel key).ws % max (p.channel key).depth 1) (chwrData h f s) k.ic true := by
  intro p k key hlw hfree _
  obtain ⟨v, y, r, hyout, hslot, hst, hguard, hkind, hr, hs, hexec⟩ := exec_chwr hp
  rw [show chanKey (.chwr h f) s f = key from rfl] at hkind
  have hpoll := State.pollWait_chwr_claims hyout hkind (s := v) (c := s.turn) (by rw [hs.ic, hs.channel]; exact hlw)
    (by rw [hs.cellFree]; exact hfree)
  obtain ⟨A, hA, hchan, hfin, hholds, hkept, hescn⟩ := hs.commits_status hr hpoll rfl hslot rfl rfl
    (by simp [Wait.done, hkind, WaitKind.status])
  obtain ⟨hmoved, hregs, hothers, _⟩ := hfin.resolved hr (hA.still.trans (cellOut_spec ..).1) hkept
  obtain ⟨hws, hlw', hout', hfly⟩ := hfin.cellSent rfl hchan
  obtain ⟨hclaimed, _, hrs⟩ := v.claimCell_channel s.turn key
  have hmask : (v.claimCell s.turn key).occupied key = (p.channel key).ws + 1 - (p.channel key).rs := by
    rw [State.occupied, hclaimed, hrs, hs.channel]
  simp only [Wait.done, hst, hguard, hmask] at hholds hregs
  rw [hs.channel] at hws
  rw [hs.ic] at hlw'
  rw [hs.channel, hs.ic] at hfly
  refine ⟨_, hexec, hmoved, hregs, hholds, hescn, hothers, hws, hlw', ?_, hfly⟩
  have hA1 : (A.core s.turn).out 1 = k.out 1 := congrArg BitVec.toNat (hA.csr _)
  have hlt : k.out 1 < 256 := hp.out
  rw [Core.out, hout', hA1, if_pos rfl, wordN, BitVec.toNat_ofNat]
  omega
/-- A `CHWR` that finds no free cell waits (R197). -/
theorem chwr_waits {h : Head} {f : WF} {s : State} (hp : ChwrPasses h f s) :
    let p := s.prepared (.chwr h f)
    let key := chanKey (.chwr h f) s f
    (p.channel key).lw < ((s.issuer (.chwr h f)).ic : Int) → p.cellFree key = false →
      StandsWaiting (.chwr h f) s (.chwr key (chwrData h f s)) fun t => (t.channel key).ws = (p.channel key).ws := by
  intro p key hlw hfree _
  obtain ⟨v, y, r, hyout, _, _, _, hkind, hr, hs, hexec⟩ := exec_chwr hp
  have hpoll := State.pollWait_chwr_waits hyout hkind (s := v) (c := s.turn) (by rw [hs.ic, hs.channel]; exact hlw)
    (by rw [hs.cellFree]; exact hfree)
  obtain ⟨hwait, hctl, hregs, hch⟩ := hs.stays hr.waits hpoll hyout
  exact ⟨_, _, y, hexec, hwait, rfl, hkind, hyout, hctl, hregs, congrArg Channel.ws (hch key)⟩
/-- An `ABSN` into a free cell claims it for a marker (R198, R307). -/
theorem absn_claims {h : Head} {f : XF} {s : State} (hc : s.clears (.absn h f) = true) :
    let p := s.prepared (.absn h f)
    let k := s.issuer (.absn h f)
    let key := p.channelKey s.turn (f.imm.toNat % 256)
    p.channelFault s.turn (f.imm.toNat % 256) true none = none → (p.channel key).lw < (k.ic : Int) → p.cellFree key = true →
    k.ctl.back = none →
    ∃ t, exec (.absn h f) s = .next t ∧ MovedOn k (t.core s.turn) ∧ ScalarKept [] k (t.core s.turn) ∧
      (∀ d, d ≠ s.turn → (t.core d).unlogged = (p.core d).unlogged) ∧ (t.core s.turn).csr csrESCN = k.csr csrESCN ∧
      (t.channel key).ws = (p.channel key).ws + 1 ∧ (t.channel key).lw = k.ic ∧
      ∃ g ∈ (t.core s.turn).flights, g.what = .cell key ((p.channel key).ws % max (p.channel key).depth 1) [] k.ic false := by
  intro p k key hfault hlw hfree hback
  obtain ⟨v, y, r, hyout, hslot, hkind, hr, hs, hexec⟩ := exec_absn hc hfault hback
  have hpoll := State.pollWait_absn_claims hyout hkind (s := v) (c := s.turn) (by rw [hs.ic, hs.channel]; exact hlw)
    (by rw [hs.cellFree]; exact hfree)
  obtain ⟨A, hA, hchan, hfin, hkept, hescn⟩ := hs.commits_noStatus hr hpoll rfl hslot rfl rfl
    (by simp [Wait.done, hkind, WaitKind.status])
  obtain ⟨hstill, hcsr, _⟩ := cellOut_spec s.turn y.guard r.cyc key ((v.channel key).ws % max (v.channel key).depth 1) []
    (v.core s.turn).ic false A
  obtain ⟨hmoved, hregs, hothers, _⟩ := hfin.resolved hr (hA.still.trans hstill) hkept
  obtain ⟨hws, hlw', _, hfly⟩ := hfin.cellSent rfl hchan
  rw [hs.channel] at hws
  rw [hs.ic] at hlw'
  rw [hs.channel, hs.ic] at hfly
  exact ⟨_, hexec, hmoved, hregs, hothers, hescn.trans ((hcsr _ (by decide)).trans (hA.csr _)), hws, hlw', hfly⟩

/-- Settles O28: a `CHWR` that its channel denies, takes or keeps waiting, and an `ABSN` that its channel takes. -/
theorem channelWrites : Obligations.ChannelWrites := by
  refine ⟨fun h f s hc herr => ?_, fun h f s hc => absn_claims hc⟩
  intro p k key e hfault hout
  have hpasses := fun hback => (⟨hc, herr, hfault, hout, hback⟩ : ChwrPasses h f s)
  exact ⟨fun hlw hback => chwr_denied (hpasses hback) hlw hback, fun hlw hfree hback => chwr_claims (hpasses hback) hlw hfree hback,
    fun hlw hfree hback => chwr_waits (hpasses hback) hlw hfree hback⟩

end Sys2Proof.Machine
end

section
/-! SUPPORT. An operation, alone in its bundle, whose one effect puts a result in flight: what its issue leaves, whatever it reads. -/
namespace Sys2Proof.Machine
open Sys2Proof.Claims

theorem applyAll_append (c g cyc : Nat) (a b : List Eff) (s : State) :
    applyAll c g cyc (a ++ b) s = applyAll c g cyc b (applyAll c g cyc a s) := List.foldl_append
/-- A launch between the latch loads of a slot and the heads that it consumes. -/
theorem LatchesOnly.launch {k a b : Core} {g : Nat} {w : Flying} (h : LatchesOnly k a) (h' : LatchesOnly (a.launch g w) b) :
    LatchesOnly (k.launch g w) b := by
  unfold LatchesOnly at *
  rw [h', h]
  rfl

/-- `i` issues alone, and leaves one result in flight; of the rest of the machine only what its sources consume changes. -/
def Launches (i : Instr) (s : State) (w : Flying) : Prop :=
  ∃ t, exec i s = .next t ∧ (s.headsOf i = [] → OnlyCore s.turn (s.prepared i) t) ∧ CoreKept (s.issuer i) (t.core s.turn) ∧
    MovedOn (s.issuer i) (t.core s.turn) ∧ ScalarKept [] (s.issuer i) (t.core s.turn) ∧
    (t.core s.turn).flights = (s.issuer i).flights ++ [{ id := (s.issuer i).ctl.seq, guard := guardOf i, what := w }]

/-- A core that has been noted, has launched a result and has read its sources, behind the last step of its commit. -/
theorem Noted.launched {k a b : Core} {g : Nat} {w : Flying} (hn : Noted k a) (hl : LatchesOnly (a.launch g w) b) (r : Waiting) :
    CoreKept k (Core.settle r b) ∧ ScalarKept [] k (Core.settle r b) ∧ b.ctl.mode = k.ctl.mode ∧
      (Core.settle r b).flights = k.flights ++ [{ id := k.ctl.seq, guard := g, what := w }] := by
  obtain ⟨_, _, _, _, _, _, _, _, _, _, _, hflights, _⟩ := Core.settle_spec r b
  refine ⟨((hn.kept.trans (.launch a g w)).trans hl.kept).trans (.settle r b), fun j _ => ?_, ?_, hflights.trans ?_⟩
  · obtain ⟨h1, h2⟩ := Core.settle_sreg r b j
    obtain ⟨h3, h4⟩ := hn.scalars j
    rw [h1, h2, hl]
    exact ⟨h3, h4⟩
  · rw [hl]; exact hn.mode
  · rw [hl, ← hn.flights, ← hn.seq]; rfl

/-- Sources that read: none of them fails (R97). -/
theorem State.vals_noError {s : State} {i : Instr} {x : Slot} {w : Word} (he : encode i = some (x, w)) (h : s.readable i = true) :
    ((s.soleOp i x w).vals (s.prepared i) s.turn).findSome? (fun v => v.err) = none := by
  rw [List.findSome?_eq_none_iff]
  intro v hv
  simpa using List.all_eq_true.1 h v (by simpa [State.sources, he] using hv)

/-- What such an operation does at its commit, effect by effect. -/
theorem State.mem_soleOut {s : State} {i : Instr} {x : Slot} {w : Word} {e e' : Eff} (h : e' ∈ (s.soleOut i x w { effs := [e] }).effs) :
    e' = e ∨ e'.ofSource = true := by
  simp only [State.soleOut, List.mem_append, List.mem_map, List.mem_singleton] at h
  rcases h with (h | rfl) | ⟨key, _, rfl⟩
  · obtain ⟨j, l, rfl⟩ := mem_latchLoads h
    exact .inr rfl
  · exact .inl rfl
  · exact .inr rfl

/-- The core at the commit of such an operation: noted, with its result launched, and its sources read. -/
theorem State.oneDone_launch {s : State} {i : Instr} {x : Slot} {w : Word} {e : Eff} {q : Flying} (hx : x.ix < 4)
    (ha : ∀ g t, e.apply s.turn g ((s.prepared i).cycleOf s.turn) t = t.onCore s.turn fun k => k.launch g q) :
    ∃ a, Noted (s.issuer i) a ∧ LatchesOnly (a.launch (bits w.toNat 55 51) q)
      (((s.prepared i).oneDone s.turn (s.soleOp i x w) (s.soleOut i x w { effs := [e] }).effs).core s.turn) := by
  refine ⟨_, noted (s.prepared i) s.turn ((s.prepared i).cycleOf s.turn) (issueWeight ((s.prepared i).core s.turn) [s.soleOp i x w])
    (((s.prepared i).transferOutcome s.turn [(s.soleOp i x w, { effs := (s.soleOut i x w { effs := [e] }).effs })]).getD 0), ?_⟩
  have hslot : ¬4 ≤ (s.soleOp i x w).slot.ix := not_le.2 hx
  simp only [State.oneDone, State.slotDone, State.afresh, List.isEmpty_nil, if_true, if_neg hslot, State.soleOut, applyAll_append]
  generalize State.onCore _ _ _ = u
  have hlatch := (applyAll_sourcesRead (es := latchLoads (s.soleOp i x w) ((s.soleOp i x w).vals (s.prepared i) s.turn))
    (fun e' h => by obtain ⟨j, l, rfl⟩ := mem_latchLoads h; rfl) s.turn (s.soleOp i x w).gk ((s.prepared i).cycleOf s.turn) u).core
  refine hlatch.launch ?_
  have hone : ∀ t, (applyAll s.turn (s.soleOp i x w).gk ((s.prepared i).cycleOf s.turn) [e] t).core s.turn =
      (t.core s.turn).launch (bits w.toNat 55 51) q := fun t => by
    rw [applyAll, List.foldl_cons, List.foldl_nil, ha, State.core_onCore, if_pos rfl]
    rfl
  rw [← hone]
  exact (applyAll_sourcesRead (fun e' h => by obtain ⟨key, _, rfl⟩ := List.mem_map.1 h; rfl) ..).core

/-- An operation that leaves the machine to its commit, and whose one effect launches a result. -/
theorem exec_launches {i : Instr} {s : State} {x : Slot} {w : Word} {e : Eff} {q : Flying} (hc : s.clears i = true)
    (he : encode i = some (x, w)) (hx : x.ix < 4) (hn : (slotOp i).nop = false) (ht : (slotOp i).transfer = false)
    (hpre : (slotOp i).pre = fun _ _ => []) (hread : s.readable i = true)
    (hr : bits w.toNat 63 56 ≠ 0x58 ∧ bits w.toNat 63 56 ≠ 0x59)
    (hb : (slotOp i).body { (s.soleOp i x w).ctx (s.prepared i) s.turn s.soleFrame with earlier := [] } (s.sources i) (s.prepared i) =
      .ok (s.prepared i) { effs := [e] })
    (hp : e.plain = true) (hct : e.countClass = none) (hl : e.local = true)
    (ha : ∀ g t, e.apply s.turn g ((s.prepared i).cycleOf s.turn) t = t.onCore s.turn fun k => k.launch g q) : Launches i s q := by
  have hsrc : s.sources i = (s.soleOp i x w).vals (s.prepared i) s.turn := by simp [State.sources, he]
  have heads : s.headsOf i = headsRead (s.prepared i) s.turn [s.soleOp i x w] := by simp [State.headsOf, he]
  have hmem := fun e' => State.mem_soleOut (s := s) (i := i) (x := x) (w := w) (e := e) (e' := e')
  have hplain : ∀ e' ∈ (s.soleOut i x w { effs := [e] }).effs, e'.plain = true ∧ e'.countClass = none := fun e' h => by
    rcases hmem e' h with rfl | h
    · exact ⟨hp, hct⟩
    · exact Eff.ofSource_plain h
  have hpre' : (s.soleOp i x w).op.pre ((s.prepared i).core s.turn) (s.soleOp i x w).ix = [] := congrFun (congrFun hpre _) _
  have hexec := exec_issue (exec_issues he s) hc he hn (State.vals_noError he hread) (hsrc ▸ hb)
    (clashes_noChannelRead (x := s.soleOp i x w) hr)
    (Core.overLimit_none fun o ho => by
      rw [List.mem_singleton.1 ho]
      exact ⟨fun e' h => (hplain e' h).2, rfl⟩)
    (State.gangDiffers_none _ _ _ _ ht)
  have hfin := State.finishIssue_one (fr := s.soleFrame) (n := 0) hpre' rfl fun e' h => (hplain e' h).1
  obtain ⟨a, hnoted, hlaunch⟩ := State.oneDone_launch (i := i) (w := w) hx ha
  obtain ⟨hkept, hregs, hmode, hflights⟩ := hnoted.launched hlaunch ((s.prepared i).issueRecord s.turn s.soleFrame [s.soleOp i x w]
    (.one (s.prepared i) (s.soleOp i x w) (s.soleOut i x w { effs := [e] }).effs 0))
  refine ⟨_, hexec.trans (congrArg _ hfin), fun hno => ?_, ?_⟩
  · refine (State.oneDone_onlyCore fun e' h => ?_).trans (.onCore ..)
    rw [State.soleOut, ← heads, hno, List.map_nil, List.append_nil, List.mem_append, List.mem_singleton] at h
    rcases h with h | rfl
    · obtain ⟨j, l, rfl⟩ := mem_latchLoads h
      rfl
    · exact hl
  · rw [State.core_onCore, if_pos rfl]
    have hg : guardOf i = bits w.toNat 55 51 := by simp [guardOf, he]
    rw [hg]
    exact ⟨hkept, movedOn_settle (o := s.soleOut i x w { effs := [e] }) he (by rw [hpre]) rfl hmode, hregs, hflights⟩

end Sys2Proof.Machine
end

section
/-! SUPPORT. Multiplication, division and remainder (R47, R112, R114): scalar operations whose result is readable only later. -/
namespace Sys2Proof.Machine
open Sys2Proof.Claims

/-- The sources of an operation on scalar registers all read, and name no channel's head. -/
theorem State.scalar_readable {s : State} {i : Instr} {x : Slot} {w : Word} {l : List Nat} (he : encode i = some (x, w))
    (hs : (slotOp i).srcs = l.map Src.s) :
    s.sources i = (l.map fun n => { val := ((s.issuer i).sreg n).toNat, tag := (s.issuer i).stag n }) ∧ s.readable i = true ∧
      s.headsOf i = [] := by
  have hv : s.sources i = l.map fun n => { val := ((s.issuer i).sreg n).toNat, tag := (s.issuer i).stag n } := by
    simp only [State.sources, he]
    exact SlotOp.vals_scalar (s.soleOp i x w) (s.prepared i) s.turn l hs
  refine ⟨hv, ?_, ?_⟩
  · rw [State.readable, hv]; simp
  · simp only [State.headsOf, he]; exact (scalar_sources hs).1

/-- A three-register operation of a latency above one cycle puts its result in flight. -/
theorem aluLater {mk : Head → SR → Instr} {lat : Nat} {v : Word → Word → Word} {o : BitVec 8}
    (he : ∀ h f, encode (mk h f) = some (h.slot, h.pack o ++ f.pack)) (ho : opcodeClass o.toNat = some (.scalar, true))
    (hop : ∀ h f, slotOp (mk h f) = aluOp f [sx6 f.sa, sx6 f.sb] lat fun a b _ => v a b) (hlat : 1 < lat) : AluLater mk lat v := by
  intro h f s hc
  have hslot : h.slot = .s := State.passes_scalarSlot ((Bool.and_eq_true ..).mp hc).1 (he h f) ho
  obtain ⟨hsrc, hread, hheads⟩ := State.scalar_readable (s := s) (l := [f.sa.toNat, f.sb.toNat]) (he h f) (by rw [hop]; rfl)
  have hopc : bits (h.pack o ++ f.pack).toNat 63 56 ≠ 0x58 ∧ bits (h.pack o ++ f.pack).toNat 63 56 ≠ 0x59 := by
    rw [opcode_pack]
    constructor <;> rintro h58 <;> rw [h58] at ho <;> simp [opcodeClass] at ho
  generalize hx : v ((s.issuer (mk h f)).sreg f.sa.toNat) ((s.issuer (mk h f)).sreg f.sb.toNat) = x
  have hlaunch : Launches (mk h f) s (.sres f.sd.toNat x ((s.prepared (mk h f)).cycleOf s.turn + lat)) :=
    exec_launches (e := .sreg f.sd.toNat x lat) hc (he h f) (by rw [hslot]; decide) (by rw [hop]; rfl) (by rw [hop]; rfl)
      (by rw [hop]; rfl) hread hopc (by rw [hop, hsrc]; simp [aluOp, resultOp, val, wordN, hx]) rfl rfl rfl
      fun g t => by simp only [Eff.apply, if_neg (not_le.2 hlat)]
  obtain ⟨t, hexec, honly, hkept, hmoved, hregs, hflights⟩ := hlaunch
  exact ⟨t, hexec, honly hheads, hkept, hmoved, hregs, hflights⟩

/-- The model's quotient and remainder of unsigned words are those of their numbers (R47). -/
theorem divU_eq (a b : Word) : divU a b = if b = 0 then BitVec.allOnes 64 else BitVec.ofNat 64 (a.toNat / b.toNat) := by
  rw [divU, ← BitVec.toNat_udiv, BitVec.ofNat_toNat, BitVec.setWidth_eq]
theorem remU_eq (a b : Word) : remU a b = if b = 0 then a else BitVec.ofNat 64 (a.toNat % b.toNat) := by
  rw [remU, ← BitVec.toNat_umod, BitVec.ofNat_toNat, BitVec.setWidth_eq]
theorem slotOp_divn (h : Head) (f : SR) : slotOp (.divn h f) = aluOp f [sx6 f.sa, sx6 f.sb] 20 fun a b _ =>
    if b = 0 then BitVec.allOnes 64 else BitVec.ofNat 64 (a.toNat / b.toNat) := by
  simp only [← divU_eq]; rfl
theorem slotOp_remn (h : Head) (f : SR) : slotOp (.remn h f) = aluOp f [sx6 f.sa, sx6 f.sb] 20 fun a b _ =>
    if b = 0 then a else BitVec.ofNat 64 (a.toNat % b.toNat) := by
  simp only [← remU_eq]; rfl

/-- Settles O2: each operation is one of three registers, of its latency, whose result launches (`aluLater`). -/
theorem longResults : Obligations.LongResults := by
  refine ⟨?mul, ?mulh, ?mulhn, ?div, ?divn, ?rem, ?remn⟩
  case divn => exact aluLater (fun _ _ => rfl) rfl slotOp_divn (by decide)
  case remn => exact aluLater (fun _ _ => rfl) rfl slotOp_remn (by decide)
  all_goals exact aluLater (fun _ _ => rfl) rfl (fun _ _ => rfl) (by decide)

end Sys2Proof.Machine
end

section
/-! SUPPORT. Stores of lines (R4, R212): reads and writes of any length at any address, bit by bit. -/
namespace Sys2Proof.Machine

/-- Bit p of a store of lines. -/
def lineBit (t : Table Line) (p : Nat) : Bool := (t.get 0 (p / 1024)).toNat.testBit (p % 1024)

/-- Lines from number g on, put together. -/
theorem testBit_joinedLines (t : Table Line) (g m j : Nat) :
    ((List.range m).foldl (fun v i => v + ((t.get 0 (g + i)).toNat <<< (1024 * i))) 0).testBit j =
      (decide (j < 1024 * m) && lineBit t (1024 * g + j)) := by
  induction m generalizing j with
  | zero => simp
  | succ m ih =>
    have hlow : (List.range m).foldl (fun v i => v + ((t.get 0 (g + i)).toNat <<< (1024 * i))) 0 < 2 ^ (1024 * m) :=
      Nat.lt_pow_two_of_testBit _ fun j hj => by rw [ih]; simp [not_lt.2 hj]
    rw [List.range_succ, List.foldl_append, List.foldl_cons, List.foldl_nil, Nat.shiftLeft_eq, Nat.add_comm, Nat.mul_comm,
      Nat.testBit_two_pow_mul_add _ hlow, ih]
    by_cases h1 : j < 1024 * m
    · simp [h1, show j < 1024 * (m + 1) by omega]
    · by_cases h2 : j < 1024 * (m + 1)
      · simp [h1, h2, lineBit, show (1024 * g + j) / 1024 = g + m by omega, show (1024 * g + j) % 1024 = j - 1024 * m by omega]
      · rw [if_neg h1, decide_eq_false h2, Bool.false_and]
        exact BitVec.getLsbD_of_ge (t.get 0 (g + m)) (j - 1024 * m) (by omega)
theorem testBit_linesRead (t : Table Line) (a n i : Nat) :
    (linesRead t a n).testBit i = (decide (i < 8 * n) && lineBit t (8 * a + i)) := by
  rw [linesRead, Nat.testBit_mod_two_pow, Nat.testBit_shiftRight, testBit_joinedLines]
  by_cases h : i < 8 * n
  · rw [decide_eq_true (show 8 * (a % 128) + i < 1024 * ((a % 128 + n + 127) / 128) by omega),
      show 1024 * (a / 128) + (8 * (a % 128) + i) = 8 * a + i by omega, Bool.true_and]
  · simp [h]

/-- One line of a write: the bytes from lo up to hi, that lie in line g, become those of x from `lo - a` on. -/
theorem lineBit_put (t : Table Line) (g lo hi a x p : Nat) (ha : a ≤ lo) (hl : g * 128 ≤ lo) (hlh : lo < hi) (hh : hi ≤ (g + 1) * 128) :
    lineBit (t.put 0 g (BitVec.ofNat 1024 (setBits (t.get 0 g).toNat (8 * (hi - g * 128) - 1) (8 * (lo - g * 128))
      ((x >>> (8 * (lo - a))) % 2 ^ (8 * (hi - lo)))))) p =
      if 8 * lo ≤ p ∧ p < 8 * hi then x.testBit (p - 8 * a) else lineBit t p := by
  rw [lineBit, Table.get_put]
  by_cases hg : p / 1024 = g
  · rw [if_pos hg, BitVec.testBit_toNat, BitVec.getLsbD_ofNat, testBit_setBits _ _ _ _ _ (by omega), Nat.testBit_mod_two_pow,
      Nat.testBit_shiftRight, decide_eq_true (show p % 1024 < 1024 by omega), Bool.true_and]
    by_cases hin : 8 * lo ≤ p ∧ p < 8 * hi
    · rw [if_pos (by omega), if_pos hin, decide_eq_true (by omega), Bool.true_and]
      congr 1
      omega
    · rw [if_neg (by omega), if_neg hin, lineBit, hg]
  · rw [if_neg hg, if_neg (by omega), lineBit]
theorem lineBit_linesWrite (t : Table Line) (a n x p : Nat) :
    lineBit (linesWrite t a n x) p = if 8 * a ≤ p ∧ p < 8 * (a + n) then x.testBit (p - 8 * a) else lineBit t p := by
  rw [linesWrite]
  split
  · rw [if_neg (by omega)]
  · next hn =>
    have hlines : ∀ m ≤ (a % 128 + n + 127) / 128,
        lineBit ((List.range m).foldl (fun t i =>
          let g := a / 128 + i
          let lo := max a (g * 128)
          let hi := min (a + n) ((g + 1) * 128)
          let part := (x >>> (8 * (lo - a))) % 2 ^ (8 * (hi - lo))
          t.put 0 g (BitVec.ofNat 1024 (setBits (t.get 0 g).toNat (8 * (hi - g * 128) - 1) (8 * (lo - g * 128)) part))) t) p =
        if 8 * a ≤ p ∧ p < 8 * min (a + n) ((a / 128 + m) * 128) then x.testBit (p - 8 * a) else lineBit t p := by
      intro m hm
      induction m with
      | zero => rw [if_neg (by omega)]; rfl
      | succ m ih =>
        rw [List.range_succ, List.foldl_append, List.foldl_cons, List.foldl_nil]
        dsimp only
        rw [lineBit_put _ _ _ _ _ _ _ (by omega) (by omega) (by omega) (by omega), ih (by omega)]
        by_cases h1 : 8 * max a ((a / 128 + m) * 128) ≤ p ∧ p < 8 * min (a + n) ((a / 128 + m + 1) * 128)
        · rw [if_pos h1, if_pos (by omega)]
        · rw [if_neg h1]
          congr 1
          apply propext
          omega
    rw [hlines _ le_rfl]
    congr 1
    apply propext
    omega

/-- What has been written reads back. -/
theorem linesRead_linesWrite (t : Table Line) (a n x : Nat) : linesRead (linesWrite t a n x) a n = x % 2 ^ (8 * n) := by
  refine Nat.eq_of_testBit_eq fun i => ?_
  rw [testBit_linesRead, lineBit_linesWrite, Nat.testBit_mod_two_pow]
  by_cases h : i < 8 * n
  · rw [if_pos (by omega), Nat.add_sub_cancel_left]
  · simp [h]
/-- A write leaves what it does not meet. -/
theorem linesRead_linesWrite_other (t : Table Line) (a n x b m : Nat) (h : b + m ≤ a ∨ a + n ≤ b) :
    linesRead (linesWrite t a n x) b m = linesRead t b m := by
  refine Nat.eq_of_testBit_eq fun i => ?_
  rw [testBit_linesRead, testBit_linesRead, lineBit_linesWrite]
  by_cases hi : i < 8 * m
  · rw [if_neg (by omega)]
  · simp [hi]

end Sys2Proof.Machine
end

section
/-! SUPPORT. Results in flight land (R55, R81, R112, R138, R220, R225), where one result is all that its core has in flight. -/
namespace Sys2Proof.Machine
open Sys2Proof.Claims

/-- Tags after a retagging (R220). -/
@[simp] theorem Core.gtag_retag (k : Core) (gs : List Nat) (tag g : Nat) :
    (k.retag gs tag).gtag g = if g ∈ gs then tag else k.gtag g := by
  have hfold : ∀ t : Table Nat, Table.get 31 (gs.foldl (fun t g => t.put 31 g tag) t) g = if g ∈ gs then tag else t.get 31 g := by
    induction gs with
    | nil => simp
    | cons x r ih =>
      intro t
      rw [List.foldl_cons, ih, Table.get_put]
      by_cases hr : g ∈ r <;> by_cases hx : g = x <;> simp [hr, hx]
  exact hfold k.regs.gtag

theorem Core.landDue_sres {k : Core} {f : Flight} {d due : Nat} {x : Word} (hk : k.flights = [f]) (hf : f.what = .sres d x due) (n : Nat) :
    k.landDue n false = if due ≤ n then k.landS f d x else k := by
  simp [Core.landDue, hk, hf]
theorem Core.landDue_vres {k : Core} {f : Flight} {a mask fl due u : Nat} {x : Line} (hk : k.flights = [f])
    (hf : f.what = .vres a x mask fl due u) (n : Nat) :
    k.landDue n true = if due ≤ n then k.landV f a x mask fl else k := by
  simp [Core.landDue, hk, hf]

/-- A live scalar result lands as a write of its register does. -/
theorem Core.landS_live {k : Core} {f : Flight} (hk : k.flights = [f]) (hl : f.live = true) (d : Nat) (x : Word) :
    k.landS f d x = { k with flights := [] }.writeS d x f.guard := by
  simp [Core.landS, hk, hl, Core.writeS, killScalar]
theorem Core.landS_dead {k : Core} {f : Flight} (hk : k.flights = [f]) (hl : f.live = false) (d : Nat) (x : Word) :
    k.landS f d x = { k with flights := [] } := by
  simp [Core.landS, hk, hl, killScalar]

theorem scalarResultLands : ScalarResultLands := by
  intro k f d x due n hk hf
  rw [Core.landDue_sres hk hf]
  refine ⟨fun h => if_neg (not_le.2 h), fun h hl => ?_, fun h hl => by rw [if_pos h, Core.landS_dead hk hl]⟩
  rw [if_pos h, Core.landS_live hk hl]
  obtain ⟨hholds, hothers⟩ := Core.writeS_holds { k with flights := [] } d x f.guard
  refine ⟨hholds, hothers, ?_, (?_ : CoreKept k { k with flights := [] }).trans (.writeS ..)⟩
  · simp [Core.writeS, killScalar]
  · exact ⟨fun _ => rfl, rfl, rfl, rfl, rfl, rfl, rfl, rfl, rfl, rfl, rfl, rfl⟩

/-- A whole vector result lands: its bytes, its flags, and the tags of the granules that no later write has touched. -/
theorem Core.landV_whole (k : Core) (f : Flight) (a : Nat) (x : Line) (fl : Nat) :
    ∃ k' : Core, k.landV f a x (2 ^ 128 - 1) fl = k'.retag ((granulesOf a 128).filter fun g => !touched f.skip g) f.guard ∧
      k'.regs = { (k.orFlags fl).regs with rs := linesWrite k.regs.rs a 128 x.toNat } ∧
      k'.flights = killSpace (k.flights.filter fun g => g.id != f.id) a 128 f.id := by
  have hwhole : ∀ old, mergeMask old x.toNat (2 ^ 128 - 1) = x.toNat := fun old => if_pos rfl
  unfold Core.landV
  simp only [hwhole]
  rw [if_neg (by decide)]
  split
  · next hs =>
    have hnone : ((granulesOf a 128).filter fun g => !touched f.skip g) = granulesOf a 128 := by
      rw [List.isEmpty_iff.1 hs]
      exact List.filter_eq_self.2 fun _ _ => rfl
    rw [hnone]
    exact ⟨_, rfl, rfl, rfl⟩
  · exact ⟨_, rfl, rfl, rfl⟩

theorem vectorResultLands : VectorResultLands := by
  intro k f a x fl due u n hk hf
  rw [Core.landDue_vres hk hf]
  refine ⟨fun h => if_neg (not_le.2 h), fun h => ?_⟩
  obtain ⟨k', hland, hregs, hflights⟩ := k.landV_whole f a x fl
  rw [if_pos h, hland]
  have hrs : k'.regs.rs = linesWrite k.regs.rs a 128 x.toNat := by rw [hregs]
  have hgtag : ∀ g, k'.gtag g = k.gtag g := fun g => by rw [Core.gtag, hregs]; rfl
  refine ⟨?bytes, ?flights, ?flags, fun b hb => ?others, fun g hg => ?tagged, fun g hg => ?untagged, fun j _ => ?scalars⟩
  case bytes =>
    show linesRead k'.regs.rs a 128 = x.toNat
    rw [hrs, linesRead_linesWrite, show 8 * 128 = 1024 from rfl, BitVec.toNat_mod_cancel]
  case flights =>
    show k'.flights = []
    rw [hflights, hk]
    simp [killSpace]
  case flags =>
    have : (k.orFlags fl).csr csrFPST = k.csr csrFPST ||| wordN (fl % 64) := by simp [Core.orFlags]
    rw [← this]
    show Table.get _ k'.regs.csr _ = _
    rw [hregs]
    rfl
  case others =>
    show linesRead k'.regs.rs b 1 = linesRead k.regs.rs b 1
    rw [hrs, linesRead_linesWrite_other _ _ _ _ _ _ (by omega)]
  case tagged =>
    rw [Core.gtag_retag, hgtag]
    cases ht : touched f.skip g <;> simp [hg, ht]
  case untagged => simp [hg, hgtag]
  case scalars =>
    show k'.sreg j = k.sreg j ∧ k'.stag j = k.stag j
    simp [Core.sreg, Core.stag, hregs, Core.orFlags]

/-- Settles O27: a scalar result lands as a write of its register, a vector result as a write of its bytes and tags. -/
theorem resultsLand : Obligations.ResultsLand := ⟨scalarResultLands, vectorResultLands⟩

end Sys2Proof.Machine
end

section
/-! SUPPORT. Vector operations that compute lanes and put them in flight (R112, R134, R137, R138), and the functions of one operand
(R63-R67, R142). -/
namespace Sys2Proof.Machine
open Sys2Proof.Claims

/-! Lanes put together read back. -/

theorem ofLanes_lt (w : Nat) (l : List Nat) : ofLanes w l < 2 ^ (8 * w * l.length) := by
  induction l with
  | nil => exact Nat.one_pos
  | cons x r ih =>
    have hx : x % 2 ^ (8 * w) < 2 ^ (8 * w) := Nat.mod_lt _ (by positivity)
    rw [ofLanes, Nat.shiftLeft_eq, List.length_cons, Nat.mul_succ, pow_add]
    calc x % 2 ^ (8 * w) + ofLanes w r * 2 ^ (8 * w) < (ofLanes w r + 1) * 2 ^ (8 * w) := by linarith
      _ ≤ 2 ^ (8 * w * r.length) * 2 ^ (8 * w) := Nat.mul_le_mul_right _ ih
theorem laneN_ofLanes (w : Nat) (l : List Nat) (j : Nat) : laneN (ofLanes w l) w j = l.getD j 0 % 2 ^ (8 * w) := by
  induction l generalizing j with
  | nil => simp [ofLanes, laneN]
  | cons x r ih =>
    have hx : x % 2 ^ (8 * w) < 2 ^ (8 * w) := Nat.mod_lt _ (by positivity)
    cases j with
    | zero => simp [ofLanes, laneN, Nat.shiftLeft_eq]
    | succ j =>
      have hdrop : ofLanes w (x :: r) >>> (8 * w) = ofLanes w r := by
        rw [ofLanes, Nat.shiftLeft_eq, Nat.shiftRight_eq_div_pow, Nat.add_mul_div_right _ _ (by positivity), Nat.div_eq_of_lt hx, Nat.zero_add]
      rw [laneN, Nat.mul_succ, Nat.add_comm, Nat.shiftRight_add, hdrop]
      exact ih j
theorem bit_eq_testBit (x i : Nat) : bit x i = x.testBit i := by
  rw [bit, Nat.testBit_eq_decide_div_mod_eq, Nat.shiftRight_eq_div_pow]
/-- Flags ORed over a list. -/
theorem bit_foldl_or {α : Type} (l : List (α × Flags)) (f b : Nat) :
    bit (l.foldl (fun f x => f ||| x.2) f) b = true ↔ bit f b = true ∨ ∃ x ∈ l, bit x.2 b = true := by
  induction l generalizing f with
  | nil => simp
  | cons x r ih =>
    have hor : bit (f ||| x.2) b = true ↔ bit f b = true ∨ bit x.2 b = true := by
      simp [bit_eq_testBit]
    rw [List.foldl_cons, ih, hor, or_assoc]
    simp
/-- The result of an operation on lanes (R134, R138). -/
theorem lanesAre_lanesOf {w n : Nat} (h : w * n ≤ 128) (g : Nat → Nat × Flags) :
    LanesAre (BitVec.ofNat 1024 (lanesOf w n g).1) (lanesOf w n g).2 w n g := by
  have hbits : 8 * w * (((List.range n).map g).map Prod.fst).length ≤ 1024 := by
    rw [List.length_map, List.length_map, List.length_range, Nat.mul_assoc]
    exact Nat.mul_le_mul_left 8 h
  have hlt : (lanesOf w n g).1 < 2 ^ 1024 := by
    refine lt_of_lt_of_le (ofLanes_lt w _) ?_
    gcongr
    decide
  have hval : (BitVec.ofNat 1024 (lanesOf w n g).1).toNat = (lanesOf w n g).1 := by
    rw [BitVec.toNat_ofNat, Nat.mod_eq_of_lt hlt]
  have hlane : ∀ j, laneN (lanesOf w n g).1 w j = (((List.range n).map g).map Prod.fst).getD j 0 % 2 ^ (8 * w) := laneN_ofLanes w _
  refine ⟨fun j hj => ?_, fun j hj => ?_, fun b => ?_⟩
  · rw [hval, hlane]
    simp [List.getD, hj]
  · rw [hval, hlane]
    simp [List.getD, hj]
  · rw [lanesOf, bit_foldl_or]
    simp [bit]

/-! The issue. -/

theorem resolveIx_zero (x : Slot) (w : Word) : resolveIx x w 0 = 0 := by
  cases x <;> simp [resolveIx]
/-- An operation of the vector class that passes its steps stands in a V slot (R95). -/
theorem State.passes_vectorSlot {s : State} {i : Instr} {x : Slot} {w : Word} {b : Bool} (hp : s.passes i = true)
    (he : encode i = some (x, w)) (ho : opcodeClass (bits w.toNat 63 56) = some (.vector, b)) : x = .v0 ∨ x = .v1 := by
  obtain ⟨_, cl, b', hc, hs⟩ := State.passes_slot hp he
  rw [ho] at hc
  obtain ⟨rfl, -⟩ := (Prod.mk.injEq ..).mp (Option.some.inj hc)
  simpa [SlotClass.has] using hs
/-- An operation that computes a vector and writes it: what it computes from its sources is in flight for its latency. -/
theorem givesVector {i : Instr} {s : State} {x : Slot} {wd : Word} {b : Bool} {vd : BitVec 12} {srcs : List Src} {lat w n : Nat}
    {weight : Slot → Core → Nat} {illop : Slot → Core → Bool} {eval : Core → Ctx → List SrcVal → Nat × Flags} {g : Nat → Nat × Flags}
    (hc : s.clears i = true) (he : encode i = some (x, wd)) (ho : opcodeClass (bits wd.toNat 63 56) = some (.vector, b))
    (hop : slotOp i = vecOp vd srcs lat weight illop eval)
    (hl : ∀ ctx : Ctx, ctx.slot = x → LanesAre (BitVec.ofNat 1024 (eval (s.issuer i) ctx (s.sources i)).1)
      (eval (s.issuer i) ctx (s.sources i)).2 w n g) : GivesVector i s vd lat w n g := by
  intro hread a hres
  have hx : x.ix < 4 := by
    rcases State.passes_vectorSlot ((Bool.and_eq_true ..).mp hc).1 he ho with rfl | rfl <;> decide
  have hopc : bits wd.toNat 63 56 ≠ 0x58 ∧ bits wd.toNat 63 56 ≠ 0x59 := by
    constructor <;> rintro h58 <;> rw [h58] at ho <;> simp [opcodeClass] at ho
  let ctx : Ctx := { (s.soleOp i x wd).ctx (s.prepared i) s.turn s.soleFrame with earlier := [] }
  have hdst : ((s.prepared i).core s.turn).resolve vd.toNat 128 true ctx.rx 0 = .ok a := by
    rw [Ctx.rx, show resolveIx ctx.slot ctx.word ctx.ix = 0 from resolveIx_zero ..]
    exact hres
  obtain ⟨t, hexec, honly, hkept, hmoved, hregs, hflights⟩ := exec_launches
    (e := .vres a (BitVec.ofNat 1024 (eval (s.issuer i) ctx (s.sources i)).1) lat (eval (s.issuer i) ctx (s.sources i)).2 (x.ix - 1))
    (q := .vres a (BitVec.ofNat 1024 (eval (s.issuer i) ctx (s.sources i)).1) (2 ^ 128 - 1) (eval (s.issuer i) ctx (s.sources i)).2
      ((s.prepared i).cycleOf s.turn + lat) (x.ix - 1))
    hc he hx (by rw [hop]; rfl) (by rw [hop]; rfl) (by rw [hop]; rfl) hread hopc
    (by
      rw [hop]
      show writeVec ctx vd lat _ _ = _
      rw [writeVec, show ctx.c = s.turn from rfl, hdst]
      rfl)
    rfl rfl rfl fun g t => rfl
  exact ⟨t, _, _, _, hexec, hl ctx rfl, honly, hkept, hmoved, hregs, hflights⟩

/-- The lanes of an elementwise operation fit in a vector (R134, R137). -/
theorem Pair.count_fits (p : Pair) : p.d.wid * p.count ≤ 128 :=
  (Nat.mul_le_mul_right _ (le_max_right ..)).trans (Nat.mul_div_le 128 _)
theorem funRow {mk : Head → V2 → Instr} {q : Fun} {o : BitVec 8} (he : ∀ h f, encode (mk h f) = some (h.slot, h.pack o ++ f.pack))
    (ho : opcodeClass o.toNat = some (.vector, true)) (hop : ∀ h f, slotOp (mk h f) = funOp f q) : FunRow mk q := by
  intro h f s hc
  refine givesVector hc (he h f) (by rw [opcode_pack]; exact ho) (hop h f) fun ctx hslot => ?_
  rw [hslot]
  exact lanesAre_lanesOf (Pair.count_fits _) _

/-- Settles O21: each function is a vector operation of twelve cycles on the lanes of D (`funRow`). -/
theorem vectorFunctions : Obligations.VectorFunctions := by
  refine ⟨?sqrt, ?rcp, ?rsq, ?ex2, ?lg2, ?tnh⟩ <;> exact funRow (fun _ _ => rfl) rfl fun _ _ => rfl

end Sys2Proof.Machine
end

section
/-! SUPPORT. The matrix unit's queue at the write of an `MZRO` (R81, R160), and a queue out of the order of issue. -/
namespace Sys2Proof.Machine

/-- The write of an `MZRO` takes its entry off the queue, and its range from the entries behind it that issued earlier (R81, R160). -/
theorem queue_mzroWrite {c a n : Nat} {s t : State} {e : MxEntry} (hr : (s.core c).mxReady = some e) (hz : e.zero = some (a, n))
    (hs : e.skip = []) (hh : s.halting c = false) (hx : exec (.mzroWrite c) s = .next t) :
    (t.core c).mx.queue = ((s.core c).mx.queue.drop 1).map (MxEntry.kill a n e.before) := by
  have hexec : exec (.mzroWrite c) s = execMzroWrite c s := rfl
  simp only [hexec, execMzroWrite, hr, hz, hh, Bool.false_eq_true, if_false, Host.Outcome.next.injEq] at hx
  rw [← hx, State.core_setCore, if_pos rfl, Core.writeAround, hs]
  rfl

/-- An entry of issue number `before` that zeroes the granule at 4096. -/
def zeroingAt (before : Nat) : MxEntry :=
  { word := 0, wc := [], win := { a := (0, 0), acc := (0, 0), bias := (0, 0), q := (0, 0), w := (0, 0) }, guard := 31,
    zero := some (4096, 128), before := before }
/-- A core in whose queue the entry of the higher issue number goes first. -/
def outOfOrder : Core := { mx := { queue := [zeroingAt 1, zeroingAt 0] } }

theorem queue_outOfOrder : ([zeroingAt 0].map (MxEntry.kill 4096 128 1)) ≠ [zeroingAt 0] := by decide

/-- Refutes O44, in its clause on `MZRO`: the statement ranges over every state, so also over a queue whose second entry has the lower
issue number (an issue by itself appends rising ones). There the write of the first takes its range from the second as from an earlier
operation (R81), and the rest of the queue is not `queue.drop 1`. -/
theorem not_matrixEvents : ¬ Obligations.MatrixEvents := by
  rintro ⟨_, _, _, hzero⟩
  have hcore : (State.reset.setCore 0 outOfOrder).core 0 = outOfOrder := by rw [State.core_setCore, if_pos rfl]
  have hready : ((State.reset.setCore 0 outOfOrder).core 0).mxReady = some (zeroingAt 1) := by rw [hcore]; decide
  have hgoes : (State.reset.setCore 0 outOfOrder).halting 0 = false := by
    unfold State.halting State.teamOf
    rw [hcore]; decide
  obtain ⟨t, hexec, _, _, _, _, _, hqueue⟩ := hzero 0 _ (zeroingAt 1) 4096 128 hready rfl rfl hgoes
  rw [queue_mzroWrite hready rfl rfl hgoes hexec, hcore] at hqueue
  exact queue_outOfOrder hqueue

end Sys2Proof.Machine
end

section
/-! SUPPORT. Encoding and decoding (R84-R96): the fields of a word put together give the word again, and so decoding and encoding are each
other's inverse on the words and operations that R95 and R96 allow. -/
namespace Sys2Proof

/-- Two fields of a word that stand side by side. -/
theorem extract_append {n : Nat} (w : BitVec n) (j k l m : Nat) (h : j = k + m) :
    w.extractLsb' j l ++ w.extractLsb' k m = w.extractLsb' k (l + m) := by
  subst h
  ext i hi
  simp only [BitVec.getElem_append, BitVec.getElem_extractLsb']
  split
  · rfl
  · congr 1; omega

/-! The fields of each format, put together, are the 48 bits from which they have been read. -/

@[simp] theorem SR.pack_ofWord (w : Word) : (SR.ofWord w).pack = w.extractLsb' 0 48 := by
  simp (disch := omega) only [SR.ofWord, SR.pack, extract_append]
@[simp] theorem SI.pack_ofWord (w : Word) : (SI.ofWord w).pack = w.extractLsb' 0 48 := by
  simp (disch := omega) only [SI.ofWord, SI.pack, extract_append]
@[simp] theorem BR.pack_ofWord (w : Word) : (BR.ofWord w).pack = w.extractLsb' 0 48 := by
  simp (disch := omega) only [BR.ofWord, BR.pack, extract_append]
@[simp] theorem V2.pack_ofWord (w : Word) : (V2.ofWord w).pack = w.extractLsb' 0 48 := by
  simp (disch := omega) only [V2.ofWord, V2.pack, extract_append]
@[simp] theorem V3.pack_ofWord (w : Word) : (V3.ofWord w).pack = w.extractLsb' 0 48 := by
  simp (disch := omega) only [V3.ofWord, V3.pack, extract_append]
@[simp] theorem VI.pack_ofWord (w : Word) : (VI.ofWord w).pack = w.extractLsb' 0 48 := by
  simp (disch := omega) only [VI.ofWord, VI.pack, extract_append]
@[simp] theorem MF.pack_ofWord (w : Word) : (MF.ofWord w).pack = w.extractLsb' 0 48 := by
  simp (disch := omega) only [MF.ofWord, MF.pack, extract_append]
@[simp] theorem CF.pack_ofWord (w : Word) : (CF.ofWord w).pack = w.extractLsb' 0 48 := by
  simp (disch := omega) only [CF.ofWord, CF.pack, extract_append]
@[simp] theorem WF.pack_ofWord (w : Word) : (WF.ofWord w).pack = w.extractLsb' 0 48 := by
  simp (disch := omega) only [WF.ofWord, WF.pack, extract_append]
@[simp] theorem XF.pack_ofWord (w : Word) : (XF.ofWord w).pack = w.extractLsb' 0 48 := by
  simp (disch := omega) only [XF.ofWord, XF.pack, extract_append]

/-- An operation that has been read from a word, by its opcode and the 48 bits of its fields, has that word. -/
theorem encoded {o : BitVec 8} {n : Nat} {h : Head} {w : Word} {p : BitVec 48} (ho : o.toNat = n)
    (hw : h.pack o ++ w.extractLsb' 0 48 = w) (hp : p = w.extractLsb' 0 48) :
    some (h.slot, h.pack (BitVec.ofNat 8 n) ++ p) = some (h.slot, w) := by
  subst ho hp
  rw [BitVec.ofNat_toNat, BitVec.setWidth_eq, hw]

/-- The operation that an opcode names has the word from which its fields have been read (R95). -/
theorem encode_readOp {o : BitVec 8} {h : Head} {w : Word} {i : Instr} (hr : readOp o.toNat h w = some i) (hi : i.formOk = true)
    (hw : h.pack o ++ w.extractLsb' 0 48 = w) : encode i = some (h.slot, w) := by
  unfold readOp at hr
  split at hr
  -- `NOP` has no head: its 56 bits are read whole.
  case h_1 ho =>
    cases hr
    have hzero : (0 : BitVec 8) = w.extractLsb' 56 8 := by rw [← hw, Head.opcode_pack, BitVec.eq_of_toNat_eq (y := 0) ho]
    change some (h.slot, (0 : BitVec 8) ++ w.extractLsb' 0 56) = _
    rw [hzero, extract_append w 56 0 8 56 rfl, extract_all w 0 rfl]
  -- A reserved opcode reads as an operation that is not well-formed (R96).
  case h_161 =>
    split at hr <;> cases hr
    cases hi
  all_goals
    next ho =>
      cases hr
      exact encoded ho hw (by simp)

/-- A word is its opcode, guard clock and stage predicate, with the 48 bits of its format behind them (R84). -/
theorem word_fields (x : Slot) (w : Word) :
    Head.pack { slot := x, gk := w.extractLsb' 51 5, gs := w.extractLsb' 48 3 } (w.extractLsb' 56 8) ++ w.extractLsb' 0 48 = w := by
  simp (disch := omega) only [Head.pack, extract_append]
  exact extract_all w 0 rfl
/-- A well-formed operation that a word names in a slot has that word. -/
theorem encode_readWord {x : Slot} {w : Word} {i : Instr} (hr : readWord x w = some i) (hi : i.formOk = true) :
    encode i = some (x, w) :=
  encode_readOp hr hi (word_fields x w)

/-- The opcode of a word, as a number and as a field (R84). -/
theorem bits_opcode (w : Word) : bits w.toNat 63 56 = (w.extractLsb' 56 8).toNat := by
  simp [bits, Nat.shiftRight_eq_div_pow]
/-- A word decodes in a slot to the operation that it names there, if its fields are well-formed and its opcode is legal in the slot
(R95, R96). -/
theorem decodeSlot_eq_ok_iff {x : Slot} {w : Word} {i : Instr} :
    decodeSlot x w = .ok i ↔ readWord x w = some i ∧ i.formOk = true ∧
      ∃ c b, opcodeClass (bits w.toNat 63 56) = some (c, b) ∧ c.has x = true := by
  rw [bits_opcode]
  unfold decodeSlot
  cases readWord x w with
  | none => simp
  | some j =>
    cases opcodeClass (w.extractLsb' 56 8).toNat with
    | none => simp
    | some q =>
      obtain ⟨c, b⟩ := q
      dsimp only
      cases hform : j.formOk <;> cases hhas : c.has x <;> simp [hhas] <;> rintro rfl <;> exact hform

namespace Laws.Encoding

/-- The word of an operation names that operation in its slot, by the law of its opcode; an event has no word. -/
theorem readWord_encode (i : Instr) : Statement i := by
  cases i with
  | nop x r => exact nop x r | add h f => exact add h f | sub h f => exact sub h f | mul h f => exact mul h f
  | mulh h f => exact mulh h f | mulhn h f => exact mulhn h f | div h f => exact div h f | divn h f => exact divn h f
  | rem h f => exact rem h f | remn h f => exact remn h f | and h f => exact and h f | or h f => exact or h f
  | xor h f => exact xor h f | andn h f => exact andn h f | shl h f => exact shl h f | shr h f => exact shr h f
  | sra h f => exact sra h f | min h f => exact min h f | max h f => exact max h f | minn h f => exact minn h f
  | maxn h f => exact maxn h f | seq h f => exact seq h f | sne h f => exact sne h f | slt h f => exact slt h f
  | sltn h f => exact sltn h f | sel h f => exact sel h f | clz h f => exact clz h f | popc h f => exact popc h f
  | addi h f => exact addi h f | andi h f => exact andi h f | ori h f => exact ori h f | xori h f => exact xori h f
  | shli h f => exact shli h f | shri h f => exact shri h f | srai h f => exact srai h f | slti h f => exact slti h f
  | sltni h f => exact sltni h f | li h f => exact li h f | lih h f => exact lih h f | addx h f => exact addx h f
  | lds h f => exact lds h f | sts h f => exact sts h f | mpw h f => exact mpw h f | br h f => exact br h f
  | jmp h f => exact jmp h f | jmpr h f => exact jmpr h f | call h f => exact call h f | callr h f => exact callr h f
  | ret h f => exact ret h f | loop h f => exact loop h f | lpset h f => exact lpset h f | yld h f => exact yld h f
  | endOp h f => exact endOp h f | csrr h f => exact csrr h f | csrw h f => exact csrw h f | csrs h f => exact csrs h f
  | csrc h f => exact csrc h f | trap h f => exact trap h f | eret h f => exact eret h f | chk h f => exact chk h f
  | tbr h f => exact tbr h f | clkd h f => exact clkd h f | clke h f => exact clke h f | when h f => exact when h f
  | mrg h f => exact mrg h f | pmrg h f => exact pmrg h f | dlyr h f => exact dlyr h f | dlyw h f => exact dlyw h f
  | inst h f => exact inst h f | chrd h f => exact chrd h f | chrdy h f => exact chrdy h f | chwr h f => exact chwr h f
  | absn h f => exact absn h f | bara h f => exact bara h f | barw h f => exact barw h f | bar h f => exact bar h f
  | barx h f => exact barx h f | ltar h f => exact ltar h f | ltin h f => exact ltin h f | ltwt h f => exact ltwt h f
  | drn h f => exact drn h f | waitc h f => exact waitc h f | sleep h f => exact sleep h f | pwra h f => exact pwra h f
  | pwrr h f => exact pwrr h f | cpost h f => exact cpost h f | aadd h f => exact aadd h f | amin h f => exact amin h f
  | amax h f => exact amax h f | aand h f => exact aand h f | aor h f => exact aor h f | axor h f => exact axor h f
  | aaddr h f => exact aaddr h f | axch h f => exact axch h f | acas h f => exact acas h f | vadd h f => exact vadd h f
  | vsub h f => exact vsub h f | vmul h f => exact vmul h f | vfma h f => exact vfma h f | vfms h f => exact vfms h f
  | vmin h f => exact vmin h f | vmax h f => exact vmax h f | vabs h f => exact vabs h f | vneg h f => exact vneg h f
  | vcmp h f => exact vcmp h f | vsel h f => exact vsel h f | vcvt h f => exact vcvt h f | vrnd h f => exact vrnd h f
  | vdiv h f => exact vdiv h f | vsqrt h f => exact vsqrt h f | vrcp h f => exact vrcp h f | vrsq h f => exact vrsq h f
  | vex2 h f => exact vex2 h f | vlg2 h f => exact vlg2 h f | vtnh h f => exact vtnh h f | viadd h f => exact viadd h f
  | visub h f => exact visub h f | vimul h f => exact vimul h f | vand h f => exact vand h f | vor h f => exact vor h f
  | vxor h f => exact vxor h f | vshl h f => exact vshl h f | vshr h f => exact vshr h f | vsra h f => exact vsra h f
  | vimin h f => exact vimin h f | vimax h f => exact vimax h f | vclz h f => exact vclz h f | vpopc h f => exact vpopc h f
  | vclmp h f => exact vclmp h f | vbcst h f => exact vbcst h f | vperm h f => exact vperm h f | vshf h f => exact vshf h f
  | vrsum h f => exact vrsum h f | vrmax h f => exact vrmax h f | vscan h f => exact vscan h f | vqnt h f => exact vqnt h f
  | vdqnt h f => exact vdqnt h f | veps h f => exact veps h f | vmov h f => exact vmov h f | vli h f => exact vli h f
  | vcfg h f => exact vcfg h f | vchk h f => exact vchk h f | mcall h f => exact mcall h f | mcfg h f => exact mcfg h f
  | mzro h f => exact mzro h f | mact h f => exact mact h f | mstp h f => exact mstp h f | mrtn h f => exact mrtn h f
  | tld h f => exact tld h f | tst h f => exact tst h f | tldw h f => exact tldw h f | cpy h f => exact cpy h f
  | cpyq h f => exact cpyq h f | gath h f => exact gath h f | scat h f => exact scat h f | mcst h f => exact mcst h f
  | rpkt h f => exact rpkt h f | rrcv h f => exact rrcv h f | pfch h f => exact pfch h f | flsh h f => exact flsh h f
  | _ => intro x w e; cases e

end Laws.Encoding

/-- The word of an operation whose fields are well-formed decodes to it in a slot in which its opcode is legal (R95, R96). -/
theorem decodeSlot_encode {i : Instr} {x : Slot} {w : Word} {c : SlotClass} {b : Bool} (he : encode i = some (x, w))
    (hi : i.formOk = true) (ho : opcodeClass (bits w.toNat 63 56) = some (c, b)) (hx : c.has x = true) : decodeSlot x w = .ok i :=
  decodeSlot_eq_ok_iff.2 ⟨Laws.Encoding.readWord_encode i x w he, hi, c, b, ho, hx⟩
/-- A word that decodes is the word of a well-formed operation. -/
theorem encode_decodeSlot {x : Slot} {w : Word} {i : Instr} (h : decodeSlot x w = .ok i) :
    encode i = some (x, w) ∧ i.formOk = true := by
  obtain ⟨hr, hi, _⟩ := decodeSlot_eq_ok_iff.1 h
  exact ⟨encode_readWord hr hi, hi⟩

/-- Settles O60: what an operation's word names (`Laws.Encoding.readWord_encode`), and the word of what is read (`encode_readWord`). -/
theorem encodeDecode : Obligations.EncodeDecode :=
  ⟨fun _ _ _ _ _ he hi ho hx => decodeSlot_encode he hi ho hx, fun _ _ _ h => encode_decodeSlot h⟩

/-- Settles O59: each operation's word is the one given, which decodes to it; the other three words are refused. -/
theorem decodeWords : Obligations.DecodeWords := by
  refine ⟨?vmul, ?li, ?br, ?lds, ?mcall, ?barw, ?csrr, ?reserved, ?slot, ?header⟩
  case reserved | slot | header => decide
  all_goals exact decodeSlot_encode rfl (by decide) rfl (by decide)

end Sys2Proof
end

section
/-! SUPPORT. Transfers of control (R75, R89, R120, R121): the check of a target, and the issue of a transfer, alone in its bundle. -/
namespace Sys2Proof.Machine
open Sys2Proof.Claims

/-! The target (R75, R89). -/

theorem State.goTo_accepted {i : Instr} {s : State} {target : Nat} {kinds : List Nat} {sig : Option Nat}
    (h : Accepts i s target kinds sig) (effs : List Eff) :
    (s.prepared i).goTo s.turn target kinds sig effs = .ok (s.prepared i) { effs := effs, jump := some target } := by
  obtain ⟨haligned, w, hfetch, hheader⟩ := h
  simp only [State.goTo, State.checkTarget, haligned, hfetch, ne_eq, not_true_eq_false, if_false, if_pos hheader]
theorem State.goTo_misaligned {s : State} {c target : Nat} {kinds : List Nat} {sig : Option Nat} (h : target % 8 ≠ 0) (effs : List Eff) :
    s.goTo c target kinds sig effs = .trap (trap6 cCFI [wordN target, 0]) := by
  simp only [State.goTo, State.checkTarget, if_pos h]
theorem State.goTo_refused {s : State} {c target : Nat} {kinds : List Nat} {sig : Option Nat} {w : Word} (h : target % 8 = 0)
    (hf : s.fetchWord c target = .ok w)
    (hw : ¬(bits w.toNat 63 60 = 0xF ∧ bits w.toNat 59 56 ∈ kinds ∧ (sig = none ∨ sig = some (bits w.toNat 31 0)))) (effs : List Eff) :
    s.goTo c target kinds sig effs = .trap (trap6 cCFI [wordN target, w]) := by
  simp only [State.goTo, State.checkTarget, h, hf, ne_eq, not_true_eq_false, if_false, if_neg hw]

theorem condition_iff (cc : BitVec 3) (a : Int) : condition cc a = true ↔ Condition cc a := by
  unfold condition Condition
  split <;> simp

/-- A number wrapped to 64 bits. -/
theorem truncI_eq (x : Int) : truncI x 64 = (BitVec.ofInt 64 x).toNat := by
  simp [truncI, BitVec.toNat_ofInt]
theorem sgn_sx (x : BitVec 32) : sgn (sx x) = x.toInt := by
  simp only [sgn, sx]
  exact BitVec.toInt_signExtend_of_le (by omega)
/-- The pad offset of a `CALL` is one signed field across three of its format (R89). -/
theorem sextN_pad (f : BR) : sextN (f.sa.toNat * 1024 + f.cc.toNat * 128 + f.ex.toNat) 16 = (f.sa ++ f.cc ++ f.ex : BitVec 16).toInt := by
  have hpad : (f.sa ++ f.cc ++ f.ex : BitVec 16).toNat = f.sa.toNat * 1024 + f.cc.toNat * 128 + f.ex.toNat := by
    rw [BitVec.toNat_append, BitVec.toNat_append, ← Nat.shiftLeft_add_eq_or_of_lt f.ex.isLt, ← Nat.shiftLeft_add_eq_or_of_lt f.cc.isLt]
    simp only [Nat.shiftLeft_eq]
    omega
  have hlt : f.sa.toNat * 1024 + f.cc.toNat * 128 + f.ex.toNat < 2 ^ 16 := hpad ▸ BitVec.isLt _
  rw [BitVec.toInt_eq_toNat_cond, hpad]
  simp only [sextN, Nat.mod_eq_of_lt hlt]
  split <;> split <;> omega

/-! The issue of an operation of the S slot whose execution depends on its bundle's address (R97, R120). -/

/-- `i` stands in the S slot, reads the scalar registers `l`, and does nothing before its checks. -/
structure ReadsScalars (i : Instr) (l : List Nat) : Prop where
  word : ∃ (h : Head) (o : BitVec 8) (p : BitVec 48) (b : Bool), encode i = some (h.slot, h.pack o ++ p) ∧
    opcodeClass o.toNat = some (.scalar, b)
  srcs : (slotOp i).srcs = l.map Src.s
  pre : (slotOp i).pre = fun _ _ => []
  nop : (slotOp i).nop = false
/-- What the execution step of `i`, alone in its bundle, comes to. -/
def Executes (i : Instr) (s : State) (l : List Nat) (r : Res) : Prop :=
  ∀ ctx : Ctx, ctx.c = s.turn → ctx.fr = s.soleFrame →
    (slotOp i).body ctx (l.map fun n => { val := ((s.issuer i).sreg n).toNat, tag := (s.issuer i).stag n }) (s.prepared i) = r

theorem ReadsScalars.inS {i : Instr} {l : List Nat} {s : State} (hi : ReadsScalars i l) (hc : s.clears i = true) :
    ∃ w, encode i = some (.s, w) := by
  obtain ⟨h, o, p, b, he, ho⟩ := hi.word
  exact ⟨_, State.passes_scalarSlot ((Bool.and_eq_true ..).mp hc).1 he ho ▸ he⟩
theorem soleFrame_pc {i : Instr} {s : State} {x : Slot} {w : Word} (he : encode i = some (x, w)) :
    s.soleFrame.h = (s.issuer i).ctl.pc := by
  rw [State.issuer, State.prepared_core he]; rfl

/-- Its execution step fails: it traps. Where `exec_traps` asks this of every bundle, here it is asked of the one that `i` stands in. -/
theorem ReadsScalars.traps {i : Instr} {l : List Nat} {s : State} {cause : Nat} {frs : List Word} (hi : ReadsScalars i l)
    (hc : s.clears i = true) (hb : Executes i s l (.trap (trap6 cause frs))) : Traps i s cause frs := by
  obtain ⟨w, he⟩ := hi.inS hc
  obtain ⟨hpass, hg⟩ := (Bool.and_eq_true ..).mp hc
  obtain ⟨x', w', he', hrun⟩ := issueOne_passes hpass
  rw [he] at he'
  obtain ⟨rfl, rfl⟩ := (Prod.mk.injEq ..).mp (Option.some.inj he')
  obtain ⟨_, hnamed, herr⟩ := scalar_sources (s := s) (x := .s) (w := w) hi.srcs
  have hlive : (s.soleOp i .s w).live ((s.prepared i).core s.turn) = true := by simpa [State.guards, he] using hg
  have hvals := SlotOp.vals_scalar (s.soleOp i .s w) (s.prepared i) s.turn l hi.srcs
  rw [Traps, exec_issues he, hrun, State.runSlots_trap hi.nop hlive herr (by rw [hvals]; exact hb _ rfl rfl) (clashes_none hnamed)]
  simp [slotBit, he, State.soleOp, slotOpOf, trap6]

/-- What no other of its gang has issued before cannot differ from its lead (R19, R125). -/
theorem State.gangDiffers_lead {s : State} {c : Nat} (h : s.gangEntry c (s.core c).ctl.issued = none) (outs : List (SlotOp × Out)) :
    s.gangDiffers c outs = none := by
  unfold State.gangDiffers
  simp only [h]
  split <;> rfl

/-- Effects of the commit that change the core alone, wait for nothing and count in no class. -/
structure Eff.Simple (e : Eff) : Prop where
  inCore : e.local = true
  plain : e.plain = true
  uncounted : e.countClass = none

/-- The record of the issue of `i` of the S slot, alone in its bundle, that does `es` and jumps as `j` says. -/
def State.soleRecord (s : State) (i : Instr) (w : Word) (es : List Eff) (j : Option Nat) : Waiting :=
  (s.prepared i).issueRecord s.turn s.soleFrame [s.soleOp i .s w]
    { s := s.prepared i, outs := [(s.soleOp i .s w, { effs := es, jump := j })] }
theorem State.soleRecord_spec {i : Instr} {l : List Nat} {s : State} {w : Word} {es : List Eff} {j : Option Nat} (hi : ReadsScalars i l)
    (he : encode i = some (.s, w)) : (s.soleRecord i w es j).effs = [(Slot.ix .s, guardOf i, es)] ∧
      (s.soleRecord i w es j).next = j.getD ((s.issuer i).ctl.pc + 16) ∧ (s.soleRecord i w es j).rep = 0 ∧
      (s.soleRecord i w es j).taken = j.isSome := by
  have hpre : (s.soleOp i .s w).op.pre ((s.prepared i).core s.turn) (s.soleOp i .s w).ix = [] := congrFun (congrFun hi.pre _) _
  refine ⟨?_, ?_, ?_, ?_⟩
  · simp [State.soleRecord, State.issueRecord, hpre, guardOf, he]; exact ⟨rfl, rfl⟩
  · cases j <;> simp [State.soleRecord, State.issueRecord, State.soleFrame, ← soleFrame_pc he]
  · simp [State.soleRecord, State.issueRecord, State.soleFrame]
  · simp [State.soleRecord, State.issueRecord]

/-- `i` has issued by itself: from machine `u`, in which the issue is noted, the effects `es` take place, and the core goes on as record
`r` says, to `j` or to the next bundle. -/
structure Issued (i : Instr) (s : State) (es : List Eff) (j : Option Nat) (u : State) (r : Waiting) : Prop where
  commits : exec i s = .next ((applyAll s.turn (guardOf i) ((s.prepared i).cycleOf s.turn) es u).onCore s.turn (Core.settle r))
  noted : Noted (s.issuer i) (u.core s.turn)
  only : OnlyCore s.turn (s.prepared i) u
  next : r.next = j.getD ((s.issuer i).ctl.pc + 16)
  rep : r.rep = 0
  taken : r.taken = j.isSome

/-- Its execution step completes, and its gang lets it pass: it issues (R19, R125). -/
theorem ReadsScalars.issued {i : Instr} {l : List Nat} {s : State} {es : List Eff} {j : Option Nat} (hi : ReadsScalars i l)
    (hc : s.clears i = true) (hl : leads i s) (hb : Executes i s l (.ok (s.prepared i) { effs := es, jump := j }))
    (hes : ∀ e ∈ es, e.Simple) : ∃ u r, Issued i s es j u r := by
  obtain ⟨w, he⟩ := hi.inS hc
  obtain ⟨hheads, hnamed, herr⟩ := scalar_sources (s := s) (x := .s) (w := w) hi.srcs
  have hvals := SlotOp.vals_scalar (s.soleOp i .s w) (s.prepared i) s.turn l hi.srcs
  have hout : s.soleOut i .s w { effs := es, jump := j } = { effs := es, jump := j } := by
    have hlat : ∀ vs, latchLoads (s.soleOp i .s w) vs = [] := fun _ => rfl
    simp [State.soleOut, hlat, hheads]
  have hexec := exec_issue (s2 := s.prepared i) (o := { effs := es, jump := j }) (exec_issues he s) hc he hi.nop herr
    (by rw [hvals]; exact hb _ rfl rfl) (clashes_none hnamed)
    (by rw [hout]; exact Core.overLimit_none (by simpa using fun e h => (hes e h).uncounted)) (State.gangDiffers_lead hl _)
  obtain ⟨heffs, hnext, hrep, htaken⟩ := State.soleRecord_spec (s := s) (es := es) (j := j) hi he
  have hbefore : ∀ t : State, t.settledBefore s.turn (s.soleRecord i w es j) (Slot.ix .s) = [] := fun t => by
    simp [State.settledBefore, heffs]
  have hrecord : State.issueRecord .. = s.soleRecord i w es j := rfl
  rw [hout, State.finishIssue_plain (by simp) (by simp [State.issueRecord, changedRecords])
    (by rw [hrecord, heffs]; simpa using fun e h => (hes e h).plain)] at hexec
  simp only [hrecord, heffs, List.foldl_cons, List.foldl_nil, hbefore] at hexec
  exact ⟨_, _, hexec, noted .., (State.noteLead_onlyCore ..).trans (.onCore ..), hnext, hrep, htaken⟩

/-! What it leaves of the core. -/

theorem Core.settle_stall (w : Waiting) (k : Core) : (Core.settle w k).ctl.stall = if w.taken then 3 else 0 := by
  simp [Core.settle]
theorem CoreKept.but {p : Nat → Prop} {k k' : Core} (h : CoreKept k k') : CoreKeptBut p k k' :=
  ⟨fun n _ => h.csr n, h.rs, h.gtag, h.cells, h.clocks, h.mx, h.l1, h.wbuf, h.copies, h.team, h.owed⟩

/-- The effects of a transfer with a link, and of one without; and the core behind them (R121). -/
def linkEffs : Option Word → List Eff
  | none => []
  | some x => [.sreg 63 x 1]
def Core.linked (k : Core) (g : Nat) : Option Word → Core
  | none => k
  | some x => k.writeS 63 x g

/-- Of the scalar registers none has changed but for the link, where there is one. -/
def LinkOnly (k k' : Core) (g : Nat) : Option Word → Prop
  | none => ScalarKept [] k k'
  | some x => ScalarKept [63] k k' ∧ Holds k' 63 x g

theorem linkEffs_simple {link : Option Word} {e : Eff} (h : e ∈ linkEffs link) : e.Simple := by
  cases link with
  | none => cases h
  | some x => rw [List.mem_singleton.1 h]; exact ⟨rfl, rfl, rfl⟩
theorem core_applyLink (c g cyc : Nat) (link : Option Word) (u : State) (f : Core → Core) :
    ((applyAll c g cyc (linkEffs link) u).onCore c f).core c = f ((u.core c).linked g link) := by
  cases link <;> simp [applyAll, linkEffs, Eff.apply, Core.linked]
theorem CoreKept.linked (k : Core) (g : Nat) (link : Option Word) : CoreKept k (k.linked g link) := by
  cases link with
  | none => exact .refl k
  | some x => exact .writeS ..
theorem Core.ctl_linked (k : Core) (g : Nat) (link : Option Word) : (k.linked g link).ctl = k.ctl := by
  cases link with
  | none => rfl
  | some x => exact Core.ctl_writeS ..

section
variable {i : Instr} {s u : State} {link : Option Word} {j : Option Nat} {r : Waiting} (hi : Issued i s (linkEffs link) j u r)
include hi

/-- The core behind the issue of a transfer, as its effects and the last step of its commit leave it. -/
theorem Issued.leaves : ∃ t, exec i s = .next t ∧ OnlyCore s.turn (s.prepared i) t ∧ CoreKept (s.issuer i) (t.core s.turn) ∧
    t.core s.turn = Core.settle r ((u.core s.turn).linked (guardOf i) link) :=
  have hcore := core_applyLink s.turn (guardOf i) ((s.prepared i).cycleOf s.turn) link u (Core.settle r)
  ⟨_, hi.commits, hi.only.trans ((applyAll_onlyCore (fun _ h => (linkEffs_simple h).inCore) ..).trans (.onCore ..)),
    hcore ▸ hi.noted.kept.trans ((CoreKept.linked ..).trans (.settle ..)), hcore⟩
/-- Its place. -/
theorem Issued.place {k : Core} (hk : k = Core.settle r ((u.core s.turn).linked (guardOf i) link)) :
    k.ctl.pc = j.getD ((s.issuer i).ctl.pc + 16) ∧ k.ctl.rep = 0 ∧ k.ctl.wait = none ∧ k.ctl.mode = (s.issuer i).ctl.mode ∧
      k.ctl.stall = if j.isSome then 3 else 0 := by
  obtain ⟨hpc, hrep, hwait, hmode, _⟩ := Core.settle_spec r ((u.core s.turn).linked (guardOf i) link)
  rw [Core.ctl_linked, hi.noted.mode] at hmode
  subst hk
  exact ⟨hpc.trans hi.next, hrep.trans hi.rep, hwait, hmode, by rw [Core.settle_stall, hi.taken]⟩
/-- Its scalar registers. -/
theorem Issued.scalars {k : Core} (hk : k = Core.settle r ((u.core s.turn).linked (guardOf i) link)) :
    LinkOnly (s.issuer i) k (guardOf i) link := by
  subst hk
  have hsettle := Core.settle_sreg r ((u.core s.turn).linked (guardOf i) link)
  have hnoted := hi.noted.scalars
  cases link with
  | none => exact fun n _ => ⟨(hsettle n).1.trans (hnoted n).1, (hsettle n).2.trans (hnoted n).2⟩
  | some x =>
    obtain ⟨hholds, hkept⟩ := Core.writeS_holds (u.core s.turn) 63 x (guardOf i)
    exact ⟨fun n hn => ⟨((hsettle n).1.trans (hkept n hn).1).trans (hnoted n).1, ((hsettle n).2.trans (hkept n hn).2).trans (hnoted n).2⟩,
      (hsettle 63).1.trans hholds.1, (hsettle 63).2.trans hholds.2⟩

end

/-- A transfer to a target that accepts it is taken (R75, R120). -/
theorem ReadsScalars.goes {i : Instr} {l : List Nat} {s : State} {target : Nat} {kinds : List Nat} {sig : Option Nat}
    {link : Option Word} (hi : ReadsScalars i l) (hc : s.clears i = true) (hl : leads i s)
    (hb : Executes i s l ((s.prepared i).goTo s.turn target kinds sig (linkEffs link))) (ha : Accepts i s target kinds sig) :
    Goes i s target link fun _ => False := by
  rw [State.goTo_accepted ha] at hb
  obtain ⟨u, r, hissued⟩ := hi.issued hc hl hb fun _ => linkEffs_simple
  obtain ⟨t, hexec, honly, hkept, hcore⟩ := hissued.leaves
  obtain ⟨hpc, hrep, _, hmode, hstall⟩ := hissued.place hcore
  have hregs := hissued.scalars hcore
  exact ⟨t, hexec, honly, hpc, hrep, hstall, hmode, hkept.but, by cases link <;> exact hregs⟩
/-- A transfer to a target that does not accept it traps CFI (R75). -/
theorem ReadsScalars.refuses {i : Instr} {l : List Nat} {s : State} {target : Nat} {kinds : List Nat} {sig : Option Nat}
    {effs : List Eff} (hi : ReadsScalars i l) (hc : s.clears i = true)
    (hb : Executes i s l ((s.prepared i).goTo s.turn target kinds sig effs)) : RefusesTarget i s target kinds sig :=
  ⟨fun hm => hi.traps hc (State.goTo_misaligned hm effs ▸ hb), fun ha _ hf hw => hi.traps hc (State.goTo_refused ha hf hw effs ▸ hb)⟩

/-! The transfers of R121. -/

theorem readsScalars_br (h : Head) (f : BR) : ReadsScalars (.br h f) [f.sa.toNat] := ⟨⟨h, _, _, _, rfl, rfl⟩, rfl, rfl, rfl⟩
theorem readsScalars_jmp (h : Head) (f : BR) : ReadsScalars (.jmp h f) [] := ⟨⟨h, _, _, _, rfl, rfl⟩, rfl, rfl, rfl⟩
theorem readsScalars_jmpr (h : Head) (f : BR) : ReadsScalars (.jmpr h f) [f.sa.toNat] := ⟨⟨h, _, _, _, rfl, rfl⟩, rfl, rfl, rfl⟩
theorem readsScalars_call (h : Head) (f : BR) : ReadsScalars (.call h f) [] := ⟨⟨h, _, _, _, rfl, rfl⟩, rfl, rfl, rfl⟩
theorem readsScalars_callr (h : Head) (f : BR) : ReadsScalars (.callr h f) [f.sa.toNat] := ⟨⟨h, _, _, _, rfl, rfl⟩, rfl, rfl, rfl⟩
theorem readsScalars_ret (h : Head) (f : BR) : ReadsScalars (.ret h f) [63] := ⟨⟨h, _, _, _, rfl, rfl⟩, rfl, rfl, rfl⟩
theorem readsScalars_loop (h : Head) (f : BR) : ReadsScalars (.loop h f) [] := ⟨⟨h, _, _, _, rfl, rfl⟩, rfl, rfl, rfl⟩

/-! What each does in the execution step. -/

theorem directTarget_eq {i : Instr} {s : State} {x : Slot} {w : Word} (he : encode i = some (x, w)) (f : BR) :
    directTarget s.soleFrame f = aheadTarget i s f := by
  rw [directTarget, truncI_eq, sgn_sx, soleFrame_pc he, aheadTarget]
theorem callTarget_eq {i : Instr} {s : State} {x : Slot} {w : Word} (he : encode i = some (x, w)) (f : BR) :
    callTarget s.soleFrame f = padTarget i s f := by
  rw [callTarget, truncI_eq, sextN_pad, soleFrame_pc he, padTarget]
theorem linkEff_eq {i : Instr} {s : State} {x : Slot} {w : Word} (he : encode i = some (x, w)) :
    [linkEff s.soleFrame] = linkEffs (some (wordN ((s.issuer i).ctl.pc + 16))) := by
  rw [linkEff, soleFrame_pc he]; rfl

theorem executes_br_taken {h : Head} {f : BR} {s : State} (hcond : Condition f.cc (int ((s.issuer (.br h f)).sreg f.sa.toNat))) :
    Executes (.br h f) s [f.sa.toNat]
      ((s.prepared (.br h f)).goTo s.turn (aheadTarget (.br h f) s f) [0, 1, 2, 3, 4, 5] none (linkEffs none)) := by
  intro ctx hc hf
  have hgo : condition f.cc (sgn ((s.issuer (.br h f)).sreg f.sa.toNat)) = true := (condition_iff ..).2 hcond
  simp only [slotOp, opBr, List.map_cons, List.map_nil, val_sreg, hgo, if_true, hc, hf, directTarget_eq (i := .br h f) rfl]
  rfl
theorem executes_br_not {h : Head} {f : BR} {s : State} (hcond : ¬Condition f.cc (int ((s.issuer (.br h f)).sreg f.sa.toNat))) :
    Executes (.br h f) s [f.sa.toNat] (.ok (s.prepared (.br h f)) { effs := linkEffs none }) := by
  intro ctx _ _
  have hstay : ¬condition f.cc (sgn ((s.issuer (.br h f)).sreg f.sa.toNat)) = true := fun hgo => hcond ((condition_iff ..).1 hgo)
  simp only [slotOp, opBr, List.map_cons, List.map_nil, val_sreg, if_neg hstay]
  rfl
theorem executes_jmp (h : Head) (f : BR) (s : State) : Executes (.jmp h f) s []
    ((s.prepared (.jmp h f)).goTo s.turn (aheadTarget (.jmp h f) s f) [0, 1, 2, 3, 4, 5] none (linkEffs none)) := by
  intro ctx hc hf
  simp only [slotOp, opJmp, hc, hf, directTarget_eq (i := .jmp h f) rfl]
  rfl
theorem executes_jmpr (h : Head) (f : BR) (s : State) : Executes (.jmpr h f) s [f.sa.toNat]
    ((s.prepared (.jmpr h f)).goTo s.turn ((s.issuer (.jmpr h f)).sreg f.sa.toNat).toNat [1] none (linkEffs none)) := by
  intro ctx hc _
  simp only [slotOp, opJmpr, List.map_cons, List.map_nil, val_sreg, hc]
  rfl
theorem executes_call (h : Head) (f : BR) (s : State) : Executes (.call h f) s []
    ((s.prepared (.call h f)).goTo s.turn (padTarget (.call h f) s f) [2] (some f.imm.toNat)
      (linkEffs (some (wordN ((s.issuer (.call h f)).ctl.pc + 16))))) := by
  intro ctx hc hf
  simp only [slotOp, opCall, hc, hf, callTarget_eq (i := .call h f) rfl, linkEff_eq (i := .call h f) rfl]
theorem executes_callr (h : Head) (f : BR) (s : State) : Executes (.callr h f) s [f.sa.toNat]
    ((s.prepared (.callr h f)).goTo s.turn ((s.issuer (.callr h f)).sreg f.sa.toNat).toNat [2] (some f.imm.toNat)
      (linkEffs (some (wordN ((s.issuer (.callr h f)).ctl.pc + 16))))) := by
  intro ctx hc hf
  simp only [slotOp, opCallr, List.map_cons, List.map_nil, val_sreg, hc, hf, linkEff_eq (i := .callr h f) rfl]
theorem executes_ret (h : Head) (f : BR) (s : State) : Executes (.ret h f) s [63]
    ((s.prepared (.ret h f)).goTo s.turn ((s.issuer (.ret h f)).sreg 63).toNat [3] none (linkEffs none)) := by
  intro ctx hc _
  simp only [slotOp, opRet, List.map_cons, List.map_nil, val_sreg, hc]
  rfl
theorem executes_loop_round {h : Head} {f : BR} {s : State} (hlc : 1 < (s.issuer (.loop h f)).csrBits csrLC 60 0) :
    Executes (.loop h f) s [] ((s.prepared (.loop h f)).goTo s.turn (aheadTarget (.loop h f) s f) [0, 1, 2, 3, 4, 5] none
      (rotate (s.issuer (.loop h f)))) := by
  intro ctx hc hf
  have hround : ¬((s.prepared (.loop h f)).core s.turn).csrBits csrLC 60 0 ≤ 1 := by
    rw [show (s.prepared (.loop h f)).core s.turn = s.issuer (.loop h f) from rfl]; omega
  simp only [slotOp, opLoop, hc, hf, if_neg hround, directTarget_eq (i := .loop h f) rfl]
  rfl

/-- `BR` whose condition does not hold goes on to the next bundle (R121). -/
theorem br_fallsThrough {h : Head} {f : BR} {s : State} (hc : s.clears (.br h f) = true) (hl : leads (.br h f) s)
    (hcond : ¬Condition f.cc (int ((s.issuer (.br h f)).sreg f.sa.toNat))) :
    ∃ t, exec (.br h f) s = .next t ∧ OnlyCore s.turn (s.prepared (.br h f)) t ∧ CoreKept (s.issuer (.br h f)) (t.core s.turn) ∧
      MovedOn (s.issuer (.br h f)) (t.core s.turn) ∧ ScalarKept [] (s.issuer (.br h f)) (t.core s.turn) ∧
      (t.core s.turn).ctl.stall = 0 := by
  obtain ⟨u, r, hissued⟩ := (readsScalars_br h f).issued hc hl (executes_br_not hcond) fun _ => linkEffs_simple
  obtain ⟨t, hexec, honly, hkept, hcore⟩ := hissued.leaves
  obtain ⟨hpc, hrep, hwait, hmode, hstall⟩ := hissued.place hcore
  exact ⟨t, hexec, honly, hkept, ⟨hpc, hrep, hwait, hmode⟩, hissued.scalars hcore, hstall⟩

theorem transfersTaken : TransfersTaken := by
  refine ⟨?br, ?jmp, ?jmpr, ?call, ?callr, ?ret⟩
  case br => exact fun h f s hc hl hcond => (readsScalars_br h f).goes hc hl (executes_br_taken hcond)
  case jmp => exact fun h f s hc hl => (readsScalars_jmp h f).goes hc hl (executes_jmp h f s)
  case jmpr => exact fun h f s hc hl => (readsScalars_jmpr h f).goes hc hl (executes_jmpr h f s)
  case call => exact fun h f s hc hl => (readsScalars_call h f).goes hc hl (executes_call h f s)
  case callr => exact fun h f s hc hl => (readsScalars_callr h f).goes hc hl (executes_callr h f s)
  case ret => exact fun h f s hc hl => (readsScalars_ret h f).goes hc hl (executes_ret h f s)
theorem transfersRefused : TransfersRefused := by
  refine ⟨?not, ?br, ?jmp, ?loop, ?call, ?jmpr, ?callr, ?ret⟩
  case not => exact fun h f s hc hl hcond => br_fallsThrough hc hl hcond
  case br => exact fun h f s hc hcond => (readsScalars_br h f).refuses hc (executes_br_taken hcond)
  case jmp => exact fun h f s hc => (readsScalars_jmp h f).refuses hc (executes_jmp h f s)
  case loop => exact fun h f s hc hlc => (readsScalars_loop h f).refuses hc (executes_loop_round hlc)
  case call => exact fun h f s hc => (readsScalars_call h f).refuses hc (executes_call h f s)
  case jmpr => exact fun h f s hc => (readsScalars_jmpr h f).refuses hc (executes_jmpr h f s)
  case callr => exact fun h f s hc => (readsScalars_callr h f).refuses hc (executes_callr h f s)
  case ret => exact fun h f s hc => (readsScalars_ret h f).refuses hc (executes_ret h f s)

/-- Settles O9: each transfer reads its target and goes there where it is accepted (`ReadsScalars.goes`), and else traps CFI. -/
theorem transfers : Obligations.Transfers := ⟨transfersTaken, transfersRefused⟩

end Sys2Proof.Machine
end

section
/-! SUPPORT. Operations of the S slot that are no transfers: what their issue leaves, effect by effect; and those whose scalar result is
readable at once (R112-R115). -/
namespace Sys2Proof.Machine
open Sys2Proof.Claims

/-- The execution step of `i`, whatever its bundle, comes to the effects `es` and leaves the machine to its commit. -/
def Does (i : Instr) (s : State) (l : List Nat) (es : List Eff) : Prop :=
  ∀ ctx : Ctx, ctx.c = s.turn →
    (slotOp i).body ctx (l.map fun n => { val := ((s.issuer i).sreg n).toNat, tag := (s.issuer i).stag n }) (s.prepared i) =
      .ok (s.prepared i) { effs := es }

/-- What is no transfer issues whatever its gang has done (R125). -/
theorem ReadsScalars.issuedInLine {i : Instr} {l : List Nat} {s : State} {es : List Eff} (hi : ReadsScalars i l)
    (ht : (slotOp i).transfer = false) (hc : s.clears i = true) (hb : Does i s l es) (hes : ∀ e ∈ es, e.Simple) :
    ∃ u r, Issued i s es none u r := by
  obtain ⟨w, he⟩ := hi.inS hc
  obtain ⟨_, hnext, hrep, htaken⟩ := State.soleRecord_spec (s := s) (es := es) (j := none) hi he
  exact ⟨_, _, exec_scalar (exec_issues he s) hc he hi.nop hi.srcs ht (by rw [hi.pre]) hb (fun e h => (hes e h).plain)
    fun e h => (hes e h).uncounted, noted .., (State.noteLead_onlyCore ..).trans (.onCore ..), hnext, hrep, htaken⟩

/-- The core that `Issued` comes to, behind what its effects make of it. -/
theorem Issued.inCore {i : Instr} {s u : State} {es : List Eff} {j : Option Nat} {r : Waiting} (h : Issued i s es j u r)
    (hes : ∀ e ∈ es, e.local = true) : ∃ t, exec i s = .next t ∧ OnlyCore s.turn (s.prepared i) t ∧
      t.core s.turn = Core.settle r ((applyAll s.turn (guardOf i) ((s.prepared i).cycleOf s.turn) es u).core s.turn) :=
  ⟨_, h.commits, h.only.trans ((applyAll_onlyCore hes ..).trans (.onCore ..)), by rw [State.core_onCore, if_pos rfl]⟩
/-- A core whose mode the effects have left stands behind its bundle. -/
theorem Issued.movedOn {i : Instr} {s u : State} {es : List Eff} {r : Waiting} (h : Issued i s es none u r) {b : Core}
    (hb : b.ctl = (u.core s.turn).ctl) : MovedOn (s.issuer i) (Core.settle r b) := by
  obtain ⟨hpc, hrep, hwait, hmode, _⟩ := Core.settle_spec r b
  exact ⟨hpc.trans h.next, hrep.trans h.rep, hwait, by rw [hmode, hb, h.noted.mode]⟩
/-- Scalar registers that the effects have left are those before the issue. -/
theorem Issued.scalarKept {i : Instr} {s u : State} {es : List Eff} {j : Option Nat} {r : Waiting} (h : Issued i s es j u r) {b : Core}
    {ds : List Nat} (hb : ScalarKept ds (u.core s.turn) b) : ScalarKept ds (s.issuer i) (Core.settle r b) := fun n hn =>
  have hsettle := Core.settle_sreg r b n
  have hnoted := h.noted.scalars n
  ⟨(hsettle.1.trans (hb n hn).1).trans hnoted.1, (hsettle.2.trans (hb n hn).2).trans hnoted.2⟩
theorem Holds.settle {b : Core} {d : Nat} {x : Word} {g : Nat} (h : Holds b d x g) (r : Waiting) : Holds (Core.settle r b) d x g := by
  simp only [Holds, (Core.settle_sreg r b _).1, (Core.settle_sreg r b _).2] at h ⊢
  exact h

/-- An operation of one scalar result that is readable at once gives it. -/
theorem givesScalar {i : Instr} {d : BitVec 6} {l : List (BitVec 6)} {res : List SrcVal → Word} {v : Core → Word}
    (hw : ∃ (h : Head) (o : BitVec 8) (p : BitVec 48) (b : Bool), encode i = some (h.slot, h.pack o ++ p) ∧
      opcodeClass o.toNat = some (.scalar, b))
    (hop : slotOp i = resultOp (l.map sx6) d 1 res)
    (hv : ∀ k : Core, res (l.map fun n => { val := (k.sreg n.toNat).toNat, tag := k.stag n.toNat }) = v k) : GivesScalar i d v := by
  intro s hc
  have hi : ReadsScalars i (l.map BitVec.toNat) := ⟨hw, by rw [hop]; simp [resultOp, sx6], by rw [hop]; rfl, by rw [hop]; rfl⟩
  have hd : Does i s (l.map BitVec.toNat) [.sreg d.toNat (v (s.issuer i)) 1] := fun ctx _ => by
    rw [hop, ← hv, List.map_map]; rfl
  obtain ⟨u, r, hissued⟩ := hi.issuedInLine (by rw [hop]; rfl) hc hd (by simp only [List.mem_singleton, forall_eq]; exact ⟨rfl, rfl, rfl⟩)
  obtain ⟨t, hexec, honly, hcore⟩ := hissued.inCore (by simp only [List.mem_singleton, forall_eq]; rfl)
  obtain ⟨hholds, hkept⟩ := (u.core s.turn).writeS_holds d.toNat (v (s.issuer i)) (guardOf i)
  simp only [applyAll, Eff.apply, List.foldl_cons, List.foldl_nil, le_refl, if_true, State.core_onCore] at hcore
  refine ⟨t, hexec, honly, ?_⟩
  rw [hcore]
  exact ⟨(hissued.noted.kept.trans (.writeS ..)).trans (.settle ..), hissued.movedOn (Core.ctl_writeS ..),
    hissued.scalarKept hkept, hholds.settle r⟩

/-! The forms of R114 and R115. -/

theorem alu_two {mk : Head → SR → Instr} {v : Word → Word → Word} {o : BitVec 8} {b : Bool}
    (he : ∀ h f, encode (mk h f) = some (h.slot, h.pack o ++ f.pack)) (ho : opcodeClass o.toNat = some (.scalar, b))
    (hop : ∀ h f, slotOp (mk h f) = aluOp f [sx6 f.sa, sx6 f.sb] 1 fun a b _ => v a b) : Alu mk fun a b _ => v a b := fun h f =>
  givesScalar (l := [f.sa, f.sb]) ⟨h, o, _, b, he h f, ho⟩ (hop h f) fun k => by simp [val, wordN]
theorem alu_one {mk : Head → SR → Instr} {v : Word → Word} {o : BitVec 8} {b : Bool}
    (he : ∀ h f, encode (mk h f) = some (h.slot, h.pack o ++ f.pack)) (ho : opcodeClass o.toNat = some (.scalar, b))
    (hop : ∀ h f, slotOp (mk h f) = aluOp f [sx6 f.sa] 1 fun a _ _ => v a) : Alu mk fun a _ _ => v a := fun h f =>
  givesScalar (l := [f.sa]) ⟨h, o, _, b, he h f, ho⟩ (hop h f) fun k => by simp [val, wordN]
theorem alu_three {mk : Head → SR → Instr} {v : Word → Word → Word → Word} {o : BitVec 8} {b : Bool}
    (he : ∀ h f, encode (mk h f) = some (h.slot, h.pack o ++ f.pack)) (ho : opcodeClass o.toNat = some (.scalar, b))
    (hop : ∀ h f, slotOp (mk h f) = aluOp f [sx6 f.sa, sx6 f.sb, sx6 f.sc] 1 v) : Alu mk v := fun h f =>
  givesScalar (l := [f.sa, f.sb, f.sc]) ⟨h, o, _, b, he h f, ho⟩ (hop h f) fun k => by simp [val, wordN]
theorem alu_imm {mk : Head → SI → Instr} {v : Word → BitVec 32 → Word} {o : BitVec 8} {b : Bool}
    (he : ∀ h f, encode (mk h f) = some (h.slot, h.pack o ++ f.pack)) (ho : opcodeClass o.toNat = some (.scalar, b))
    (hop : ∀ h f, slotOp (mk h f) = immOp f v) : AluImm mk v := fun h f =>
  givesScalar (l := [f.sa]) ⟨h, o, _, b, he h f, ho⟩ (hop h f) fun k => by simp [val, wordN]
theorem alu_li : AluImm .li fun _ x => x.signExtend 64 := fun h f =>
  givesScalar (l := []) ⟨h, _, _, _, rfl, rfl⟩ (by simp only [slotOp, opLi]; rfl) fun _ => rfl

/-! The values, as R114 and R115 put them. -/

theorem sshiftRight_eq (a : Word) (n : Nat) : a.sshiftRight n = BitVec.ofInt 64 (int a / 2 ^ n) := by
  rw [BitVec.sshiftRight, Int.shiftRight_eq_div_pow]; rfl
theorem onesCount_eq (a : Word) : onesCount 64 a.toNat = (List.range 64).countP fun j => a.getLsbD j := by
  rw [onesCount, List.countP_eq_length_filter]
  simp only [bit_eq_testBit, BitVec.testBit_toNat]
theorem leadingZeros_eq (a : Word) : leadingZeros 64 a.toNat = if a = 0 then 64 else 63 - Nat.log2 a.toNat := by
  simp only [leadingZeros, BitVec.toNat_eq]
  rfl
theorem slotOp_sltni (h : Head) (f : SI) : slotOp (.sltni h f) = immOp f fun a x => flag (a.toNat < x.toNat) := by
  have hx : ∀ x : BitVec 32, (zx x).toNat = x.toNat := fun x => by
    rw [zx, BitVec.zeroExtend, BitVec.toNat_setWidth]
    exact Nat.mod_eq_of_lt (by have := x.isLt; omega)
  simp only [slotOp, opSltni, flag, BitVec.lt_def, hx]
/-- `LIH` puts 32 bits above the low half of the register (R115). -/
theorem lih_eq (a : Word) (x : BitVec 32) :
    (zx x <<< 32) ||| (a &&& 0xFFFFFFFF) = BitVec.ofNat 64 (x.toNat * 2 ^ 32 + a.toNat % 2 ^ 32) := by
  have hx := x.isLt
  have hlow : a.toNat % 2 ^ 32 < 2 ^ 32 := Nat.mod_lt _ (by decide)
  have hmask : (0xFFFFFFFF : Word).toNat = 2 ^ 32 - 1 := rfl
  have hhigh : (zx x <<< 32 : Word).toNat = x.toNat <<< 32 := by
    rw [BitVec.toNat_shiftLeft, zx, BitVec.zeroExtend, BitVec.toNat_setWidth, Nat.shiftLeft_eq]
    omega
  apply BitVec.eq_of_toNat_eq
  rw [BitVec.toNat_or, BitVec.toNat_and, hmask, Nat.and_two_pow_sub_one_eq_mod, hhigh, ← Nat.shiftLeft_add_eq_or_of_lt hlow,
    Nat.shiftLeft_eq, BitVec.toNat_ofNat]
  omega

/-- Settles O1: each operation is of a form whose one result is readable at once (`givesScalar`), and its value is the rule's. -/
theorem scalarResults : Obligations.ScalarResults := by
  refine ⟨?add, ?sub, ?and, ?or, ?xor, ?andn, ?shl, ?shr, ?sra, ?min, ?max, ?minn, ?maxn, ?seq, ?sne, ?slt, ?sltn, ?sel, ?clz, ?popc,
    ?addi, ?andi, ?ori, ?xori, ?shli, ?shri, ?srai, ?slti, ?sltni, ?li, ?lih, ?addx⟩
  case shl | shr => exact alu_two (fun _ _ => rfl) rfl fun _ _ => rfl
  case sra => exact alu_two (fun _ _ => rfl) rfl fun _ _ => by simp only [← sshiftRight_eq]; rfl
  case sne => exact alu_two (fun _ _ => rfl) rfl fun _ _ => by simp only [flag, ne_eq, ite_not]; rfl
  case sel => exact alu_three (fun _ _ => rfl) rfl fun _ _ => by simp only [slotOp, opSel, ne_eq, ite_not]
  case clz => exact alu_one (fun _ _ => rfl) rfl fun _ _ => by simp only [← leadingZeros_eq]; rfl
  case popc => exact alu_one (fun _ _ => rfl) rfl fun _ _ => by simp only [← onesCount_eq]; rfl
  case shli | shri => exact alu_imm (fun _ _ => rfl) rfl fun _ _ => rfl
  case srai => exact alu_imm (fun _ _ => rfl) rfl fun _ _ => by simp only [← sshiftRight_eq]; rfl
  case slti => exact alu_imm (fun _ _ => rfl) rfl fun _ _ => by simp only [← sgn_sx]; rfl
  case sltni => exact alu_imm (fun _ _ => rfl) rfl slotOp_sltni
  case lih => exact alu_imm (fun _ _ => rfl) rfl fun _ _ => by simp only [← lih_eq]; rfl
  case li => exact alu_li
  case addi | andi | ori | xori | addx => exact alu_imm (fun _ _ => rfl) rfl fun _ _ => rfl
  all_goals exact alu_two (fun _ _ => rfl) rfl fun _ _ => rfl

end Sys2Proof.Machine
end

section
/-! SUPPORT. Operations of the S slot that write control registers of the core at their commit: `MPW`, `LPSET` and `LOOP` (R118, R123, R124). -/
namespace Sys2Proof.Machine
open Sys2Proof.Claims

/-! Control registers written one after another. -/

theorem CoreKeptBut.refl (p : Nat → Prop) (k : Core) : CoreKeptBut p k k := (CoreKept.refl k).but
theorem CoreKeptBut.trans {p : Nat → Prop} {a b c : Core} (h : CoreKeptBut p a b) (h' : CoreKeptBut p b c) : CoreKeptBut p a c :=
  ⟨fun n hn => (h'.csr n hn).trans (h.csr n hn), h'.rs.trans h.rs, h'.gtag.trans h.gtag, h'.cells.trans h.cells,
    h'.clocks.trans h.clocks, h'.mx.trans h.mx, h'.l1.trans h.l1, h'.wbuf.trans h.wbuf, h'.copies.trans h.copies,
    h'.team.trans h.team, h'.owed.trans h.owed⟩
theorem CoreKeptBut.mono {p q : Nat → Prop} {a b : Core} (h : CoreKeptBut p a b) (hpq : ∀ n, p n → q n) : CoreKeptBut q a b :=
  ⟨fun n hn => h.csr n fun hp => hn (hpq n hp), h.rs, h.gtag, h.cells, h.clocks, h.mx, h.l1, h.wbuf, h.copies, h.team, h.owed⟩

/-- Registers take values, in the order of a list. -/
def Core.setCsrs (k : Core) (l : List (Nat × Word)) : Core := l.foldl (fun k p => k.setCsr p.1 p.2) k

theorem Core.setCsrs_kept (k : Core) (l : List (Nat × Word)) :
    CoreKeptBut (fun n => n ∈ l.map Prod.fst) k (k.setCsrs l) ∧ (k.setCsrs l).ctl = k.ctl ∧ ScalarKept [] k (k.setCsrs l) := by
  induction l generalizing k with
  | nil => exact ⟨.refl _ k, rfl, fun _ _ => ⟨rfl, rfl⟩⟩
  | cons p l ih =>
    obtain ⟨hkept, hctl, hscalar⟩ := ih (k.setCsr p.1 p.2)
    exact ⟨((CoreKeptBut.setCsr k p.1 p.2).mono fun n hn => by simp [hn]).trans (hkept.mono fun n hn => List.mem_cons_of_mem _ hn),
      hctl, hscalar⟩
theorem Core.csr_setCsrs (k : Core) {l : List (Nat × Word)} {n : Nat} {x : Word} (hl : (l.map Prod.fst).Nodup) (h : (n, x) ∈ l) :
    (k.setCsrs l).csr n = x := by
  induction l generalizing k with
  | nil => cases h
  | cons p l ih =>
    obtain ⟨hp, hl⟩ := List.nodup_cons.1 hl
    rcases List.mem_cons.1 h with rfl | h
    · exact ((Core.setCsrs_kept _ l).1.csr n hp).trans ((Core.csr_setCsr ..).trans (if_pos rfl))
    · exact ih _ hl h

/-- Effects that put values into registers. -/
def rawEffs (l : List (Nat × Word)) : List Eff := l.map fun p => .raw p.1 p.2

theorem rawEffs_simple {l : List (Nat × Word)} {e : Eff} (h : e ∈ rawEffs l) : e.Simple := by
  obtain ⟨p, _, rfl⟩ := List.mem_map.1 h
  exact ⟨rfl, rfl, rfl⟩
theorem core_applyRaws (c g cyc : Nat) (l : List (Nat × Word)) (u : State) :
    (applyAll c g cyc (rawEffs l) u).core c = (u.core c).setCsrs l := by
  induction l generalizing u with
  | nil => rfl
  | cons p l ih =>
    have hp : applyAll c g cyc (rawEffs (p :: l)) u = applyAll c g cyc (rawEffs l) (u.onCore c fun k => k.setCsr p.1 p.2) := rfl
    rw [hp, ih, State.core_onCore, if_pos rfl]
    rfl

/-- The place of a core behind its issue. -/
theorem Issued.stands {i : Instr} {s u : State} {es : List Eff} {j : Option Nat} {r : Waiting} (h : Issued i s es j u r) {b : Core}
    (hb : b.ctl = (u.core s.turn).ctl) : (Core.settle r b).ctl.pc = j.getD ((s.issuer i).ctl.pc + 16) ∧ (Core.settle r b).ctl.rep = 0 ∧
      (Core.settle r b).ctl.stall = (if j.isSome then 3 else 0) ∧ (Core.settle r b).ctl.mode = (s.issuer i).ctl.mode := by
  obtain ⟨hpc, hrep, _, hmode, _⟩ := Core.settle_spec r b
  exact ⟨hpc.trans h.next, hrep.trans h.rep, by rw [Core.settle_stall, h.taken], by rw [hmode, hb, h.noted.mode]⟩

/-- What a register write of an issue leaves: the registers written, and of the rest of the core and the machine nothing but the place. -/
theorem Issued.setsCsrs {i : Instr} {s u : State} {l : List (Nat × Word)} {j : Option Nat} {r : Waiting}
    (h : Issued i s (rawEffs l) j u r) (hl : (l.map Prod.fst).Nodup) : ∃ t b, exec i s = .next t ∧ OnlyCore s.turn (s.prepared i) t ∧
      t.core s.turn = Core.settle r b ∧ b.ctl = (u.core s.turn).ctl ∧ CoreKeptBut (fun n => n ∈ l.map Prod.fst) (s.issuer i) (t.core s.turn) ∧
      ScalarKept [] (s.issuer i) (t.core s.turn) ∧ ∀ p ∈ l, (t.core s.turn).csr p.1 = p.2 := by
  obtain ⟨t, hexec, honly, hcore⟩ := h.inCore fun _ he => (rawEffs_simple he).inCore
  rw [core_applyRaws] at hcore
  obtain ⟨hkept, hctl, hscalar⟩ := (u.core s.turn).setCsrs_kept l
  refine ⟨t, _, hexec, honly, hcore, hctl, ?_, ?_, ?_⟩ <;> rw [hcore]
  · exact .between h.noted.kept hkept (.settle ..)
  · exact h.scalarKept hscalar
  · exact fun p hp => (Core.settle_csr ..).trans (Core.csr_setCsrs _ hl hp)

/-! `MPW` and `LPSET`. -/

theorem readsScalars_mpw (h : Head) (f : SR) : ReadsScalars (.mpw h f) [f.sa.toNat] := ⟨⟨h, _, _, _, rfl, rfl⟩, rfl, rfl, rfl⟩
theorem readsScalars_lpset (h : Head) (f : BR) : ReadsScalars (.lpset h f) [f.sa.toNat] := ⟨⟨h, _, _, _, rfl, rfl⟩, rfl, rfl, rfl⟩
theorem readsScalars_chk (h : Head) (f : SR) : ReadsScalars (.chk h f) [f.sa.toNat, f.sb.toNat] := ⟨⟨h, _, _, _, rfl, rfl⟩, rfl, rfl, rfl⟩

/-- `MPW` writes its parameter register (R118). -/
theorem mpw_sets {h : Head} {f : SR} {s : State} (hc : s.clears (.mpw h f) = true) :
    ∃ t, exec (.mpw h f) s = .next t ∧ OnlyCore s.turn (s.prepared (.mpw h f)) t ∧
      CoreKeptBut (· = csrMP + f.sd.toNat) (s.issuer (.mpw h f)) (t.core s.turn) ∧ MovedOn (s.issuer (.mpw h f)) (t.core s.turn) ∧
      ScalarKept [] (s.issuer (.mpw h f)) (t.core s.turn) ∧ (t.core s.turn).mp f.sd.toNat = (s.issuer (.mpw h f)).sreg f.sa.toNat := by
  have hdoes : Does (.mpw h f) s [f.sa.toNat] (rawEffs [(csrMP + f.sd.toNat, (s.issuer (.mpw h f)).sreg f.sa.toNat)]) := fun ctx _ => by
    simp only [slotOp, opMpw, List.map_cons, List.map_nil, val_sreg]; rfl
  obtain ⟨u, r, hissued⟩ := (readsScalars_mpw h f).issuedInLine rfl hc hdoes fun _ => rawEffs_simple
  obtain ⟨t, b, hexec, honly, hcore, hctl, hkept, hscalar, hset⟩ := hissued.setsCsrs (by simp)
  exact ⟨t, hexec, honly, hkept.mono (by simp), hcore ▸ hissued.movedOn hctl, hscalar, hset _ (List.mem_singleton.2 rfl)⟩

theorem bits_loopCounter {st p : Nat} (hst : st < 8) (hp : p < 2 ^ 61) :
    bits (wordN (st <<< 61 + p)).toNat 63 61 = st ∧ bits (wordN (st <<< 61 + p)).toNat 60 0 = p := by
  rw [bits_wordN _ _ _ (by decide), bits_wordN _ _ _ (by decide)]
  simp only [bits, Nat.shiftLeft_eq, Nat.shiftRight_eq_div_pow]
  omega

/-- `LPSET` sets up the loop (R123). -/
theorem lpset_sets {h : Head} {f : BR} {s : State} (hc : s.clears (.lpset h f) = true) :
    let k := s.issuer (.lpset h f)
    let n := (k.sreg f.sa.toNat).toNat
    let st := f.ex.toNat % 8
    ∃ t, exec (.lpset h f) s = .next t ∧ OnlyCore s.turn (s.prepared (.lpset h f)) t ∧ MovedOn k (t.core s.turn) ∧
      CoreKeptBut (fun m => m = csrLC ∨ m = csrPRD) k (t.core s.turn) ∧ ScalarKept [] k (t.core s.turn) ∧
      (t.core s.turn).csrBits csrLC 63 61 = st ∧
      (t.core s.turn).csrBits csrLC 60 0 = (if n = 0 then 0 else min (n + st - 1) (2 ^ 61 - 1)) ∧
      ((t.core s.turn).pred 1 = true ↔ 0 < n) ∧ ∀ j, 2 ≤ j → j < 8 → (t.core s.turn).pred j = false := by
  intro k n st
  have hdoes : Does (.lpset h f) s [f.sa.toNat] (rawEffs [(csrLC, (lpset n st).1), (csrPRD, (lpset n st).2)]) := fun ctx _ => by
    simp only [slotOp, opLpset, List.map_cons, List.map_nil, val_sreg]; rfl
  obtain ⟨u, r, hissued⟩ := (readsScalars_lpset h f).issuedInLine rfl hc hdoes fun _ => rawEffs_simple
  obtain ⟨t, b, hexec, honly, hcore, hctl, hkept, hscalar, hset⟩ := hissued.setsCsrs (by simp [csrLC, csrPRD])
  have hlc : (t.core s.turn).csr csrLC = _ := hset _ (List.mem_cons_self ..)
  have hprd : (t.core s.turn).csr csrPRD = _ := hset _ (List.mem_cons_of_mem _ (List.mem_singleton.2 rfl))
  have hpasses : (if n = 0 then 0 else min (n + st - 1) (2 ^ 61 - 1)) < 2 ^ 61 := by split <;> omega
  obtain ⟨hhigh, hlow⟩ := bits_loopCounter (Nat.mod_lt f.ex.toNat (by decide : 0 < 8)) hpasses
  refine ⟨t, hexec, honly, hcore ▸ hissued.movedOn hctl, hkept.mono (by simp), hscalar, ?_, ?_, ?_, fun j h2 h8 => ?_⟩
  · rw [Core.csrBits, hlc]; exact hhigh
  · rw [Core.csrBits, hlc]; exact hlow
  · rw [Core.pred, hprd, lpset]
    rcases Nat.eq_zero_or_pos n with h0 | h0
    · simp [h0, bit]
    · simp [Nat.ne_of_gt h0, h0, bit]
  · have hprd : (t.core s.turn).csr csrPRD = if n = 0 then 0 else 2 := hprd
    rw [Core.pred, decide_eq_false (by omega), hprd, Bool.false_or]
    split <;> interval_cases j <;> rfl

/-- Settles O10: the two registers that `LPSET` writes, and the stage count that its field cannot hold. -/
theorem loopSetup : Obligations.LoopSetup := by
  refine ⟨fun h f s hc => lpset_sets hc, fun h f hex => ?_⟩
  have hform : (Instr.lpset h f).formOk = false := by
    have hex := f.ex.isLt
    simp [Instr.formOk]
    omega
  have hread : readWord h.slot (h.pack 0x37 ++ f.pack) = some (.lpset h f) := Laws.Encoding.readWord_encode _ _ _ rfl
  have hopcode : opcodeClass ((h.pack 0x37 ++ f.pack).extractLsb' 56 8).toNat = some (.scalar, false) := by
    rw [← bits_opcode, opcode_pack]; rfl
  simp only [decodeSlot, hread, hopcode, hform, Bool.not_false, if_true]

/-! `LOOP`. -/

/-- What a pass that goes round again puts into the loop's registers (R124). -/
def Core.rotation (k : Core) : List (Nat × Word) :=
  let st := k.csrBits csrLC 63 61
  let p := k.csrBits csrLC 60 0 - 1
  [(csrLC, wordN (st <<< 61 + p))] ++ ((List.range 8).map fun i => (csrB + i, k.csr (csrB + (i + 7) % 8))) ++
    [(csrPRD, wordN ((k.csr csrPRD).toNat * 2 % 256 / 4 * 4 + if st < p + 1 then 2 else 0))]
theorem rotate_eq (k : Core) : rotate k = rawEffs k.rotation := by
  simp only [rotate, rawEffs, Core.rotation, List.map_append, List.map_map]
  rfl
theorem Core.rotation_keys (k : Core) : k.rotation.map Prod.fst = csrLC :: (List.range 8).map (csrB + ·) ++ [csrPRD] := by
  simp only [Core.rotation, List.map_append, List.map_map]
  rfl
theorem Core.rotation_nodup (k : Core) : (k.rotation.map Prod.fst).Nodup := by
  rw [Core.rotation_keys]
  decide
theorem Core.rotation_loopRegs {k : Core} {n : Nat} (h : n ∈ k.rotation.map Prod.fst) : loopRegs n := by
  simp only [Core.rotation_keys, List.mem_append, List.mem_cons, List.mem_map, List.mem_range, List.not_mem_nil, or_false] at h
  rcases h with (rfl | ⟨i, hi, rfl⟩) | rfl
  · exact .inl rfl
  · exact .inr (.inr (by omega))
  · exact .inr (.inl rfl)

theorem Core.csrBits_lt (k : Core) (n h l : Nat) (hl : l ≤ h) : k.csrBits n h l < 2 ^ (h + 1 - l) := by
  have := hl
  exact Nat.mod_lt _ (by positivity)

/-- The predicates of the next pass: each takes the value of the one below it, and the first tells whether passes of the loop's own
are left (R124). -/
theorem bit_shiftedPredicates (x : Nat) (b : Prop) [Decidable b] :
    (∀ j, 2 ≤ j → j < 8 → bit (wordN (x * 2 % 256 / 4 * 4 + if b then 2 else 0)).toNat j = bit x (j - 1)) ∧
      (bit (wordN (x * 2 % 256 / 4 * 4 + if b then 2 else 0)).toNat 1 = true ↔ b) := by
  have hword : (wordN (x * 2 % 256 / 4 * 4 + if b then 2 else 0)).toNat = x * 2 % 256 / 4 * 4 + if b then 2 else 0 := by
    rw [wordN, BitVec.toNat_ofNat]
    exact Nat.mod_eq_of_lt (by split <;> omega)
  rw [hword]
  refine ⟨fun j h2 h8 => ?_, ?_⟩
  · simp only [bit, Nat.shiftRight_eq_div_pow, decide_eq_decide]
    split <;> interval_cases j <;> omega
  · simp only [bit, Nat.shiftRight_eq_div_pow, decide_eq_true_eq]
    by_cases hb : b
    · simp only [hb, if_true, iff_true]; omega
    · simp only [hb, if_false, iff_false]; omega

/-- `LOOP` at its last pass falls through (R124). -/
theorem loop_fallsThrough {h : Head} {f : BR} {s : State} (hc : s.clears (.loop h f) = true) (hl : leads (.loop h f) s)
    (hp : (s.issuer (.loop h f)).csrBits csrLC 60 0 ≤ 1) :
    let k := s.issuer (.loop h f)
    ∃ t, exec (.loop h f) s = .next t ∧ OnlyCore s.turn (s.prepared (.loop h f)) t ∧ MovedOn k (t.core s.turn) ∧
      CoreKeptBut loopRegs k (t.core s.turn) ∧ ScalarKept [] k (t.core s.turn) ∧ (t.core s.turn).csrBits csrLC 60 0 = 0 ∧
      (t.core s.turn).csrBits csrLC 63 61 = k.csrBits csrLC 63 61 ∧ (t.core s.turn).csr csrPRD = 0 ∧
      ∀ j < 8, (t.core s.turn).csr (csrB + j) = k.csr (csrB + j) := by
  intro k
  have hdoes : Executes (.loop h f) s []
      (.ok (s.prepared (.loop h f)) { effs := rawEffs [(csrLC, wordN (k.csrBits csrLC 63 61 <<< 61)), (csrPRD, 0)] }) := by
    intro ctx hc _
    have hlast : ((s.prepared (.loop h f)).core s.turn).csrBits csrLC 60 0 ≤ 1 := hp
    simp only [slotOp, opLoop, hc, if_pos hlast]
    rfl
  obtain ⟨u, r, hissued⟩ := (readsScalars_loop h f).issued hc hl hdoes fun _ => rawEffs_simple
  obtain ⟨t, b, hexec, honly, hcore, hctl, hkept, hscalar, hset⟩ := hissued.setsCsrs (by simp [csrLC, csrPRD])
  have hlc : (t.core s.turn).csr csrLC = wordN (k.csrBits csrLC 63 61 <<< 61 + 0) := hset _ (List.mem_cons_self ..)
  obtain ⟨hhigh, hlow⟩ := bits_loopCounter (k.csrBits_lt csrLC 63 61 (by decide)) (by decide : 0 < 2 ^ 61)
  refine ⟨t, hexec, honly, hcore ▸ hissued.movedOn hctl, hkept.mono ?_, hscalar, ?_, ?_, hset (csrPRD, 0) (by simp), fun j hj => hkept.csr _ ?_⟩
  · simp only [List.map_cons, List.map_nil, List.mem_cons, List.not_mem_nil, or_false]
    exact fun n hn => hn.elim .inl fun h => .inr (.inl h)
  · rw [Core.csrBits, hlc, hlow]
  · rw [Core.csrBits, hlc, hhigh]
  · simp [csrB, csrLC, csrPRD]; omega

/-- `LOOP` with passes left goes round (R124). -/
theorem loop_goesRound {h : Head} {f : BR} {s : State} (hc : s.clears (.loop h f) = true) (hl : leads (.loop h f) s)
    (hp : 1 < (s.issuer (.loop h f)).csrBits csrLC 60 0)
    (ha : Accepts (.loop h f) s (aheadTarget (.loop h f) s f) [0, 1, 2, 3, 4, 5] none) :
    Goes (.loop h f) s (aheadTarget (.loop h f) s f) none loopRegs ∧
      ∀ t, exec (.loop h f) s = .next t → ∀ p ∈ (s.issuer (.loop h f)).rotation, (t.core s.turn).csr p.1 = p.2 := by
  have hdoes := executes_loop_round hp
  rw [State.goTo_accepted ha, rotate_eq] at hdoes
  obtain ⟨u, r, hissued⟩ := (readsScalars_loop h f).issued hc hl hdoes fun _ => rawEffs_simple
  obtain ⟨t, b, hexec, honly, hcore, hctl, hkept, hscalar, hset⟩ := hissued.setsCsrs (Core.rotation_nodup _)
  obtain ⟨hpc, hrep, hstall, hmode⟩ := hissued.stands hctl
  rw [← hcore] at hpc hrep hstall hmode
  refine ⟨⟨t, hexec, honly, hpc, hrep, hstall, hmode, hkept.mono fun _ => Core.rotation_loopRegs, hscalar⟩, fun t' hexec' => ?_⟩
  rw [hexec] at hexec'
  exact Host.Outcome.next.inj hexec' ▸ hset

/-- Settles O11: the last pass falls through, and every other goes round with the rotated registers. -/
theorem moduloLoop : Obligations.ModuloLoop := by
  intro h f s hc hl k st p
  refine ⟨loop_fallsThrough hc hl, fun hp ha => ?_⟩
  obtain ⟨hgoes, hset⟩ := loop_goesRound hc hl hp ha
  refine ⟨hgoes, fun t hexec => ?_⟩
  have hset := hset t hexec
  have hp61 : p < 2 ^ 61 := k.csrBits_lt csrLC 60 0 (by decide)
  have hlc : (t.core s.turn).csr csrLC = wordN (st <<< 61 + (p - 1)) := hset (csrLC, _) (List.mem_append_left _ (List.mem_cons_self ..))
  have hprd : (t.core s.turn).csr csrPRD = wordN ((k.csr csrPRD).toNat * 2 % 256 / 4 * 4 + if st < p - 1 + 1 then 2 else 0) :=
    hset (csrPRD, _) (List.mem_append_right _ (List.mem_singleton.2 rfl))
  obtain ⟨hhigh, hlow⟩ := bits_loopCounter (k.csrBits_lt csrLC 63 61 (by decide)) (by omega : p - 1 < 2 ^ 61)
  obtain ⟨hshift, hfirst⟩ := bit_shiftedPredicates (k.csr csrPRD).toNat (st < p - 1 + 1)
  refine ⟨?_, ?_, fun j hj => ?_, fun j h2 h8 => ?_, ?_⟩
  · rw [Core.csrBits, hlc, hlow]
  · rw [Core.csrBits, hlc, hhigh]
  · exact hset (csrB + j, _) (List.mem_append_left _ (List.mem_cons_of_mem _ (List.mem_map.2 ⟨j, List.mem_range.2 hj, rfl⟩)))
  · rw [Core.pred, decide_eq_false (by omega), Bool.false_or, hprd, hshift j h2 h8]
  · rw [Core.pred, decide_eq_false (by omega), Bool.false_or, hprd, hfirst]
    omega

end Sys2Proof.Machine
end

section
/-! SUPPORT. The operation alone in its bundle: what its context is. `NOP` and `CHK` (R119, R132), misaligned accesses (R116, R211),
and the reading of control registers and of the time base (R129, R133, R358). -/
namespace Sys2Proof.Machine
open Sys2Proof.Claims

/-! `NOP`. -/

/-- A slot that does nothing passes through the execution step. -/
theorem State.execStep_nop {s : State} {c : Nat} {fr : Frame} {x : SlotOp} (hn : x.op.nop = true) (hs : x.op.srcs = []) :
    s.execStep c fr [x] = .one s x [] 0 := by
  have hvals : x.vals s c = [] := by simp [SlotOp.vals, hs]
  have hrd : headsRead s c [x] = [] := by
    unfold headsRead headsNamed
    cases hl : x.live (s.core c) <;> simp [hl, hvals]
  unfold State.execStep
  simp only [hrd, List.foldl_cons, List.foldl_nil, List.map_nil]
  unfold Done.slot
  simp [hn, Done.one]

/-- `NOP` moves its core on, in any slot and whatever its guard (R119). -/
theorem nop_movesOn {x : Slot} {r : BitVec 56} {s : State} (hp : s.passes (.nop x r) = true) :
    ∃ t, exec (.nop x r) s = .next t ∧ OnlyCore s.turn (s.prepared (.nop x r)) t ∧
      CoreKept (s.issuer (.nop x r)) (t.core s.turn) ∧ MovedOn (s.issuer (.nop x r)) (t.core s.turn) ∧
      ScalarKept [] (s.issuer (.nop x r)) (t.core s.turn) ∧ (t.core s.turn).flights = (s.issuer (.nop x r)).flights := by
  obtain ⟨y, w, he, hexec⟩ := issueOne_passes hp
  have hnone : ∀ e ∈ ([] : List Eff), ∃ j l, e = .latch j l := by simp
  have hpre : (s.soleOp (.nop x r) y w).op.pre ((s.prepared (.nop x r)).core s.turn) (s.soleOp (.nop x r) y w).ix = [] := rfl
  rw [← exec_issues he, State.runSlots_one (State.execStep_nop rfl rfl) rfl (by simp), State.finishIssue_one hpre rfl (by simp)] at hexec
  refine ⟨_, hexec, (State.oneDone_onlyCore (by simp)).trans (.onCore ..), ?_⟩
  rw [State.core_onCore, if_pos rfl]
  have hpc : s.soleFrame.h = (s.issuer (.nop x r)).ctl.pc := soleFrame_pc he
  have hnoted := noted (s.prepared (.nop x r)) s.turn ((s.prepared (.nop x r)).cycleOf s.turn)
    (issueWeight ((s.prepared (.nop x r)).core s.turn) [s.soleOp (.nop x r) y w])
    (((s.prepared (.nop x r)).transferOutcome s.turn [(s.soleOp (.nop x r) y w, {})]).getD 0)
  have hdone : LatchesOnly _ (((s.prepared (.nop x r)).oneDone s.turn (s.soleOp (.nop x r) y w) []).core s.turn) :=
    State.slotDone_latches hnone ..
  obtain ⟨hnext, hrep, hwait, hmode⟩ := Core.settle_place (s := s.prepared (.nop x r)) (c := s.turn) (fr := s.soleFrame)
    (x := s.soleOp (.nop x r) y w) (es := []) (n := 0) hpre rfl
    (((s.prepared (.nop x r)).oneDone s.turn (s.soleOp (.nop x r) y w) []).core s.turn)
  generalize State.issueRecord _ _ _ _ _ = q at *
  generalize ((s.prepared (.nop x r)).oneDone s.turn (s.soleOp (.nop x r) y w) []).core s.turn = k at *
  generalize (State.onCore _ _ _).core s.turn = b at *
  have hsettle := Core.settle_sreg q k
  obtain ⟨_, _, _, _, _, _, _, _, _, _, _, hflights, _⟩ := Core.settle_spec q k
  refine ⟨(hnoted.kept.trans hdone.kept).trans (.settle ..), ⟨hnext.trans ?_, hrep, hwait, hmode.trans ?_⟩, fun j _ => ?_, hflights.trans ?_⟩
  · rw [hpc]; rfl
  · rw [hdone]; exact hnoted.mode
  · have hlatched : k.sreg j = b.sreg j ∧ k.stag j = b.stag j := by rw [hdone]; exact ⟨rfl, rfl⟩
    exact ⟨(hsettle j).1.trans (hlatched.1.trans (hnoted.scalars j).1), (hsettle j).2.trans (hlatched.2.trans (hnoted.scalars j).2)⟩
  · rw [hdone]; exact hnoted.flights

/-! `CHK`. -/

/-- What has no effect leaves everything but its core's place (R77). -/
theorem Issued.keepsAll {i : Instr} {s u : State} {r : Waiting} (h : Issued i s [] none u r) :
    ∃ t, exec i s = .next t ∧ OnlyCore s.turn (s.prepared i) t ∧ CoreKept (s.issuer i) (t.core s.turn) ∧
      MovedOn (s.issuer i) (t.core s.turn) ∧ ScalarKept [] (s.issuer i) (t.core s.turn) := by
  obtain ⟨t, hexec, honly, hcore⟩ := h.inCore (by simp)
  refine ⟨t, hexec, honly, ?_⟩
  rw [hcore]
  exact ⟨h.noted.kept.trans (.settle ..), h.movedOn rfl, h.scalarKept fun _ _ => ⟨rfl, rfl⟩⟩

theorem chk_equal {h : Head} {f : SR} {s : State} (hc : s.clears (.chk h f) = true)
    (heq : (s.issuer (.chk h f)).sreg f.sa.toNat = (s.issuer (.chk h f)).sreg f.sb.toNat) :
    ∃ t, exec (.chk h f) s = .next t ∧ OnlyCore s.turn (s.prepared (.chk h f)) t ∧ CoreKept (s.issuer (.chk h f)) (t.core s.turn) ∧
      MovedOn (s.issuer (.chk h f)) (t.core s.turn) ∧ ScalarKept [] (s.issuer (.chk h f)) (t.core s.turn) := by
  have hdoes : Does (.chk h f) s [f.sa.toNat, f.sb.toNat] [] := fun ctx _ => by
    simp [slotOp, opChk, val, heq]
  obtain ⟨u, r, hissued⟩ := (readsScalars_chk h f).issuedInLine rfl hc hdoes (by simp)
  exact hissued.keepsAll
theorem chk_differs {h : Head} {f : SR} {s : State} (hc : s.clears (.chk h f) = true)
    (hne : (s.issuer (.chk h f)).sreg f.sa.toNat ≠ (s.issuer (.chk h f)).sreg f.sb.toNat) :
    Traps (.chk h f) s cDUPMIS [0, (s.issuer (.chk h f)).sreg f.sa.toNat, (s.issuer (.chk h f)).sreg f.sb.toNat] :=
  (readsScalars_chk h f).traps hc fun ctx _ _ => by
    simp [slotOp, opChk, val, wordN, hne]

/-- Settles O3: `NOP`, `MPW` and `CHK`. -/
theorem nopMpwChk : Obligations.NopMpwChk := by
  unfold Obligations.NopMpwChk
  exact ⟨fun _ _ _ => nop_movesOn, fun _ _ _ => mpw_sets, fun _ _ _ hc => ⟨chk_equal hc, chk_differs hc⟩⟩

/-! Reading a control register and the time base. -/

theorem readsScalars_csrr (h : Head) (f : XF) : ReadsScalars (.csrr h f) [] := ⟨⟨h, _, _, _, rfl, rfl⟩, rfl, rfl, rfl⟩
theorem readsScalars_tbr (h : Head) (f : XF) : ReadsScalars (.tbr h f) [] := ⟨⟨h, _, _, _, rfl, rfl⟩, rfl, rfl, rfl⟩

/-- One scalar result, and TXP where timing shows in it (R358). -/
def readEffs (d : Nat) (x : Word) (timed : Bool) : List Eff := [.sreg d x 1] ++ if timed then [.txp] else []

theorem readEffs_simple {d : Nat} {x : Word} {timed : Bool} {e : Eff} (h : e ∈ readEffs d x timed) : e.Simple := by
  cases timed <;> simp [readEffs] at h
  · exact h ▸ ⟨rfl, rfl, rfl⟩
  · obtain rfl | rfl := h <;> exact ⟨rfl, rfl, rfl⟩

theorem core_applyRead (c g cyc d : Nat) (x : Word) (timed : Bool) (u : State) :
    (applyAll c g cyc (readEffs d x timed) u).core c =
      if timed then ((u.core c).writeS d x g).setTxp else (u.core c).writeS d x g := by
  cases timed <;> simp [applyAll, readEffs, Eff.apply]

/-- TXP is set where timing shows, and no other register changes. -/
theorem Core.keptBut_setTxp (k : Core) (timed : Bool) : CoreKeptBut (· = csrTSTAT) k (if timed then k.setTxp else k) ∧
    (if timed then k.setTxp else k).csr csrTSTAT = if timed then k.csr csrTSTAT ||| 1 else k.csr csrTSTAT := by
  cases timed
  · exact ⟨.refl _ k, rfl⟩
  · exact ⟨.setCsr k csrTSTAT _, by simp [Core.setTxp]⟩

/-- An operation that reads time or a register delivers what it read and sets TXP where timing shows in it. -/
theorem Issued.delivers {i : Instr} {s u : State} {d : Nat} {x : Word} {timed : Bool} {r : Waiting}
    (h : Issued i s (readEffs d x timed) none u r) : ∃ t, exec i s = .next t ∧ OnlyCore s.turn (s.prepared i) t ∧
      CoreKeptBut (· = csrTSTAT) (s.issuer i) (t.core s.turn) ∧ MovedOn (s.issuer i) (t.core s.turn) ∧
      ScalarKept [d] (s.issuer i) (t.core s.turn) ∧ Holds (t.core s.turn) d x (guardOf i) ∧
      (t.core s.turn).csr csrTSTAT = if timed then (s.issuer i).csr csrTSTAT ||| 1 else (s.issuer i).csr csrTSTAT := by
  obtain ⟨t, hexec, honly, hcore⟩ := h.inCore fun _ he => (readEffs_simple he).inCore
  rw [core_applyRead] at hcore
  obtain ⟨hholds, hkept⟩ := (u.core s.turn).writeS_holds d x (guardOf i)
  have hwrite : CoreKept (u.core s.turn) ((u.core s.turn).writeS d x (guardOf i)) := .writeS ..
  have hcsr := (h.noted.kept.trans hwrite).csr csrTSTAT
  have hctl := Core.ctl_writeS (u.core s.turn) d x (guardOf i)
  generalize (u.core s.turn).writeS d x (guardOf i) = k at *
  obtain ⟨hbut, htxp⟩ := k.keptBut_setTxp timed
  refine ⟨t, hexec, honly, ?_⟩
  rw [hcore]
  refine ⟨.between (h.noted.kept.trans hwrite) hbut (.settle ..), h.movedOn ?_, h.scalarKept ?_, Holds.settle ?_ r,
    (Core.settle_csr ..).trans ?_⟩
  · cases timed <;> exact hctl
  · cases timed <;> exact hkept
  · cases timed <;> exact hholds
  · rw [htxp, hcsr]

theorem isCycleCounter_eq (n : BitVec 12) :
    isCycleCounter n.toNat = !decide (n.toNat < 0x100 ∧ n ≠ 0x0C0 ∨ n = 0x118) := by
  have h1 : n = 0x0C0 ↔ n.toNat = 0x0C0 := by bv_omega
  have h2 : n = 0x118 ↔ n.toNat = 0x118 := by bv_omega
  rw [Bool.eq_iff_iff]
  simp only [isCycleCounter, csrCPWM, csrPMEV, Bool.or_eq_true, beq_iff_eq, Bool.and_eq_true, decide_eq_true_eq, bne_iff_ne,
    Bool.not_eq_true', decide_eq_false_iff_not, ne_eq, h1, h2]
  omega

/-- `CSRR` delivers what the register holds (R129, R358). -/
theorem readCsr_eq (s : State) (c : Nat) (n : BitVec 12) : s.readCsr c n.toNat =
    if n = 0 then wordN c else if n = 0x100 then wordN s.now
    else if 0x120 ≤ n.toNat ∧ n.toNat ≤ 0x127 then (s.cluster (c / 64)).srh.getD (n.toNat - 0x120) 0
    else if n = 0x128 then wordN (s.cluster (c / 64)).drpk else (s.core c).csr n.toNat := by
  have heq : ∀ m : BitVec 12, n.toNat = m.toNat ↔ n = m := fun m => BitVec.toNat_inj
  have h0 := heq 0
  have h1 := heq 0x100
  have h2 := heq 0x128
  simp only [BitVec.ofNat_eq_ofNat, BitVec.toNat_ofNat, Nat.reducePow, Nat.reduceMod] at h0 h1 h2
  simp only [State.readCsr, clusterOf, h0, h1, h2, BitVec.ofNat_eq_ofNat]

/-- Settles O13: `CSRR` and `TBR`. -/
theorem registerReads : Obligations.RegisterReads := by
  unfold Obligations.RegisterReads
  constructor
  · intro h f s hc
    have hdoes : Does (.csrr h f) s [] (readEffs f.sd.toNat ((s.prepared (.csrr h f)).readCsr s.turn f.csr.toNat)
        (isCycleCounter f.csr.toNat)) := fun ctx hctx => by simp only [slotOp, opCsrr, hctx, readEffs]
    obtain ⟨u, r, hissued⟩ := (readsScalars_csrr h f).issuedInLine rfl hc hdoes fun _ => readEffs_simple
    obtain ⟨t, hexec, honly, hkept, hmoved, hscalar, hholds, htxp⟩ := hissued.delivers
    refine ⟨t, hexec, honly, hkept, hmoved, hscalar, readCsr_eq .. ▸ hholds, htxp.trans ?_⟩
    simp only [isCycleCounter_eq, Bool.not_eq_true', decide_eq_false_iff_not, ite_not]
  · intro h f s hc
    have hdoes : Does (.tbr h f) s [] (readEffs f.sd.toNat (wordN (s.prepared (.tbr h f)).now) true) := fun ctx _ => by
      simp only [slotOp, opTbr, readEffs, if_true, List.singleton_append]
    obtain ⟨u, r, hissued⟩ := (readsScalars_tbr h f).issuedInLine rfl hc hdoes fun _ => readEffs_simple
    exact hissued.delivers

end Sys2Proof.Machine
end

section
/-! SUPPORT. The context of an operation that is alone in its bundle, the address of a scalar access (R116), and misaligned accesses
(R116, R211). -/
namespace Sys2Proof.Machine
open Sys2Proof.Claims

/-- The context in which an operation of the S slot executes when nothing else stands in its bundle and nothing repeats. -/
structure SoleCtx (s : State) (ctx : Ctx) : Prop where
  core : ctx.c = s.turn
  slot : ctx.slot = .s
  first : ctx.ix = 0
  alone : ctx.earlier = []

/-- What the execution step of `i`, alone in its bundle, comes to. -/
def ExecutesAlone (i : Instr) (s : State) (l : List Nat) (r : Res) : Prop :=
  ∀ ctx : Ctx, SoleCtx s ctx →
    (slotOp i).body ctx (l.map fun n => { val := ((s.issuer i).sreg n).toNat, tag := (s.issuer i).stag n }) (s.prepared i) = r

/-- An operation that executes but for its own trap takes it (R234). -/
theorem ReadsScalars.trapsAlone {i : Instr} {l : List Nat} {s : State} {cause : Nat} {frs : List Word} (hi : ReadsScalars i l)
    (hc : s.clears i = true) (hb : ExecutesAlone i s l (.trap (trap6 cause frs))) : Traps i s cause frs := by
  obtain ⟨w, he⟩ := hi.inS hc
  obtain ⟨hpass, hg⟩ := (Bool.and_eq_true ..).mp hc
  obtain ⟨x, v, hx, hrun⟩ := issueOne_passes hpass
  obtain ⟨rfl, rfl⟩ := (Prod.mk.injEq ..).mp (Option.some.inj (he.symm.trans hx))
  obtain ⟨_, hnamed, herr⟩ := scalar_sources (s := s) (x := .s) (w := w) hi.srcs
  have hlive : (s.soleOp i .s w).live ((s.prepared i).core s.turn) = true := by simpa [State.guards, he] using hg
  have hvals := SlotOp.vals_scalar (s.soleOp i .s w) (s.prepared i) s.turn l hi.srcs
  rw [Traps, exec_issues he, hrun, State.runSlots_trap hi.nop hlive herr (by rw [hvals]; exact hb _ ⟨rfl, rfl, rfl, rfl⟩) (clashes_none hnamed)]
  simp [slotBit, he, State.soleOp, slotOpOf, trap6]

/-- The first issue of a bundle does not step the address (R116). -/
theorem scalarAddr_sole {s : State} {ctx : Ctx} (hctx : SoleCtx s ctx) (k : Core) (f : SI) (base : BitVec 6) :
    scalarAddr k ctx (k.sreg base.toNat) f = scalarEa k base f := by
  have hwrap : ∀ a b : Word, wordI (sgn a + sgn b) = a + b := fun a b => by
    simp [wordI, sgn, BitVec.ofInt_add]
  simp only [scalarAddr, Core.addrStep, hctx.first, scalarEa, sx]
  simp [hwrap]

theorem sizeBits (f : SI) : bits f.fn.toNat 3 2 = sizeCode f := by
  simp [bits, sizeCode, Nat.shiftRight_eq_div_pow]

theorem accessFrs_align (a : Nat) (k : AccessKind) (n : Nat) : alignTrap a k n = trap6 cALIGN [wordN a, wordN (k.code + 256 * n)] := by
  simp [alignTrap, accessFrs, cALIGN, cCOLDTXT, Nat.mul_comm]

theorem readsScalars_lds (h : Head) (f : SI) : ReadsScalars (.lds h f) [f.sa.toNat] := ⟨⟨h, _, _, _, rfl, rfl⟩, rfl, rfl, rfl⟩
theorem readsScalars_sts (h : Head) (f : SI) : ReadsScalars (.sts h f) [f.sd.toNat, f.sa.toNat] := ⟨⟨h, _, _, _, rfl, rfl⟩, rfl, rfl, rfl⟩

theorem lds_misaligned {h : Head} {f : SI} {s : State} (hc : s.clears (.lds h f) = true)
    (hea : scalarEa (s.issuer (.lds h f)) f.sa f % sizeBytes f ≠ 0) :
    Traps (.lds h f) s cALIGN [wordN (scalarEa (s.issuer (.lds h f)) f.sa f), wordN (1 + 256 * sizeCode f)] := by
  refine (readsScalars_lds h f).trapsAlone hc fun ctx hctx => ?_
  have haddr : scalarAddr ((s.prepared (.lds h f)).core s.turn) ctx ((s.issuer (.lds h f)).sreg f.sa.toNat) f = _ :=
    scalarAddr_sole hctx _ f f.sa
  simp only [slotOp, opLds, List.map_cons, List.map_nil, val_sreg, hctx.core, haddr, sizeBits]
  exact (if_pos hea).trans (congrArg Res.trap (accessFrs_align ..))

theorem sts_misaligned {h : Head} {f : SI} {s : State} (hc : s.clears (.sts h f) = true)
    (hea : scalarEa (s.issuer (.sts h f)) f.sa f % sizeBytes f ≠ 0) :
    Traps (.sts h f) s cALIGN [wordN (scalarEa (s.issuer (.sts h f)) f.sa f), wordN (2 + 256 * sizeCode f)] := by
  refine (readsScalars_sts h f).trapsAlone hc fun ctx hctx => ?_
  have haddr : scalarAddr ((s.prepared (.sts h f)).core s.turn) ctx ((s.issuer (.sts h f)).sreg f.sa.toNat) f = _ :=
    scalarAddr_sole hctx _ f f.sa
  have hbase : ∀ v : SrcVal, val (v :: [{ val := ((s.issuer (.sts h f)).sreg f.sa.toNat).toNat, tag := (s.issuer (.sts h f)).stag f.sa.toNat }]) 1 =
    (s.issuer (.sts h f)).sreg f.sa.toNat := fun v => val_sreg _ _ []
  simp only [slotOp, opSts, List.map_cons, List.map_nil, hbase, hctx.core, haddr, sizeBits]
  exact (if_pos hea).trans (congrArg Res.trap (accessFrs_align ..))

/-- The body of an atomic whose address is not aligned (R211). -/
theorem atomicOp_misaligned {i : Instr} {opc : Nat} {red ret : Bool} {f : SR} {ns : List Nat} {s : State}
    (hi : ReadsScalars i (f.sa.toNat :: ns)) (hop : ∃ srcs, slotOp i = atomicOp opc red ret f srcs) (hc : s.clears i = true)
    (hea : ((s.issuer i).sreg f.sa.toNat).toNat % 2 ^ (f.fn.toNat % 4) ≠ 0) :
    Traps i s cALIGN [(s.issuer i).sreg f.sa.toNat, wordN (3 + 256 * (f.fn.toNat % 4))] := by
  obtain ⟨srcs, hop⟩ := hop
  refine hi.trapsAlone hc fun ctx hctx => ?_
  have hsize : bits f.fn.toNat 1 0 = f.fn.toNat % 4 := by simp [bits]
  simp only [hop, atomicOp, List.map_cons, val_sreg, hsize]
  refine (if_pos hea).trans (congrArg Res.trap ?_)
  rw [accessFrs_align]
  simp [wordN, AccessKind.code]

/-- Settles O8: misaligned loads, stores and atomics. -/
theorem misalignedTraps : Obligations.MisalignedTraps := by
  unfold Obligations.MisalignedTraps
  refine ⟨fun _ _ _ => lds_misaligned, fun _ _ _ => sts_misaligned, fun mk hmk h f s hc hea => ?_⟩
  simp only [List.mem_cons, List.not_mem_nil, or_false] at hmk
  obtain rfl | rfl | rfl | rfl | rfl | rfl | rfl | rfl | rfl := hmk
  case inr.inr.inr.inr.inr.inr.inr.inr =>
    exact atomicOp_misaligned (ns := [f.sb.toNat, f.sc.toNat]) ⟨⟨h, _, _, _, rfl, rfl⟩, rfl, rfl, rfl⟩ ⟨_, rfl⟩ hc hea
  all_goals exact atomicOp_misaligned (ns := [f.sb.toNat]) ⟨⟨h, _, _, _, rfl, rfl⟩, rfl, rfl, rfl⟩ ⟨_, rfl⟩ hc hea

end Sys2Proof.Machine
end

section
/-! SUPPORT. Operations of the S slot that act on their core's place behind the commit: `YLD`, `END`, `TRAP` and `ERET` (R126, R127, R130,
R131). -/
namespace Sys2Proof.Machine
open Sys2Proof.Claims

/-- What the commit of record `r` does for such an operation, once every slot of the bundle has done what it does. -/
def State.controlled (s : State) (c : Nat) (r : Waiting) : Eff → State
  | .endOp => s.onCore c fun k => { k with ctl := { k.ctl with mode := .ended } }
  | .yld => if bit ((s.core c).csr csrTSTAT).toNat 2 then s.onCore c fun k => { k with ctl := { k.ctl with mode := .yielded } } else s
  | .trap n => s.takeTrap c { cause := cSWTRAP, step := 0, frs := [wordN n] } r.fra r.next 0 0
  | .eret => s.resumeCore c
  | _ => s
/-- The effects of these operations. -/
def Eff.controls : Eff → Bool
  | .endOp | .yld | .trap _ | .eret => true
  | _ => false

/-- Such an effect does nothing in its slot. -/
theorem State.slotDone_controls {s : State} {c cyc ix g : Nat} {e : Eff} (he : e.controls = true) (hix : ix < 4) :
    s.slotDone c cyc [] (ix, g, [e]) = s := by
  have happly : e.apply c g cyc s = s := by cases e <;> simp [Eff.controls] at he <;> rfl
  simp [State.slotDone, State.afresh, applyAll, happly, hix]

/-- The commit of a bundle of one such operation. -/
theorem State.commitBundle_controls {s : State} {c ix g : Nat} {w : Waiting} {e : Eff} (he : e.controls = true) (hw : w.waits = [])
    (hr : w.undoRec = []) (hes : w.effs = [(ix, g, [e])]) (hix : ix < 4) :
    s.commitBundle c w = (s.onCore c (Core.settle w)).controlled c w e := by
  have hbefore : s.settledBefore c w ix = [] := by simp [State.settledBefore, hes]
  have hslots := State.commitSlots_none s c w (s.settledBefore c w) w.effs hw
  unfold State.commitBundle
  simp only [hw, hr, List.isEmpty_nil, if_true, State.onRecords_nil]
  rw [hslots]
  simp only [hes, List.foldl_cons, List.foldl_nil, hbefore, State.slotDone_controls he hix]
  cases e <;> simp [Eff.controls] at he
  case endOp => simp [State.controlled, Eff.trapCode]
  case yld => simp [State.controlled, Eff.trapCode]
  case trap => simp [State.controlled, Eff.trapCode]
  case eret => simp [State.controlled, Eff.trapCode]

/-- What a core keeps of a trap, and where it stands in its gang. -/
structure SameTrap (k k' : Core) : Prop where
  nested : k'.ctl.nested = k.ctl.nested
  shadow : k'.ctl.shadow = k.ctl.shadow
  later : k'.ctl.later = k.ctl.later
  dest : k'.ctl.dest = k.ctl.dest
  gpos : k'.ctl.gpos = k.ctl.gpos
theorem SameTrap.settle (r : Waiting) (k : Core) : SameTrap k (Core.settle r k) := by
  have hsteps : ∀ l : List (Nat × Word × Nat), (l.foldl (fun k x => k.setWord x.1 x.2.1 x.2.2) k).ctl = k.ctl := fun l =>
    List.foldlRecOn l _ (motive := fun j : Core => j.ctl = k.ctl) rfl fun j hj x _ => hj
  have hperf : ∀ (k : Core) (ev n : Nat), SameTrap k (k.perf ev n) := fun k ev n => by
    unfold Core.perf
    split <;> exact ⟨rfl, rfl, rfl, rfl, rfl⟩
  obtain ⟨h1, h2, h3, h4, h5⟩ := hperf { r.steps.foldl (fun k x => k.setWord x.1 x.2.1 x.2.2) k with ctl := { k.ctl with
    wait := none, back := none, pc := r.next, rep := r.rep, dmask := 0, stall := if r.taken then 3 else 0 } } 2 1
  unfold Core.settle
  simp only [hsteps]
  obtain ⟨g1, g2, g3, g4, g5⟩ := hperf (Core.perf { r.steps.foldl (fun k x => k.setWord x.1 x.2.1 x.2.2) k with ctl := { k.ctl with
    wait := none, back := none, pc := r.next, rep := r.rep, dmask := 0, stall := if r.taken then 3 else 0 } } 2 1) 3 r.nullified
  exact ⟨g1.trans h1, g2.trans h2, g3.trans h3, g4.trans h4, g5.trans h5⟩
theorem SameTrap.noted (s : State) (c n wt code : Nat) :
    SameTrap (s.core c) (((s.noteLead c code).onCore c (Core.noteIssue n wt)).core c) := by
  obtain ⟨f, g, h⟩ := noted_core s c n wt code
  rw [h]
  exact ⟨rfl, rfl, rfl, rfl, rfl⟩
theorem SameTrap.trans {a b c : Core} (h : SameTrap a b) (h' : SameTrap b c) : SameTrap a c :=
  ⟨h'.nested.trans h.nested, h'.shadow.trans h.shadow, h'.later.trans h.later, h'.dest.trans h.dest, h'.gpos.trans h.gpos⟩

/-- `i` has issued by itself, and its effect `e` acts on its core behind the commit: machine `u` is that in which the issue is noted. -/
structure Controls (i : Instr) (s : State) (e : Eff) (u : State) (r : Waiting) : Prop where
  commits : exec i s = .next ((u.onCore s.turn (Core.settle r)).controlled s.turn r e)
  noted : Noted (s.issuer i) (u.core s.turn)
  sameTrap : SameTrap (s.issuer i) (u.core s.turn)
  only : OnlyCore s.turn (s.prepared i) u
  bundle : r.fra = (s.issuer i).ctl.pc
  next : r.next = (s.issuer i).ctl.pc + 16
  rep : r.rep = 0

/-- Such an operation issues. -/
theorem ReadsScalars.controls {i : Instr} {l : List Nat} {s : State} {e : Eff} (hi : ReadsScalars i l) (ht : (slotOp i).transfer = false)
    (hc : s.clears i = true) (hb : Does i s l [e]) (he : e.controls = true) : ∃ u r, Controls i s e u r := by
  obtain ⟨w, henc⟩ := hi.inS hc
  obtain ⟨hheads, hnamed, herr⟩ := scalar_sources (s := s) (x := .s) (w := w) hi.srcs
  have hvals := SlotOp.vals_scalar (s.soleOp i .s w) (s.prepared i) s.turn l hi.srcs
  have hcount : e.countClass = none := by cases e <;> simp [Eff.controls] at he <;> rfl
  have hout : s.soleOut i .s w { effs := [e] } = { effs := [e] } := by
    have hlat : ∀ vs, latchLoads (s.soleOp i .s w) vs = [] := fun _ => rfl
    simp [State.soleOut, hlat, hheads]
  have hexec := exec_issue (s2 := s.prepared i) (o := { effs := [e] }) (exec_issues henc s) hc henc hi.nop herr
    (by rw [hvals]; exact hb _ rfl) (clashes_none hnamed)
    (by rw [hout]; exact Core.overLimit_none (by simpa using hcount)) (State.gangDiffers_none _ _ _ _ ht)
  obtain ⟨heffs, hnext, hrep, -⟩ := State.soleRecord_spec (s := s) (es := [e]) (j := none) hi henc
  rw [hout] at hexec
  have hrecord : State.issueRecord .. = s.soleRecord i w [e] none := rfl
  have hfra : (s.soleRecord i w [e] none).fra = (s.issuer i).ctl.pc := (soleFrame_pc henc)
  have hundo : (s.soleRecord i w [e] none).undoRec = [] := by simp [State.soleRecord, State.issueRecord, changedRecords]
  have hwaits : (s.soleRecord i w [e] none).waits = [] := by simp [State.soleRecord, State.issueRecord]
  unfold State.finishIssue at hexec
  simp only [hrecord] at hexec
  generalize s.soleRecord i w [e] none = r at *
  have hcont : ∀ b, (r.continued b).waits = [] ∧ (r.continued b).undoRec = [] ∧ (r.continued b).effs = r.effs ∧ (r.continued b).fra = r.fra ∧
      (r.continued b).next = r.next ∧ (r.continued b).rep = r.rep := fun b => by
    cases b <;> simp [Waiting.continued, hwaits, hundo]
  obtain ⟨hw, hr, hes, hf, hn, hp⟩ := hcont ((s.prepared i).core s.turn).waitBack
  simp only [hw, List.isEmpty_nil, if_true] at hexec
  rw [State.commitBundle_controls he hw hr (hes.trans heffs) (by decide)] at hexec
  exact ⟨_, _, hexec, noted .., .noted .., (State.noteLead_onlyCore ..).trans (.onCore ..), hf.trans hfra, hn.trans hnext, hp.trans hrep⟩

/-- The core behind such an issue, before its effect. -/
theorem Controls.settled {i : Instr} {s u : State} {e : Eff} {r : Waiting} (h : Controls i s e u r) :
    let v := u.onCore s.turn (Core.settle r)
    OnlyCore s.turn (s.prepared i) v ∧ CoreKept (s.issuer i) (v.core s.turn) ∧ MovedOn (s.issuer i) (v.core s.turn) ∧
      ScalarKept [] (s.issuer i) (v.core s.turn) ∧ SameTrap (s.issuer i) (v.core s.turn) := by
  intro v
  have hcore : v.core s.turn = Core.settle r (u.core s.turn) := by simp [v]
  obtain ⟨hpc, hrep, hwait, hmode, _⟩ := Core.settle_spec r (u.core s.turn)
  have hregs := Core.settle_sreg r (u.core s.turn)
  rw [hcore]
  exact ⟨h.only.trans (.onCore ..), h.noted.kept.trans (.settle ..),
    ⟨hpc.trans h.next, hrep.trans h.rep, hwait, hmode.trans h.noted.mode⟩,
    fun n _ => ⟨(hregs n).1.trans (h.noted.scalars n).1, (hregs n).2.trans (h.noted.scalars n).2⟩,
    h.sameTrap.trans (.settle ..)⟩

/-! `END` and `YLD`. -/

theorem readsScalars_endOp (h : Head) (f : BR) : ReadsScalars (.endOp h f) [] := ⟨⟨h, _, _, _, rfl, rfl⟩, rfl, rfl, rfl⟩
theorem readsScalars_yld (h : Head) (f : BR) : ReadsScalars (.yld h f) [] := ⟨⟨h, _, _, _, rfl, rfl⟩, rfl, rfl, rfl⟩

/-- A core that only its mode leaves changed behind such an issue. -/
theorem Controls.inMode {i : Instr} {s u : State} {e : Eff} {r : Waiting} (h : Controls i s e u r) (m : Mode) :
    let t := (u.onCore s.turn (Core.settle r)).onCore s.turn fun k => { k with ctl := { k.ctl with mode := m } }
    OnlyCore s.turn (s.prepared i) t ∧ CoreKept (s.issuer i) (t.core s.turn) ∧ ScalarKept [] (s.issuer i) (t.core s.turn) ∧
      (t.core s.turn).ctl.pc = (s.issuer i).ctl.pc + 16 ∧ (t.core s.turn).ctl.mode = m := by
  obtain ⟨honly, hkept, hmoved, hscalar, -⟩ := h.settled
  have hmode : ∀ k : Core, CoreKept k { k with ctl := { k.ctl with mode := m } } :=
    fun _ => ⟨fun _ => rfl, rfl, rfl, rfl, rfl, rfl, rfl, rfl, rfl, rfl, rfl, rfl⟩
  refine ⟨honly.trans (.onCore ..), ?_⟩
  rw [State.core_onCore, if_pos rfl]
  exact ⟨hkept.trans (hmode _), hscalar, hmoved.pc, rfl⟩

/-- Settles O12: `END` and `YLD`. -/
theorem endAndYield : Obligations.EndAndYield := by
  unfold Obligations.EndAndYield
  constructor
  · intro h f s hc
    obtain ⟨u, r, hissued⟩ := (readsScalars_endOp h f).controls (e := .endOp) rfl hc (fun _ _ => rfl) rfl
    obtain ⟨honly, hkept, hscalar, -, hmode⟩ := hissued.inMode .ended
    exact ⟨_, hissued.commits, honly, hkept, hscalar, hmode⟩
  · intro h f s hc
    obtain ⟨u, r, hissued⟩ := (readsScalars_yld h f).controls (e := .yld) rfl hc (fun _ _ => rfl) rfl
    obtain ⟨honly, hkept, hmoved, hscalar, -⟩ := hissued.settled
    refine ⟨_, hissued.commits, ?_⟩
    simp only [State.controlled, ← hkept.csr csrTSTAT]
    split
    · exact hissued.inMode .yielded
    · exact ⟨honly, hkept, hscalar, hmoved.pc, hmoved.mode⟩

end Sys2Proof.Machine
end

section
/-! SUPPORT. The return from a handler and the software trap (R130, R131, R235, R236, R239). -/
namespace Sys2Proof.Machine
open Sys2Proof.Claims

/-! `ERET`. -/

theorem CoreKeptBut.of_unlogged {p : Nat → Prop} {k j j' : Core} (h : CoreKeptBut p k j) (hu : j'.unlogged = j.unlogged) : CoreKeptBut p k j' := by
  have hregs : j'.regs = j.regs := (congrArg Core.regs hu :)
  exact ⟨fun n hn => (congrArg (fun r : Regs => r.csr.get (csrInit n) n) hregs).trans (h.csr n hn), hregs ▸ h.rs, hregs ▸ h.gtag, hregs ▸ h.cells,
    hregs ▸ h.clocks, (congrArg Core.mx hu :).trans h.mx, (congrArg Core.l1 hu :).trans h.l1, (congrArg Core.wbuf hu :).trans h.wbuf,
    (congrArg Core.copies hu :).trans h.copies, (congrArg (·.ctl.team) hu :).trans h.team, (congrArg (·.ctl.owed) hu :).trans h.owed⟩

/-- A core that resumes from its record (R239): TSTAT loses HS, and of the registers nothing else changes. -/
theorem Core.resume_keeps {k : Core} (h : k.ctl.nested = none) : CoreKeptBut (· = csrTSTAT) k k.resume := by
  have hcsr : ∀ (b : Core) n, n ≠ csrTSTAT → (b.setHandler false).csr n = b.csr n := fun b n hn => by simp [Core.setHandler, hn]
  cases hs : k.ctl.shadow <;> simp only [Core.resume, h, hs] <;>
    exact ⟨fun n hn => hcsr _ n hn, rfl, rfl, rfl, rfl, rfl, rfl, rfl, rfl, rfl, rfl⟩
theorem Core.resume_rep {k : Core} (h : k.ctl.nested = none) : k.resume.ctl.rep =
    (if bits (k.csr csrTEPC).toNat 55 3 = bits (k.csr csrFRA).toNat 55 3 ∧ bits (k.csr csrFRM).toNat 14 12 ≠ 0
      then bits (k.csr csrFRM).toNat 11 6 else 0) := by
  have hsame : (bundleAddr (k.csr csrTEPC).toNat = bundleAddr (k.csr csrFRA).toNat ∧ bits (k.csr csrFRM).toNat 14 12 ≠ 0) ↔
      (bits (k.csr csrTEPC).toNat 55 3 = bits (k.csr csrFRA).toNat 55 3 ∧ bits (k.csr csrFRM).toNat 14 12 ≠ 0) := by
    simp [bundleAddr]
  simp only [← hsame]
  cases hs : k.ctl.shadow <;> simp [Core.resume, h, hs, Core.setHandler]
theorem Core.resume_shadow {k : Core} {sh : Shadow} (h : k.ctl.nested = none) (hs : k.ctl.shadow = some sh) :
    k.resume.regs.rw = sh.rw ∧ k.resume.regs.rc = sh.rc ∧ k.resume.regs.latch = sh.latch := by
  simp only [Core.resume, h, hs]
  exact ⟨rfl, rfl, rfl⟩

/-- What has resumed from its record, but for its gang's log (R131, R239). -/
theorem resumed_spec {k k' j : Core} (hkept : CoreKept k k') (hscalar : ScalarKept [] k k') (htrap : SameTrap k k') (hn : k.ctl.nested = none)
    (hj : j.unlogged = k'.resume.unlogged) :
    ScalarKept [] k j ∧ CoreKeptBut (· = csrTSTAT) k j ∧ j.handler = false ∧
      j.ctl.mode = Claims.behind k ∧ j.ctl.pc = bits (k.csr csrTEPC).toNat 55 3 * 8 ∧
      j.ctl.rep = (if bits (k.csr csrTEPC).toNat 55 3 = bits (k.csr csrFRA).toNat 55 3 ∧ bits (k.csr csrFRM).toNat 14 12 ≠ 0
        then bits (k.csr csrFRM).toNat 11 6 else 0) ∧
      ∀ sh, k.ctl.shadow = some sh → j.regs.rw = sh.rw ∧ j.regs.rc = sh.rc ∧ j.regs.latch = sh.latch := by
  have hn' : k'.ctl.nested = none := htrap.nested.trans hn
  obtain ⟨hmode, -, hpc, hhandler, hregs⟩ := (Core.resume_resumed hn').of_unlogged hj
  have hbehind : Claims.behind k' = Claims.behind k := by simp only [Claims.behind, htrap.shadow, htrap.later]
  have hcopy : CoreKeptBut (· = csrTSTAT) k' k'.resume := Core.resume_keeps hn'
  have hsame : j.regs = k'.resume.regs := (congrArg Core.regs hj :)
  refine ⟨fun n hm => ⟨(hregs n hm).1.trans (hscalar n hm).1, (hregs n hm).2.trans (hscalar n hm).2⟩, ?_, hhandler, hmode.trans hbehind,
    hkept.csr csrTEPC ▸ hpc, ?_, fun sh hsh => ?_⟩
  · exact hkept.but.trans (hcopy.of_unlogged hj)
  · rw [← hkept.csr csrTEPC, ← hkept.csr csrFRA, ← hkept.csr csrFRM, ← Core.resume_rep hn']
    exact congrArg (·.ctl.rep) hj
  · rw [hsame]
    exact Core.resume_shadow hn' (htrap.shadow.trans hsh)

theorem readsScalars_eret (h : Head) (f : XF) : ReadsScalars (.eret h f) [] := ⟨⟨h, _, _, _, rfl, rfl⟩, rfl, rfl, rfl⟩

theorem mem_anyKind (n : Nat) : n ∈ anyKind ↔ n ≤ 5 := by
  simp only [anyKind, List.mem_cons, List.not_mem_nil, or_false]
  omega

theorem eret_outside {h : Head} {f : XF} {s : State} (hc : s.clears (.eret h f) = true) (hh : (s.issuer (.eret h f)).handler = false) :
    Traps (.eret h f) s cPERM [] :=
  (readsScalars_eret h f).traps hc fun ctx hctx _ => by
    have hcore : ((s.prepared (.eret h f)).core ctx.c).handler = false := hctx ▸ hh
    simp [slotOp, opEret, hcore]

theorem eret_refused {h : Head} {f : XF} {s : State} {w : Word} (hc : s.clears (.eret h f) = true)
    (hh : (s.issuer (.eret h f)).handler = true)
    (hf : (s.prepared (.eret h f)).fetchWord s.turn (bits ((s.issuer (.eret h f)).csr csrTEPC).toNat 55 3 * 8) = .ok w)
    (hw : ¬(bits w.toNat 63 60 = 0xF ∧ bits w.toNat 59 56 ≤ 5)) :
    Traps (.eret h f) s cCFI [wordN (bits ((s.issuer (.eret h f)).csr csrTEPC).toNat 55 3 * 8), w] :=
  (readsScalars_eret h f).traps hc fun ctx hctx _ => by
    have hcore : (s.prepared (.eret h f)).core s.turn = s.issuer (.eret h f) := rfl
    have hcheck : (s.prepared (.eret h f)).checkTarget s.turn (bits ((s.issuer (.eret h f)).csr csrTEPC).toNat 55 3 * 8) anyKind none =
        .error (trap6 cCFI [wordN (bits ((s.issuer (.eret h f)).csr csrTEPC).toNat 55 3 * 8), w]) := by
      have hkind : ¬(bits w.toNat 63 60 = 0xF ∧ bits w.toNat 59 56 ∈ anyKind ∧ ((none : Option Nat) = none ∨ none = some (bits w.toNat 31 0))) := by
        rw [mem_anyKind]
        simpa using hw
      rw [State.checkTarget, if_neg (by simp), hf]
      exact if_neg hkind
    simp only [slotOp, opEret, hcore, hh, bundleAddr, hctx, hcheck, Bool.not_true, Bool.false_eq_true, if_false]

theorem eret_returns {h : Head} {f : XF} {s : State} (hc : s.clears (.eret h f) = true)
    (hh : (s.issuer (.eret h f)).handler = true)
    (ha : Accepts (.eret h f) s (bits ((s.issuer (.eret h f)).csr csrTEPC).toNat 55 3 * 8) [0, 1, 2, 3, 4, 5] none) :
    ∃ u r, Controls (.eret h f) s .eret u r := by
  refine (readsScalars_eret h f).controls rfl hc (fun ctx hctx => ?_) rfl
  have hcore : (s.prepared (.eret h f)).core s.turn = s.issuer (.eret h f) := rfl
  have hcheck : (s.prepared (.eret h f)).checkTarget s.turn (bits ((s.issuer (.eret h f)).csr csrTEPC).toNat 55 3 * 8) anyKind none = .ok () := by
    obtain ⟨haligned, w, hfetch, hheader⟩ := ha
    rw [State.checkTarget, if_neg (by simp), hfetch]
    exact if_pos hheader
  simp only [slotOp, opEret, hcore, hh, bundleAddr, hctx, hcheck, Bool.not_true, Bool.false_eq_true, if_false]

/-- The third clause of R131: `ERET` resumes. -/
theorem handlerReturn : HandlerReturn := by
  intro h f s hc
  refine ⟨eret_outside hc, fun hh w => eret_refused hc hh, fun hh hn ha => ?_⟩
  obtain ⟨u, r, hissued⟩ := eret_returns hc hh ha
  obtain ⟨honly, hkept, -, hscalar, htrap⟩ := hissued.settled
  obtain ⟨hback, hresumed⟩ := State.resumeCore_only (u.onCore s.turn (Core.settle r)) s.turn
  obtain ⟨h1, h2, h3, h4, h5, h6, h7⟩ := resumed_spec hkept hscalar htrap hn (hresumed (htrap.nested.trans hn))
  exact ⟨_, hissued.commits, honly.trans hback, h1, h2, h3, h4, h5, h6, h7⟩

/-! The trap of a core that is alone in its gang and in no handler (R235, R236). -/

/-- What a trap's record holds (R232-R234). -/
def recordOf (t : Trap) (fra tepc rep dmask : Nat) : List (Nat × Word) :=
  [(csrFRA, wordN (bundleAddr fra)), (csrFRM, frmWord t.fmask dmask t.step rep), (csrTCAUSE, wordN t.cause),
    (csrTEPC, wordN (bundleAddr tepc))] ++ (List.range 8).map fun j => (csrFRS + j, t.frs.getD j 0)
theorem Core.writeRecord_eq (k : Core) (t : Trap) (fra tepc rep dmask : Nat) :
    k.writeRecord t fra tepc rep dmask = k.setCsrs (recordOf t fra tepc rep dmask) := by
  simp [Core.writeRecord, Core.setCsrs, recordOf, List.foldl_map]
theorem recordOf_keys (t : Trap) (fra tepc rep dmask : Nat) :
    (recordOf t fra tepc rep dmask).map Prod.fst = [csrFRA, csrFRM, csrTCAUSE, csrTEPC] ++ (List.range 8).map (csrFRS + ·) := by
  simp [recordOf, Function.comp_def]
theorem recordOf_trapRegs {t : Trap} {fra tepc rep dmask n : Nat} (h : n ∈ (recordOf t fra tepc rep dmask).map Prod.fst) : trapRegs n := by
  rw [recordOf_keys] at h
  simp only [List.mem_append, List.mem_cons, List.not_mem_nil, or_false, List.mem_map, List.mem_range] at h
  unfold trapRegs
  obtain (rfl | rfl | rfl | rfl) | ⟨j, hj, rfl⟩ := h
  case inr => simp [hj]
  all_goals simp
theorem frmWord_eq (fmask dmask step rep : Nat) : frmWord fmask dmask step rep = wordN (frm fmask dmask step rep) := by
  simp [frmWord, frm, Nat.shiftLeft_eq]
/-- The record is written, and of the core nothing else changes. -/
theorem Core.writeRecord_spec (k : Core) (t : Trap) (fra tepc rep dmask : Nat) :
    let k' := k.writeRecord t fra tepc rep dmask
    CoreKeptBut trapRegs k k' ∧ ScalarKept [] k k' ∧ k'.ctl = k.ctl ∧ k'.csr csrTVEC = k.csr csrTVEC ∧ k'.handler = k.handler ∧
      Claims.Recorded k' fra tepc t.cause (frm t.fmask dmask t.step rep) t.frs := by
  intro k'
  have hnodup : ((recordOf t fra tepc rep dmask).map Prod.fst).Nodup := by rw [recordOf_keys]; decide
  obtain ⟨hkept, hctl, hscalar⟩ := k.setCsrs_kept (recordOf t fra tepc rep dmask)
  have hset : ∀ p ∈ recordOf t fra tepc rep dmask, k'.csr p.1 = p.2 := fun p hp =>
    (congrArg (·.csr p.1) (k.writeRecord_eq t fra tepc rep dmask)).trans (Core.csr_setCsrs k hnodup hp)
  rw [← Core.writeRecord_eq] at hkept hctl hscalar
  have hkey : ∀ n, n ∉ [csrFRA, csrFRM, csrTCAUSE, csrTEPC] ++ (List.range 8).map (csrFRS + ·) → k'.csr n = k.csr n :=
    fun n hn => hkept.csr n (by rwa [recordOf_keys])
  refine ⟨hkept.mono fun _ => recordOf_trapRegs, hscalar, hctl, hkey _ (by decide), ?_, ?_⟩
  · rw [Core.handler, Core.handler, hkey _ (by decide)]
  · refine ⟨hset (csrFRA, wordN (bundleAddr fra)) (by simp [recordOf]), hset (csrTEPC, wordN (bundleAddr tepc)) (by simp [recordOf]),
      hset (csrTCAUSE, wordN t.cause) (by simp [recordOf]),
      (hset (csrFRM, frmWord t.fmask dmask t.step rep) (by simp [recordOf])).trans (by rw [frmWord_eq]),
      fun j hj => hset (csrFRS + j, t.frs.getD j 0) ?_⟩
    exact List.mem_append_right _ (List.mem_map.2 ⟨j, List.mem_range.2 hj, rfl⟩)

/-- A core that takes a trap, before its record is written. -/
def Core.trapping (k : Core) : Core :=
  { k.perf 13 1 with ctl := { (k.perf 13 1).ctl with
    later := match k.ctl.mode with | .yielded => .yielded | .ended => .ended | _ => .run,
    did := if k.ctl.did = 0 then 9 else k.ctl.did } }
theorem Core.trapping_spec (k : Core) : CoreKept k k.trapping ∧ ScalarKept [] k k.trapping ∧ k.trapping.ctl.pc = k.ctl.pc ∧
    k.trapping.ctl.team = k.ctl.team :=
  ⟨⟨fun _ => rfl, rfl, rfl, rfl, rfl, rfl, rfl, rfl, rfl, rfl, rfl, rfl⟩, fun _ _ => ⟨rfl, rfl⟩, rfl, rfl⟩
/-- The entry of a core that is in no handler: its record is written, and then it goes to its handler or stops (R236). -/
theorem State.trapEntry_outside {s : State} {c : Nat} (t : Trap) (fra tepc rep dmask : Nat) (h : Bool) (hh : (s.core c).handler = false) :
    let u := s.setCore c ((s.core c).trapping.writeRecord t fra (if t.step = 0 then tepc else fra) rep dmask)
    s.trapEntry c t fra tepc rep dmask h = if h then u.enterHandler c t else u.onCore c fun k => k.stop t := by
  have htepc : (if t.step ≠ 0 then fra else tepc) = if t.step = 0 then tepc else fra := by split <;> simp_all
  have hno : (s.core c).trapping.handler = false := hh
  unfold State.trapEntry
  rw [htepc]
  exact if_neg (by rw [Bool.not_eq_true]; exact hno)

/-- The machine is as the trap entry of the core leaves it, but for the log of its gang. -/
theorem State.takeTrap_alone {s : State} {c : Nat} (t : Trap) (fra tepc rep dmask : Nat) (ha : Claims.alone s c) :
    let x := s.trapEntry c t fra tepc rep dmask (s.goesToHandler c t.cause)
    let u := s.takeTrap c t fra tepc rep dmask
    u = { x with cores := u.cores } ∧ ∀ d, (u.core d).unlogged = (x.core d).unlogged := by
  intro x u
  have hu : u = x ∨ u = x.gangEnters c := by
    have hgang := State.gangOf_alone ha
    simp only [u, State.takeTrap, hgang, List.foldl_cons, List.foldl_nil, if_true]
    split
    · exact .inl rfl
    · exact .inr rfl
  obtain hu | hu := hu <;> rw [hu]
  · exact ⟨rfl, fun _ => rfl⟩
  · exact ⟨(x.gangEnters_only c c).1, fun d => (x.gangEnters_only c d).2⟩

/-- What differs in the cores alone fetches the same text, for a core of the same team (R74). -/
theorem State.fetchWord_onlyCore {s u : State} {c : Nat} (h : OnlyCore c s u) (ht : (u.core c).ctl.team = (s.core c).ctl.team) (va : Nat) :
    u.fetchWord c va = s.fetchWord c va := by
  have hteam : u.teamOf c = s.teamOf c := by
    rw [State.teamOf, ht, h.rest]
    rfl
  have hctx : u.ctxOf c = s.ctxOf c := by
    rw [State.ctxOf, hteam, h.rest]
    rfl
  unfold State.fetchWord
  rw [hctx, h.rest]
  rfl
theorem regionWord_congr {s u : State} (h : u.regions = s.regions) (n a inh w : Nat) : regionWord u n a inh w = regionWord s n a inh w := by
  induction n generalizing a with
  | zero => rfl
  | succ n ih => simp only [regionWord, h, ih]
/-- Nor does it send a core elsewhere for its trap, where the core's handler stands as it did (R235). -/
theorem State.goesToHandler_onlyCore {s u : State} {c : Nat} (h : OnlyCore c s u) (ht : (u.core c).ctl.team = (s.core c).ctl.team)
    (hd : (u.core c).ctl.dest = (s.core c).ctl.dest) (hv : (u.core c).csr csrTVEC = (s.core c).csr csrTVEC)
    (hh : (u.core c).handler = (s.core c).handler) (cause : Nat) : u.goesToHandler c cause = s.goesToHandler c cause := by
  have hteam : u.teamOf c = s.teamOf c := by
    rw [State.teamOf, ht, h.rest]
    rfl
  have hregion : u.teamRegion c 6 4 = s.teamRegion c 6 4 := by
    have hgrid : u.rcbOf (s.teamOf c) = s.rcbOf (s.teamOf c) := by rw [h.rest]; rfl
    rw [State.teamRegion, hteam, hgrid]
    exact regionWord_congr (by rw [h.rest]) ..
  simp only [State.goesToHandler, State.handlerTakes, hd, hv, hh, hregion]

theorem Core.entered_keeps (k : Core) : CoreKeptBut (· = csrTSTAT) k k.entered ∧ ScalarKept [] k k.entered := by
  refine ⟨⟨fun n hn => ?_, rfl, rfl, rfl, rfl, rfl, rfl, rfl, rfl, rfl, rfl⟩, fun _ _ => ⟨rfl, rfl⟩⟩
  exact (Core.csr_setCsr ..).trans (if_neg hn)
/-- Whether the handler's first bundle is one or not, only the core's record and its place change (R236, R238). -/
theorem State.enterHandler_keeps (s : State) (c : Nat) (t : Trap) : OnlyCore c s (s.enterHandler c t) ∧
    CoreKeptBut trapRegs (s.core c) ((s.enterHandler c t).core c) ∧ ScalarKept [] (s.core c) ((s.enterHandler c t).core c) := by
  have hset : ∀ k' : Core, CoreKeptBut trapRegs (s.core c) k' → ScalarKept [] (s.core c) k' → OnlyCore c s (s.setCore c k') ∧
      CoreKeptBut trapRegs (s.core c) ((s.setCore c k').core c) ∧ ScalarKept [] (s.core c) ((s.setCore c k').core c) := fun k' hk hs => by
    rw [State.core_setCore, if_pos rfl]
    exact ⟨.onCore c s fun _ => k', hk, hs⟩
  have hfail : ∀ (x y z : Word) (t : Trap), let k' := ((((s.core c).setCsr csrTCAUSE x).setCsr csrFRS y).setCsr (csrFRS + 1) z).stop t
      CoreKeptBut trapRegs (s.core c) k' ∧ ScalarKept [] (s.core c) k' := fun x y z t => by
    refine ⟨⟨fun n hn => ?_, rfl, rfl, rfl, rfl, rfl, rfl, rfl, rfl, rfl, rfl⟩, fun _ _ => ⟨rfl, rfl⟩⟩
    have hne : n ≠ csrTCAUSE ∧ n ≠ csrFRS ∧ n ≠ csrFRS + 1 := by
      unfold trapRegs at hn
      omega
    exact (Core.csr_setCsr ..).trans ((if_neg hne.2.2).trans ((Core.csr_setCsr ..).trans ((if_neg hne.2.1).trans
      ((Core.csr_setCsr ..).trans (if_neg hne.1)))))
  have hentered := (s.core c).entered_keeps
  unfold State.enterHandler
  dsimp only
  split
  · exact hset _ (hfail ..).1 (hfail ..).2
  · split
    · exact hset _ (hentered.1.mono fun n hn => by simp [trapRegs, hn]) hentered.2
    · exact hset _ (hfail ..).1 (hfail ..).2

theorem ScalarKept.trans {a b c : Core} {l : List Nat} (h : ScalarKept l a b) (h' : ScalarKept l b c) : ScalarKept l a c :=
  fun n hn => ⟨(h' n hn).1.trans (h n hn).1, (h' n hn).2.trans (h n hn).2⟩
theorem ScalarKept.of_regs {a b b' : Core} {l : List Nat} (h : ScalarKept l a b) (hb : b'.regs = b.regs) : ScalarKept l a b' := fun n hn => by
  rw [← (h n hn).1, ← (h n hn).2, Core.sreg, Core.sreg, Core.stag, Core.stag, hb]
  exact ⟨rfl, rfl⟩
theorem recorded_of_csrs {k k' : Core} {fra tepc cause frm : Nat} {frs : List Word} (h : Claims.Recorded k fra tepc cause frm frs)
    (hk : ∀ n, n ≠ csrTSTAT → k'.csr n = k.csr n) : Claims.Recorded k' fra tepc cause frm frs :=
  ⟨(hk _ (by decide)).trans h.fra, (hk _ (by decide)).trans h.tepc, (hk _ (by decide)).trans h.cause, (hk _ (by decide)).trans h.frm,
    fun j hj => (hk _ (by simp only [csrFRS, csrTSTAT]; omega)).trans (h.frs j hj)⟩

/-- A trap of a core that is alone in its gang and in no handler (R235, R236). -/
theorem State.takeTrap_outside {s : State} {c : Nat} (t : Trap) (fra tepc rep dmask : Nat) (ha : Claims.alone s c)
    (hh : (s.core c).handler = false) :
    let k := s.core c
    let u := s.takeTrap c t fra tepc rep dmask
    OnlyCore c s u ∧ CoreKeptBut trapRegs k (u.core c) ∧ ScalarKept [] k (u.core c) ∧
      (s.goesToHandler c t.cause = false →
        Claims.Recorded (u.core c) fra (if t.step = 0 then tepc else fra) t.cause (frm t.fmask dmask t.step rep) t.frs ∧
        (u.core c).ctl.mode = .stopped ∧ (u.core c).ctl.pc = k.ctl.pc) ∧
      (s.goesToHandler c t.cause = true → ∀ w, s.fetchWord c (bits (k.csr csrTVEC).toNat 55 3 * 8) = .ok w →
        bits w.toNat 63 60 = 0xF → bits w.toNat 59 56 = 5 →
        Claims.Recorded (u.core c) fra (if t.step = 0 then tepc else fra) t.cause (frm t.fmask dmask t.step rep) t.frs ∧
        (u.core c).ctl.mode = .run ∧ (u.core c).handler = true ∧ (u.core c).ctl.pc = bits (k.csr csrTVEC).toNat 55 3 * 8) := by
  intro k u
  obtain ⟨hrest, hcores⟩ := State.takeTrap_alone t fra tepc rep dmask ha
  rw [State.trapEntry_outside t fra tepc rep dmask _ hh] at hrest hcores
  obtain ⟨hkept, hscalar, hpc, hteam⟩ := k.trapping_spec
  obtain ⟨wkept, wscalar, wctl, wtvec, whandler, wrec⟩ := k.trapping.writeRecord_spec t fra (if t.step = 0 then tepc else fra) rep dmask
  generalize hq : k.trapping.writeRecord t fra (if t.step = 0 then tepc else fra) rep dmask = q at *
  have hcore : (s.setCore c q).core c = q := by simp
  have honly : OnlyCore c s (s.setCore c q) := .onCore c s fun _ => q
  generalize hx : (if s.goesToHandler c t.cause = true then (s.setCore c q).enterHandler c t
    else (s.setCore c q).onCore c fun k => k.stop t) = x at hrest hcores
  have hkeeps : OnlyCore c (s.setCore c q) x ∧ CoreKeptBut trapRegs q (x.core c) ∧ ScalarKept [] q (x.core c) := by
    rw [← hx]
    split
    · have hentered := State.enterHandler_keeps (s.setCore c q) c t
      rwa [hcore] at hentered
    · rw [State.core_onCore, if_pos rfl, hcore]
      exact ⟨.onCore .., ⟨fun _ _ => rfl, rfl, rfl, rfl, rfl, rfl, rfl, rfl, rfl, rfl, rfl⟩, fun _ _ => ⟨rfl, rfl⟩⟩
  obtain ⟨hxonly, hxkept, hxscalar⟩ := hkeeps
  have hlog := hcores c
  have hregs : (u.core c).regs = (x.core c).regs := (congrArg Core.regs hlog :)
  have hcsr : ∀ n, (u.core c).csr n = (x.core c).csr n := fun n => congrArg (fun r : Regs => r.csr.get (csrInit n) n) hregs
  refine ⟨(honly.trans hxonly).trans ⟨hrest, fun d _ => hcores d⟩, ((hkept.but.trans wkept).trans hxkept).of_unlogged hlog,
    ((hscalar.trans wscalar).trans hxscalar).of_regs hregs, fun hgoes => ?_, fun hgoes w hw hmark hkind => ?_⟩
  · rw [hgoes] at hx
    have hxcore : x.core c = q.stop t := by rw [← hx]; simp
    refine ⟨recorded_of_csrs wrec fun n _ => (hcsr n).trans (by rw [hxcore]; rfl), (congrArg (·.ctl.mode) hlog).trans (by rw [hxcore]; rfl),
      (congrArg (·.ctl.pc) hlog).trans ?_⟩
    rw [hxcore]
    exact (congrArg Ctl.pc wctl).trans hpc
  · rw [hgoes] at hx
    have htvec : ((s.setCore c q).core c).csr csrTVEC = k.csr csrTVEC := by rw [hcore, wtvec]; exact hkept.csr _
    have hfetch : (s.setCore c q).fetchWord c (bundleAddr (((s.setCore c q).core c).csr csrTVEC).toNat) = .ok w := by
      rw [htvec, State.fetchWord_onlyCore honly (by rw [hcore, wctl]; exact hteam)]
      exact hw
    have hxcore : x.core c = q.entered := by
      rw [← hx]
      simp [State.enterHandler_ok hfetch hmark hkind]
    obtain ⟨hmode, hhandler, hpc, -⟩ := q.entered_spec
    refine ⟨recorded_of_csrs wrec fun n hn => (hcsr n).trans (by rw [hxcore]; exact q.entered_keeps.1.csr n hn),
      (congrArg (·.ctl.mode) hlog).trans (by rw [hxcore]; exact hmode), ?_, (congrArg (·.ctl.pc) hlog).trans ?_⟩
    · rw [Core.handler, hcsr, hxcore]
      exact hhandler
    · rw [hxcore]
      refine hpc.trans ?_
      rw [← htvec, hcore]

/-! `TRAP`. -/

/-- A core that issues runs (R18, R186). -/
theorem State.notePromise_mode (s : State) (c : Nat) : ((s.notePromise c).core c).ctl.mode = (s.core c).ctl.mode := by
  unfold State.notePromise
  dsimp only
  split <;> simp
theorem State.dropBack_mode (s : State) (c : Nat) : ((s.dropBack c).core c).ctl.mode = (s.core c).ctl.mode := by
  unfold State.dropBack
  split
  · next b _ _ =>
    rw [State.core_onCore, if_pos rfl]
    exact congrArg (fun T : Table Core => (T.get {} c).ctl.mode) (s.unclaimAll_cores b.waits)
  · rfl
theorem State.issuer_mode {s : State} {i : Instr} (h : s.clears i = true) : (s.issuer i).ctl.mode = .run := by
  have hp := ((Bool.and_eq_true ..).mp h).1
  unfold State.passes at hp
  split at hp
  · exact absurd hp (by simp)
  · next x w he =>
    simp only [Bool.and_eq_true, State.atIssue, beq_iff_eq] at hp
    obtain ⟨⟨⟨⟨⟨⟨⟨hmode, _⟩, _⟩, _⟩, _⟩, _⟩, _⟩, _⟩ := hp
    have hl : s.landed = (((s.landNow s.turn).notePromise s.turn).dropBack s.turn) := by
      unfold State.landed State.beforeIssue
      dsimp only
      split <;> rfl
    rw [State.issuer, State.prepared_core he, hl, State.dropBack_mode, State.notePromise_mode, State.landNow_ctl, hmode]

/-- What reads scalar registers names no channel: the machine issues as it has landed (R310). -/
theorem ReadsScalars.prepared_eq {i : Instr} {l : List Nat} {s : State} (hi : ReadsScalars i l) (hc : s.clears i = true) :
    s.prepared i = s.landed := by
  obtain ⟨w, he⟩ := hi.inS hc
  have hfresh : ∀ (u : State) (c ix n : Nat), u.freshenHead c ix (.s n) = u := fun _ _ _ _ => rfl
  have hall : ∀ (l : List Nat) (ix : Nat), (l.map Src.s).foldl (fun t y => t.freshenHead s.turn ix y) s.landed = s.landed := fun l ix => by
    induction l with
    | nil => rfl
    | cons n l ih => simpa [hfresh] using ih
  simp only [State.prepared, he, State.freshenOps, List.filter_cons, List.filter_nil]
  split
  · rw [List.foldl_cons, List.foldl_nil]
    have hsrcs : (s.soleOp i .s w).op.srcs = l.map Src.s := hi.srcs
    rw [hsrcs]
    exact hall l _
  · rfl
theorem readsScalars_trap (h : Head) (f : XF) : ReadsScalars (.trap h f) [] := ⟨⟨h, _, _, _, rfl, rfl⟩, rfl, rfl, rfl⟩

/-- The first part of O16: `TRAP`. -/
theorem softwareTrap : SoftwareTrap := by
  intro h f s hc ha k hh
  obtain ⟨w, he⟩ := (readsScalars_trap h f).inS hc
  obtain ⟨u, r, hissued⟩ := (readsScalars_trap h f).controls (e := .trap f.imm.toNat) rfl hc (fun _ _ => rfl) rfl
  obtain ⟨honly, hkept, hmoved, hscalar, htrap⟩ := hissued.settled
  have hcommits := hissued.commits
  generalize u.onCore s.turn (Core.settle r) = v at *
  have hprepared := (readsScalars_trap h f).prepared_eq hc
  have halone : Claims.alone v s.turn := by
    obtain ⟨hgang, hpos⟩ := hprepared ▸ ha
    refine ⟨?_, htrap.gpos.trans hpos⟩
    rw [State.teamOf, hkept.team, honly.rest]
    exact hgang
  have hhandler : (v.core s.turn).handler = false := by rw [Core.handler, hkept.csr]; exact hh
  obtain ⟨tonly, tkept, tscalar, tstops, tenters⟩ := State.takeTrap_outside { cause := cSWTRAP, step := 0, frs := [wordN f.imm.toNat] }
    r.fra r.next 0 0 halone hhandler
  have hgoes := State.goesToHandler_onlyCore honly hkept.team htrap.dest (hkept.csr _) (by rw [Core.handler, hkept.csr]; rfl) cSWTRAP
  have hfetch := State.fetchWord_onlyCore honly hkept.team
  have hfrm : frm 0 0 0 0 = 0 := rfl
  simp only [State.controlled, hissued.bundle, hissued.next, hfrm, if_true] at hcommits tonly tkept tscalar tstops tenters
  refine ⟨_, hcommits, honly.trans tonly, hscalar.trans tscalar, hkept.but.trans tkept, fun hg => ?_, fun hg w hw hmark hkind => ?_⟩
  · obtain ⟨hrec, hmode, hpc⟩ := tstops (hgoes.trans hg)
    exact ⟨hrec, hmode, hpc.trans hmoved.pc⟩
  · obtain ⟨hrec, hmode, hin, hpc⟩ := tenters (hgoes.trans hg) w ((hfetch _).trans (hkept.csr csrTVEC ▸ hw)) hmark hkind
    exact ⟨hrec, hmode.trans (State.issuer_mode hc).symm, hin, hpc.trans (by rw [hkept.csr csrTVEC])⟩

/-- Settles O16: `TRAP` and `ERET`. -/
theorem trapsAndReturns : Obligations.TrapsAndReturns := ⟨softwareTrap, handlerReturn⟩

end Sys2Proof.Machine
end

section
/-! SUPPORT. The register writes that have rows of their own (R129, R217, R222, R223, R231, R361, R362). -/
namespace Sys2Proof.Machine
open Sys2Proof.Claims

/-- A register of a core takes a value. -/
theorem sets_of_setCsr {i : Instr} {s : State} {c n : Nat} {v : Word} (h : exec i s = .next (s.onCore c fun k => k.setCsr n v)) : Sets i s c n v := by
  refine ⟨_, h, .onCore .., ?_⟩
  rw [State.core_onCore, if_pos rfl]
  exact ⟨by simp, fun m hm => by simp [hm], rfl⟩
theorem regWrite_taken {c : Nat} {op : CsrOp} {n : Nat} {x : Word} {s : State} (h : (s.core c).csrRefused op n x = none) :
    regWrite c op n x s = .next (s.onCore c fun k => k.csrApply op n x) := by simp only [regWrite, h]
theorem regWrite_refused {c cause : Nat} {op : CsrOp} {n : Nat} {x : Word} {s : State} (h : (s.core c).csrRefused op n x = some cause) :
    regWrite c op n x s = .next s := by simp only [regWrite, h]
theorem newCsr_eq (op : CsrOp) (old x : Word) : newCsr op old x = formed op old x := by cases op <;> rfl

/-! View registers and their presets (R217, R223). -/

theorem csrClass_view {n : Nat} (h : 0x060 ≤ n ∧ n ≤ 0x067) : csrClass n = .rw := by
  unfold csrClass
  rw [if_neg (by omega), if_pos (by omega)]
theorem Core.csrRefused_view (k : Core) (op : CsrOp) {n : Nat} (x : Word) (h : 0x060 ≤ n ∧ n ≤ 0x067) :
    k.csrRefused op n x = if viewOk (formed op (k.csr n) x &&& csrMask n) then none else some cILLOP := by
  simp only [Core.csrRefused, csrClass_view h, if_pos h, newCsr_eq]
theorem Core.csrApply_view (k : Core) (op : CsrOp) {n : Nat} (x : Word) (h : 0x060 ≤ n ∧ n ≤ 0x067) :
    k.csrApply op n x = k.setCsr n (formed op (k.csr n) x &&& csrMask n) := by
  unfold Core.csrApply
  rw [if_neg (by omega), if_neg (by omega), newCsr_eq]
theorem viewNumber (n : BitVec 3) : 0x060 ≤ csrVW + n.toNat ∧ csrVW + n.toNat ≤ 0x067 := by
  have := n.isLt
  simp only [csrVW]
  omega
theorem viewRegister_taken {c : Nat} {k : CsrOp} {n : BitVec 3} {x : Word} {s : State}
    (h : viewOk (kept s c k (csrVW + n.toNat) x) = true) :
    Sets (.viewRegisterWrite c k n x) s c (csrVW + n.toNat) (kept s c k (csrVW + n.toNat) x) := by
  have hrefused := (s.core c).csrRefused_view k x (viewNumber n)
  have happly := (s.core c).csrApply_view k x (viewNumber n)
  refine sets_of_setCsr ((regWrite_taken (hrefused.trans (if_pos h))).trans ?_)
  simp only [State.onCore, happly, kept]
theorem viewRegister_refused {c : Nat} {k : CsrOp} {n : BitVec 3} {x : Word} {s : State}
    (h : viewOk (kept s c k (csrVW + n.toNat) x) = false) : exec (.viewRegisterWrite c k n x) s = .next s :=
  regWrite_refused (((s.core c).csrRefused_view k x (viewNumber n)).trans (if_neg (by rw [Bool.not_eq_true]; exact h)))

theorem presetLoad {c : Nat} {i : BitVec 5} {s : State} (hset : bit ((s.core c).csr (csrVWL + i.toNat)).toNat 63 = true)
    (hok : viewOk ((s.core c).csr (csrVWL + i.toNat) &&& csrMask csrVW) = true) :
    Sets (.vwlPresetLoad c i) s c (csrVW + bits ((s.core c).csr (csrVWL + i.toNat)).toNat 46 44)
      ((s.core c).csr (csrVWL + i.toNat) &&& csrMask csrVW) := by
  have hn : 0x080 ≤ csrVWL + i.toNat ∧ csrVWL + i.toNat ≤ 0x09F := by
    have := i.isLt
    simp only [csrVWL]
    omega
  have hclass : csrClass (csrVWL + i.toNat) = .rw := by
    unfold csrClass
    rw [if_neg (by omega), if_pos (by omega)]
  have hrefused : (s.core c).csrRefused .write (csrVWL + i.toNat) 0 = none := by
    simp only [Core.csrRefused, hclass, if_neg (show ¬(0x060 ≤ csrVWL + i.toNat ∧ csrVWL + i.toNat ≤ 0x067) by omega), if_pos hn, hset, Bool.true_and]
    exact if_pos hok
  refine sets_of_setCsr ((regWrite_taken hrefused).trans ?_)
  simp only [State.onCore, Core.csrApply, if_neg (show csrVWL + i.toNat ≠ 0x008 by omega), if_pos hn]
  rfl

/-! TSTAT, and what selects the performance counters' events (R231, R361). -/

theorem tstat_set (c : Nat) (k : CsrOp) (x : Word) (s : State) : Sets (.tstatWrite c k x) s c csrTSTAT
    (if k ≠ .clear ∧ x.toNat % 2 = 1 then (s.core c).csr csrTSTAT ||| 1 else (s.core c).csr csrTSTAT) := by
  have hrefused : (s.core c).csrRefused k csrTSTAT x = none := rfl
  have hexec : exec (.tstatWrite c k x) s = .next (s.onCore c fun k' => k'.csrApply k csrTSTAT x) := regWrite_taken hrefused
  have hbit : bit x.toNat 0 = true ↔ x.toNat % 2 = 1 := by simp [bit]
  by_cases h : k ≠ .clear ∧ x.toNat % 2 = 1
  · rw [if_pos h]
    refine sets_of_setCsr (hexec.trans ?_)
    simp [State.onCore, Core.csrApply, csrTSTAT, hbit, h, Core.setTxp]
  · rw [if_neg h]
    have happly : (s.core c).csrApply k csrTSTAT x = s.core c := by
      simp only [Core.csrApply, csrTSTAT, hbit, if_true, if_neg h]
    refine ⟨_, hexec, .onCore .., ?_⟩
    rw [State.core_onCore, if_pos rfl, happly]
    exact ⟨rfl, fun _ _ => rfl, rfl⟩

theorem pmev_set {c : Nat} {k : CsrOp} {x : Word} {s : State} (h : ∀ j < 4, bits (kept s c k csrPMEV x).toNat (8 * j + 7) (8 * j) ≤ 14) :
    Sets (.pmevWrite c k x) s c csrPMEV (kept s c k csrPMEV x) := by
  have hrefused : (s.core c).csrRefused k csrPMEV x = none := by
    have hall : ([0, 1, 2, 3].all fun i => decide (bits (kept s c k csrPMEV x).toNat (8 * i + 7) (8 * i) ≤ 14)) = true := by
      simp only [List.all_eq_true, List.mem_cons, List.not_mem_nil, or_false, decide_eq_true_eq]
      exact fun j hj => h j (by omega)
    have hclass : csrClass csrPMEV = .rw := rfl
    simp only [kept] at hall
    simp only [Core.csrRefused, hclass, newCsr_eq]
    exact if_pos hall
  have happly : (s.core c).csrApply k csrPMEV x = (s.core c).setCsr csrPMEV (kept s c k csrPMEV x) := by
    simp only [kept, ← newCsr_eq]
    rfl
  refine sets_of_setCsr ((regWrite_taken hrefused).trans ?_)
  simp only [State.onCore, happly]

/-! Plain registers (R129, R222, R362). -/

theorem regWrite_plain {i : Instr} {c n : Nat} {k : CsrOp} {x : Word} {s : State} (hexec : exec i s = regWrite c k n x s)
    (hn : plainRegister n = true) : Sets i s c n (kept s c k n x) := by
  refine sets_of_setCsr (hexec.trans ((regWrite_taken (Core.csrRefused_plain hn)).trans ?_))
  simp only [State.onCore, Core.csrApply_plain hn, kept]
theorem counter_plain (n : BitVec 2) : plainRegister (csrPMC + n.toNat) = true ∧ csrMask (csrPMC + n.toNat) = 0xFFFFFFFFFFFFFFFF := by
  revert n
  decide
theorem pmc_set (c : Nat) (k : CsrOp) (n : BitVec 2) (x : Word) (s : State) :
    Sets (.pmcWrite c k n x) s c (csrPMC + n.toNat) (formed k ((s.core c).csr (csrPMC + n.toNat)) x) := by
  obtain ⟨hplain, hmask⟩ := counter_plain n
  have h := regWrite_plain (i := .pmcWrite c k n x) (k := k) (x := x) (s := s) (c := c) rfl hplain
  rwa [kept, hmask, show (0xFFFFFFFFFFFFFFFF : Word) = BitVec.allOnes 64 from rfl, BitVec.and_allOnes] at h
theorem registerWrite_exec {c : Nat} {k : CsrOp} {n : BitVec 12} {x : Word} {s : State} (hn : plainRegister n.toNat = true)
    (hprd : n.toNat ≠ csrPRD) (hpmc : n.toNat < csrPMC ∨ csrPMC + 4 ≤ n.toNat) :
    exec (.registerWrite c k n x) s = regWrite c k n.toNat x s := by
  have hown : ownRow n.toNat = false := by
    simp only [plainRegister, Bool.and_eq_true, beq_iff_eq, bne_iff_ne, Bool.not_eq_true', Bool.and_eq_false_iff,
      decide_eq_false_iff_not] at hn
    obtain ⟨⟨⟨-, htstat⟩, hpmev⟩, hviews⟩ := hn
    simp only [ownRow, Bool.or_eq_false_iff, beq_eq_false_iff_ne, Bool.and_eq_false_iff, decide_eq_false_iff_not]
    simp only [csrVW, csrVWL]
    refine ⟨⟨⟨⟨⟨htstat, hprd⟩, hpmev⟩, ?_⟩, ?_⟩, ?_⟩ <;> omega
  show execRegisterWrite c k n x s = _
  simp [execRegisterWrite, hown]

/-- Settles O39: the register writes with rows of their own. -/
theorem registerEvents : Obligations.RegisterEvents := by
  unfold Obligations.RegisterEvents
  exact ⟨fun _ _ _ _ _ => viewRegister_taken, fun _ _ _ _ _ => viewRegister_refused, fun _ _ _ => presetLoad, tstat_set,
    fun _ _ _ _ => regWrite_plain rfl rfl, fun _ _ _ _ => pmev_set, pmc_set,
    fun _ _ _ _ _ hn hprd hpmc => regWrite_plain (registerWrite_exec hn hprd hpmc) hn⟩

end Sys2Proof.Machine
end

section
/-! SUPPORT. What an access of memory leaves of the machine: its checks enter claims and nothing else (R274-R281), and a read or a store
changes of a core its first level, its copies and its records of views (R117, R169, R252, R253). -/
namespace Sys2Proof.Machine
open Sys2Proof.Claims

/-! The checks. -/

theorem State.setRecord_claimsOnly (s : State) (g : Nat) (r : Record) : ClaimsOnly s (s.setRecord g r) := rfl
theorem State.fold_claimsOnly (s : State) (g : Nat) (e : Granule) : ClaimsOnly s (s.fold g e) := rfl
theorem State.bringRecord_claimsOnly {s t : State} {g : Nat} (h : s.bringRecord g = .ok t) : ClaimsOnly s t := by
  unfold State.bringRecord at h
  dsimp only at h
  split_ifs at h <;> cases h <;> rfl
theorem State.lookupGranule_claimsOnly {s t : State} {g : Nat} {e : Option Granule} (h : s.lookupGranule g = .ok (e, t)) : ClaimsOnly s t := by
  unfold State.lookupGranule at h
  dsimp only at h
  split at h
  · cases h; rfl
  · split_ifs at h <;> cases h <;> rfl
theorem State.acrossTeams_claimsOnly {s u : State} {c g t : Nat} {read : Bool} {e : Option Granule}
    (h : s.acrossTeams c g t read e = .ok u) : ClaimsOnly s u := by
  unfold State.acrossTeams at h
  dsimp only at h
  split_ifs at h <;> cases h <;> rfl
theorem State.admits_claimsOnly {s t : State} {c g : Nat} {kind : Acc} {e : Option Granule} {l : Live}
    (h : s.admits c g kind e = .ok (l, t)) : ClaimsOnly s t := by
  unfold State.admits at h
  split at h
  · cases h
  · next hacross =>
    split at h <;> cases h
    exact State.acrossTeams_claimsOnly hacross
theorem State.intervalCheck_claimsOnly {s t : State} {c g : Nat} {kind : Acc} (h : s.intervalCheck c g kind = .ok t) : ClaimsOnly s t := by
  unfold State.intervalCheck at h
  dsimp only at h
  split at h
  · cases h
  · next hbring =>
    split at h
    · cases h
    · next hlookup =>
      split at h
      · split at h
        · cases h
        · split at h <;> cases h
      · cases h
      · next hadmits =>
        refine ((State.bringRecord_claimsOnly hbring).trans (State.lookupGranule_claimsOnly hlookup)).trans
          ((State.admits_claimsOnly hadmits).trans ?_)
        split at h
        · cases h
        · cases h; rfl
theorem State.handoffCheck_claimsOnly {s t : State} {c g num : Nat} {bases : List Nat} {n : Nat} {write : Bool}
    (h : s.handoffCheck c g num bases n write = .ok t) : ClaimsOnly s t := by
  unfold State.handoffCheck at h
  dsimp only at h
  split at h
  · cases h
  · cases h
  · split_ifs at h <;> cases h <;> rfl

/-- A fold over results keeps what its steps keep. -/
theorem Except.foldl_rel {ε α σ : Type} {R : σ → σ → Prop} (hrefl : ∀ a, R a a)
    (htrans : ∀ a b d, R a b → R b d → R a d) {f : Except ε σ → α → Except ε σ} (herr : ∀ e x, f (.error e) x = .error e) (hf : ∀ s x t, f (.ok s) x = .ok t → R s t) (l : List α)
    {s t : σ} (h : l.foldl f (.ok s) = .ok t) : R s t := by
  induction l generalizing s with
  | nil => cases h; exact hrefl _
  | cons x l ih =>
    rw [List.foldl_cons] at h
    cases hx : f (.ok s) x with
    | error e =>
      have hall : ∀ l : List α, l.foldl f (.error e) = .error e := fun l => by
        induction l with
        | nil => rfl
        | cons y l ih => rw [List.foldl_cons, herr, ih]
      rw [hx, hall] at h
      cases h
    | ok u =>
      rw [hx] at h
      exact htrans _ _ _ (hf s x u hx) (ih h)
theorem State.conflictCheck_claimsOnly {s t : State} {c : Nat} {p : Page} {pa n : Nat} {kind : Acc}
    (h : s.conflictCheck c p pa n kind = .ok t) : ClaimsOnly s t := by
  unfold State.conflictCheck at h
  dsimp only at h
  split_ifs at h
  · cases h; rfl
  · refine Except.foldl_rel ClaimsOnly.refl (fun _ _ _ => ClaimsOnly.trans) (fun _ _ => rfl) (fun u g v hv => ?_) _ h
    dsimp only at hv
    split at hv
    · exact State.handoffCheck_claimsOnly hv
    · exact State.intervalCheck_claimsOnly hv

/-- The checks of a read enter claims and nothing else. -/
theorem State.checkPieces_read {s t : State} {c : Nat} {k : AccessKind} {size : Nat} {ps : List (Nat × Nat × Page)}
    (h : s.checkPieces c k size .read ps = .ok t) : ClaimsOnly s t := by
  unfold State.checkPieces at h
  refine Except.foldl_rel ClaimsOnly.refl (fun _ _ _ => ClaimsOnly.trans) (fun _ _ => rfl) (fun u g v hv => ?_) ps h
  dsimp only at hv
  unfold State.checkPiece at hv
  split at hv
  · cases hv
  · split at hv <;> cases hv
    next hcheck => exact State.conflictCheck_claimsOnly hcheck
theorem State.reach_pages {s s2 : State} {c va n : Nat} {k : AccessKind} {size : Nat} {acc : Acc} {ps : List (Nat × Nat × Page)}
    (h : s.reach c va n k size acc = .ok (ps, s2)) : s.checkPieces c k size acc ps = .ok s2 := by
  unfold State.reach at h
  split at h
  · cases h
  · split at h <;> cases h
    assumption
theorem State.reach_read {s s2 : State} {c va n : Nat} {k : AccessKind} {size : Nat} {ps : List (Nat × Nat × Page)}
    (h : s.reach c va n k size .read = .ok (ps, s2)) : ClaimsOnly s s2 := State.checkPieces_read (State.reach_pages h)

/-! The cores. -/

/-- Of core k everything is in k' as it was, but for its first level, its copies, its records of views and its events. -/
def Untouched (k k' : Core) : Prop :=
  k' = { k with l1 := k'.l1, copies := k'.copies,
                ctl := { k.ctl with writtenLin := k'.ctl.writtenLin, writtenSwz := k'.ctl.writtenSwz, events := k'.ctl.events } }
theorem Untouched.refl (k : Core) : Untouched k k := rfl
theorem Untouched.trans {a b c : Core} (h : Untouched a b) (h' : Untouched b c) : Untouched a c := by
  unfold Untouched at *
  rw [h', h]
theorem Untouched.perf (k : Core) (ev n : Nat) : Untouched k (k.perf ev n) := by
  unfold Core.perf
  split <;> rfl
theorem Untouched.copies (k : Core) (l : List Copy) : Untouched k { k with copies := l } := rfl
/-- An access of core c: only its own core changes, and only in what `Untouched` leaves open. -/
structure Accessed (c : Nat) (s t : State) : Prop where
  others : ∀ d, d ≠ c → t.core d = s.core d
  own : Untouched (s.core c) (t.core c)
theorem Accessed.refl (c : Nat) (s : State) : Accessed c s s := ⟨fun _ _ => rfl, rfl⟩
theorem Accessed.trans {c : Nat} {s t u : State} (h : Accessed c s t) (h' : Accessed c t u) : Accessed c s u :=
  ⟨fun d hd => (h'.others d hd).trans (h.others d hd), h.own.trans h'.own⟩
theorem Accessed.foldl {α : Type} {c : Nat} {f : State → α → State} (hf : ∀ s x, Accessed c s (f s x)) (l : List α) (s : State) :
    Accessed c s (l.foldl f s) := by
  induction l generalizing s with
  | nil => exact .refl c s
  | cons x l ih => exact (hf s x).trans (ih _)
theorem Accessed.of_cores {c : Nat} {s t : State} (h : t.cores = s.cores) : Accessed c s t :=
  have hcore : ∀ d, t.core d = s.core d := fun d => by rw [State.core, h]; rfl
  ⟨fun d _ => hcore d, by rw [hcore]; exact .refl _⟩
theorem Accessed.setCore {c : Nat} {s : State} {k : Core} (h : Untouched (s.core c) k) : Accessed c s (s.setCore c k) :=
  ⟨fun d hd => by simp [hd], by simpa using h⟩
theorem Accessed.onCore {c : Nat} {f : Core → Core} (h : ∀ k, Untouched k (f k)) (s : State) : Accessed c s (s.onCore c f) :=
  .setCore (h _)
theorem MemOnly.accessed {c : Nat} {s t : State} (h : MemOnly s t) : Accessed c s t := .of_cores (by rw [h])
/-- A fold that carries a value beside the machine. -/
theorem Accessed.foldl_snd {α β : Type} {c : Nat} {f : β × State → α → β × State} (hf : ∀ p x, Accessed c p.2 (f p x).2) (l : List α)
    (p : β × State) : Accessed c p.2 (l.foldl f p).2 := by
  induction l generalizing p with
  | nil => exact .refl c p.2
  | cons x l ih => exact (hf p x).trans (ih _)
theorem ClaimsOnly.accessed {c : Nat} {s t : State} (h : ClaimsOnly s t) : Accessed c s t := .of_cores (by rw [h])

theorem State.hostFill_accessed (s : State) (c pa : Nat) : Accessed c s (s.hostFill pa) := by
  unfold State.hostFill
  split
  · dsimp only
    split
    · exact .refl c s
    · exact .of_cores rfl
  · exact .refl c s
theorem State.l1Drop_accessed (s : State) (c : Nat) (wb : Bool) (f : L1Line → Bool) : Accessed c s (s.l1Drop c wb f) := by
  have hback : MemOnly s (if wb then ((s.core c).l1.filter f).foldl State.writeBack s else s) := by
    split
    · exact .foldl (fun u x => State.homeWrite_memOnly u _) _ s
    · rfl
  unfold State.l1Drop
  refine hback.accessed.trans (.setCore ?_)
  rw [State.core, hback]
  rfl
theorem State.l1Miss_accessed (s : State) (c : Nat) : Accessed c s (s.l1Miss c) := .onCore (fun k => .perf k 7 1) s
theorem State.l1Evict_accessed (s : State) (c g : Nat) : Accessed c s (s.l1Evict c g) := by
  unfold State.l1Evict
  dsimp only
  split
  · exact .refl c s
  · split
    · exact .refl c s
    · next v _ =>
      have hback : MemOnly s (s.writeBack v) := State.homeWrite_memOnly ..
      refine hback.accessed.trans (.setCore ?_)
      rw [State.core, hback]
      rfl
theorem State.l1Fill_accessed (s : State) (c pa evp : Nat) (lt : Option Nat) : Accessed c s (s.l1Fill c pa evp lt) := by
  unfold State.l1Fill
  dsimp only
  split
  · exact .refl c s
  · exact ((s.hostFill_accessed c pa).trans (State.l1Evict_accessed ..)).trans (.onCore (by intro k; rfl) _)
theorem State.spadRead_free (s : State) (c : Nat) (swz : Bool) (pa n : Nat) :
    (s.spadRead c swz pa n).2 = { s with freeCtr := (s.spadRead c swz pa n).2.freeCtr } := by
  unfold State.spadRead
  dsimp only
  split <;> rfl
theorem State.lineRead_accessed (s : State) (c : Nat) (p : Page) (by_ na : Bool) (pa n : Nat) : Accessed c s (s.lineRead c p by_ na pa n).2 := by
  have htouch : ∀ (u : State) (x : L1Line), Accessed c u (u.onCore c fun k => { k with l1 := l1Touch k.l1 x }) := fun u x => .onCore (by intro k; rfl) u
  unfold State.lineRead
  dsimp only
  split
  · unfold State.pastRead
    split
    · split
      · dsimp only
        split
        · exact s.hostFill_accessed c pa
        · exact .refl c s
      · split
        · exact htouch ..
        · exact .refl c s
    · dsimp only
      split
      · exact s.hostFill_accessed c pa
      · exact .refl c s
  · split
    · split
      · exact .refl c s
      · exact htouch ..
    · split
      · exact s.l1Miss_accessed c
      · exact (s.l1Miss_accessed c).trans (State.l1Fill_accessed ..)
theorem State.pageRead_accessed (s : State) (c : Nat) (p : Page) (by_ na : Bool) (n : Nat) : Accessed c s (s.pageRead c p by_ na n).2 := by
  unfold State.pageRead
  dsimp only
  split
  · exact .of_cores (by rw [State.spadRead_free])
  · refine .foldl_snd (fun p x => ?_) _ (0, s)
    exact State.lineRead_accessed p.2 ..
theorem State.viewWrite_accessed (s : State) (c : Nat) (swz : Bool) (st : List (Nat × Byte)) : Accessed c s (s.viewWrite c swz st) := by
  have hcross : Accessed c s (s.crossWrite c swz st).2 := by
    unfold State.crossWrite
    dsimp only
    split <;> exact .of_cores rfl
  have hnote : ∀ u : State, Accessed c u (u.noteView c swz st) := fun u => by
    unfold State.noteView State.onView
    exact .onCore (by intro k; cases swz <;> rfl) u
  unfold State.viewWrite
  exact hcross.trans ((hnote _).trans (State.homeWrite_memOnly ..).accessed)

/-- Every core is as an access leaves it. -/
def Quiet (s t : State) : Prop := ∀ d, Untouched (s.core d) (t.core d)
theorem Quiet.refl (s : State) : Quiet s s := fun _ => rfl
theorem Quiet.trans {s t u : State} (h : Quiet s t) (h' : Quiet t u) : Quiet s u := fun d => (h d).trans (h' d)
theorem Quiet.foldl {α : Type} {f : State → α → State} (hf : ∀ s x, Quiet s (f s x)) (l : List α) (s : State) : Quiet s (l.foldl f s) := by
  induction l generalizing s with
  | nil => exact .refl s
  | cons x l ih => exact (hf s x).trans (ih _)
theorem Accessed.quiet {c : Nat} {s t : State} (h : Accessed c s t) : Quiet s t := fun d => by
  by_cases hd : d = c
  · exact hd ▸ h.own
  · rw [h.others d hd]
    exact .refl _

theorem State.landCells_accessed (s : State) (c : Nat) (joined : Bool) (cs : List (Nat × Byte)) : Accessed c s (s.landCells c joined cs) := by
  unfold State.landCells
  split
  · exact (s.homeWriteAll_memOnly _).accessed
  · exact (s.homeWriteAll_memOnly _).accessed.trans (.foldl (fun u swz => .foldl (fun v g => v.viewWrite_accessed c swz g) _ u) _ _)
theorem State.copySome_accessed (s : State) (d va n : Nat) (cp : Copy) : Accessed d s (s.copySome d va n cp) := by
  have hfree : Accessed d s s.takeFree.2 := .of_cores rfl
  unfold State.copySome
  dsimp only
  split
  · exact .refl d s
  · refine hfree.trans ?_
    generalize s.takeFree.2 = u
    refine Accessed.trans (t := State.onCore (State.landCells u d cp.joined _) d _) ?_ (Accessed.onCore ?_ _)
    · exact (State.landCells_accessed u d cp.joined _).trans (.onCore (fun k => .copies k _) _)
    · exact fun k => .copies k _
theorem State.copyMix_quiet (s : State) (c va n : Nat) : Quiet s (s.copyMix c va n) := by
  unfold State.copyMix
  refine .foldl (fun u e => ?_) _ s
  split
  · refine .foldl (fun v cp => ?_) _ u
    exact (v.copySome_accessed e.1 va n cp).quiet
  · exact .refl u
/-- The pieces of a load, one after the other. -/
def State.readPieces (s : State) (c va : Nat) (ps : List (Nat × Nat × Page)) (by_ na : Bool) : Nat × State :=
  ps.foldl (fun p q => (p.1 + (p.2.pageRead c q.2.2 by_ na q.2.1).1 <<< (8 * (q.1 - va)), (p.2.pageRead c q.2.2 by_ na q.2.1).2)) (0, s)
theorem State.loadValue_eq (s : State) (c va n : Nat) (ps : List (Nat × Nat × Page)) (by_ na : Bool) :
    s.loadValue c va n ps by_ na = (if ps.any fun q => q.2.2.chk then s else s.copyMix c va n).readPieces c va ps by_ na := rfl
theorem State.readPieces_accessed (s : State) (c va : Nat) (ps : List (Nat × Nat × Page)) (by_ na : Bool) :
    Accessed c s (s.readPieces c va ps by_ na).2 := by
  unfold State.readPieces
  refine .foldl_snd (fun p x => ?_) _ (0, s)
  exact State.pageRead_accessed p.2 ..
/-- A load leaves every core as an access does. -/
theorem State.loadValue_quiet (s : State) (c va n : Nat) (ps : List (Nat × Nat × Page)) (by_ na : Bool) :
    Quiet s (s.loadValue c va n ps by_ na).2 := by
  have hmix : Quiet s (if ps.any fun q => q.2.2.chk then s else s.copyMix c va n) := by
    split
    · exact .refl s
    · exact s.copyMix_quiet c va n
  rw [State.loadValue_eq]
  exact hmix.trans (State.readPieces_accessed ..).quiet

/-- Copies that are complete reach no more bytes. -/
theorem State.copySome_complete {s : State} {d va n : Nat} {cp : Copy} (h : cp.complete = true) : s.copySome d va n cp = s := by
  unfold State.copySome
  simp [h]
theorem State.copyMix_done {s : State} (h : s.copiesDone) (c va n : Nat) : s.copyMix c va n = s := by
  have hcore : ∀ e ∈ s.cores, ∀ u : State, e.2.copies.foldl (fun v cp => v.copySome e.1 va n cp) u = u := fun e he u =>
    List.foldlRecOn e.2.copies _ (motive := fun v => v = u) rfl fun v hv cp hcp => by
      rw [State.copySome_complete (h e he cp hcp)]
      exact hv
  unfold State.copyMix
  exact List.foldlRecOn s.cores _ (motive := fun v => v = s) rfl fun v hv e he => by
    split
    · rw [hcore e he]
      exact hv
    · exact hv

end Sys2Proof.Machine
end

section
/-! SUPPORT. The commit of an operation whose execution step has changed the machine, alone in its bundle (R77, R97, R275). -/
namespace Sys2Proof.Machine
open Sys2Proof.Claims

/-- `i` of slot x has issued alone, its execution step has come to machine s2 and the effects `es`, and its latches are loaded: from machine
`u` the effects take place, and the core goes on as record `r` says. -/
structure CommitsFrom (i : Instr) (s s2 : State) (x : Slot) (es : List Eff) (u : State) (r : Waiting) : Prop where
  commits : exec i s = .next ((u.slotDone s.turn ((s.prepared i).cycleOf s.turn) [] (x.ix, guardOf i, es)).onCore s.turn (Core.settle r))
  noted : ∃ a, Noted (s2.core s.turn) a ∧ LatchesOnly a (u.core s.turn)
  views : ∀ swz, (u.core s.turn).otherView swz = (s2.core s.turn).otherView swz
  only : OnlyCore s.turn ((s.prepared i).confirmed s.turn s2) u
  next : r.next = (s.issuer i).ctl.pc + 16
  rep : r.rep = 0

/-- Effects of no class ahead of others leave the class counts as the others make them (R360). -/
theorem Core.overLimit_append {k : Core} {l es : List Eff} (hl : ∀ e ∈ l, e.countClass = none) :
    k.overLimit [{ effs := l ++ es }] = k.overLimit [{ effs := es }] := by
  have hfilter : ∀ cls, (l.filter fun e => e.countClass == some cls) = [] := fun cls =>
    List.filter_eq_nil_iff.2 fun e he => by simp [hl e he]
  simp [Core.overLimit, Out.rise, List.filter_append, hfilter]

/-- Latch loads ahead of a slot's effects take place first (R80). -/
theorem State.slotDone_append {l es : List Eff} (hl : ∀ e ∈ l, ∃ j a, e = .latch j a) (c cyc n g : Nat) (s : State) :
    s.slotDone c cyc [] (n, g, l ++ es) = (applyAll c g cyc l s).slotDone c cyc [] (n, g, es) := by
  have hseq : ((applyAll c g cyc l s).core c).ctl.seq = (s.core c).ctl.seq := by rw [applyAll_latches hl c g cyc s]
  simp only [State.slotDone, State.afresh, List.isEmpty_nil, if_true, applyAll_append, hseq]

theorem State.onRecords_eq (s : State) (ks : List Nat) (f : Record → Record) :
    s.onRecords ks f = { s with records := ks.foldl (fun t k => t.put {} k (f (t.get {} k))) s.records } := by
  unfold State.onRecords
  induction ks generalizing s with
  | nil => rfl
  | cons k ks ih => rw [List.foldl_cons, ih, List.foldl_cons]
theorem OnlyCore.onRecords {c : Nat} {s t : State} (h : OnlyCore c s t) (ks : List Nat) (f : Record → Record) :
    OnlyCore c (s.onRecords ks f) (t.onRecords ks f) := by
  have hrecords : t.records = s.records := by rw [h.rest]
  rw [State.onRecords_eq, State.onRecords_eq, hrecords]
  exact ⟨by rw [h.rest], h.others⟩
theorem State.core_onRecords (s : State) (ks : List Nat) (f : Record → Record) (d : Nat) : (s.onRecords ks f).core d = s.core d := by
  rw [State.onRecords_eq]
  rfl

theorem exec_commits {i : Instr} {s s2 : State} {x : Slot} {w : Word} {es : List Eff} (hc : s.clears i = true) (he : encode i = some (x, w))
    (hn : (slotOp i).nop = false) (ht : (slotOp i).transfer = false) (hpre : (slotOp i).pre = fun _ _ => []) (hread : s.readable i = true)
    (hheads : s.headsOf i = []) (hr : bits w.toNat 63 56 ≠ 0x58 ∧ bits w.toNat 63 56 ≠ 0x59)
    (hb : (slotOp i).body { (s.soleOp i x w).ctx (s.prepared i) s.turn s.soleFrame with earlier := [] } (s.sources i) (s.prepared i) =
      .ok s2 { effs := es })
    (hv : (s.issuer i).overLimit [{ effs := es }] = false) (hp : ∀ e ∈ es, e.plain = true) : ∃ u r, CommitsFrom i s s2 x es u r := by
  have hsrc : s.sources i = (s.soleOp i x w).vals (s.prepared i) s.turn := by simp [State.sources, he]
  have hnone : headsRead (s.prepared i) s.turn [s.soleOp i x w] = [] := by rw [← hheads]; simp [State.headsOf, he]
  have hlatch : ∀ e ∈ latchLoads (s.soleOp i x w) (s.sources i), ∃ j a, e = .latch j a := fun e h => mem_latchLoads h
  have hout : s.soleOut i x w { effs := es } = { effs := latchLoads (s.soleOp i x w) (s.sources i) ++ es } := by
    simp [State.soleOut, hnone, hsrc]
  have hexec := exec_issue (exec_issues he s) hc he hn (State.vals_noError he hread) (hsrc ▸ hb) (clashes_noChannelRead (x := s.soleOp i x w) hr)
    (by rw [hout, Core.overLimit_append fun e h => by obtain ⟨j, a, rfl⟩ := hlatch e h; rfl]; exact hv) (State.gangDiffers_none _ _ _ _ ht)
  rw [hout] at hexec
  generalize latchLoads (s.soleOp i x w) (s.sources i) = l at *
  have hpre' : (s.soleOp i x w).op.pre ((s.prepared i).core s.turn) (s.soleOp i x w).ix = [] := congrFun (congrFun hpre _) _
  set d : Done := { s := s2, outs := [(s.soleOp i x w, { effs := l ++ es })] } with hd
  have hrecord : let r := (s.prepared i).issueRecord s.turn s.soleFrame [s.soleOp i x w] d
      r.effs = [(x.ix, guardOf i, l ++ es)] ∧ r.waits = [] ∧ r.next = (s.issuer i).ctl.pc + 16 ∧ r.rep = 0 ∧
        r.cyc = (s.prepared i).cycleOf s.turn ∧ r.undoRec = changedRecords (s.prepared i).records s2.records := by
    refine ⟨?_, rfl, ?_, ?_, rfl, rfl⟩
    · have hg : guardOf i = (s.soleOp i x w).gk := by simp [guardOf, he]; rfl
      simp [State.issueRecord, hd, hpre', hg]
      rfl
    · simp [State.issueRecord, hd, State.soleFrame, ← soleFrame_pc he]
    · simp [State.issueRecord, State.soleFrame]
  unfold State.finishIssue at hexec
  dsimp only at hexec
  generalize (s.prepared i).issueRecord s.turn s.soleFrame [s.soleOp i x w] d = q at *
  obtain ⟨heffs, hwaits, hnext, hrep, hcyc, hundo⟩ := hrecord
  have hcont : ∀ b, let r := q.continued b
      r.effs = q.effs ∧ r.waits = [] ∧ r.next = q.next ∧ r.rep = q.rep ∧ r.cyc = q.cyc ∧ r.undoRec = q.undoRec := fun b => by
    cases b <;> simp [Waiting.continued, hwaits]
  obtain ⟨ceffs, cwaits, cnext, crep, ccyc, cundo⟩ := hcont ((s.prepared i).core s.turn).waitBack
  generalize q.continued ((s.prepared i).core s.turn).waitBack = r at *
  set v := (d.s.noteLead s.turn (((s.prepared i).transferOutcome s.turn d.outs).getD 0)).onCore s.turn
    (Core.noteIssue ((s.prepared i).cycleOf s.turn) r.weight) with hv
  have hplain : ∀ y ∈ r.effs, ∀ e ∈ y.2.2, e.plain = true := by
    rw [ceffs, heffs]
    simp only [List.mem_singleton, forall_eq, List.mem_append]
    rintro e (h | h)
    · obtain ⟨j, a, rfl⟩ := hlatch e h
      rfl
    · exact hp e h
  have hbefore : ∀ y : State, y.settledBefore s.turn r x.ix = [] := fun y => by simp [State.settledBefore, ceffs, heffs]
  simp only [cwaits, List.isEmpty_nil, if_true, State.commitBundle_plain _ _ _ cwaits hplain] at hexec
  simp only [ceffs, heffs, List.foldl_cons, List.foldl_nil, hbefore, ccyc, hcyc, State.slotDone_append hlatch] at hexec
  have hlatches : LatchesOnly (v.core s.turn) ((applyAll s.turn (guardOf i) ((s.prepared i).cycleOf s.turn) l
      (v.onRecords r.undoRec (Record.confirm s.turn))).core s.turn) := by
    have hl := applyAll_latches hlatch s.turn (guardOf i) ((s.prepared i).cycleOf s.turn) (v.onRecords r.undoRec (Record.confirm s.turn))
    rwa [State.core_onRecords] at hl
  refine ⟨_, r, hexec, ⟨v.core s.turn, noted s2 .., hlatches⟩, fun swz => ?_, ?_, cnext.trans hnext, crep.trans hrep⟩
  · obtain ⟨f, g, hcore⟩ := noted_core s2 s.turn ((s.prepared i).cycleOf s.turn) r.weight (((s.prepared i).transferOutcome s.turn d.outs).getD 0)
    have hsame : (v.core s.turn).otherView swz = (s2.core s.turn).otherView swz := by
      rw [hv, hcore]
      rfl
    rw [hlatches, ← hsame]
    rfl
  · have hnoted : OnlyCore s.turn s2 v := (State.noteLead_onlyCore ..).trans (.onCore ..)
    rw [State.confirmed, ← hundo, ← cundo]
    exact (hnoted.onRecords _ _).trans (applyAll_onlyCore (fun e h => by obtain ⟨j, a, rfl⟩ := hlatch e h; rfl) ..)

end Sys2Proof.Machine
end

section
/-! SUPPORT. Loads of the S slot: `LDS`, and what a load of the core's own scratchpad reads (R116, R117, R249, R360). -/
namespace Sys2Proof.Machine
open Sys2Proof.Claims

/-! Copies that are complete stay so before an issue (R174). -/

theorem Table.mem_of_insert {α : Type} {t : Table α} {k : Nat} {v : α} {e : Nat × α} (h : e ∈ t.insert k v) : e = (k, v) ∨ e ∈ t := by
  induction t with
  | nil => exact .inl (by simpa [Table.insert] using h)
  | cons y t ih =>
    unfold Table.insert at h
    split_ifs at h <;> simp only [List.mem_cons] at h ⊢
    · tauto
    · tauto
    · rcases h with h | h
      · tauto
      · have := ih h
        tauto
theorem Table.mem_of_erase {α : Type} {t : Table α} {k : Nat} {e : Nat × α} (h : e ∈ t.erase k) : e ∈ t := by
  induction t with
  | nil => exact h
  | cons y t ih =>
    unfold Table.erase at h
    split_ifs at h
    · exact List.mem_cons_of_mem _ (ih h)
    · rcases List.mem_cons.1 h with rfl | h
      · exact List.mem_cons_self ..
      · exact List.mem_cons_of_mem _ (ih h)
theorem Table.mem_of_put {α : Type} [DecidableEq α] {d : α} {t : Table α} {k : Nat} {v : α} {e : Nat × α} (h : e ∈ t.put d k v) :
    e = (k, v) ∨ e ∈ t := by
  unfold Table.put at h
  split at h
  · exact .inr (Table.mem_of_erase h)
  · exact Table.mem_of_insert h
theorem Table.get_mem {α : Type} (d : α) (t : Table α) (k : Nat) : t.get d k = d ∨ (k, t.get d k) ∈ t := by
  induction t with
  | nil => exact .inl rfl
  | cons y t ih =>
    unfold Table.get
    split_ifs with hk
    · exact .inr (by rw [← hk]; exact List.mem_cons_self ..)
    · exact ih.imp_right (List.mem_cons_of_mem _)
theorem State.copiesDone_core {s : State} (h : s.copiesDone) (c : Nat) : ∀ x ∈ (s.core c).copies, x.complete = true := by
  rcases Table.get_mem {} s.cores c with hd | hm
  · rw [State.core, hd]
    simp
  · exact h _ hm
theorem State.copiesDone_setCore {s : State} (h : s.copiesDone) {c : Nat} {k : Core} (hk : ∀ x ∈ k.copies, x.complete = true) :
    (s.setCore c k).copiesDone := fun e he => by
  rcases Table.mem_of_put he with rfl | he
  · exact hk
  · exact h e he
theorem Core.landDue_copies (k : Core) (n : Nat) (v : Bool) : (k.landDue n v).copies = k.copies := by
  have hS : ∀ (k : Core) f d x, (k.landS f d x).copies = k.copies := fun k f d x => by
    unfold Core.landS
    dsimp only
    split <;> simp
  have hV : ∀ (k : Core) f a x m fl, (k.landV f a x m fl).copies = k.copies := fun k f a x m fl => by
    unfold Core.landV
    dsimp only
    (repeat' split) <;> rfl
  unfold Core.landDue
  exact List.foldlRecOn k.flights _ (motive := fun j : Core => j.copies = k.copies) rfl fun j hj f _ => by
    (repeat' split) <;> simp only [hS, hV, hj]
theorem State.landed_copiesDone {s : State} (h : s.copiesDone) : s.landed.copiesDone := by
  have hland : (s.landNow s.turn).copiesDone := by
    unfold State.landNow
    dsimp only
    split
    · exact h
    · refine State.copiesDone_setCore h ?_
      rw [Core.landDue_copies, Core.landDue_copies]
      exact State.copiesDone_core h s.turn
  have hpromise : ((s.landNow s.turn).notePromise s.turn).copiesDone := by
    generalize s.landNow s.turn = u at hland
    unfold State.notePromise
    dsimp only
    split
    · exact hland
    · refine State.copiesDone_setCore hland fun x hx => ?_
      obtain ⟨y, hy, rfl⟩ := List.mem_map.1 hx
      have := State.copiesDone_core hland s.turn y hy
      split <;> exact this
  have hback : (((s.landNow s.turn).notePromise s.turn).dropBack s.turn).copiesDone := by
    generalize (s.landNow s.turn).notePromise s.turn = u at hpromise
    unfold State.dropBack
    split
    · next b _ _ =>
      have hu : (u.unclaimAll b.waits).copiesDone := by
        unfold State.copiesDone
        rw [State.unclaimAll_cores]
        exact hpromise
      exact State.copiesDone_setCore hu (State.copiesDone_core hu s.turn)
    · exact hpromise
  unfold State.landed State.beforeIssue
  dsimp only
  split <;> exact hback

/-! What a load of a scratchpad reads (R249, R250, R252). -/

theorem Memory.read_eq_sum (m : List Host.Cell) (a n : Nat) :
    Memory.read m a n = (List.range n).foldl (fun v j => v + (Memory.byte m (a + j)).toNat * 256 ^ j) 0 := by
  induction n with
  | zero => rfl
  | succ n ih =>
    rw [List.range_succ, List.foldl_append, List.foldl_cons, List.foldl_nil, ← ih, Memory.read, Nat.shiftLeft_eq, pow_mul]
    rfl
/-- The linear view of scratchpad c (R249): its cells stand at their own addresses. -/
theorem placeOf_pad {c o : Nat} (hc : c < 1024) (ho : o < 0x80000) :
    placeOf (spadBase c + o) = if o < 0x60000 then some (.spad c false, spadBase c + o) else none := by
  have h1 : ¬spadBase c + o < 4 * dieBytes := by simp only [spadBase, dieBytes]; omega
  have h2 : ¬(0x400000000000 ≤ spadBase c + o ∧ spadBase c + o < 0x600000000000) := by simp only [spadBase]; omega
  have h3 : 0x700000000000 ≤ spadBase c + o ∧ spadBase c + o < 0x700040000000 := by simp only [spadBase]; omega
  have h4 : (spadBase c + o - 0x700000000000) % 0x20000000 = c * 0x80000 + o := by simp only [spadBase]; omega
  have h5 : (c * 0x80000 + o) % 0x80000 = o ∧ (c * 0x80000 + o) / 0x80000 = c := by omega
  have h6 : ¬0x700020000000 ≤ spadBase c + o := by simp only [spadBase]; omega
  simp only [placeOf, if_neg h1, if_neg h2, if_pos h3, h4, h5, h6, decide_false, Bool.false_eq_true, if_false]
theorem placeOf_pad_inv {pa c a : Nat} (h : placeOf pa = some (.spad c false, a)) :
    ∃ o, o < 0x60000 ∧ c < 1024 ∧ pa = spadBase c + o ∧ a = pa := by
  unfold placeOf at h
  dsimp only at h
  split_ifs at h with h1 h2 h3 h4 <;>
    simp only [Option.some.injEq, Prod.mk.injEq, Place.spad.injEq, decide_eq_false_iff_not, reduceCtorEq, false_and] at h
  · rename_i hswz
    exact absurd (of_decide_eq_true hswz) h.1.2
  · obtain ⟨⟨rfl, hlow⟩, rfl⟩ := h
    refine ⟨(pa - 0x700000000000) % 0x20000000 % 0x80000, h4, ?_⟩
    simp only [spadBase]
    omega
/-- In the linear view the cells of consecutive addresses are consecutive. -/
theorem placeOf_linear {pa n c o : Nat} (h : placeOf pa = some (.spad c false, o))
    (hn : ∀ j, j < n → (placeOf (pa + j)).isSome = true) : ∀ j, j < n → placeOf (pa + j) = some (.spad c false, o + j) := by
  obtain ⟨b, hb, hc, hpa, rfl⟩ := placeOf_pad_inv h
  intro j hj
  have hin : b + j < 0x60000 := by
    by_contra hout
    have hend := hn (0x60000 - b) (by omega)
    rw [show o + (0x60000 - b) = spadBase c + 0x60000 by omega, placeOf_pad hc (by omega), if_neg (by omega)] at hend
    exact absurd hend (by simp)
  rw [show o + j = spadBase c + (b + j) by omega, placeOf_pad hc (by omega), if_pos hin]
/-- The bytes at a scratchpad address, through either view. -/
theorem State.homeRead_spad (s : State) {pa n c o : Nat} {swz : Bool} (h : placeOf pa = some (.spad c swz, o))
    (hn : ∀ j, j < n → (placeOf (pa + j)).isSome = true) : s.homeRead pa n =
      (List.range n).foldl (fun v j => v + (Memory.byte s.mem ((placeOf (pa + j)).getD (.hbm, 0)).2).toNat * 256 ^ j) 0 := by
  cases swz with
  | false =>
    have hcells := placeOf_linear h hn
    simp only [State.homeRead, h, Memory.read_eq_sum]
    refine List.foldl_ext _ _ _ fun v j hj => ?_
    rw [hcells j (List.mem_range.1 hj)]
    rfl
  | true =>
    simp only [State.homeRead, h, Nat.zero_mul, Nat.add_zero]
    refine List.foldl_ext _ _ _ fun v j hj => ?_
    obtain ⟨p, hp⟩ := Option.isSome_iff_exists.1 (hn j (List.mem_range.1 hj))
    rw [hp, Nat.shiftLeft_eq, pow_mul]
    rfl
theorem State.spadRead_unwritten {s : State} {c : Nat} (hl : (s.core c).ctl.writtenLin = []) (hs : (s.core c).ctl.writtenSwz = [])
    (swz : Bool) (pa n : Nat) : s.spadRead c swz pa n = (s.homeRead pa n, s) := by
  have hother : (s.core c).otherView swz = [] := by cases swz <;> simp [Core.otherView, hl, hs]
  unfold State.spadRead
  simp [hother]

/-- The second part of O4. -/
theorem localLoadReadsBytes : LocalLoadReadsBytes := by
  intro s c va n p by_ na swz o hp hl hs hd hn
  have hmix : (if ([(va, n, p)] : List (Nat × Nat × Page)).any fun q => q.2.2.chk then s else s.copyMix c va n) = s := by
    rw [State.copyMix_done hd]
    split <;> rfl
  rw [State.loadValue_eq, hmix]
  simp only [State.readPieces, List.foldl_cons, List.foldl_nil, State.pageRead, hp, State.spadRead_unwritten hl hs, State.homeRead_spad s hp hn,
    Nat.sub_self, Nat.mul_zero, Nat.shiftLeft_zero, Nat.zero_add]

/-! The class counts (R360). -/

theorem Core.overLimit_counted {k : Core} {es : List Eff} {cls : Nat} (hcls : ∀ e ∈ es, e.countClass = none ∨ e.countClass = some cls)
    (hle : k.out cls + (es.filter fun e => e.countClass == some cls).length ≤ outLimit cls) : k.overLimit [{ effs := es }] = false := by
  unfold Core.overLimit
  rw [List.any_eq_false]
  intro n _
  by_cases hn : n = cls
  · subst hn
    simpa [Out.rise] using fun _ _ _ => hle
  · have hnone : (es.filter fun e => e.countClass == some n) = [] := List.filter_eq_nil_iff.2 fun e he => by
      rcases hcls e he with h | h <;> simp [h, Ne.symm hn]
    simp [Out.rise, hnone]
theorem Core.out_addOut_one {k : Core} {cls : Nat} (h : k.out cls < 2 ^ 63) : (k.addOut cls 1).out cls = k.out cls + 1 := by
  have hset : (k.addOut cls 1).csr (csrOUT + cls) = wordN ((k.out cls : Int) + 1).toNat := (Core.csr_setCsr ..).trans (if_pos rfl)
  rw [Core.out, hset, wordN, BitVec.toNat_ofNat]
  omega

/-! The core of an issue whose execution step was an access. -/

/-- Core b is core k but for its latches and what an access and the note of the issue leave. -/
structure Entered (k b : Core) : Prop where
  regs : b.regs = { k.regs with latch := b.regs.latch }
  flights : b.flights = k.flights
  seq : b.ctl.seq = k.ctl.seq
  mode : b.ctl.mode = k.ctl.mode
  mx : b.mx = k.mx
  wbuf : b.wbuf = k.wbuf
theorem Entered.csr {k b : Core} (h : Entered k b) (n : Nat) : b.csr n = k.csr n := by rw [Core.csr, h.regs]; rfl
theorem Entered.rs {k b : Core} (h : Entered k b) : b.regs.rs = k.regs.rs := by rw [h.regs]
theorem Entered.scalars {k b : Core} (h : Entered k b) : ScalarKept [] k b := fun n _ => by
  rw [Core.sreg, Core.stag, h.regs]
  exact ⟨rfl, rfl⟩
theorem CommitsFrom.entered {i : Instr} {s s2 u : State} {x : Slot} {es : List Eff} {r : Waiting} (h : CommitsFrom i s s2 x es u r)
    (hq : Untouched (s.issuer i) (s2.core s.turn)) : Entered (s.issuer i) (u.core s.turn) := by
  obtain ⟨a, hnoted, hlatch⟩ := h.noted
  have hregs : (s2.core s.turn).regs = (s.issuer i).regs := by rw [hq]
  refine ⟨?_, ?_, ?_, ?_, ?_, ?_⟩ <;> rw [hlatch]
  · rw [hnoted.regs, hregs]
  · rw [hnoted.flights, hq]
  · rw [hnoted.seq, hq]
  · rw [hnoted.mode, hq]
  · rw [hnoted.kept.mx, hq]
  · rw [hnoted.kept.wbuf, hq]
/-- It stands behind its bundle. -/
theorem CommitsFrom.movedOn {i : Instr} {s s2 u : State} {x : Slot} {es : List Eff} {r : Waiting} (h : CommitsFrom i s s2 x es u r) {b : Core}
    (hb : b.ctl.mode = (s.issuer i).ctl.mode) : MovedOn (s.issuer i) (Core.settle r b) := by
  obtain ⟨hpc, hrep, hwait, hmode, _⟩ := Core.settle_spec r b
  exact ⟨hpc.trans h.next, hrep.trans h.rep, hwait, hmode.trans hb⟩
theorem ScalarKept.settle {k b : Core} {ds : List Nat} (h : ScalarKept ds k b) (r : Waiting) : ScalarKept ds k (Core.settle r b) := fun n hn =>
  have hregs := Core.settle_sreg r b n
  ⟨hregs.1.trans (h n hn).1, hregs.2.trans (h n hn).2⟩
/-- The one effect of a slot that is no engine's. -/
theorem State.slotDone_one {s : State} {c cyc n g : Nat} {e : Eff} (hn : n < 4) : s.slotDone c cyc [] (n, g, [e]) = e.apply c g cyc s := by
  simp [State.slotDone, State.afresh, applyAll, hn]
/-- The effects of a slot take place, and a C slot's operation takes an entry of its engine's queue (R301). -/
theorem State.slotDone_core (s : State) (c cyc n g : Nat) (es : List Eff) :
    (∃ q, (s.slotDone c cyc [] (n, g, es)).core c = { (applyAll c g cyc es s).core c with engq := q }) ∧
      OnlyCore c (applyAll c g cyc es s) (s.slotDone c cyc [] (n, g, es)) := by
  have hqueue : ∀ (e lo : Nat) (k : Core), ∃ q, k.enqueue e lo = { k with engq := q } := fun e lo k => by
    unfold Core.enqueue
    split <;> exact ⟨_, rfl⟩
  simp only [State.slotDone, State.afresh, List.isEmpty_nil, if_true]
  split
  · refine ⟨?_, .onCore ..⟩
    rw [State.core_onCore, if_pos rfl]
    exact hqueue ..
  · exact ⟨⟨_, rfl⟩, .refl ..⟩

/-- What an issue leaves that has read memory and has one more load in flight (R117, R360). -/
structure LoadsLater (i : Instr) (s s2 : State) (w : Flying) (src : List (Nat × Nat × Nat)) (t : State) : Prop where
  only : OnlyCore s.turn ((s.prepared i).confirmed s.turn s2) t
  moved : MovedOn (s.issuer i) (t.core s.turn)
  scalars : ScalarKept [] (s.issuer i) (t.core s.turn)
  rs : (t.core s.turn).regs.rs = (s.issuer i).regs.rs
  wbuf : (t.core s.turn).wbuf = (s.issuer i).wbuf
  out : (t.core s.turn).out 0 = (s.issuer i).out 0 + 1
  flights : (t.core s.turn).flights = (s.issuer i).flights ++ [{ id := (s.issuer i).ctl.seq, guard := guardOf i, what := w, src := src }]
theorem CommitsFrom.loads {i : Instr} {s s2 u : State} {x : Slot} {e : Eff} {r : Waiting} (h : CommitsFrom i s s2 x [e] u r)
    (hq : Untouched (s.issuer i) (s2.core s.turn)) {w : Flying} {src : List (Nat × Nat × Nat)}
    (he : ∀ cyc, e.apply s.turn (guardOf i) cyc u = u.onCore s.turn fun k => (k.launch (guardOf i) w src).addOut 0 1)
    (hout : (s.issuer i).out 0 < 256) : ∃ t, exec i s = .next t ∧ LoadsLater i s s2 w src t := by
  have hentered := h.entered hq
  obtain ⟨⟨q, hcore⟩, honly⟩ := u.slotDone_core s.turn ((s.prepared i).cycleOf s.turn) x.ix (guardOf i) [e]
  have happly : applyAll s.turn (guardOf i) ((s.prepared i).cycleOf s.turn) [e] u =
      u.onCore s.turn fun k => (k.launch (guardOf i) w src).addOut 0 1 := he _
  rw [happly] at hcore honly
  rw [State.core_onCore, if_pos rfl] at hcore
  set b := ((u.core s.turn).launch (guardOf i) w src).addOut 0 1 with hb
  have hscalars : ScalarKept [] (s.issuer i) { b with engq := q } := hentered.scalars.trans fun _ _ => ⟨rfl, rfl⟩
  have hcount : ((u.core s.turn).launch (guardOf i) w src).out 0 = (s.issuer i).out 0 := congrArg BitVec.toNat (hentered.csr (csrOUT + 0))
  obtain ⟨_, _, _, _, _, _, _, _, _, _, _, hflights, _⟩ := Core.settle_spec r { b with engq := q }
  have hkept := CoreKept.settle r { b with engq := q }
  refine ⟨_, h.commits, ?_⟩
  constructor <;> try rw [State.core_onCore, if_pos rfl, hcore]
  case only => exact (h.only.trans (.onCore ..)).trans (honly.trans (.onCore ..))
  case moved => exact h.movedOn hentered.mode
  case scalars => exact hscalars.settle r
  case rs => exact hkept.rs.trans hentered.rs
  case wbuf => exact hkept.wbuf.trans hentered.wbuf
  case out =>
    rw [Core.out, Core.settle_csr, ← hcount]
    show b.out 0 = _
    exact Core.out_addOut_one (hcount.trans_lt (hout.trans (by decide)))
  case flights =>
    rw [hflights, ← hentered.flights, ← hentered.seq]
    rfl

/-! `LDS`. -/

theorem allLocal_iff (c : Nat) (ps : List (Nat × Nat × Page)) : (remotePieces c ps).isEmpty = true ↔ allLocal c ps := by
  simp [remotePieces, allLocal, List.filter_eq_nil_iff]
theorem overlay_nil (c va : Nat) (ps : List (Nat × Nat × Page)) (v : Nat) : overlay c [] va ps v = v := by
  unfold overlay
  exact List.foldlRecOn _ _ (motive := fun a => a = v) rfl fun a ha _ _ => ha
theorem State.loadFor_alone (s : State) {x : Ctx} (hx : x.earlier = []) (va n : Nat) (ps : List (Nat × Nat × Page)) (by_ na : Bool) :
    s.loadFor x va n ps by_ na = s.loadValue x.c va n ps by_ na := by
  simp only [State.loadFor, hx, overlay_nil]
/-- A load of the core's own scratchpad takes at most free values (R252). -/
theorem State.readPieces_local {s : State} {c va : Nat} {ps : List (Nat × Nat × Page)} (h : allLocal c ps) (by_ na : Bool) :
    (s.readPieces c va ps by_ na).2 = { s with freeCtr := (s.readPieces c va ps by_ na).2.freeCtr } := by
  unfold State.readPieces
  refine List.foldlRecOn ps _ (motive := fun p : Nat × State => p.2 = { s with freeCtr := p.2.freeCtr }) rfl fun p hp q hq => ?_
  have hlocal := h q hq
  unfold isLocal at hlocal
  split at hlocal
  · next d swz o hplace =>
    simp only [State.pageRead, hplace]
    rw [State.spadRead_free, hp]
  · cases hlocal

/-- The effects of a load from elsewhere than the core's own scratchpad. -/
theorem loadEffs_remote {c : Nat} {ps : List (Nat × Nat × Page)} (h : ¬allLocal c ps) (ea : Nat) (sd : BitVec 6) (v : Word) :
    loadEffs c ea sd v ps = [.load (.sreg sd.toNat) v.toNat (sourcesOf c ea ps)] := if_neg fun hno => h ((allLocal_iff c ps).1 hno)
theorem loadEffs_local {c : Nat} {ps : List (Nat × Nat × Page)} (h : allLocal c ps) (ea : Nat) (sd : BitVec 6) (v : Word) :
    loadEffs c ea sd v ps = [.sreg sd.toNat v 1] := if_pos ((allLocal_iff c ps).2 h)

/-- The execution step of `LDS`, alone in its bundle. -/
theorem lds_executes {h : Head} {f : SI} {s s2 : State} {ps : List (Nat × Nat × Page)}
    (hea : scalarEa (s.issuer (.lds h f)) f.sa f % sizeBytes f = 0)
    (hreach : (s.prepared (.lds h f)).reach s.turn (scalarEa (s.issuer (.lds h f)) f.sa f) (sizeBytes f) .read (sizeCode f) .read = .ok (ps, s2)) :
    let v := s2.loadValue s.turn (scalarEa (s.issuer (.lds h f)) f.sa f) (sizeBytes f) ps false false
    ExecutesAlone (.lds h f) s [f.sa.toNat]
      (.ok v.2 { effs := loadEffs s.turn (scalarEa (s.issuer (.lds h f)) f.sa f) f.sd (extended f v.1) ps }) := by
  intro v ctx hctx
  have haddr : scalarAddr ((s.prepared (.lds h f)).core s.turn) ctx ((s.issuer (.lds h f)).sreg f.sa.toNat) f =
      scalarEa (s.issuer (.lds h f)) f.sa f := scalarAddr_sole hctx _ f f.sa
  have hbit : bit f.fn.toNat 1 = true ↔ f.fn.toNat / 2 % 2 = 1 := by simp [bit, Nat.shiftRight_eq_div_pow]
  simp only [slotOp, opLds, List.map_cons, List.map_nil, val_sreg, hctx.core, haddr, sizeBits]
  have hbytes : 2 ^ sizeCode f = sizeBytes f := rfl
  simp only [hbytes]
  rw [if_neg (not_not.2 hea), hreach]
  simp only [State.loadFor_alone _ hctx.alone, hctx.core, hbit]
  rfl

/-- What issues of the S slot and enters claims or reads memory meets what `exec_commits` asks. -/
theorem ReadsScalars.commits {i : Instr} {l : List Nat} {s s2 : State} {es : List Eff} (hi : ReadsScalars i l) (hc : s.clears i = true)
    (ht : (slotOp i).transfer = false) (hb : ExecutesAlone i s l (.ok s2 { effs := es }))
    (hv : (s.issuer i).overLimit [{ effs := es }] = false) (hp : ∀ e ∈ es, e.plain = true) : ∃ u r, CommitsFrom i s s2 .s es u r := by
  obtain ⟨w, he⟩ := hi.inS hc
  obtain ⟨hsrc, hread, hheads⟩ := State.scalar_readable (s := s) he hi.srcs
  have hopc : bits w.toNat 63 56 ≠ 0x58 ∧ bits w.toNat 63 56 ≠ 0x59 := by
    obtain ⟨h, o, p, b, he', ho⟩ := hi.word
    obtain ⟨-, rfl⟩ := (Prod.mk.injEq ..).mp (Option.some.inj (he.symm.trans he'))
    rw [opcode_pack]
    constructor <;> rintro h58 <;> rw [h58] at ho <;> simp [opcodeClass] at ho
  exact exec_commits hc he hi.nop ht hi.pre hread hheads hopc (hsrc ▸ hb _ ⟨rfl, rfl, rfl, rfl⟩) hv hp

theorem lds_local {h : Head} {f : SI} {s s2 : State} {ps : List (Nat × Nat × Page)} (hc : s.clears (.lds h f) = true)
    (hea : scalarEa (s.issuer (.lds h f)) f.sa f % sizeBytes f = 0)
    (hreach : (s.prepared (.lds h f)).reach s.turn (scalarEa (s.issuer (.lds h f)) f.sa f) (sizeBytes f) .read (sizeCode f) .read = .ok (ps, s2))
    (hlocal : allLocal s.turn ps) :
    let c := s.turn
    let k := s.issuer (.lds h f)
    let v := s2.loadValue c (scalarEa k f.sa f) (sizeBytes f) ps false false
    ∃ t, exec (.lds h f) s = .next t ∧ OnlyCore c ((s.prepared (.lds h f)).confirmed c v.2) t ∧ CoreKept (v.2.core c) (t.core c) ∧
      MovedOn k (t.core c) ∧ ScalarKept [f.sd.toNat] k (t.core c) ∧ Holds (t.core c) f.sd.toNat (extended f v.1) (guardOf (.lds h f)) := by
  intro c k v
  have hbody := lds_executes hea hreach
  simp only [loadEffs_local hlocal] at hbody
  obtain ⟨u, r, hcommits⟩ := (readsScalars_lds h f).commits hc rfl hbody (Core.overLimit_none (by simp [Eff.countClass])) (by simp [Eff.plain])
  have hq : Untouched k (v.2.core c) := by
    have hclaims : s2.core c = k := by rw [State.core, State.reach_read hreach]; rfl
    exact hclaims ▸ State.loadValue_quiet s2 c _ _ ps false false c
  have hentered := hcommits.entered hq
  obtain ⟨a, hnoted, hlatch⟩ := hcommits.noted
  obtain ⟨hholds, hkept⟩ := (u.core c).writeS_holds f.sd.toNat (extended f v.1) (guardOf (.lds h f))
  refine ⟨_, hcommits.commits, ?_⟩
  rw [State.slotDone_one (by decide)]
  refine ⟨hcommits.only.trans ((OnlyCore.onCore ..).trans (.onCore ..)), ?_⟩
  simp only [Eff.apply, le_refl, if_true, State.core_onCore, c]
  refine ⟨((hnoted.kept.trans hlatch.kept).trans (.writeS ..)).trans (.settle ..), hcommits.movedOn ?_, ScalarKept.settle ?_ r, hholds.settle r⟩
  · rw [Core.ctl_writeS, hentered.mode]
  · exact ScalarKept.trans (fun n _ => hentered.scalars n (by simp)) hkept

theorem lds_remote {h : Head} {f : SI} {s s2 : State} {ps : List (Nat × Nat × Page)} (hc : s.clears (.lds h f) = true)
    (hea : scalarEa (s.issuer (.lds h f)) f.sa f % sizeBytes f = 0)
    (hreach : (s.prepared (.lds h f)).reach s.turn (scalarEa (s.issuer (.lds h f)) f.sa f) (sizeBytes f) .read (sizeCode f) .read = .ok (ps, s2))
    (hremote : ¬allLocal s.turn ps) (hout : (s.issuer (.lds h f)).out 0 < 256) :
    let c := s.turn
    let k := s.issuer (.lds h f)
    let ea := scalarEa k f.sa f
    let v := s2.loadValue c ea (sizeBytes f) ps false false
    ∃ t, exec (.lds h f) s = .next t ∧ OnlyCore c ((s.prepared (.lds h f)).confirmed c v.2) t ∧
      MovedOn k (t.core c) ∧ ScalarKept [] k (t.core c) ∧ (t.core c).out 0 = k.out 0 + 1 ∧
      (t.core c).flights = k.flights ++
        [{ id := k.ctl.seq, guard := guardOf (.lds h f), what := .load (.sreg f.sd.toNat) (extended f v.1).toNat,
           src := ps.map fun q => (servedPa c q.2.2, q.2.1, q.1 - ea) }] := by
  intro c k ea v
  have hbody := lds_executes hea hreach
  simp only [loadEffs_remote hremote] at hbody
  obtain ⟨u, r, hcommits⟩ := (readsScalars_lds h f).commits hc rfl hbody
    (Core.overLimit_counted (cls := 0) (by simp [Eff.countClass]) (by simpa [Eff.countClass, outLimit] using hout)) (by simp [Eff.plain])
  have hq : Untouched k (v.2.core c) := by
    have hclaims : s2.core c = k := by rw [State.core, State.reach_read hreach]; rfl
    exact hclaims ▸ State.loadValue_quiet s2 c _ _ ps false false c
  obtain ⟨t, hexec, ht⟩ := hcommits.loads hq (fun _ => rfl) hout
  exact ⟨t, hexec, ht.only, ht.moved, ht.scalars, ht.out, ht.flights⟩

/-- Where no copy writes memory any more, a local load takes at most free values. -/
theorem State.loadValue_local {s : State} (hdone : s.copiesDone) {c va n : Nat} {ps : List (Nat × Nat × Page)} (h : allLocal c ps) (by_ na : Bool) :
    (s.loadValue c va n ps by_ na).2 = { s with freeCtr := (s.loadValue c va n ps by_ na).2.freeCtr } := by
  rw [State.loadValue_eq, State.copyMix_done hdone, ite_self]
  exact State.readPieces_local h ..
/-- The machine that a local load comes to, where no copy writes memory any more. -/
theorem lds_claims {h : Head} {f : SI} {s s2 : State} {ps : List (Nat × Nat × Page)} (hc : s.clears (.lds h f) = true)
    (hreach : (s.prepared (.lds h f)).reach s.turn (scalarEa (s.issuer (.lds h f)) f.sa f) (sizeBytes f) .read (sizeCode f) .read = .ok (ps, s2))
    (hlocal : allLocal s.turn ps) (hdone : s.copiesDone) :
    let v := s2.loadValue s.turn (scalarEa (s.issuer (.lds h f)) f.sa f) (sizeBytes f) ps false false
    (v.2.core s.turn = s.issuer (.lds h f)) ∧
      ∀ t, OnlyCore s.turn ((s.prepared (.lds h f)).confirmed s.turn v.2) t → OnlyCoreAndClaims s.turn (s.prepared (.lds h f)) t := by
  intro v
  have hclaims := State.reach_read hreach
  have hdone2 : s2.copiesDone := by
    rw [State.copiesDone, hclaims]
    exact (readsScalars_lds h f).prepared_eq hc ▸ State.landed_copiesDone hdone
  have hv : v.2 = { s2 with freeCtr := v.2.freeCtr } := State.loadValue_local hdone2 hlocal ..
  have hcores : v.2.cores = (s.prepared (.lds h f)).cores := by rw [hv, hclaims]
  refine ⟨by rw [State.core, hcores]; rfl, fun t ht => ⟨?_, fun d hd => ?_⟩⟩
  · rw [ht.rest, State.confirmed, State.onRecords_eq, hv, hclaims]
  · rw [ht.others d hd, State.confirmed, State.core_onRecords, State.core, State.core, hcores]

theorem scalarLoads : ScalarLoads := by
  intro h f s ps s2 hc c k ea n hea hreach v
  refine ⟨fun hlocal => ?_, fun hremote hout => lds_remote hc hea hreach hremote hout⟩
  obtain ⟨t, hexec, honly, hkept, hmoved, hscalars, hholds⟩ := lds_local hc hea hreach hlocal
  refine ⟨t, hexec, honly, hkept, hmoved, hscalars, hholds, fun hdone => ?_⟩
  obtain ⟨hcore, hclaims⟩ := lds_claims hc hreach hlocal hdone
  exact ⟨hclaims t honly, by rwa [← show v.2.core c = k from hcore]⟩

/-- Settles O4: the execution step of `LDS` reads the value and gives it as one effect, which delivers it or sets it in flight; what a
local load reads are the cells of the scratchpad, of which no view is written and none a copy still writes. -/
theorem loads : Obligations.Loads := ⟨scalarLoads, localLoadReadsBytes⟩

end Sys2Proof.Machine
end

section
/-! SUPPORT. What a store leaves where its bytes go: in a scratchpad through a view, at the home, and in a first-level line (R169, R249,
R252, R253). -/
namespace Sys2Proof.Machine
open Sys2Proof.Claims

/-! Cells of memory, one after the other. -/

theorem Memory.writesCells (m : List Host.Cell) (cs : List (Nat × Byte)) : WritesCells m (Memory.writeCells m cs) cs := fun a => by
  induction cs using List.reverseRecOn with
  | nil => rfl
  | append_singleton r c ih =>
    rw [Memory.writeCells_append, List.reverse_append]
    show Memory.byte (Memory.setByte _ c.1 c.2) a = _
    rw [Memory.byte_setByte]
    simp only [List.reverse_cons, List.reverse_nil, List.nil_append, List.cons_append, List.find?_cons]
    by_cases h : a = c.1
    · simp [h]
    · rw [if_neg h, ih]
      have hne : (c.1 == a) = false := by simpa using Ne.symm h
      rw [hne]

theorem byteOf_eq (x j : Nat) : byteOf x j = BitVec.ofNat 8 (x / 256 ^ j) := by
  rw [byteOf, Nat.shiftRight_eq_div_pow, pow_mul]
  rfl
theorem byteOf_mod {x n j : Nat} (h : j < n) : byteOf (x % 2 ^ (8 * n)) j = byteOf x j := by
  refine BitVec.eq_of_toNat_eq ?_
  rw [byteOf, byteOf, BitVec.toNat_ofNat, BitVec.toNat_ofNat]
  refine Nat.eq_of_testBit_eq fun i => ?_
  simp only [Nat.testBit_mod_two_pow, Nat.testBit_shiftRight]
  by_cases hi : i < 8
  · have : 8 * j + i < 8 * n := by omega
    simp [hi, this]
  · simp [hi]
/-- The cells that a store of n bytes of a register names (R4). -/
theorem cellsOf_stored (pa n v : Nat) : cellsOf pa n (v % 2 ^ (8 * n)) = (List.range n).map fun j => (pa + j, BitVec.ofNat 8 (v / 256 ^ j)) := by
  refine List.map_congr_left fun j hj => ?_
  rw [byteOf_mod (List.mem_range.1 hj), byteOf_eq]
theorem cellsOf_cons {n : Nat} (hn : 0 < n) (pa v : Nat) : ∃ r, cellsOf pa n v = (pa, byteOf v 0) :: r := by
  obtain ⟨m, rfl⟩ := Nat.exists_eq_succ_of_ne_zero hn.ne'
  exact ⟨_, by rw [cellsOf, List.range_succ_eq_map, List.map_cons, Nat.add_zero]⟩

/-! The bytes of a write at its home. -/

/-- Cells by storage address, none of the presented aperture. -/
def NoAperture (cs : List (Nat × Byte)) : Prop := ∀ q ∈ cs, ∀ a, placeOf q.1 ≠ some (.aperture, a)
theorem State.homeWrite_mem (s : State) {cs : List (Nat × Byte)} (h : NoAperture cs) : (s.homeWrite cs).mem = Memory.writeCells s.mem cs := by
  unfold State.homeWrite
  split
  · rfl
  · next c r =>
    split
    · next a hp => exact absurd hp (h c (List.mem_cons_self ..) a)
    · rfl
    · rfl
theorem byLine_flatten (cs : List (Nat × Byte)) : (byLine cs).flatten = cs ∧ ∀ g ∈ byLine cs, g ≠ [] := by
  induction cs with
  | nil => exact ⟨rfl, fun g hg => absurd hg List.not_mem_nil⟩
  | cons c r ih =>
    obtain ⟨hflat, hne⟩ := ih
    unfold byLine
    split
    · next h =>
      rw [h] at hflat
      simp only [List.flatten_nil] at hflat
      simp [← hflat]
    · next g gs h =>
      rw [h] at hflat hne
      split
      · refine ⟨by rw [List.flatten_cons, List.cons_append, ← List.flatten_cons, hflat], fun x hx => ?_⟩
        rcases List.mem_cons.1 hx with rfl | hx
        · exact List.cons_ne_nil _ _
        · exact hne x (List.mem_cons_of_mem _ hx)
      · refine ⟨by rw [List.flatten_cons, hflat]; rfl, fun x hx => ?_⟩
        rcases List.mem_cons.1 hx with rfl | hx
        · exact List.cons_ne_nil _ _
        · exact hne x hx
/-- Without a first-level line a store that does not allocate one goes to its home. -/
theorem State.lineWrite_home {s : State} {c : Nat} (h : (s.core c).l1 = []) (evp : Nat) (lt : Option Nat) (cs : List (Nat × Byte)) :
    s.lineWrite c 0 evp lt cs = s.homeWrite cs := by
  unfold State.lineWrite
  split
  · rfl
  · simp only [h]
    rfl
theorem State.linesWrite_home (gs : List (List (Nat × Byte))) {s : State} {c : Nat} (h : (s.core c).l1 = []) (hg : ∀ g ∈ gs, NoAperture g)
    (evp : Nat) (lt : Option Nat) : (gs.foldl (fun t g => t.lineWrite c 0 evp lt g) s).mem = Memory.writeCells s.mem gs.flatten := by
  induction gs generalizing s with
  | nil => rfl
  | cons g gs ih =>
    have hcore : (s.homeWrite g).core c = s.core c := by rw [State.core, State.homeWrite_memOnly s g]; rfl
    rw [List.foldl_cons, State.lineWrite_home h, ih (hcore ▸ h) fun x hx => hg x (List.mem_cons_of_mem _ hx),
      State.homeWrite_mem s (hg g (List.mem_cons_self ..)), List.flatten_cons, Memory.writeCells_append]

/-! Only the storing core changes, and of it only what an access may. -/

theorem State.lineWrite_accessed (s : State) (c mode evp : Nat) (lt : Option Nat) (cs : List (Nat × Byte)) :
    Accessed c s (s.lineWrite c mode evp lt cs) := by
  have hhome : ∀ u : State, Accessed c u (u.homeWrite cs) := fun u => (u.homeWrite_memOnly cs).accessed
  have hinto : ∀ (u : State) (x : L1Line), Accessed c u (u.onCore c fun k => { k with l1 := l1Touch k.l1 x }) := fun u x => .onCore (by intro k; rfl) u
  have hdrop : ∀ f, Accessed c s ((s.l1Drop c false f).homeWrite cs) := fun f => (s.l1Drop_accessed c false f).trans (hhome _)
  have hfill := fun a => (s.l1Miss_accessed c).trans (State.l1Fill_accessed (s.l1Miss c) c a evp lt)
  unfold State.lineWrite
  split
  · exact .refl c s
  · dsimp only
    split
    · split
      · exact hdrop _
      · exact (hinto s _).trans (hhome _)
    · split
      · exact hdrop _
      · exact hinto s _
    · exact hhome s
    · exact hhome s
    · exact (hinto s _).trans (hhome _)
    · split
      · exact hinto s _
      · exact (hinto s _).trans (hhome _)
    · exact hinto s _
    · exact hinto s _
    · split
      · exact (hfill _).trans (hinto ..)
      · exact (hfill _).trans (hhome _)
    · exact (s.l1Miss_accessed c).trans (hhome _)
    · exact hinto s _
theorem State.storeCells_accessed (s : State) (c mode evp : Nat) (lt : Option Nat) (cs : List (Nat × Byte)) :
    Accessed c s (s.storeCells c mode evp lt cs) := by
  unfold State.storeCells
  split
  · exact .refl c s
  · split
    · exact State.viewWrite_accessed ..
    · exact (s.l1Drop_accessed ..).trans (State.homeWriteAll_memOnly ..).accessed
    · exact .foldl (fun u g => u.lineWrite_accessed ..) _ s

/-! The storage cells of a scratchpad. -/

theorem unswizzle_lt {o : Nat} (h : o < 0x60000) : unswizzle o < 0x60000 := by
  simp only [unswizzle]
  omega
/-- A granule of 16 bytes moves whole (R250). -/
theorem unswizzle_add {o j : Nat} (h : o % 16 + j < 16) : unswizzle (o + j) = unswizzle o + j := by
  have hg : (o + j) / 16 = o / 16 := by omega
  simp only [unswizzle, hg]
  omega
theorem placeOf_spad {d o : Nat} (swz : Bool) (hd : d < 1024) (ho : o < 0x60000) :
    placeOf (spadBase d + (if swz then 0x20000000 else 0) + o) = some (.spad d swz, spadBase d + if swz then unswizzle o else o) := by
  cases swz with
  | false => simpa using (placeOf_pad hd (by omega : o < 0x80000)).trans (if_pos ho)
  | true =>
    set pa := spadBase d + 0x20000000 + o with hpa
    have h1 : ¬pa < 4 * dieBytes := by simp only [hpa, spadBase, dieBytes]; omega
    have h2 : ¬(0x400000000000 ≤ pa ∧ pa < 0x600000000000) := by simp only [hpa, spadBase]; omega
    have h3 : 0x700000000000 ≤ pa ∧ pa < 0x700040000000 := by simp only [hpa, spadBase]; omega
    have h4 : (pa - 0x700000000000) % 0x20000000 = d * 0x80000 + o := by simp only [hpa, spadBase]; omega
    have h5 : (d * 0x80000 + o) % 0x80000 = o ∧ (d * 0x80000 + o) / 0x80000 = d := by omega
    have h6 : 0x700020000000 ≤ pa := by simp only [hpa, spadBase]; omega
    simp only [if_true, ← hpa]
    simp only [placeOf, if_neg h1, if_neg h2, if_pos h3, h4, h5, h6, decide_true, if_true, if_pos ho]
theorem placeOf_spad_inv {pa d a : Nat} {swz : Bool} (h : placeOf pa = some (.spad d swz, a)) :
    ∃ o, o < 0x60000 ∧ d < 1024 ∧ pa = spadBase d + (if swz then 0x20000000 else 0) + o ∧ a = spadBase d + if swz then unswizzle o else o := by
  unfold placeOf at h
  dsimp only at h
  split_ifs at h with h1 h2 h3 h4 h5 <;>
    simp only [Option.some.injEq, Prod.mk.injEq, Place.spad.injEq, reduceCtorEq, false_and] at h
  all_goals
    obtain ⟨⟨rfl, rfl⟩, rfl⟩ := h
    refine ⟨(pa - 0x700000000000) % 0x20000000 % 0x80000, h4, ?_, ?_, ?_⟩
    · omega
    · simp only [h5, if_true, spadBase, Bool.false_eq_true, if_false]
      simp only [decide_eq_true_eq] at h5
      omega
    · simp only [h5, if_true, Bool.false_eq_true, if_false]
/-- Within a granule of 16 bytes the cells of a scratchpad are consecutive, through either view. -/
theorem placeOf_granule {pa d a j : Nat} {swz : Bool} (h : placeOf pa = some (.spad d swz, a)) (hj : pa % 16 + j < 16) :
    placeOf (pa + j) = some (.spad d swz, a + j) := by
  obtain ⟨o, ho, hd, rfl, rfl⟩ := placeOf_spad_inv h
  have hrow : o % 16 + j < 16 := by
    simp only [spadBase] at hj
    split at hj <;> omega
  have hin : o + j < 0x60000 := by omega
  rw [Nat.add_assoc, placeOf_spad swz hd hin, unswizzle_add hrow]
  split <;> rw [Nat.add_assoc]
/-- A scratchpad's storage cells are named by its linear view. -/
theorem placeOf_storage {pa d a : Nat} {swz : Bool} (h : placeOf pa = some (.spad d swz, a)) : placeOf a = some (.spad d false, a) := by
  obtain ⟨o, ho, hd, rfl, rfl⟩ := placeOf_spad_inv h
  split
  · simpa using placeOf_spad false hd (unswizzle_lt ho)
  · simpa using placeOf_spad false hd ho

/-! What `storeCells` writes. -/

/-- The storage cells of cells by physical address. -/
def storageCells (cs : List (Nat × Byte)) : List (Nat × Byte) := cs.filterMap fun q => (placeOf q.1).map fun x => (x.2, q.2)

theorem State.viewWrite_mem {s : State} {c : Nat} {swz : Bool} (h : (s.core c).otherView swz = []) {st : List (Nat × Byte)} (hst : NoAperture st) :
    (s.viewWrite c swz st).mem = Memory.writeCells s.mem st := by
  have hcross : s.crossWrite c swz st = (st, s) := by
    unfold State.crossWrite
    rw [h]
    simp [viewWrote, assoc]
  unfold State.viewWrite
  rw [hcross]
  exact State.homeWrite_mem _ hst
theorem storageCells_noAperture {cs : List (Nat × Byte)} (h : ∀ q ∈ cs, ∃ d swz a, placeOf q.1 = some (.spad d swz, a)) :
    NoAperture (storageCells cs) := fun q hq a ha => by
  obtain ⟨y, hy, hmap⟩ := List.mem_filterMap.1 hq
  obtain ⟨d, swz, b, hp⟩ := h y hy
  rw [hp] at hmap
  obtain rfl := Option.some.inj hmap
  rw [placeOf_storage hp] at ha
  simp at ha
theorem mem_cellsOf {pa n v : Nat} {q : Nat × Byte} (h : q ∈ cellsOf pa n v) : ∃ j, j < n ∧ q = (pa + j, byteOf v j) := by
  obtain ⟨j, hj, rfl⟩ := List.mem_map.1 h
  exact ⟨j, List.mem_range.1 hj, rfl⟩
/-- A store through a view of a scratchpad writes its cells, where the core has written nothing through the other view. -/
theorem State.storeCells_spad {s : State} {c d pa n : Nat} {swz : Bool} (hp : ∀ j, j < n → ∃ o, placeOf (pa + j) = some (.spad d swz, o))
    (hn : 0 < n) (h : (s.core c).otherView swz = []) (mode evp : Nat) (lt : Option Nat) (v : Nat) :
    (s.storeCells c mode evp lt (cellsOf pa n v)).mem = Memory.writeCells s.mem (storageCells (cellsOf pa n v)) := by
  obtain ⟨o, ho⟩ := hp 0 hn
  obtain ⟨r, hr⟩ := cellsOf_cons hn pa v
  have hview : s.storeCells c mode evp lt (cellsOf pa n v) = s.viewWrite c swz (storageCells (cellsOf pa n v)) := by
    rw [hr]
    simp only [State.storeCells, show placeOf pa = some (.spad d swz, o) from ho]
    rfl
  rw [hview, State.viewWrite_mem h (storageCells_noAperture fun q hq => ?_)]
  obtain ⟨j, hj, rfl⟩ := mem_cellsOf hq
  obtain ⟨b, hb⟩ := hp j hj
  exact ⟨d, swz, b, hb⟩
/-- A store to memory outside scratchpads and aperture, of which the core holds no first-level line, writes its cells at their home. -/
theorem State.storeCells_home {s : State} {c pa n : Nat} {pl : Place} (hpl : pl = .hbm ∨ pl = .host ∨ pl = .pinned)
    (hp : ∀ j, j < n → ∃ o, placeOf (pa + j) = some (pl, o)) (hn : 0 < n) (h : (s.core c).l1 = []) (evp : Nat) (lt : Option Nat) (v : Nat) :
    (s.storeCells c 0 evp lt (cellsOf pa n v)).mem = Memory.writeCells s.mem (cellsOf pa n v) := by
  obtain ⟨o, ho⟩ := hp 0 hn
  obtain ⟨r, hr⟩ := cellsOf_cons hn pa v
  have hlines : s.storeCells c 0 evp lt (cellsOf pa n v) = (byLine (cellsOf pa n v)).foldl (fun t g => t.lineWrite c 0 evp lt g) s := by
    rw [hr]
    rcases hpl with rfl | rfl | rfl <;> simp only [State.storeCells, show placeOf pa = _ from ho]
  have hflat := (byLine_flatten (cellsOf pa n v)).1
  rw [hlines, State.linesWrite_home _ h (fun g hg q hq a ha => ?_), hflat]
  obtain ⟨j, hj, rfl⟩ := mem_cellsOf (hflat ▸ List.mem_flatten.2 ⟨g, hg, hq⟩)
  obtain ⟨b, hb⟩ := hp j hj
  rw [hb] at ha
  rcases hpl with rfl | rfl | rfl <;> simp at ha

end Sys2Proof.Machine
end

section
/-! SUPPORT. `STS` alone in its bundle: its store takes place at the commit, and one outside the core's own scratchpad is in flight
(R116, R117, R360). -/
namespace Sys2Proof.Machine
open Sys2Proof.Claims

/-! The checks of a store of one piece. -/

theorem State.noteAccess_accessed (s : State) (c pa n : Nat) (acc : Acc) : Accessed c s (s.noteAccess c pa n acc) := by
  unfold State.noteAccess
  split
  · exact .refl c s
  · next swz _ _ _ =>
    unfold State.noteGranules State.onView
    exact .onCore (by intro k; cases swz <;> rfl) s
  · exact .refl c s
theorem State.l1_noteAccess (s : State) (c pa n : Nat) (acc : Acc) : ((s.noteAccess c pa n acc).core c).l1 = (s.core c).l1 := by
  unfold State.noteAccess
  split
  · rfl
  · simp [State.noteGranules, State.onView]
  · rfl
/-- A write counts through its own view alone (R252). -/
theorem State.otherView_noteAccess (s : State) {c pa n d o : Nat} {swz : Bool} (h : placeOf pa = some (.spad d swz, o)) :
    ((s.noteAccess c pa n .write).core c).otherView swz = (s.core c).otherView swz := by
  simp only [State.noteAccess, h, State.noteGranules, State.onView, State.core_onCore, if_true]
  cases swz <;> rfl
theorem State.reach_one {s s2 : State} {c va n b m size : Nat} {k : AccessKind} {acc : Acc} {p : Page}
    (h : s.reach c va n k size acc = .ok ([(b, m, p)], s2)) : ∃ v, ClaimsOnly s v ∧ s2 = v.noteAccess c (servedPa c p) m acc := by
  have hone : s.checkPiece c b p (servedPa c p) m acc (accessFrs cCONFLICT b k size) = .ok s2 := State.reach_pages h
  unfold State.checkPiece at hone
  split at hone
  · cases hone
  · split at hone <;> cases hone
    next v hcheck => exact ⟨v, State.conflictCheck_claimsOnly hcheck, rfl⟩

/-! The effects of `STS`. -/

/-- The lines that a store of n bytes of one page meets, and the latch of the page (R204, R360). -/
def storeLines (c n : Nat) (p : Page) : List Nat :=
  ((List.range ((servedPa c p % 128 + n + 127) / 128)).map (servedPa c p / 128 + ·)).eraseDups
def pageLatches (c : Nat) (p : Page) : List Nat := match p.latch with | some l => [clusterOf c * 256 + l] | none => []
/-- What a store of one page outside the presented aperture does at its commit. -/
def oneStore (c ea n v : Nat) (p : Page) : List Eff :=
  .store (cellsOf (servedPa c p) n v) (storeMode p false false) p.evp p.latch ::
    ((if isLocal c (servedPa c p) then [] else [.sent (storeLines c n p) (isHost p.pa) (pageLatches c p) false]) ++ [.over ea n])
theorem storeEffs_one {c n : Nat} {p : Page} (hn : 0 < n) (hp : ∀ a, placeOf (servedPa c p) ≠ some (.aperture, a)) (ea v : Nat) :
    storeEffs c ea n v [(ea, n, p)] false false = oneStore c ea n v p := by
  obtain ⟨r, hr⟩ := cellsOf_cons hn (servedPa c p) v
  have hpresented : ∀ lt, (Eff.store (cellsOf (servedPa c p) n v) (storeMode p false false) p.evp lt).presented = [] := fun lt => by
    rw [hr]
    simp only [Eff.presented, List.head?_cons, Option.bind_some]
  have hmerge : ∀ e : Eff, e.presented = [] → mergePresented [e] = [e] := fun e he => by simp [mergePresented, he]
  have hone : ∀ a : Nat, [a].eraseDups = [a] := fun _ => rfl
  cases hlocal : isLocal c (servedPa c p) <;> cases hlatch : p.latch <;>
    simp [storeEffs, oneStore, remotePieces, hlocal, storeLines, pageLatches, latchesOf, hlatch, hmerge _ (hpresented _), hone]

/-- The execution step of `STS`, alone in its bundle. -/
theorem sts_executes {h : Head} {f : SI} {s s2 : State} {ps : List (Nat × Nat × Page)}
    (hea : scalarEa (s.issuer (.sts h f)) f.sa f % sizeBytes f = 0)
    (hreach : (s.prepared (.sts h f)).reach s.turn (scalarEa (s.issuer (.sts h f)) f.sa f) (sizeBytes f) .write (sizeCode f) .write = .ok (ps, s2)) :
    ExecutesAlone (.sts h f) s [f.sd.toNat, f.sa.toNat]
      (.ok s2
        { effs := storeEffs s.turn (scalarEa (s.issuer (.sts h f)) f.sa f) (sizeBytes f)
                    (((s.issuer (.sts h f)).sreg f.sd.toNat).toNat % 2 ^ (8 * sizeBytes f)) ps false false }) := by
  intro ctx hctx
  have haddr : scalarAddr ((s.prepared (.sts h f)).core s.turn) ctx ((s.issuer (.sts h f)).sreg f.sa.toNat) f =
      scalarEa (s.issuer (.sts h f)) f.sa f := scalarAddr_sole hctx _ f f.sa
  have hbase : ∀ v : SrcVal, val (v :: [{ val := ((s.issuer (.sts h f)).sreg f.sa.toNat).toNat, tag := (s.issuer (.sts h f)).stag f.sa.toNat }]) 1 =
    (s.issuer (.sts h f)).sreg f.sa.toNat := fun v => val_sreg _ _ []
  have hbytes : 2 ^ sizeCode f = sizeBytes f := rfl
  simp only [slotOp, opSts, List.map_cons, List.map_nil, val_sreg, hbase, hctx.core, haddr, sizeBits, hbytes]
  rw [if_neg (not_not.2 hea), hreach]

/-- The bytes that a core writes leave its unfinished copies alone, and nothing else changes. -/
theorem Eff.apply_over (a n c g cyc : Nat) (s : State) : ∃ l, (Eff.over a n).apply c g cyc s = s.setCore c { s.core c with copies := l } := by
  have hcore : ∀ (id : Nat) (bs : List Nat) (k : Core), ∃ l, s.overCells c id bs (k.overCopies a n) = { k with copies := l } := fun id bs k => by
    unfold State.overCells
    split <;> exact ⟨_, rfl⟩
  obtain ⟨l, hl⟩ := hcore ((s.core c).csr csrNEXTID).toNat (if (s.core c).copies.any fun y => y.joined then
    spadCells ((s.rangesOf c a n .write).flatMap fun r => (List.range r.2).map (r.1 + ·)) else []) (s.core c)
  exact ⟨l, congrArg (s.setCore c) hl⟩

theorem oneStore_plain (c ea n v : Nat) (p : Page) : ∀ e ∈ oneStore c ea n v p, e.plain = true := by
  intro e he
  unfold oneStore at he
  split at he <;> simp only [List.nil_append, List.cons_append, List.mem_cons, List.not_mem_nil, or_false] at he
  · rcases he with rfl | rfl <;> rfl
  · rcases he with rfl | rfl | rfl <;> rfl
theorem oneStore_limit {k : Core} {c n : Nat} {p : Page} (h : isLocal c (servedPa c p) = true ∨ k.out 1 < 256) (ea v : Nat) :
    k.overLimit [{ effs := oneStore c ea n v p }] = false := by
  unfold oneStore
  rcases h with hlocal | hout
  · rw [if_pos hlocal]
    exact Core.overLimit_none (by simp [Eff.countClass])
  · split
    · exact Core.overLimit_none (by simp [Eff.countClass])
    · exact Core.overLimit_counted (cls := 1) (by simp [Eff.countClass]) (by simpa [Eff.countClass, outLimit] using hout)
/-- A core has sent a store of n bytes of one page, where that is not its own scratchpad. -/
def Core.sends (k : Core) (c g n : Nat) (p : Page) : Core :=
  if isLocal c (servedPa c p) then k else (k.launch g (.store (storeLines c n p) (isHost p.pa) (pageLatches c p) false)).addOut 1 1
theorem OnlyCore.setCore (c : Nat) (s : State) (k : Core) : OnlyCore c s (s.setCore c k) := ⟨rfl, fun d hd => by simp [hd]⟩
theorem Eff.apply_sends (c g cyc n : Nat) (p : Page) (w : State) :
    let x := applyAll c g cyc (if isLocal c (servedPa c p) then [] else [.sent (storeLines c n p) (isHost p.pa) (pageLatches c p) false]) w
    x.core c = (w.core c).sends c g n p ∧ OnlyCore c w x := by
  unfold Core.sends
  split
  · exact ⟨rfl, .refl c w⟩
  · have hone : applyAll c g cyc [.sent (storeLines c n p) (isHost p.pa) (pageLatches c p) false] w =
        w.onCore c fun k => (k.launch g (.store (storeLines c n p) (isHost p.pa) (pageLatches c p) false)).addOut 1 1 := rfl
    dsimp only
    rw [hone]
    exact ⟨by rw [State.core_onCore, if_pos rfl], .onCore ..⟩
theorem oneStore_applied (c g cyc ea n v : Nat) (p : Page) (u : State) :
    let w := u.storeCells c (storeMode p false false) p.evp p.latch (cellsOf (servedPa c p) n v)
    ∃ l, ((applyAll c g cyc (oneStore c ea n v p) u).core c = { (w.core c).sends c g n p with copies := l }) ∧
      OnlyCore c w (applyAll c g cyc (oneStore c ea n v p) u) := by
  intro w
  obtain ⟨hcore, honly⟩ := Eff.apply_sends c g cyc n p w
  have hsteps : applyAll c g cyc (oneStore c ea n v p) u = (Eff.over ea n).apply c g cyc
      (applyAll c g cyc (if isLocal c (servedPa c p) then [] else [.sent (storeLines c n p) (isHost p.pa) (pageLatches c p) false]) w) := by
    rw [oneStore, ← List.singleton_append, applyAll_append, applyAll_append]
    rfl
  generalize applyAll c g cyc (if isLocal c (servedPa c p) then [] else _) w = x at *
  obtain ⟨l, hl⟩ := Eff.apply_over ea n c g cyc x
  rw [hsteps, hl]
  exact ⟨l, by simp [hcore], honly.trans (.setCore ..)⟩

theorem Entered.touched {k a b : Core} (h : Entered k a) (hb : Untouched a b) : Entered k b := by
  obtain ⟨hregs, hflights, hseq, hmode, hmx, hwbuf⟩ := h
  refine ⟨?_, ?_, ?_, ?_, ?_, ?_⟩ <;> rw [hb]
  all_goals assumption

/-! What the issue leaves. -/

theorem State.slotDone_lone {s : State} {c cyc n g : Nat} (hn : n < 4) (es : List Eff) : s.slotDone c cyc [] (n, g, es) = applyAll c g cyc es s := by
  simp [State.slotDone, State.afresh, hn]
theorem Core.sends_scalars (k : Core) (c g n : Nat) (p : Page) : ScalarKept [] k (k.sends c g n p) := by
  unfold Core.sends
  split
  · exact fun _ _ => ⟨rfl, rfl⟩
  · exact fun _ _ => ⟨rfl, rfl⟩
theorem Core.sends_l1 (k : Core) (c g n : Nat) (p : Page) : (k.sends c g n p).l1 = k.l1 := by
  unfold Core.sends
  split <;> rfl
theorem Core.sends_mode (k : Core) (c g n : Nat) (p : Page) : (k.sends c g n p).ctl.mode = k.ctl.mode := by
  unfold Core.sends
  split <;> rfl
theorem Core.sends_flights (k : Core) (c g n : Nat) (p : Page) : (k.sends c g n p).flights = k.flights ++
    if isLocal c (servedPa c p) then [] else
      [{ id := k.ctl.seq, guard := g, what := .store (storeLines c n p) (isHost p.pa) (pageLatches c p) false }] := by
  unfold Core.sends
  split
  · rw [List.append_nil]
  · rfl
theorem Core.sends_out {k : Core} (c g n : Nat) (p : Page) (h : k.out 1 < 256) :
    (k.sends c g n p).out 1 = k.out 1 + if isLocal c (servedPa c p) then 0 else 1 := by
  unfold Core.sends
  split
  · rfl
  · exact Core.out_addOut_one (show k.out 1 < 2 ^ 63 by omega)

/-- `STS` of n bytes at a page p has taken place: what its store has changed from machine u is all of memory and the first level that has
changed. -/
structure StoresFrom (i : Instr) (s : State) (n v : Nat) (p : Page) (u t : State) : Prop where
  moved : MovedOn (s.issuer i) (t.core s.turn)
  scalars : ScalarKept [] (s.issuer i) (t.core s.turn)
  others : ∀ d, d ≠ s.turn → (t.core d).unlogged = ((s.prepared i).core d).unlogged
  out : (s.issuer i).out 1 < 256 → (t.core s.turn).out 1 = (s.issuer i).out 1 + if isLocal s.turn (servedPa s.turn p) then 0 else 1
  csr : isLocal s.turn (servedPa s.turn p) = true → ∀ m, (t.core s.turn).csr m = (s.issuer i).csr m
  flights : (t.core s.turn).flights = (s.issuer i).flights ++ if isLocal s.turn (servedPa s.turn p) then [] else
    [{ id := (s.issuer i).ctl.seq, guard := guardOf i, what := .store (storeLines s.turn n p) (isHost p.pa) (pageLatches s.turn p) false }]
  mem : t.mem = (u.storeCells s.turn (storeMode p false false) p.evp p.latch (cellsOf (servedPa s.turn p) n v)).mem
  l1 : (t.core s.turn).l1 = ((u.storeCells s.turn (storeMode p false false) p.evp p.latch (cellsOf (servedPa s.turn p) n v)).core s.turn).l1
  memBefore : u.mem = (s.prepared i).mem
  l1Before : (u.core s.turn).l1 = (s.issuer i).l1
  viewBefore : ∀ d swz o, placeOf (servedPa s.turn p) = some (.spad d swz, o) → (u.core s.turn).otherView swz = (s.issuer i).otherView swz

/-- An issue that has entered a store's checks, and stores n bytes of one page. -/
theorem CommitsFrom.stores {i : Instr} {s v s2 u : State} {ea n m x : Nat} {p : Page} {r : Waiting} (hv : ClaimsOnly (s.prepared i) v)
    (hs2 : s2 = v.noteAccess s.turn (servedPa s.turn p) n .write) (h : CommitsFrom i s s2 .s (oneStore s.turn ea m x p) u r) :
    ∃ t, exec i s = .next t ∧ StoresFrom i s m x p u t := by
  have haccess : Accessed s.turn (s.prepared i) s2 := hv.accessed.trans (hs2 ▸ v.noteAccess_accessed ..)
  have hentered := h.entered haccess.own
  have hcore : v.core s.turn = s.issuer i := by rw [State.core, hv]; rfl
  obtain ⟨l, hown, honly⟩ := oneStore_applied s.turn (guardOf i) ((s.prepared i).cycleOf s.turn) ea m x p u
  have hstore := u.storeCells_accessed s.turn (storeMode p false false) p.evp p.latch (cellsOf (servedPa s.turn p) m x)
  have hcommits := h.commits
  rw [State.slotDone_lone (by decide)] at hcommits
  have hdone := hentered.touched hstore.own
  generalize hw : u.storeCells s.turn (storeMode p false false) p.evp p.latch (cellsOf (servedPa s.turn p) m x) = w at *
  generalize applyAll s.turn (guardOf i) ((s.prepared i).cycleOf s.turn) (oneStore s.turn ea m x p) u = y at *
  set b := (w.core s.turn).sends s.turn (guardOf i) m p with hb
  have hafter : (y.onCore s.turn (Core.settle r)).core s.turn = Core.settle r { b with copies := l } := by
    rw [State.core_onCore, if_pos rfl, hown]
  obtain ⟨_, _, _, _, _, _, _, _, _, _, _, hflights, _⟩ := Core.settle_spec r { b with copies := l }
  have hscalars : ScalarKept [] (s.issuer i) { b with copies := l } := (hdone.scalars.trans ((w.core s.turn).sends_scalars s.turn (guardOf i) m p)).of_regs rfl
  have hout : (w.core s.turn).out 1 = (s.issuer i).out 1 := congrArg BitVec.toNat (hdone.csr (csrOUT + 1))
  refine ⟨_, hcommits, ?_⟩
  constructor
  case moved => exact hafter ▸ h.movedOn ((Core.sends_mode ..).trans hdone.mode)
  case scalars => exact hafter ▸ hscalars.settle r
  case others =>
    intro d hd
    rw [State.core_onCore, if_neg hd, honly.others d hd, hstore.others d hd, h.only.others d hd, State.confirmed, State.core_onRecords,
      haccess.others d hd]
  case out =>
    intro hlow
    rw [hafter, Core.out, Core.settle_csr, ← hout]
    exact Core.sends_out _ _ _ _ (hout ▸ hlow)
  case csr =>
    intro hlocal j
    rw [hafter, Core.settle_csr, ← hdone.csr j, hb, Core.sends, if_pos hlocal]
    rfl
  case flights =>
    rw [hafter, hflights, ← hdone.flights, ← hdone.seq]
    exact Core.sends_flights ..
  case mem => exact hw ▸ (OnlyCore.onCore ..).mem.trans honly.mem
  case l1 =>
    rw [hw, hafter, (CoreKept.settle r { b with copies := l }).l1]
    exact Core.sends_l1 ..
  case memBefore =>
    rw [h.only.mem, State.confirmed, State.onRecords_eq]
    show s2.mem = _
    rw [hs2, State.mem_noteAccess, hv]
  case l1Before =>
    obtain ⟨a, hnoted, hlatch⟩ := h.noted
    rw [hlatch]
    show a.l1 = _
    rw [hnoted.kept.l1, hs2, State.l1_noteAccess, hcore]
  case viewBefore =>
    intro d swz o hp
    rw [h.views, hs2, State.otherView_noteAccess v hp, hcore]

theorem sts_commits {h : Head} {f : SI} {s s2 : State} {p : Page} (hc : s.clears (.sts h f) = true)
    (hea : scalarEa (s.issuer (.sts h f)) f.sa f % sizeBytes f = 0)
    (hreach : (s.prepared (.sts h f)).reach s.turn (scalarEa (s.issuer (.sts h f)) f.sa f) (sizeBytes f) .write (sizeCode f) .write =
      .ok ([(scalarEa (s.issuer (.sts h f)) f.sa f, sizeBytes f, p)], s2))
    (hp : ∀ a, placeOf (servedPa s.turn p) ≠ some (.aperture, a))
    (hout : isLocal s.turn (servedPa s.turn p) = true ∨ (s.issuer (.sts h f)).out 1 < 256) :
    ∃ u t, exec (.sts h f) s = .next t ∧
      StoresFrom (.sts h f) s (sizeBytes f) (((s.issuer (.sts h f)).sreg f.sd.toNat).toNat % 2 ^ (8 * sizeBytes f)) p u t := by
  have hn : 0 < sizeBytes f := Nat.two_pow_pos _
  have hbody := sts_executes hea hreach
  rw [storeEffs_one hn hp] at hbody
  obtain ⟨u, r, hcommits⟩ := (readsScalars_sts h f).commits hc rfl hbody (oneStore_limit hout _ _) (oneStore_plain _ _ _ _ _)
  obtain ⟨v, hv, hs2⟩ := State.reach_one hreach
  obtain ⟨t, ht⟩ := hcommits.stores hv hs2
  exact ⟨u, t, ht⟩

end Sys2Proof.Machine
end

section
/-! SUPPORT. What `STS` stores: in the core's own scratchpad, at the home, and in a first-level line (R116, R117, R169, R249, R253). -/
namespace Sys2Proof.Machine
open Sys2Proof.Claims

theorem sizeBytes_pos (f : SI) : 0 < sizeBytes f := Nat.two_pow_pos _
theorem ReadsScalars.others {i : Instr} {l : List Nat} {s t : State} (hi : ReadsScalars i l) (hc : s.clears i = true)
    (h : ∀ d, d ≠ s.turn → (t.core d).unlogged = ((s.prepared i).core d).unlogged) :
    ∀ d, d ≠ s.turn → (t.core d).unlogged = (s.landed.core d).unlogged := fun d hd => hi.prepared_eq hc ▸ h d hd
theorem Core.otherView_unwritten {k : Core} (hl : k.ctl.writtenLin = []) (hs : k.ctl.writtenSwz = []) (swz : Bool) : k.otherView swz = [] := by
  cases swz
  · exact hs
  · exact hl
/-- Memory that is not cached at first level, and the presented aperture, are stored to at their home (R169, R253). -/
theorem storeMode_home {p : Page} (h : p.home ≠ 0 ∨ p.alloc ≠ 2) : storeMode p false false = 0 := by
  have hcached : p.cached = false := by
    rcases h with h | h <;> simp [Page.cached, h]
  unfold storeMode
  split
  · rfl
  · simp [hcached]

theorem storageCells_cellsOf {pa n : Nat} (hp : ∀ j, j < n → (placeOf (pa + j)).isSome = true) (v : Nat) :
    storageCells (cellsOf pa n (v % 2 ^ (8 * n))) =
      (List.range n).map fun j => (((placeOf (pa + j)).getD (.hbm, 0)).2, BitVec.ofNat 8 (v / 256 ^ j)) := by
  rw [cellsOf_stored, storageCells, List.filterMap_map, ← List.filterMap_eq_map]
  refine List.filterMap_congr fun j hj => ?_
  obtain ⟨q, hq⟩ := Option.isSome_iff_exists.1 (hp j (List.mem_range.1 hj))
  simp [hq]
theorem placeOf_flat {pa o : Nat} {pl : Place} (hpl : pl = .hbm ∨ pl = .host ∨ pl = .pinned) (h : placeOf pa = some (pl, o)) : o = pa := by
  unfold placeOf at h
  dsimp only at h
  split_ifs at h <;> simp only [Option.some.injEq, Prod.mk.injEq] at h
  · exact h.2.symm
  · exact h.2.symm
  · obtain ⟨rfl, -⟩ := h
    simp at hpl
  · obtain ⟨rfl, -⟩ := h
    simp at hpl
  · exact h.2.symm
  · exact h.2.symm
theorem isLocal_spad {c d pa o : Nat} {swz : Bool} (h : placeOf pa = some (.spad d swz, o)) : isLocal c pa = (d == c) := by
  rw [isLocal, h]
theorem isLocal_flat {c pa o : Nat} {pl : Place} (hpl : pl = .hbm ∨ pl = .host ∨ pl = .pinned) (h : placeOf pa = some (pl, o)) :
    isLocal c pa = false := by
  rcases hpl with rfl | rfl | rfl <;> rw [isLocal, h]

theorem localStores : LocalStores := by
  intro h f s p s2 swz o hc c k ea n pa hea hreach hplace hrow hlin hswz hall
  have hlocal : isLocal c pa = true := by rw [isLocal_spad hplace, beq_self_eq_true]
  obtain ⟨u, t, hexec, hs⟩ := sts_commits hc hea hreach (by simp [show placeOf (servedPa s.turn p) = _ from hplace]) (.inl hlocal)
  have hcells : ∀ j, j < n → placeOf (pa + j) = some (.spad c swz, o + j) := fun j hj => placeOf_granule hplace (by omega)
  have hmem : t.mem = Memory.writeCells (s.prepared (.sts h f)).mem (cellsOf o n ((k.sreg f.sd.toNat).toNat % 2 ^ (8 * n))) := by
    have hview : (u.core s.turn).otherView swz = [] := (hs.viewBefore c swz o hplace).trans (Core.otherView_unwritten hlin hswz swz)
    have hstore := State.storeCells_spad (fun j hj => ⟨_, hcells j hj⟩) (sizeBytes_pos f) hview (storeMode p false false) p.evp p.latch
      ((k.sreg f.sd.toNat).toNat % 2 ^ (8 * n))
    rw [hs.mem, ← hs.memBefore]
    refine hstore.trans (congrArg _ ?_)
    rw [storageCells_cellsOf hall, cellsOf_stored]
    exact List.map_congr_left fun j hj => by rw [hcells j (List.mem_range.1 hj)]; rfl
  refine ⟨t, hexec, hs.moved, hs.scalars, hs.csr hlocal, (readsScalars_sts h f).others hc hs.others, fun j hj => ?_, fun a ha => ?_⟩
  · rw [hcells j hj, hmem]
    show Memory.byte _ (o + j) = _
    rw [Memory.byte_cellsOf _ _ _ _ _ hj, byteOf_mod hj, byteOf_eq]
  · rw [hmem]
    refine Memory.byte_writeCells _ _ _ fun q hq => ?_
    obtain ⟨j, hj, rfl⟩ := mem_cellsOf hq
    have := ha j hj
    rwa [hcells j hj] at this

theorem placeOf_hbm {pa : Nat} (h : pa < 4 * dieBytes) : placeOf pa = some (.hbm, pa) := if_pos h
theorem isHost_hbm {pa : Nat} (h : pa < 4 * dieBytes) : isHost pa = false := by
  rw [isHost, placeOf_hbm h]
/-- Bytes within one line. -/
theorem storeLines_one {c n : Nat} {p : Page} (hn : 0 < n) (h : servedPa c p % 128 + n ≤ 128) : storeLines c n p = [servedPa c p / 128] := by
  have hone : (servedPa c p % 128 + n + 127) / 128 = 1 := by omega
  rw [storeLines, hone]
  rfl
theorem line_of_aligned {pa : Nat} {f : SI} (h : pa % sizeBytes f = 0) : pa % 128 + sizeBytes f ≤ 128 := by
  have hcode : sizeCode f < 4 := Nat.mod_lt _ (by decide)
  unfold sizeBytes at *
  interval_cases sizeCode f <;> omega

theorem homeStores : HomeStores := by
  intro h f s p s2 hc c k ea n pa hea hreach halign hend hpage hcache hl1 hout
  have hplaces : ∀ j, j < n → ∃ o, placeOf (pa + j) = some (.hbm, o) := fun j hj => ⟨_, placeOf_hbm (by omega)⟩
  have hn : 0 < n := sizeBytes_pos f
  have hplace : placeOf pa = some (.hbm, pa) := placeOf_hbm (by omega)
  have hremote : isLocal c pa = false := isLocal_flat (.inl rfl) hplace
  obtain ⟨u, t, hexec, hs⟩ := sts_commits hc hea hreach (by simp [show placeOf (servedPa s.turn p) = _ from hplace]) (.inr hout)
  have hmem : t.mem = Memory.writeCells (s.prepared (.sts h f)).mem (cellsOf pa n ((k.sreg f.sd.toNat).toNat % 2 ^ (8 * n))) := by
    rw [hs.mem, ← hs.memBefore, storeMode_home hcache]
    exact State.storeCells_home (.inl rfl) hplaces hn (hs.l1Before.trans hl1) ..
  refine ⟨t, hexec, hs.moved, hs.scalars, ?_, (readsScalars_sts h f).others hc hs.others, ?_, fun j hj => ?_, fun a ha => ?_⟩
  · rw [hs.out hout, if_neg (by simp [show isLocal s.turn (servedPa s.turn p) = _ from hremote])]
  · rw [hs.flights, if_neg (by simp [show isLocal s.turn (servedPa s.turn p) = _ from hremote]), storeLines_one hn (line_of_aligned halign),
      isHost_hbm hpage]
    rfl
  · rw [hmem, Memory.byte_cellsOf _ _ _ _ _ hj, byteOf_mod hj, byteOf_eq]
  · rw [hmem, Memory.byte_cellsOf_other _ _ _ _ _ ha]

/-- A store that meets no first-level line and no record of the other view writes its cells where they stand. -/
theorem State.storeCells_straight {u : State} {c pa n : Nat} {pl : Place} {sw : Bool} (hpl : pl = .hbm ∨ pl = .host ∨ pl = .pinned ∨ ∃ d, pl = .spad d sw)
    (hplaces : ∀ j, j < n → ∃ o, placeOf (pa + j) = some (pl, o)) (hn : 0 < n) (hl1 : (u.core c).l1 = [])
    (hview : ∀ d, pl = .spad d sw → (u.core c).otherView sw = []) (evp : Nat) (lt : Option Nat) (v : Nat) :
    (u.storeCells c 0 evp lt (cellsOf pa n (v % 2 ^ (8 * n)))).mem = Memory.writeCells u.mem
      ((List.range n).map fun j => (((placeOf (pa + j)).getD (.hbm, 0)).2, BitVec.ofNat 8 (v / 256 ^ j))) := by
  have hall : ∀ j, j < n → (placeOf (pa + j)).isSome = true := fun j hj => by
    obtain ⟨b, hb⟩ := hplaces j hj
    rw [hb]
    rfl
  rw [← storageCells_cellsOf hall]
  by_cases hspad : ∃ d, pl = .spad d sw
  · obtain ⟨d, rfl⟩ := hspad
    exact State.storeCells_spad hplaces hn (hview d rfl) 0 evp lt _
  · have hflat : pl = .hbm ∨ pl = .host ∨ pl = .pinned := by tauto
    rw [State.storeCells_home hflat hplaces hn hl1, storageCells_cellsOf hall, cellsOf_stored]
    refine congrArg _ (List.map_congr_left fun j hj => ?_)
    obtain ⟨b, hb⟩ := hplaces j (List.mem_range.1 hj)
    rw [hb, placeOf_flat hflat hb]
    rfl

theorem straightStores : StraightStores := by
  intro h f s p s2 sw hc c k ea n pa hea hreach hstraight hunmarked hout
  obtain ⟨hcache, pl, hpl, hplaces⟩ := hstraight
  obtain ⟨hlin, hswz, hl1⟩ := hunmarked
  obtain ⟨o, hplace⟩ : ∃ o, placeOf (servedPa s.turn p) = some (pl, o) := hplaces 0 (sizeBytes_pos f)
  have haperture : ∀ a, placeOf (servedPa s.turn p) ≠ some (.aperture, a) := fun a ha => by
    rw [hplace] at ha
    rcases hpl with rfl | rfl | rfl | ⟨d, rfl⟩ <;> simp at ha
  obtain ⟨u, t, hexec, hs⟩ := sts_commits hc hea hreach haperture (.inr hout)
  have hview : ∀ d, pl = .spad d sw → (u.core s.turn).otherView sw = [] := fun d hd =>
    (hs.viewBefore d sw o (hd ▸ hplace)).trans (Core.otherView_unwritten hlin hswz sw)
  have hstore := State.storeCells_straight hpl hplaces (sizeBytes_pos f) (hs.l1Before.trans hl1) hview p.evp p.latch (k.sreg f.sd.toNat).toNat
  have hmem := hs.mem
  rw [storeMode_home hcache, hstore, hs.memBefore] at hmem
  refine ⟨t, hexec, hs.moved, hs.scalars, (readsScalars_sts h f).others hc hs.others, hs.out hout, fun hlocal => ?_, ?_⟩
  · rw [hs.flights, if_pos hlocal, List.append_nil]
  · rw [hmem]
    exact Memory.writesCells _ _

end Sys2Proof.Machine
end

section
/-! SUPPORT. A store that goes through a first-level line: what the line holds behind it, what it displaces, and what a load of the same
bytes reads (R169, R253). -/
namespace Sys2Proof.Machine
open Sys2Proof.Claims

/-! Bytes of numbers. -/

theorem byteOf_setBits (x o v i : Nat) : byteOf (setBits x (8 * o + 7) (8 * o) v) i = if i = o then BitVec.ofNat 8 v else byteOf x i := by
  refine BitVec.eq_of_getLsbD_eq fun j hj => ?_
  have hbit : (setBits x (8 * o + 7) (8 * o) v).testBit (8 * i + j) = if i = o then v.testBit j else x.testBit (8 * i + j) := by
    rw [testBit_setBits _ _ _ _ _ (by omega)]
    by_cases h : i = o
    · rw [if_pos h, if_pos (by omega), h, Nat.add_sub_cancel_left]
    · rw [if_neg h, if_neg (by omega)]
  rw [byteOf, BitVec.getLsbD_ofNat, Nat.testBit_shiftRight, hbit]
  split
  · rw [BitVec.getLsbD_ofNat]
  · rw [byteOf, BitVec.getLsbD_ofNat, Nat.testBit_shiftRight]
theorem byteOf_read (m : List Host.Cell) {a n i : Nat} (h : i < n) : byteOf (Memory.read m a n) i = Memory.byte m (a + i) := by
  induction n with
  | zero => omega
  | succ n ih =>
    have hlow := Memory.read_lt m a n
    refine BitVec.eq_of_getLsbD_eq fun j hj => ?_
    have hsum : Memory.read m a (n + 1) = 2 ^ (8 * n) * (Memory.byte m (a + n)).toNat + Memory.read m a n := by
      rw [Memory.read, Nat.shiftLeft_eq]
      ring
    rw [byteOf, BitVec.getLsbD_ofNat, Nat.testBit_shiftRight, hsum, Nat.testBit_two_pow_mul_add _ hlow]
    by_cases hi : i < n
    · have := congrArg (fun b => b.getLsbD j) (ih hi)
      simp only [byteOf, BitVec.getLsbD_ofNat, Nat.testBit_shiftRight] at this
      rw [if_pos (by omega), this]
    · obtain rfl : i = n := by omega
      rw [if_neg (by omega), Nat.add_sub_cancel_left]
      simp [hj, BitVec.getLsbD]
theorem byteOf_line (x : Nat) {i : Nat} (h : i < 128) : byteOf (BitVec.ofNat 1024 x).toNat i = byteOf x i := by
  rw [BitVec.toNat_ofNat]
  exact byteOf_mod (n := 128) h
theorem bit_or_pow (x o i : Nat) : bit (x ||| 2 ^ o) i = (decide (i = o) || bit x i) := by
  rw [bit_eq_testBit, bit_eq_testBit, Nat.testBit_or, Nat.testBit_two_pow, Bool.or_comm]
  simp [eq_comm]

/-! A line that has taken a store's bytes. -/

/-- Line x with the bytes of cells, which become dirty if `d` (R253). -/
def storedLine (x : L1Line) (cs : List (Nat × Byte)) (d : Bool) : L1Line :=
  { x with data := BitVec.ofNat 1024 (cs.foldl (fun v q => setBits v (8 * (q.1 % 128) + 7) (8 * (q.1 % 128)) q.2.toNat) x.data.toNat),
           dirty := if d then cs.foldl (fun v q => v ||| 2 ^ (q.1 % 128)) x.dirty else x.dirty }

theorem storedLine_byte (x : L1Line) {pa n i : Nat} (d : Bool) (v : Nat) (hrow : pa % 128 + n ≤ 128) (hi : i < 128) :
    byteOf (storedLine x (cellsOf pa n v) d).data.toNat i =
      if pa % 128 ≤ i ∧ i < pa % 128 + n then byteOf v (i - pa % 128) else byteOf x.data.toNat i := by
  show byteOf (BitVec.ofNat 1024 _).toNat i = _
  rw [byteOf_line _ hi]
  induction n with
  | zero => rw [if_neg (by omega)]; rfl
  | succ n ih =>
    have hcell : cellsOf pa (n + 1) v = cellsOf pa n v ++ [(pa + n, byteOf v n)] := by simp [cellsOf, List.range_succ]
    have hbyte : (pa + n) % 128 = pa % 128 + n := by omega
    rw [hcell, List.foldl_append, List.foldl_cons, List.foldl_nil, byteOf_setBits, ih (by omega), hbyte]
    by_cases h : i = pa % 128 + n
    · rw [if_pos h, if_pos (by omega), h, Nat.add_sub_cancel_left, BitVec.ofNat_toNat, BitVec.setWidth_eq]
    · rw [if_neg h]
      by_cases h' : pa % 128 ≤ i ∧ i < pa % 128 + n
      · rw [if_pos h', if_pos (by omega)]
      · rw [if_neg h', if_neg (by omega)]
theorem storedLine_dirty (x : L1Line) {pa n i : Nat} (d : Bool) (v : Nat) (hrow : pa % 128 + n ≤ 128) :
    bit (storedLine x (cellsOf pa n v) d).dirty i = ((d && decide (pa % 128 ≤ i ∧ i < pa % 128 + n)) || bit x.dirty i) := by
  cases d with
  | false => simp [storedLine]
  | true =>
    show bit (List.foldl (fun v (q : Nat × Byte) => v ||| 2 ^ (q.1 % 128)) x.dirty (cellsOf pa n v)) i = _
    induction n with
    | zero => simp [cellsOf]
    | succ n ih =>
      have hcell : cellsOf pa (n + 1) v = cellsOf pa n v ++ [(pa + n, byteOf v n)] := by simp [cellsOf, List.range_succ]
      have hbyte : (pa + n) % 128 = pa % 128 + n := by omega
      rw [hcell, List.foldl_append, List.foldl_cons, List.foldl_nil, bit_or_pow, ih (by omega), hbyte, ← Bool.or_assoc, Bool.true_and, Bool.true_and,
        ← Bool.decide_or]
      congr 2
      exact propext (by omega)
theorem l1Find_touch (l : List L1Line) (x : L1Line) : l1Find (l1Touch l x) (x.pa / 128) = some x := by
  simp [l1Find, l1Touch]
theorem l1Find_line {l : List L1Line} {g : Nat} {x : L1Line} (h : l1Find l g = some x) : x.pa / 128 = g := by
  simpa using List.find?_some h
/-- Byte i of the first-level line of `pa`, and whether it is dirty: as in memory and clean where the line is not there. -/
def lineWas (m : List Host.Cell) (k : Core) (pa i : Nat) : Byte × Bool :=
  match l1Find k.l1 (pa / 128) with
  | some z => (byteOf z.data.toNat i, bit z.dirty i)
  | none => (Memory.byte m (pa / 128 * 128 + i), false)
/-- A line is there with a store's bytes in it. -/
theorem lineHolds_stored {m : List Host.Cell} {k k' : Core} {pa n v : Nat} {d : Bool} {y : L1Line} (hrow : pa % 128 + n ≤ 128)
    (hfind : l1Find k'.l1 (pa / 128) = some (storedLine y (cellsOf pa n (v % 2 ^ (8 * n))) d))
    (hy : ∀ i < 128, (byteOf y.data.toNat i, bit y.dirty i) = lineWas m k pa i) :
    LineHolds m k k' pa n d fun j => BitVec.ofNat 8 (v / 256 ^ j) := by
  refine ⟨_, hfind, fun i hi => ?_⟩
  show if pa % 128 ≤ i ∧ i < pa % 128 + n then
    byteOf (storedLine y (cellsOf pa n (v % 2 ^ (8 * n))) d).data.toNat i = BitVec.ofNat 8 (v / 256 ^ (i - pa % 128)) ∧
      bit (storedLine y (cellsOf pa n (v % 2 ^ (8 * n))) d).dirty i = (d || (lineWas m k pa i).2)
    else byteOf (storedLine y (cellsOf pa n (v % 2 ^ (8 * n))) d).data.toNat i = (lineWas m k pa i).1 ∧
      bit (storedLine y (cellsOf pa n (v % 2 ^ (8 * n))) d).dirty i = (lineWas m k pa i).2
  rw [← hy i hi, storedLine_byte _ _ _ hrow hi, storedLine_dirty _ _ _ hrow]
  split
  · next h => exact ⟨(byteOf_mod (by omega)).trans (byteOf_eq ..), by rw [decide_eq_true h, Bool.and_true]⟩
  · next h => exact ⟨rfl, by rw [decide_eq_false h, Bool.and_false, Bool.false_or]⟩

/-! A store of one line's bytes. -/

section
variable {s : State} {c evp a : Nat} {lt : Option Nat} {cs r : List (Nat × Byte)} {b : Byte} (hcs : cs = (a, b) :: r)
include hcs
theorem State.lineWrite_back_hit {x : L1Line} (h : l1Find (s.core c).l1 (a / 128) = some x) :
    s.lineWrite c 1 evp lt cs = s.onCore c fun k => { k with l1 := l1Touch k.l1 (storedLine x cs true) } := by
  subst hcs
  simp only [State.lineWrite, h]
  rfl
theorem State.lineWrite_back_miss {x : L1Line} (h : l1Find (s.core c).l1 (a / 128) = none)
    (hx : l1Find (((s.l1Miss c).l1Fill c a evp lt).core c).l1 (a / 128) = some x) :
    s.lineWrite c 1 evp lt cs =
      ((s.l1Miss c).l1Fill c a evp lt).onCore c fun k => { k with l1 := l1Touch k.l1 (storedLine x cs true) } := by
  subst hcs
  simp only [State.lineWrite, h, hx]
  rfl
theorem State.lineWrite_through_hit {x : L1Line} (h : l1Find (s.core c).l1 (a / 128) = some x) :
    s.lineWrite c 2 evp lt cs = (s.onCore c fun k => { k with l1 := l1Touch k.l1 (storedLine x cs false) }).homeWrite cs := by
  subst hcs
  simp only [State.lineWrite, h]
  rfl
theorem State.lineWrite_through_miss (h : l1Find (s.core c).l1 (a / 128) = none) :
    s.lineWrite c 2 evp lt cs = (s.l1Miss c).homeWrite cs := by
  subst hcs
  simp only [State.lineWrite, h]
end

end Sys2Proof.Machine
end

section
/-! SUPPORT. A store through a first-level line: the line that it displaces, and what stands behind it (R253). -/
namespace Sys2Proof.Machine
open Sys2Proof.Claims

/-! The line that is displaced. -/

/-- The lines of a core, and memory, once the line at `pa` has displaced another. -/
def keptLines (k : Core) (pa : Nat) : List L1Line :=
  match displaced k pa with
  | none => k.l1
  | some y => k.l1.filter fun x => x.pa != y.pa
def displacedMem (m : List Host.Cell) (k : Core) (pa : Nat) : List Host.Cell :=
  match displaced k pa with
  | none => m
  | some y => Memory.writeCells m y.dirtyCells

theorem foldl_min_evp (l : List L1Line) (e : Nat) :
    (l.foldl (fun e x => min e x.evp) e ≤ e ∧ ∀ x ∈ l, l.foldl (fun e x => min e x.evp) e ≤ x.evp) ∧
      (l.foldl (fun e x => min e x.evp) e = e ∨ ∃ x ∈ l, x.evp = l.foldl (fun e x => min e x.evp) e) := by
  induction l generalizing e with
  | nil => simp
  | cons y l ih =>
    obtain ⟨⟨hle, hall⟩, hex⟩ := ih (min e y.evp)
    simp only [List.foldl_cons, List.mem_cons, forall_eq_or_imp, exists_eq_or_imp]
    refine ⟨⟨by omega, by omega, hall⟩, ?_⟩
    rcases hex with h | h
    · rcases Nat.le_total e y.evp with h' | h'
      · exact .inl (h.trans (Nat.min_eq_left h'))
      · exact .inr (.inl (h.trans (Nat.min_eq_right h')).symm)
    · exact .inr (.inr h)
/-- The lines of the lowest EVP, however that is told. -/
theorem lowest_evp {l : List L1Line} (h : ∀ x ∈ l, x.evp ≤ 3) :
    (l.filter fun x => x.evp == l.foldl (fun e x => min e x.evp) 3) = l.filter fun x => l.all fun y => decide (x.evp ≤ y.evp) := by
  obtain ⟨⟨-, hall⟩, hex⟩ := foldl_min_evp l 3
  refine List.filter_congr fun x hx => Bool.eq_iff_iff.2 ?_
  simp only [beq_iff_eq, List.all_eq_true, decide_eq_true_eq]
  have hxlow := hall x hx
  refine ⟨fun he y hy => he ▸ hall y hy, fun hmin => ?_⟩
  rcases hex with he | ⟨y, hy, he⟩
  · have := h x hx
    omega
  · have := hmin y hy
    omega
theorem displaced_mem {k : Core} {pa : Nat} {y : L1Line} (h : displaced k pa = some y) :
    y ∈ k.l1 ∧ y.pa / 128 % 128 = pa / 128 % 128 ∧ l1Find k.l1 (pa / 128) = none := by
  unfold displaced at h
  dsimp only at h
  split at h
  · cases h
  · next hmiss =>
    have hy := List.mem_of_getLast? h
    simp only [List.mem_filter, beq_iff_eq] at hy
    exact ⟨hy.1.1, hy.1.2, by simpa using (not_or.1 hmiss).1⟩
theorem dirtyCells_hbm {x : L1Line} (h : x.pa + 128 ≤ 4 * dieBytes) : NoAperture x.dirtyCells := fun q hq a ha => by
  obtain ⟨i, hi, rfl⟩ := List.mem_map.1 hq
  have hlt : i < 128 := List.mem_range.1 (List.mem_of_mem_filter hi)
  rw [placeOf_hbm (show x.pa + i < 4 * dieBytes by omega)] at ha
  cases ha
theorem State.l1Evict_displaces {s : State} {c pa : Nat} (hk : HbmLines (s.core c)) (hmiss : l1Find (s.core c).l1 (pa / 128) = none) :
    (s.l1Evict c (pa / 128)).mem = displacedMem s.mem (s.core c) pa ∧ ((s.l1Evict c (pa / 128)).core c).l1 = keptLines (s.core c) pa := by
  have hset : ∀ x ∈ (s.core c).l1.filter fun x => x.pa / 128 % 128 == pa / 128 % 128, x.evp ≤ 3 := fun x hx =>
    (hk x (List.mem_of_mem_filter hx)).2
  unfold State.l1Evict displacedMem keptLines displaced
  simp only [hmiss, Option.isSome_none, Bool.false_eq_true, false_or, lowest_evp hset]
  split
  · exact ⟨rfl, rfl⟩
  · cases hlast : (List.filter _ (List.filter _ (s.core c).l1)).getLast? with
    | none => exact ⟨rfl, rfl⟩
    | some y =>
      have hy := hk y (List.mem_of_mem_filter (List.mem_of_mem_filter (List.mem_of_getLast? hlast)))
      exact ⟨State.homeWrite_mem s (dirtyCells_hbm hy.1), by simp⟩
/-- What is displaced lies in no line of the one that comes. -/
theorem displacedMem_line {m : List Host.Cell} {k : Core} {pa i : Nat} (hi : i < 128) :
    Memory.byte (displacedMem m k pa) (pa / 128 * 128 + i) = Memory.byte m (pa / 128 * 128 + i) := by
  unfold displacedMem
  split
  · rfl
  · next y hy =>
    obtain ⟨hmem, hset, hmiss⟩ := displaced_mem hy
    have hne : y.pa / 128 ≠ pa / 128 := by
      have := List.find?_eq_none.1 hmiss y hmem
      simpa using this
    refine Memory.byte_writeCells _ _ _ fun q hq => ?_
    obtain ⟨j, hj, rfl⟩ := List.mem_map.1 hq
    have hlt : j < 128 := List.mem_range.1 (List.mem_of_mem_filter hj)
    show y.pa + j ≠ _
    omega

/-! The line that comes. -/

theorem State.hostFill_hbm {s : State} {pa : Nat} (h : pa < 4 * dieBytes) : s.hostFill pa = s := by
  simp only [State.hostFill, placeOf_hbm h]
theorem line_hbm {pa : Nat} (h : pa < 4 * dieBytes) : pa / 128 * 128 < 4 * dieBytes := by omega
/-- A line of HBM comes to the first level with the bytes of memory, clean (R253). -/
theorem State.l1Fill_hbm {s : State} {c pa : Nat} (hk : HbmLines (s.core c)) (hmiss : l1Find (s.core c).l1 (pa / 128) = none)
    (hpa : pa < 4 * dieBytes) (evp : Nat) (lt : Option Nat) :
    ∃ x, ((s.l1Fill c pa evp lt).core c).l1 = x :: keptLines (s.core c) pa ∧ x.pa / 128 = pa / 128 ∧
      (s.l1Fill c pa evp lt).mem = displacedMem s.mem (s.core c) pa ∧
      ∀ i < 128, (byteOf x.data.toNat i, bit x.dirty i) = lineWas s.mem (s.core c) pa i := by
  obtain ⟨hmem, hl1⟩ := State.l1Evict_displaces hk hmiss
  unfold State.l1Fill
  simp only [hmiss, Option.isSome_none, Bool.false_eq_true, if_false, State.hostFill_hbm hpa]
  refine ⟨_, by rw [State.core_onCore, if_pos rfl, hl1], ?_, hmem, fun i hi => ?_⟩
  · exact Nat.mul_div_cancel (pa / 128) (by decide)
  · simp only [lineWas, hmiss, byteOf_line _ hi]
    rw [State.homeRead, placeOf_hbm (line_hbm hpa)]
    simp only []
    rw [byteOf_read _ hi, hmem, displacedMem_line hi]
    simp [bit]

/-! What a load of the line reads. -/

theorem eq_of_byteOf {x y n : Nat} (hx : x < 2 ^ (8 * n)) (hy : y < 2 ^ (8 * n)) (h : ∀ i < n, byteOf x i = byteOf y i) : x = y := by
  refine Nat.eq_of_testBit_eq fun j => ?_
  by_cases hj : j < 8 * n
  · have hbit : ∀ z : Nat, (byteOf z (j / 8)).getLsbD (j % 8) = z.testBit j := fun z => by
      rw [byteOf, BitVec.getLsbD_ofNat, Nat.testBit_shiftRight, Nat.div_add_mod, decide_eq_true (Nat.mod_lt j (by decide)), Bool.true_and]
    rw [← hbit x, ← hbit y, h (j / 8) (by omega)]
  · have hp : 2 ^ (8 * n) ≤ 2 ^ j := Nat.pow_le_pow_right (by decide) (by omega)
    rw [Nat.testBit_lt_two_pow (hx.trans_le hp), Nat.testBit_lt_two_pow (hy.trans_le hp)]
theorem storedLine_bytes (x : L1Line) {pa n : Nat} (d : Bool) (v : Nat) (hrow : pa % 128 + n ≤ 128) :
    (storedLine x (cellsOf pa n v) d).bytes pa n = v % 2 ^ (8 * n) := by
  have hpos : 0 < 2 ^ (8 * n) := Nat.two_pow_pos _
  refine eq_of_byteOf (Nat.mod_lt _ hpos) (Nat.mod_lt _ hpos) fun i hi => ?_
  have hshift : ∀ z : Nat, byteOf (z >>> (8 * (pa % 128))) i = byteOf z (pa % 128 + i) := fun z => by
    rw [byteOf, byteOf, ← Nat.shiftRight_add, Nat.mul_add]
  rw [L1Line.bytes, byteOf_mod hi, byteOf_mod hi, hshift, storedLine_byte _ _ _ hrow (by omega), if_pos (by omega), Nat.add_sub_cancel_left]
/-- A load of bytes of one line that is there reads the line. -/
theorem State.pageRead_hit {t : State} {c n : Nat} {p : Page} {x : L1Line} (hp : p.home = 0 ∧ p.alloc = 2) (hpa : servedPa c p < 4 * dieBytes)
    (hn : 0 < n) (hrow : servedPa c p % 128 + n ≤ 128) (hx : l1Find (t.core c).l1 (servedPa c p / 128) = some x) :
    (t.pageRead c p false false n).1 = x.bytes (servedPa c p) n := by
  have hcached : p.cached = true := by simp [Page.cached, hp]
  have hpieces : linePieces (n / 128 + 2) (servedPa c p) n = [(servedPa c p, n)] := by
    have hmin : min n (128 - servedPa c p % 128) = n := by omega
    simp only [linePieces, if_neg hn.ne', hmin, Nat.sub_self, if_true]
  unfold State.pageRead
  simp only [placeOf_hbm hpa, hpieces, List.foldl_cons, List.foldl_nil, State.lineRead, hcached, hx]
  simp

end Sys2Proof.Machine
end

section
/-! SUPPORT. `STS` through a page of HBM that the core caches at first level (R169, R253), and O5. -/
namespace Sys2Proof.Machine
open Sys2Proof.Claims

theorem byLine_one {cs : List (Nat × Byte)} {g : Nat} (hne : cs ≠ []) (h : ∀ q ∈ cs, q.1 / 128 = g) : byLine cs = [cs] := by
  induction cs with
  | nil => exact absurd rfl hne
  | cons c r ih =>
    obtain ⟨hc, hr⟩ := List.forall_mem_cons.1 h
    cases r with
    | nil => rfl
    | cons d r =>
      rw [byLine, ih (List.cons_ne_nil _ _) hr]
      simp [hc, hr d (List.mem_cons_self ..)]
/-- A store within one line of HBM goes through the first level as its mode says. -/
theorem State.storeCells_line {u : State} {c pa n : Nat} (hpa : pa < 4 * dieBytes) (hn : 0 < n) (hrow : pa % 128 + n ≤ 128) (mode evp : Nat)
    (lt : Option Nat) (v : Nat) : u.storeCells c mode evp lt (cellsOf pa n v) = u.lineWrite c mode evp lt (cellsOf pa n v) := by
  obtain ⟨r, hr⟩ := cellsOf_cons hn pa v
  have hone : byLine (cellsOf pa n v) = [cellsOf pa n v] := byLine_one (g := pa / 128) (by rw [hr]; exact List.cons_ne_nil _ _) fun q hq => by
    obtain ⟨j, hj, rfl⟩ := mem_cellsOf hq
    show (pa + j) / 128 = _
    omega
  have hlines : u.storeCells c mode evp lt (cellsOf pa n v) = (byLine (cellsOf pa n v)).foldl (fun t g => t.lineWrite c mode evp lt g) u := by
    rw [hr]
    simp only [State.storeCells, placeOf_hbm hpa]
  rw [hlines, hone]
  rfl

/-- A store that is written back has come from machine u to w: the line with its bytes stands first, of the others what is not displaced. -/
structure WrittenBack (c pa : Nat) (cs : List (Nat × Byte)) (u w : State) (y : L1Line) (l : List L1Line) : Prop where
  l1 : (w.core c).l1 = l1Touch l (storedLine y cs true)
  line : y.pa / 128 = pa / 128
  was : ∀ i < 128, (byteOf y.data.toNat i, bit y.dirty i) = lineWas u.mem (u.core c) pa i
  mem : w.mem = displacedMem u.mem (u.core c) pa
  kept : ∀ x ∈ keptLines (u.core c) pa, x ∈ l
theorem displaced_hit {k : Core} {pa : Nat} {x : L1Line} (h : l1Find k.l1 (pa / 128) = some x) : displaced k pa = none := by
  simp [displaced, h]
theorem State.lineWrite_writtenBack {u : State} {c pa : Nat} (hk : HbmLines (u.core c)) (hpa : pa < 4 * dieBytes) {cs r : List (Nat × Byte)} {b : Byte}
    (hcs : cs = (pa, b) :: r) (evp : Nat) (lt : Option Nat) : ∃ y l, WrittenBack c pa cs u (u.lineWrite c 1 evp lt cs) y l := by
  cases hfind : l1Find (u.core c).l1 (pa / 128) with
  | some x =>
    refine ⟨x, (u.core c).l1, ?_⟩
    rw [State.lineWrite_back_hit hcs hfind]
    constructor
    case l1 => simp
    case line => exact l1Find_line hfind
    case was => exact fun i _ => by simp [lineWas, hfind]
    case mem => simp [displacedMem, displaced_hit hfind]
    case kept => simp [keptLines, displaced_hit hfind]
  | none =>
    have hperf : (u.l1Miss c).core c = (u.core c).perf 7 1 := by simp [State.l1Miss]
    have hl1 : ((u.l1Miss c).core c).l1 = (u.core c).l1 := by rw [hperf, Core.perf]; rfl
    have hwas : ∀ i, lineWas (u.l1Miss c).mem ((u.l1Miss c).core c) pa i = lineWas u.mem (u.core c) pa i := fun i => by
      rw [lineWas, hl1]
      rfl
    have hdisplaced : displaced ((u.l1Miss c).core c) pa = displaced (u.core c) pa := by rw [displaced, hl1]; rfl
    obtain ⟨x, hx, hline, hmem, hbytes⟩ := State.l1Fill_hbm (s := u.l1Miss c) (fun y hy => hk y (hl1 ▸ hy)) (hl1 ▸ hfind) hpa evp lt
    have hhit : l1Find (((u.l1Miss c).l1Fill c pa evp lt).core c).l1 (pa / 128) = some x := by
      rw [hx, l1Find, List.find?_cons, beq_iff_eq.2 hline]
    refine ⟨x, x :: keptLines (u.core c) pa, ?_⟩
    rw [State.lineWrite_back_miss hcs hfind hhit]
    constructor
    case l1 => rw [State.core_onCore, if_pos rfl, hx, keptLines, hdisplaced, hl1]; rfl
    case line => exact hline
    case was => exact fun i hi => (hbytes i hi).trans (hwas i)
    case mem =>
      show ((u.l1Miss c).l1Fill c pa evp lt).mem = _
      rw [hmem, displacedMem, hdisplaced]
      rfl
    case kept => exact fun y hy => List.mem_cons_of_mem _ hy

/-- A store of one line of HBM that the core caches (R169, R253), by what it leaves of memory and the first level. -/
theorem cachedStore_of {s t u : State} {c : Nat} {k : Core} {p : Page} {n v : Nat} (hk : (u.core c).l1 = k.l1) (hu : u.mem = s.mem)
    (hmem : t.mem = (u.storeCells c (storeMode p false false) p.evp p.latch (cellsOf (servedPa c p) n (v % 2 ^ (8 * n)))).mem)
    (hl1 : (t.core c).l1 = ((u.storeCells c (storeMode p false false) p.evp p.latch (cellsOf (servedPa c p) n (v % 2 ^ (8 * n)))).core c).l1) :
    CachedStore s t c k p n v := by
  have hmode : ∀ wt, CachedHbm wt (servedPa c p) n p → storeMode p false false = if wt then 2 else 1 := fun wt h => by
    obtain ⟨hhome, halloc, hwt, hpage, -⟩ := h
    simp [storeMode, placeOf_hbm hpage, Page.cached, hhome, halloc, hwt]
  have hwas : ∀ i, lineWas u.mem (u.core c) (servedPa c p) i = lineWas s.mem k (servedPa c p) i := fun i => by rw [lineWas, hk, hu]; rfl
  have hdisplaced : displaced (u.core c) (servedPa c p) = displaced k (servedPa c p) := by rw [displaced, hk]; rfl
  set cs := cellsOf (servedPa c p) n (v % 2 ^ (8 * n)) with hcs
  refine ⟨fun hback hlines => ?_, fun hthrough => ?_⟩
  · obtain ⟨hhome, halloc, hwt, hpage, hn, hrow, hend⟩ := id hback
    have hpa : servedPa c p < 4 * dieBytes := by omega
    obtain ⟨r, hr⟩ := cellsOf_cons hn (servedPa c p) (v % 2 ^ (8 * n))
    obtain ⟨y, l, hw⟩ := State.lineWrite_writtenBack (u := u) (c := c) (fun x hx => hlines x (hk ▸ hx)) hpa hr p.evp p.latch
    rw [hmode _ hback, if_neg Bool.false_ne_true, State.storeCells_line hpa hn hrow] at hmem hl1
    have hfind : l1Find (t.core c).l1 (servedPa c p / 128) = some (storedLine y cs true) := by
      rw [hl1, hw.l1, ← hw.line]
      exact l1Find_touch l (storedLine y cs true)
    have hkept : ∀ x ∈ keptLines (u.core c) (servedPa c p), x.pa / 128 ≠ servedPa c p / 128 → x ∈ (t.core c).l1 := fun x hx hne => by
      rw [hl1, hw.l1]
      refine List.mem_cons_of_mem _ (List.mem_filter.2 ⟨hw.kept x hx, ?_⟩)
      show (x.pa / 128 != y.pa / 128) = true
      rw [hw.line]
      exact bne_iff_ne.2 hne
    refine ⟨lineHolds_stored hrow hfind fun i hi => (hw.was i hi).trans (hwas i), ?_, ?_⟩
    · rw [State.pageRead_hit ⟨hhome, halloc⟩ hpa hn hrow hfind, storedLine_bytes _ _ _ hrow, Nat.mod_mod, pow_mul]
      rfl
    · rw [hw.mem, displacedMem, hdisplaced, hu] at hmem
      rw [keptLines, hdisplaced, hk] at hkept
      split
      · next hd =>
        rw [hd] at hmem hkept
        exact ⟨fun a => by rw [hmem], hkept⟩
      · next z hd =>
        rw [hd] at hmem hkept
        refine ⟨by rw [hmem]; exact Memory.writesCells _ _, fun x hx hne => ?_⟩
        have hmiss := (displaced_mem hd).2.2
        exact hkept x (List.mem_filter.2 ⟨hx, bne_iff_ne.2 hne⟩) (by simpa using List.find?_eq_none.1 hmiss x hx)
  · obtain ⟨hhome, halloc, hwt, hpage, hn, hrow, hend⟩ := id hthrough
    have hpa : servedPa c p < 4 * dieBytes := by omega
    obtain ⟨r, hr⟩ := cellsOf_cons hn (servedPa c p) (v % 2 ^ (8 * n))
    rw [hmode _ hthrough, if_pos rfl, State.storeCells_line hpa hn hrow] at hmem hl1
    have hno : NoAperture cs := fun q hq a ha => by
      obtain ⟨j, hj, rfl⟩ := mem_cellsOf hq
      rw [placeOf_hbm (show servedPa c p + j < 4 * dieBytes by omega)] at ha
      cases ha
    have hcores : ∀ w : State, (w.homeWrite cs).core c = w.core c := fun w => by rw [State.core, State.homeWrite_memOnly w cs]; rfl
    have hcells : t.mem = Memory.writeCells s.mem cs → WritesCells s.mem t.mem ((List.range n).map fun j =>
        (servedPa c p + j, BitVec.ofNat 8 (v / 256 ^ j))) := fun h => by
      rw [h, hcs, cellsOf_stored]
      exact Memory.writesCells _ _
    cases hfind : l1Find k.l1 (servedPa c p / 128) with
    | some x =>
      rw [State.lineWrite_through_hit hr (hk ▸ hfind)] at hmem hl1
      rw [State.homeWrite_mem _ hno] at hmem
      rw [hcores, State.core_onCore, if_pos rfl] at hl1
      refine ⟨hcells (hmem.trans (by rw [← hu]; rfl)), fun _ => ?_, fun h => by simp at h⟩
      refine lineHolds_stored (y := x) hrow ?_ fun i _ => by simp [lineWas, hfind]
      rw [hl1, ← l1Find_line hfind]
      exact l1Find_touch _ (storedLine x cs false)
    | none =>
      rw [State.lineWrite_through_miss hr (hk ▸ hfind)] at hmem hl1
      rw [State.homeWrite_mem _ hno] at hmem
      rw [hcores] at hl1
      refine ⟨hcells (hmem.trans (by rw [← hu]; rfl)), fun h => by simp at h, fun _ => ?_⟩
      rw [hl1, ← hk]
      simp [State.l1Miss, Core.perf]

theorem cachedStores : CachedStores := by
  intro h f s p s2 wt hc c k ea n hea hreach hcached hout
  obtain ⟨hhome, halloc, hwt, hpage, hn, hrow, hend⟩ := id hcached
  have hplace : placeOf (servedPa s.turn p) = some (.hbm, servedPa s.turn p) :=
    placeOf_hbm ((Nat.lt_add_of_pos_right hn).trans_le hend)
  have hremote : ¬isLocal s.turn (servedPa s.turn p) = true := by simp [isLocal_flat (.inl rfl) hplace]
  obtain ⟨u, t, hexec, hs⟩ := sts_commits hc hea hreach (by simp [hplace]) (.inr hout)
  refine ⟨t, hexec, hs.moved, hs.scalars, ?_, (readsScalars_sts h f).others hc hs.others, ?_,
    cachedStore_of hs.l1Before hs.memBefore hs.mem hs.l1⟩
  · rw [hs.out hout, if_neg hremote]
  · rw [hs.flights, if_neg hremote, storeLines_one hn hrow, isHost_hbm hpage]
    rfl

/-- Settles O5: the checks of `STS` leave memory and the first level alone, its one store takes place from there, and what that writes is
told by where its bytes lie. -/
theorem stores : Obligations.Stores := ⟨localStores, homeStores, cachedStores, straightStores⟩

end Sys2Proof.Machine
end

section
/-! SUPPORT. What a load leaves alone beside its value: memory, where the first level is clean, the other cores, and copies (R117, R169,
R253). -/
namespace Sys2Proof.Machine
open Sys2Proof.Claims

/-- The first level of a core holds no store that is still to perform. -/
def L1Clean (k : Core) : Prop := ∀ x ∈ k.l1, x.dirty = 0
/-- A read of core c has come from machine s to t. -/
structure ReadKept (c : Nat) (s t : State) : Prop where
  others : ∀ d, d ≠ c → t.core d = s.core d
  done : s.copiesDone → t.copiesDone
  clean : L1Clean (s.core c) → t.mem = s.mem ∧ L1Clean (t.core c)

theorem ReadKept.refl (c : Nat) (s : State) : ReadKept c s s := ⟨fun _ _ => rfl, id, fun h => ⟨rfl, h⟩⟩
theorem ReadKept.trans {c : Nat} {s t u : State} (h : ReadKept c s t) (h' : ReadKept c t u) : ReadKept c s u :=
  ⟨fun d hd => (h'.others d hd).trans (h.others d hd), fun hd => h'.done (h.done hd), fun hc => by
    obtain ⟨hmem, hclean⟩ := h.clean hc
    obtain ⟨hmem', hclean'⟩ := h'.clean hclean
    exact ⟨hmem'.trans hmem, hclean'⟩⟩
theorem ReadKept.foldl_snd {α β : Type} {c : Nat} {f : β × State → α → β × State} (hf : ∀ p x, ReadKept c p.2 (f p x).2) (l : List α)
    (p : β × State) : ReadKept c p.2 (l.foldl f p).2 := by
  induction l generalizing p with
  | nil => exact .refl c p.2
  | cons x l ih => exact (hf p x).trans (ih _)
/-- Neither a core nor memory has changed. -/
theorem ReadKept.of_cores {c : Nat} {s t : State} (hc : t.cores = s.cores) (hm : t.mem = s.mem) : ReadKept c s t :=
  have hcore : ∀ d, t.core d = s.core d := fun d => by rw [State.core, hc]; rfl
  ⟨fun d _ => hcore d, fun hd => by rwa [State.copiesDone, hc], fun hl => ⟨hm, by rwa [hcore]⟩⟩
/-- The reading core has changed in its first level, which stays clean. -/
theorem ReadKept.setCore {c : Nat} {s : State} {k : Core} (hcopies : k.copies = (s.core c).copies) (hl1 : L1Clean (s.core c) → L1Clean k) :
    ReadKept c s (s.setCore c k) := by
  refine ⟨fun d hd => by simp [hd], fun hd => State.copiesDone_setCore hd ?_, fun hl => ⟨rfl, by simpa using hl1 hl⟩⟩
  rw [hcopies]
  exact State.copiesDone_core hd c

theorem State.hostFill_readKept (s : State) (c pa : Nat) : ReadKept c s (s.hostFill pa) := by
  unfold State.hostFill
  split
  · dsimp only
    split
    · exact .refl c s
    · exact .of_cores rfl rfl
  · exact .refl c s
/-- A clean line is written back as no cell at all. -/
theorem dirtyCells_clean {x : L1Line} (h : x.dirty = 0) : x.dirtyCells = [] := by
  simp [L1Line.dirtyCells, h, bit]
theorem State.l1Evict_readKept (s : State) (c g : Nat) : ReadKept c s (s.l1Evict c g) := by
  unfold State.l1Evict
  dsimp only
  split
  · exact .refl c s
  · split
    · exact .refl c s
    · next v hv =>
      have hmem : v ∈ (s.core c).l1 := List.mem_of_mem_filter (List.mem_of_mem_filter (List.mem_of_getLast? hv))
      have hback : ReadKept c s (s.writeBack v) := by
        have hcores : (s.writeBack v).cores = s.cores := by rw [State.writeBack, State.homeWrite_memOnly s v.dirtyCells]
        have hcore : ∀ d, (s.writeBack v).core d = s.core d := fun d => by rw [State.core, hcores]; rfl
        refine ⟨fun d _ => hcore d, fun hd => by rwa [State.copiesDone, hcores], fun hl => ⟨?_, by rwa [hcore]⟩⟩
        rw [State.writeBack, dirtyCells_clean (hl v hmem)]
        rfl
      have hsame : (s.writeBack v).core c = s.core c := by
        rw [State.core, State.writeBack, State.homeWrite_memOnly s v.dirtyCells]
        rfl
      exact hback.trans (.setCore (by rw [hsame]) fun hl x hx => hl x (hsame ▸ List.mem_of_mem_filter hx))
theorem State.l1Fill_readKept (s : State) (c pa evp : Nat) (lt : Option Nat) : ReadKept c s (s.l1Fill c pa evp lt) := by
  unfold State.l1Fill
  dsimp only
  split
  · exact .refl c s
  · refine ((s.hostFill_readKept c pa).trans (State.l1Evict_readKept ..)).trans (.setCore rfl fun hl x hx => ?_)
    rcases List.mem_cons.1 hx with rfl | hx
    · rfl
    · exact hl x hx
theorem State.l1Miss_readKept (s : State) (c : Nat) : ReadKept c s (s.l1Miss c) :=
  .setCore rfl fun hl x hx => hl x hx
theorem l1Find_mem {l : List L1Line} {g : Nat} {x : L1Line} (h : l1Find l g = some x) : x ∈ l := List.mem_of_find?_eq_some h
theorem State.l1Touch_readKept {s : State} {c : Nat} {x : L1Line} (hx : x ∈ (s.core c).l1) :
    ReadKept c s (s.onCore c fun k => { k with l1 := l1Touch k.l1 x }) :=
  .setCore rfl fun hl y hy => by
    rcases List.mem_cons.1 hy with rfl | hy
    · exact hl _ hx
    · exact hl y (List.mem_of_mem_filter hy)
theorem State.lineRead_readKept (s : State) (c : Nat) (p : Page) (by_ na : Bool) (pa n : Nat) : ReadKept c s (s.lineRead c p by_ na pa n).2 := by
  unfold State.lineRead
  dsimp only
  split
  · unfold State.pastRead
    split
    · next x hx =>
      split
      · dsimp only
        split
        · exact s.hostFill_readKept c pa
        · exact .refl c s
      · split
        · exact State.l1Touch_readKept (l1Find_mem hx)
        · exact .refl c s
    · dsimp only
      split
      · exact s.hostFill_readKept c pa
      · exact .refl c s
  · split
    · next x hx =>
      split
      · exact .refl c s
      · exact State.l1Touch_readKept (l1Find_mem hx)
    · split
      · exact s.l1Miss_readKept c
      · exact (s.l1Miss_readKept c).trans (State.l1Fill_readKept ..)
theorem State.pageRead_readKept (s : State) (c : Nat) (p : Page) (by_ na : Bool) (n : Nat) : ReadKept c s (s.pageRead c p by_ na n).2 := by
  unfold State.pageRead
  dsimp only
  split
  · rw [State.spadRead_free]
    exact .of_cores rfl rfl
  · refine .foldl_snd (fun p x => ?_) _ (0, s)
    exact State.lineRead_readKept p.2 ..
/-- A load, where no copy writes memory any more. -/
theorem State.loadValue_readKept {s : State} (hdone : s.copiesDone) (c va n : Nat) (ps : List (Nat × Nat × Page)) (by_ na : Bool) :
    ReadKept c s (s.loadValue c va n ps by_ na).2 := by
  rw [State.loadValue_eq, State.copyMix_done hdone, ite_self]
  unfold State.readPieces
  refine .foldl_snd (fun p x => ?_) _ (0, s)
  exact State.pageRead_readKept p.2 ..

end Sys2Proof.Machine
end

section
/-! SUPPORT. Loads of a C slot, alone in its bundle (R117, R169-R172). -/
namespace Sys2Proof.Machine
open Sys2Proof.Claims

/-! The context and the sources of a C slot's operation at a first issue. -/

/-- The context in which an operation executes when nothing else stands in its bundle and nothing repeats. -/
structure FirstCtx (s : State) (ctx : Ctx) : Prop where
  core : ctx.c = s.turn
  first : ctx.ix = 0
  alone : ctx.earlier = []
theorem FirstCtx.rx {s : State} {ctx : Ctx} (h : FirstCtx s ctx) : ctx.rx = 0 := by
  rw [Ctx.rx, h.first, resolveIx.eq_def]
  cases ctx.slot <;> simp
/-- The first issue does not step an address (R78, R169). -/
theorem FirstCtx.transferAddr {s : State} {ctx : Ctx} (h : FirstCtx s ctx) (b : Word) (t : State) : transferAddr ctx b t = b.toNat := by
  simp [Machine.transferAddr, Core.addrStep, h.first, wordI, sgn]

/-- Every source is a scalar register, or none. -/
def ScalarOrNone (i : Instr) : Prop := ∀ x ∈ (slotOp i).srcs, x = .absent ∨ ∃ n, x = .s n
theorem State.source_at {s : State} {i : Instr} {x : Slot} {w : Word} (he : encode i = some (x, w)) {v : SrcVal} (hv : v ∈ s.sources i) :
    ∃ y ∈ (slotOp i).srcs, ∃ j, v = (s.prepared i).readSrc s.turn x (s.soleOp i x w).rx j y := by
  simp only [State.sources, he, SlotOp.vals] at hv
  obtain ⟨p, hp, rfl⟩ := List.mem_map.1 hv
  exact ⟨p.1, (List.mem_zipIdx' hp).2 ▸ List.getElem_mem _, p.2, rfl⟩
theorem ScalarOrNone.readable {s : State} {i : Instr} {x : Slot} {w : Word} (h : ScalarOrNone i) (he : encode i = some (x, w)) :
    s.readable i = true ∧ s.headsOf i = [] := by
  have hsource : ∀ v ∈ s.sources i, v.err = none ∧ v.head = none := fun v hv => by
    obtain ⟨y, hy, j, rfl⟩ := State.source_at he hv
    rcases h y hy with rfl | ⟨n, rfl⟩ <;> exact ⟨rfl, rfl⟩
  refine ⟨?_, ?_⟩
  · rw [State.readable, List.all_eq_true]
    exact fun v hv => by rw [(hsource v hv).1]; rfl
  · simp only [State.headsOf, he, headsRead, headsNamed]
    refine List.eq_nil_iff_forall_not_mem.2 fun a ha => ?_
    simp only [List.mem_eraseDups, List.mem_flatMap, List.mem_filterMap] at ha
    obtain ⟨y, hy, v, hv, hhead⟩ := ha
    obtain rfl := List.mem_singleton.1 (List.mem_of_mem_filter hy)
    have hnone := (hsource v (by simpa only [State.sources, he] using hv)).2
    rw [hnone] at hhead
    cases hhead
/-- A scalar source reads its register. -/
theorem State.val_source {s : State} {i : Instr} {x : Slot} {w : Word} (he : encode i = some (x, w)) {j n : Nat}
    (h : (slotOp i).srcs[j]? = some (.s n)) : val (s.sources i) j = (s.issuer i).sreg n := by
  have hget : (s.sources i)[j]? = some { val := ((s.issuer i).sreg n).toNat, tag := (s.issuer i).stag n } := by
    simp only [State.sources, he, SlotOp.vals, List.getElem?_map, List.getElem?_zipIdx]
    rw [show (s.soleOp i x w).op.srcs[j]? = some (.s n) from h]
    rfl
  rw [val, List.getD_eq_getElem?_getD, hget, Option.getD_some, wordN, BitVec.ofNat_toNat, BitVec.setWidth_eq]

/-! The value of an element. -/

/-- The parts of an element as a load outside a bundle's other slots reads them. -/
def State.partsValue (s : State) (c : Nat) (f : CF) (r : Reached) : Nat × State :=
  r.foldl (fun p g =>
    (p.1 + (p.2.loadValue c g.1.2.1 g.1.2.2 g.2 (hintBy f) (hintNa f)).1 <<< (8 * g.1.1), (p.2.loadValue c g.1.2.1 g.1.2.2 g.2 (hintBy f) (hintNa f)).2)) (0, s)
theorem State.loadSegs_alone (s : State) {x : Ctx} (hx : x.earlier = []) (f : CF) (r : Reached) : s.loadSegs x f r = s.partsValue x.c f r := by
  simp only [State.loadSegs, State.loadFor_alone _ hx]
  rfl
theorem State.partsValue_quiet (s : State) (c : Nat) (f : CF) (r : Reached) : Quiet s (s.partsValue c f r).2 := by
  unfold State.partsValue
  refine List.foldlRecOn r _ (motive := fun p : Nat × State => Quiet s p.2) (.refl s) fun p hp g _ => ?_
  exact hp.trans fun d => State.loadValue_quiet p.2 _ _ _ _ _ _ d
theorem State.partsValue_readKept {s : State} (hdone : s.copiesDone) (c : Nat) (f : CF) (r : Reached) : ReadKept c s (s.partsValue c f r).2 := by
  unfold State.partsValue
  refine List.foldlRecOn r _ (motive := fun p : Nat × State => ReadKept c s p.2) (.refl c s) fun p hp g _ => ?_
  exact hp.trans (State.loadValue_readKept (hp.done hdone) ..)
/-- What holds of every result of a fold that may fail. -/
theorem Except.foldl_ok {α β ε : Type} {P : β → Prop} {f : Except ε β → α → Except ε β}
    (hf : ∀ q g, (∀ p, q = .ok p → P p) → ∀ p, f q g = .ok p → P p) (l : List α) {q : Except ε β} (hq : ∀ p, q = .ok p → P p) :
    ∀ p, l.foldl f q = .ok p → P p := by
  induction l generalizing q with
  | nil => exact hq
  | cons g l ih => exact ih (hf q g hq)
theorem State.reachSegs_read {s s2 : State} {c size : Nat} {segs : List Seg} {k : AccessKind} {r : Reached}
    (h : s.reachSegs c segs k size .read = .ok (r, s2)) : ClaimsOnly s s2 := by
  unfold State.reachSegs at h
  split at h
  · cases h
  · refine Except.foldl_ok (P := fun p : Reached × State => ClaimsOnly s p.2) (fun q g hq p hp => ?_) segs (fun p hp => ?_) _ h
    · split at hp
      · cases hp
      · split at hp <;> cases hp
        next hreach => exact (hq _ rfl).trans (State.reach_read hreach)
    · cases hp
      rfl

end Sys2Proof.Machine
end

section
/-! SUPPORT. An element's arrival at a commit, and O34 (R117, R169-R172). -/
namespace Sys2Proof.Machine
open Sys2Proof.Claims

/-! Bytes of the register space that a commit writes. -/

section
variable (k : Core) (a n x tag id : Nat)
theorem Core.space_writeSpace : (k.writeSpace a n x tag id).space a n = x % 2 ^ (8 * n) := linesRead_linesWrite ..
theorem Core.space_writeSpace_other {b m : Nat} (h : b + m ≤ a ∨ a + n ≤ b) : (k.writeSpace a n x tag id).space b m = k.space b m :=
  linesRead_linesWrite_other _ _ _ _ _ _ h
theorem Core.gtag_writeSpace {g : Nat} (h : g ∈ granulesOf a n) : (k.writeSpace a n x tag id).gtag g = tag :=
  (Core.gtag_retag ..).trans (if_pos h)
theorem Core.writeSpace_scalars : ScalarKept [] k (k.writeSpace a n x tag id) := fun _ _ => ⟨rfl, rfl⟩
theorem Core.csr_writeSpace (m : Nat) : (k.writeSpace a n x tag id).csr m = k.csr m := rfl
theorem Core.mode_writeSpace : (k.writeSpace a n x tag id).ctl.mode = k.ctl.mode := rfl
end

/-- What an issue leaves that has written n bytes of the register space and no more. -/
structure WritesSpace (i : Instr) (s s2 : State) (a n x : Nat) (t : State) : Prop where
  only : OnlyCore s.turn ((s.prepared i).confirmed s.turn s2) t
  moved : MovedOn (s.issuer i) (t.core s.turn)
  scalars : ScalarKept [] (s.issuer i) (t.core s.turn)
  csr : ∀ m, (t.core s.turn).csr m = (s.issuer i).csr m
  written : (t.core s.turn).space a n = x % 2 ^ (8 * n)
  kept : ∀ b, b < a ∨ a + n ≤ b → (t.core s.turn).space b 1 = (s.issuer i).space b 1
  tags : ∀ g ∈ granulesOf a n, (t.core s.turn).gtag g = guardOf i
theorem CommitsFrom.writesSpace {i : Instr} {s s2 u : State} {x : Slot} {a n v : Nat} {r : Waiting} (h : CommitsFrom i s s2 x [.space a n v] u r)
    (hq : Untouched (s.issuer i) (s2.core s.turn)) : ∃ t, exec i s = .next t ∧ WritesSpace i s s2 a n v t := by
  have hentered := h.entered hq
  obtain ⟨⟨q, hcore⟩, honly⟩ := u.slotDone_core s.turn ((s.prepared i).cycleOf s.turn) x.ix (guardOf i) [.space a n v]
  have happly : applyAll s.turn (guardOf i) ((s.prepared i).cycleOf s.turn) [.space a n v] u =
      u.onCore s.turn fun k => k.writeSpace a n v (guardOf i) k.ctl.seq := rfl
  rw [happly] at hcore honly
  rw [State.core_onCore, if_pos rfl] at hcore
  set b := (u.core s.turn).writeSpace a n v (guardOf i) (u.core s.turn).ctl.seq with hb
  have hscalars : ScalarKept [] (s.issuer i) { b with engq := q } :=
    (hentered.scalars.trans ((u.core s.turn).writeSpace_scalars _ _ _ _ _)).of_regs rfl
  have hkept := CoreKept.settle r { b with engq := q }
  have hspace : ∀ c m, (Core.settle r { b with engq := q }).space c m = b.space c m := fun c m => by
    rw [Core.space, hkept.rs]
    rfl
  refine ⟨_, h.commits, ?_⟩
  constructor <;> try rw [State.core_onCore, if_pos rfl, hcore]
  case only => exact (h.only.trans (.onCore ..)).trans (honly.trans (.onCore ..))
  case moved => exact h.movedOn hentered.mode
  case scalars => exact hscalars.settle r
  case csr => exact fun m => (hkept.csr m).trans (hentered.csr m)
  case written => rw [hspace, hb, Core.space_writeSpace]
  case kept =>
    intro c hc
    rw [hspace, hb, Core.space_writeSpace_other _ _ _ _ _ _ (by omega), Core.space, hentered.rs]
    rfl
  case tags =>
    intro g hg
    rw [Core.gtag, hkept.gtag]
    exact Core.gtag_writeSpace _ _ _ _ _ _ hg

/-! Loads of a C slot. -/

theorem State.prepared_cores {s : State} {i : Instr} {x : Slot} {w : Word} (he : encode i = some (x, w)) :
    (s.prepared i).cores = s.landed.cores := by
  simp [State.prepared, he, State.freshenOps_cores]

/-- A load of a C slot: what `exec_commits` asks of an operation beside its execution step. -/
structure LoadsOf (i : Instr) (s : State) (x : Slot) (w : Word) : Prop where
  word : encode i = some (x, w)
  nop : (slotOp i).nop = false
  transfer : (slotOp i).transfer = false
  pre : (slotOp i).pre = fun _ _ => []
  opcode : bits w.toNat 63 56 ≠ 0x58 ∧ bits w.toNat 63 56 ≠ 0x59
  readable : s.readable i = true
theorem LoadsOf.commits {i : Instr} {s s2 : State} {x : Slot} {w : Word} {e : Eff} (hi : LoadsOf i s x w) (hc : s.clears i = true)
    (hheads : s.headsOf i = []) (hb : ∀ ctx, FirstCtx s ctx → (slotOp i).body ctx (s.sources i) (s.prepared i) = .ok s2 { effs := [e] })
    (hv : (s.issuer i).overLimit [{ effs := [e] }] = false) (hp : e.plain = true) : ∃ u r, CommitsFrom i s s2 x [e] u r :=
  exec_commits hc hi.word hi.nop hi.transfer hi.pre hi.readable hheads hi.opcode (hb _ ⟨rfl, rfl, rfl⟩) hv (by simpa using hp)

theorem elementEffs_own {x : Ctx} {r : Reached} (h : ownPad x.c r = true) (a n v : Nat) : elementEffs x a n v r = [.space a n v] := if_pos h
theorem elementEffs_remote {x : Ctx} {r : Reached} (h : ownPad x.c r = false) (a n v : Nat) : elementEffs x a n v r =
    [.load (.space a n) v (r.flatMap fun g => g.2.map fun q => (servedPa x.c q.2.2, q.2.1, g.1.1 + (q.1 - g.1.2.1)))] := by
  refine (if_neg (by simpa [ownPad] using h)).trans ?_
  simp only [sourcesOf, List.map_map]
  rfl

/-- An element's load whose execution step reads the given parts. -/
theorem loadsElement_of {i : Instr} {f : CF} {s : State} {segs : List Seg} {size : Nat} {x : Slot} {w : Word} (hi : LoadsOf i s x w)
    (hc : s.clears i = true)
    (hb : ∀ a r s2 ctx, FirstCtx s ctx → (s.issuer i).resolve f.rr.toNat ((s.issuer i).elemSize f.rr.toNat) true 0 0 = .ok a →
      (s.prepared i).reachSegs s.turn segs .read size .read = .ok (r, s2) → (slotOp i).body ctx (s.sources i) (s.prepared i) =
        .ok (s2.loadSegs ctx f r).2 { effs := elementEffs ctx a ((s.issuer i).elemSize f.rr.toNat) (s2.loadSegs ctx f r).1 r }) :
    LoadsElement i f s segs size := by
  intro a r s2 ctx hheads hcore halone c k n hres hreach v
  have hclaims := State.reachSegs_read hreach
  have hv : v = s2.partsValue s.turn f r := (State.loadSegs_alone s2 halone f r).trans (by rw [hcore])
  have hk : s2.core s.turn = s.issuer i := by rw [State.core, hclaims]; rfl
  have hq : Untouched (s.issuer i) (v.2.core s.turn) := hv ▸ hk ▸ State.partsValue_quiet s2 s.turn f r s.turn
  have hbody : ∀ y, FirstCtx s y → (slotOp i).body y (s.sources i) (s.prepared i) = .ok v.2 { effs := elementEffs y a n v.1 r } := fun y hy => by
    rw [hb a r s2 y hy hres hreach, State.loadSegs_alone s2 hy.alone, hy.core, hv]
  have hdone : s.copiesDone → ReadKept c s2 v.2 := fun h => by
    have hdone2 : s2.copiesDone := by
      rw [State.copiesDone, hclaims]
      exact (State.prepared_cores hi.word).symm ▸ State.landed_copiesDone h
    exact hv ▸ State.partsValue_readKept hdone2 s.turn f r
  refine ⟨fun hown => ?_, fun hremote hout => ?_, fun h hclean => ?_, fun h d hd => ?_⟩
  · obtain ⟨u, q, hcommits⟩ := hi.commits hc hheads (fun y hy => by rw [hbody y hy, elementEffs_own (hy.core ▸ hown)])
      (Core.overLimit_none (by simp [Eff.countClass])) rfl
    obtain ⟨t, hexec, ht⟩ := hcommits.writesSpace hq
    exact ⟨t, hexec, ht.moved, ht.scalars, ht.only, ht.csr, ht.written, ht.kept, ht.tags⟩
  · obtain ⟨u, q, hcommits⟩ := hi.commits hc hheads (fun y hy => by rw [hbody y hy, elementEffs_remote (hy.core ▸ hremote), hy.core])
      (Core.overLimit_counted (cls := 0) (by simp [Eff.countClass]) (by simpa [Eff.countClass, outLimit] using hout)) rfl
    obtain ⟨t, hexec, ht⟩ := hcommits.loads hq (fun _ => rfl) hout
    exact ⟨t, hexec, ht.moved, ht.scalars, ht.only, ht.rs, ht.out, ht.flights⟩
  · exact ((hdone h).clean fun y hy => hclean y (show y ∈ (s.issuer i).l1 from hk ▸ hy)).1
  · rw [(hdone h).others d hd, State.core, hclaims]
    exact State.prepared_core hi.word d

/-! `TLD`, `GATH`, `TLDW`. -/

theorem opcode_of {h : Head} {o : BitVec 8} {p : BitVec 48} (ho : o.toNat ≠ 0x58 ∧ o.toNat ≠ 0x59) :
    bits (h.pack o ++ p).toNat 63 56 ≠ 0x58 ∧ bits (h.pack o ++ p).toNat 63 56 ≠ 0x59 := by
  rwa [opcode_pack]
theorem rowSrcs_scalar (f : CF) : ∀ x ∈ rowSrcs f, x = .absent ∨ ∃ n, x = .s n := by
  unfold rowSrcs
  split <;> simp [sx6]
theorem tld_sources (h : Head) (f : CF) : ScalarOrNone (.tld h f) := by
  intro x hx
  rcases List.mem_append.1 (show x ∈ [.absent, sx6 f.sa] ++ rowSrcs f from hx) with hx | hx
  · rcases List.mem_pair.1 hx with rfl | rfl
    · exact .inl rfl
    · exact .inr ⟨_, rfl⟩
  · exact rowSrcs_scalar f x hx
theorem loadsOf_tld (h : Head) (f : CF) (s : State) : LoadsOf (.tld h f) s h.slot (h.pack 0xC0 ++ f.pack) :=
  ⟨rfl, rfl, rfl, rfl, opcode_of (by decide), ((tld_sources h f).readable rfl).1⟩
theorem loadsOf_gath {h : Head} {f : CF} {s : State} (hread : s.readable (.gath h f) = true) :
    LoadsOf (.gath h f) s h.slot (h.pack 0xC5 ++ f.pack) := ⟨rfl, rfl, rfl, rfl, opcode_of (by decide), hread⟩

theorem tld_loadsElement {h : Head} {f : CF} {s : State} {segs : List Seg} (hc : s.clears (.tld h f) = true)
    (hsegs : tileSegs f (s.sources (.tld h f)) (elementEa (s.issuer (.tld h f)) f) ((s.issuer (.tld h f)).elemSize f.rr.toNat) = .ok segs) :
    LoadsElement (.tld h f) f s segs 0 := by
  refine loadsElement_of (loadsOf_tld h f s) hc fun a r s2 ctx hctx hres hreach => ?_
  have hbase : val (s.sources (.tld h f)) 1 = (s.issuer (.tld h f)).sreg f.sa.toNat := State.val_source (loadsOf_tld h f s).word rfl
  have hea : transferAddr ctx (val (s.sources (.tld h f)) 1) (s.prepared (.tld h f)) = elementEa (s.issuer (.tld h f)) f := by
    rw [hctx.transferAddr, hbase]
    rfl
  have hcore : (s.prepared (.tld h f)).core s.turn = s.issuer (.tld h f) := rfl
  simp only [slotOp, opTld, hcore, hctx.rx, hres, withDst, hea, hsegs, hctx.core, hreach]
theorem gath_loadsElement {h : Head} {f : CF} {s : State} (hc : s.clears (.gath h f) = true) (hread : s.readable (.gath h f) = true)
    (halign : elementEa (s.issuer (.gath h f)) f % laneWidth f = 0) :
    LoadsElement (.gath h f) f s (laneSegs f ((s.issuer (.gath h f)).elemSize f.rr.toNat) (elementEa (s.issuer (.gath h f)) f)
      (s.source (.gath h f) 0)) (laneSize f) := by
  refine loadsElement_of (loadsOf_gath hread) hc fun a r s2 ctx hctx hres hreach => ?_
  have hbase : val (s.sources (.gath h f)) 1 = (s.issuer (.gath h f)).sreg f.sa.toNat := State.val_source (loadsOf_gath hread).word rfl
  have hea : transferAddr ctx (val (s.sources (.gath h f)) 1) (s.prepared (.gath h f)) = elementEa (s.issuer (.gath h f)) f := by
    rw [hctx.transferAddr, hbase]
    rfl
  have hcore : (s.prepared (.gath h f)).core s.turn = s.issuer (.gath h f) := rfl
  rw [State.source] at hreach
  simp only [slotOp, opGath, hcore, hctx.rx, hres, withDst, hea, if_neg (not_not.2 halign), hctx.core, hreach]

theorem tldw_sources (h : Head) (f : CF) : ScalarOrNone (.tldw h f) := by
  intro x hx
  have hmem : x ∈ [Src.absent, sx6 f.sa, sx6 f.sb, sx6 f.sc] := hx
  simp only [List.mem_cons, List.not_mem_nil, or_false] at hmem
  rcases hmem with rfl | rfl | rfl | rfl
  · exact .inl rfl
  all_goals exact .inr ⟨_, rfl⟩
theorem loadsOf_tldw (h : Head) (f : CF) (s : State) : LoadsOf (.tldw h f) s h.slot (h.pack 0xC2 ++ f.pack) :=
  ⟨rfl, rfl, rfl, rfl, opcode_of (by decide), ((tldw_sources h f).readable rfl).1⟩
theorem tldw_executes {h : Head} {f : CF} {s s2 : State} {ps : List (Nat × Nat × Page)}
    (hea : elementEa (s.issuer (.tldw h f)) f % 16 = 0) (hoff : ((s.issuer (.tldw h f)).sreg f.sb.toNat).toNat % 16 = 0)
    (hn : ((s.issuer (.tldw h f)).sreg f.sc.toNat).toNat % 16 = 0) (hmax : ((s.issuer (.tldw h f)).sreg f.sc.toNat).toNat ≤ 98304)
    (hpages : (s.prepared (.tldw h f)).reachPages s.turn (elementEa (s.issuer (.tldw h f)) f) ((s.issuer (.tldw h f)).sreg f.sc.toNat).toNat .read 0 =
      .ok ps) (haperture : ∀ q ∈ ps, inAperture q.2.2 = false) (hcheck : (s.prepared (.tldw h f)).checkPieces s.turn .read 0 .read ps = .ok s2)
    {ctx : Ctx} (hctx : FirstCtx s ctx) :
    let v := s2.loadValue s.turn (elementEa (s.issuer (.tldw h f)) f) ((s.issuer (.tldw h f)).sreg f.sc.toNat).toNat ps (hintBy f) (hintNa f)
    (slotOp (.tldw h f)).body ctx (s.sources (.tldw h f)) (s.prepared (.tldw h f)) =
      .ok v.2 { effs := [.tldw (((s.issuer (.tldw h f)).sreg f.sb.toNat).toNat % 98304)
        (bytesOf v.1 ((s.issuer (.tldw h f)).sreg f.sc.toNat).toNat) (sourcesOf s.turn (elementEa (s.issuer (.tldw h f)) f) ps)] } := by
  have hbase : val (s.sources (.tldw h f)) 1 = (s.issuer (.tldw h f)).sreg f.sa.toNat := State.val_source (loadsOf_tldw h f s).word rfl
  have hplace : val (s.sources (.tldw h f)) 2 = (s.issuer (.tldw h f)).sreg f.sb.toNat := State.val_source (loadsOf_tldw h f s).word rfl
  have hcount : val (s.sources (.tldw h f)) 3 = (s.issuer (.tldw h f)).sreg f.sc.toNat := State.val_source (loadsOf_tldw h f s).word rfl
  have haddr : transferAddr ctx ((s.issuer (.tldw h f)).sreg f.sa.toNat) (s.prepared (.tldw h f)) = elementEa (s.issuer (.tldw h f)) f :=
    hctx.transferAddr ..
  have hnone : (ps.find? fun q => inAperture q.2.2) = none := List.find?_eq_none.2 fun q hq => by simp [haperture q hq]
  have hgood : ¬(elementEa (s.issuer (.tldw h f)) f % 16 ≠ 0 ∨ ((s.issuer (.tldw h f)).sreg f.sb.toNat).toNat % 16 ≠ 0 ∨
      ((s.issuer (.tldw h f)).sreg f.sc.toNat).toNat % 16 ≠ 0 ∨ 98304 < ((s.issuer (.tldw h f)).sreg f.sc.toNat).toNat) := by omega
  simp only [slotOp, opTldw, hbase, hplace, hcount, haddr, hctx.transferAddr, if_neg hgood, hctx.core, hpages, hnone, hcheck,
    State.loadFor_alone _ hctx.alone]

/-- Settles O34: each of the three loads reads its parts in the execution step, and has one effect, which writes the register space or is in
flight; what the reads leave alone, `ReadKept` says. -/
theorem elementLoads : Obligations.ElementLoads := by
  refine ⟨fun h f s segs hc hsegs => tld_loadsElement hc hsegs, fun h f s hc hread halign => gath_loadsElement hc hread halign, ?_⟩
  intro h f s ps s2 hc c k ea off n hea hoff hn hmax hpages haperture hcheck hout v
  have hclaims := State.checkPieces_read hcheck
  have hk : s2.core s.turn = s.issuer (.tldw h f) := by rw [State.core, hclaims]; rfl
  have hq : Untouched (s.issuer (.tldw h f)) (v.2.core s.turn) := hk ▸ State.loadValue_quiet s2 _ _ _ ps _ _ s.turn
  have hi := loadsOf_tldw h f s
  obtain ⟨u, r, hcommits⟩ := hi.commits hc ((tldw_sources h f).readable hi.word).2
    (fun ctx hctx => tldw_executes hea hoff hn hmax hpages haperture hcheck hctx)
    (Core.overLimit_counted (cls := 0) (by simp [Eff.countClass]) (by simpa [Eff.countClass, outLimit] using hout)) rfl
  obtain ⟨t, hexec, ht⟩ := hcommits.loads hq (fun _ => rfl) hout
  exact ⟨t, hexec, ht.moved, ht.scalars, ht.only, ht.wbuf, ht.out, ht.flights⟩

end Sys2Proof.Machine
end

section
/-! SUPPORT. Requests that a team gives its cores up, and what becomes of them (R126, R241, R242, R297, R342). -/
namespace Sys2Proof.Machine
open Sys2Proof.Claims

/-- What a fold over cores leaves in each of them, where a step sets it in its own and keeps it in the others. -/
theorem State.foldl_core {P : Core → Prop} {f : State → Nat → State} (hset : ∀ s c, P ((f s c).core c))
    (hkeep : ∀ s c d, P (s.core d) → P ((f s c).core d)) (cs : List Nat) (s : State) {c : Nat} (h : c ∈ cs ∨ P (s.core c)) :
    P ((cs.foldl f s).core c) := by
  induction cs generalizing s with
  | nil => exact h.resolve_left List.not_mem_nil
  | cons d r ih =>
    refine ih _ ?_
    rcases h with h | h
    · rcases List.mem_cons.1 h with rfl | h
      · exact .inr (hset s c)
      · exact .inl h
    · exact .inr (hkeep s d c h)

/-! A bundle that is taken back. -/

theorem State.rewindGang_core (s : State) (c d : Nat) :
    ((s.rewindGang c).core d).ctl.wait = (s.core d).ctl.wait ∧ ((s.rewindGang c).core d).ctl.pc = (s.core d).ctl.pc := by
  unfold State.rewindGang
  dsimp only
  split
  · exact ⟨rfl, rfl⟩
  · rw [State.core_onCore]
    split
    · next h =>
      subst h
      split
      · exact ⟨rfl, rfl⟩
      · split <;> exact ⟨rfl, rfl⟩
    · exact ⟨rfl, rfl⟩
/-- The bundle waits no more; no core moves (R186, R242). -/
theorem State.takeBack_core (s : State) (c : Nat) (keep : Bool) (d : Nat) :
    ((s.takeBack c keep).core d).ctl.wait = (if d = c then none else (s.core d).ctl.wait) ∧
      ((s.takeBack c keep).core d).ctl.pc = (s.core d).ctl.pc := by
  unfold State.takeBack
  split
  · next h =>
    refine ⟨?_, rfl⟩
    split
    · next hd => rw [hd, h]
    · rfl
  · next w hw =>
    have hclaims : (s.withdrawClaims c w).core d = s.core d := by rw [State.core, s.withdrawClaims_claimsOnly c w]; rfl
    obtain ⟨hwait, hpc⟩ := (s.withdrawClaims c w).rewindGang_core c d
    rw [hclaims] at hwait hpc
    have hcores : ∀ (b : Bool) (u : State), (if b then u else u.unclaimAll w.waits).core d = u.core d := fun b u => by
      split
      · rfl
      · rw [State.core, State.unclaimAll_cores]; rfl
    dsimp only
    rw [State.core_onCore]
    split
    · next hd =>
      subst hd
      exact ⟨rfl, by rw [hcores]; exact hpc⟩
    · rw [hcores]
      exact ⟨hwait, hpc⟩
/-- A team begins to leave (R242, R297). -/
theorem State.beginLeave_spec (s : State) (u : Nat) : let t := s.beginLeave u
    (t.team u).leaving = true ∧ (t.team u).parked = s.isParked u ∧
      ∀ c ∈ (s.team u).cores, (t.core c).ctl.wait = none ∧ (t.core c).ctl.pc = (s.core c).ctl.pc := by
  intro t
  have hwait : ∀ c ∈ (s.team u).cores, (t.core c).ctl.wait = none := fun c hc =>
    State.foldl_core (P := fun k => k.ctl.wait = none) (f := fun s c => s.takeBack c true)
      (fun s c => (s.takeBack_core c true c).1.trans (if_pos rfl)) (fun s c d h => by
        rw [(s.takeBack_core c true d).1, h, ite_self]) _ s (.inl hc)
  have hpc : ∀ c, (t.core c).ctl.pc = (s.core c).ctl.pc := fun c =>
    List.foldl_keeps (fun s => (s.core c).ctl.pc) (fun s c => s.takeBack c true) (fun s d => (s.takeBack_core d true c).2) _ s
  have hteam : t.team u = { ((s.team u).cores.foldl (fun s c => s.takeBack c true) s).team u with leaving := true, parked := s.isParked u } := by
    show (State.onTeam _ u _).team u = _
    rw [State.team_onTeam, if_pos rfl]
  exact ⟨by rw [hteam], by rw [hteam], fun c hc => ⟨hwait c hc, hpc c⟩⟩

/-! A request, and its end. -/

/-- YRQ and YDL show a request with its deadline, or none (R229, R241). -/
def Core.asked (dl : Option Nat) (k : Core) : Prop := bit (k.csr csrTSTAT).toNat 2 = dl.isSome ∧ k.csr csrYDL = wordN (dl.getD 0)
theorem Core.asked_setYield (dl : Option Nat) (k : Core) : (k.setYield dl).asked dl := by
  have hyrq : (k.setYield dl).csr csrTSTAT = wordN (setBits (k.csr csrTSTAT).toNat 2 2 (if dl.isSome then 1 else 0)) := by
    simp [Core.setYield, csrTSTAT, csrYDL]
  refine ⟨?_, by simp [Core.setYield]⟩
  rw [hyrq, bit_eq_testBit, wordN, BitVec.toNat_ofNat, Nat.testBit_mod_two_pow, testBit_setBits _ _ _ _ _ (by decide)]
  cases dl <;> simp
theorem State.foldl_asked {f : Core → Core} {dl : Option Nat} (hf : ∀ k, (f k).asked dl) (cs : List Nat) (s : State) :
    ∀ c ∈ cs, ((cs.foldl (fun s c => s.onCore c f) s).core c).asked dl := fun c hc =>
  State.foldl_core (f := fun s c => s.onCore c f) (fun s c => by rw [State.core_onCore, if_pos rfl]; exact hf _) (fun s c d h => by
    rw [State.core_onCore]
    split
    · exact hf _
    · exact h) cs s (.inl hc)
/-- A yield request reaches the team and its cores (R241). -/
theorem State.postYield_spec (s : State) (u dl : Nat) : ((s.postYield u dl).team u).yreq = some dl ∧
    ∀ c ∈ (s.team u).cores, ((s.postYield u dl).core c).asked (some dl) := by
  refine ⟨?_, State.foldl_asked (Core.asked_setYield (some dl)) _ s⟩
  rw [State.postYield, State.team_onTeam, if_pos rfl]

/-! The events. -/

theorem exec_yieldRequest {u dl : Nat} {s : State} (hres : (s.team u).isResident = true) (hyreq : (s.team u).yreq = none)
    (hleave : (s.team u).leaving = false) : exec (.yieldRequest u dl) s = .next (s.postYield u dl) := by
  show execYieldRequest u dl s = _
  simp [execYieldRequest, hres, hyreq, hleave]
theorem exec_yieldDeadlineExpiry {u dl : Nat} {s : State} (hres : (s.team u).isResident = true) (hyreq : (s.team u).yreq = some dl)
    (hleave : (s.team u).leaving = false) (hdl : dl ≤ s.now) (hyielded : s.allYielded u = false) :
    exec (.yieldDeadlineExpiry u) s = .next (s.beginLeave u) := by
  show execYieldDeadlineExpiry u s = _
  simp [execYieldDeadlineExpiry, hres, hyreq, hleave, hdl, hyielded]
theorem exec_quantumExpiry {u : Nat} {s : State} (hres : (s.team u).isResident = true) (hyreq : (s.team u).yreq = none)
    (hleave : (s.team u).leaving = false) (hq : s.quantum u ≤ (s.team u).since) (hwaits : s.regionWaits (s.rcbOf (s.team u)) = true)
    (hparked : s.parkedIn (s.rcbOf (s.team u)) = []) : exec (.quantumExpiry u) s = .next (s.postYield u (s.now + s.quantum u / 8)) := by
  show execQuantumExpiry u s = _
  simp [execQuantumExpiry, hres, hyreq, hleave, hq, hwaits, hparked]
theorem exec_parkReclaim {u : Nat} {s : State} (hparked : s.isParked u = true) (hwaits : s.regionWaits (s.rcbOf (s.team u)) = true)
    (hcan : s.canLeave u = true) (hfirst : ∀ v ∈ s.parkedIn (s.rcbOf (s.team u)), (s.teamRank u).1 < (s.teamRank v).1 ∨
      (s.teamRank u).1 = (s.teamRank v).1 ∧ (s.teamRank u).2 ≤ (s.teamRank v).2) : exec (.parkReclaim u) s = .next (s.beginLeave u) := by
  show execParkReclaim u s = _
  refine if_pos ?_
  have hnone : ((s.parkedIn (s.rcbOf (s.team u))).any fun v => decide ((s.teamRank v).1 < (s.teamRank u).1 ∨
      ((s.teamRank v).1 = (s.teamRank u).1 ∧ (s.teamRank v).2 < (s.teamRank u).2))) = false := by
    rw [List.any_eq_false]
    intro v hv
    have := hfirst v hv
    simp only [decide_eq_true_eq]
    omega
  simp only [State.reclaimable, hparked, hwaits, hcan, hnone]
  rfl
/-- Without an image slot the team stays, and its request is gone (R342; log 48). -/
theorem exec_preEmption_stays {u : Nat} {s : State} (hres : (s.team u).isResident = true) (hleave : (s.team u).leaving = true)
    (hslot : (s.team u).slot = none) (hfree : s.freeSlot (s.rcbOf (s.team u)) = none) :
    ∃ t, exec (.preEmption u) s = .next t ∧ (t.team u).isResident = true ∧ (t.team u).leaving = false ∧ (t.team u).yreq = none ∧
      ∀ c ∈ (s.team u).cores, (t.core c).asked none := by
  have hexec : exec (.preEmption u) s = .next (((s.team u).cores.foldl (fun s c => s.onCore c fun k => (k.setYield none).runOn) s).onTeam u
      fun x => { x with yreq := none, leaving := false, parked := false, since := 0 }) := by
    show execPreEmption u s = _
    simp [execPreEmption, hres, hleave, hslot, hfree]
  have hteam : ((s.team u).cores.foldl (fun s c => s.onCore c fun k => (k.setYield none).runOn) s).team u = s.team u :=
    List.foldl_keeps (fun s => s.team u) (fun s c => s.onCore c fun k => (k.setYield none).runOn) (fun _ _ => rfl) _ s
  refine ⟨_, hexec, ?_, ?_, ?_, State.foldl_asked (f := fun k => (k.setYield none).runOn) (fun k => Core.asked_setYield none k) _ s⟩
  all_goals rw [State.team_onTeam, if_pos rfl]
  rw [hteam]
  exact hres

end Sys2Proof.Machine
end

section
/-! SUPPORT. A team that takes its cores, and one that has completed (R21, R127, R216, R228, R288, R295). -/
namespace Sys2Proof.Machine
open Sys2Proof.Claims

/-! Control registers alone. -/

/-- Of core k only control registers that `p` names have changed. -/
structure CsrsOnly (p : Nat → Prop) (k k' : Core) : Prop where
  rest : k' = { k with regs := { k.regs with csr := k'.regs.csr } }
  csr : ∀ n, ¬p n → k'.csr n = k.csr n
theorem CsrsOnly.refl (p : Nat → Prop) (k : Core) : CsrsOnly p k k := ⟨rfl, fun _ _ => rfl⟩
theorem CsrsOnly.trans {p : Nat → Prop} {a b c : Core} (h : CsrsOnly p a b) (h' : CsrsOnly p b c) : CsrsOnly p a c :=
  ⟨by rw [h'.rest, h.rest], fun n hn => (h'.csr n hn).trans (h.csr n hn)⟩
theorem CsrsOnly.setCsr {p : Nat → Prop} (k : Core) {n : Nat} (x : Word) (hn : p n) : CsrsOnly p k (k.setCsr n x) :=
  ⟨rfl, fun m hm => (Core.csr_setCsr ..).trans (if_neg fun h : m = n => hm (h ▸ hn))⟩
theorem CsrsOnly.foldl {α : Type} {p : Nat → Prop} {f : Core → α → Core} (l : List α) (hf : ∀ k, ∀ x ∈ l, CsrsOnly p k (f k x)) (k : Core) :
    CsrsOnly p k (l.foldl f k) := by
  induction l generalizing k with
  | nil => exact .refl p k
  | cons x l ih => exact (hf k x (List.mem_cons_self ..)).trans (ih (fun k y hy => hf k y (List.mem_cons_of_mem _ hy)) _)

/-! A core at the launch of its team. -/

/-- A core stands at the launch of team t, at position p (R216, R228). -/
structure Launched (t : Nat) (x : Team) (p : Nat) (k : Core) : Prop where
  mode : k.ctl.mode = .run
  team : k.ctl.team = t
  pos : k.ctl.pos = p
  pc : k.ctl.pc = x.entry
  ic : k.csr csrIC = wordN x.ic0
  pad : k.sreg 1 = wordN (spadVa t x p)
  place : k.csr csrTEAM = wordN (x.index * 2 ^ 32 + 0x60 + x.bn)
  flights : k.flights = []
/-- The registers that a launch presets beside the core's place and its instant (R223, R263). -/
def presetCsr (n : Nat) : Prop := csrECM ≤ n
theorem Core.identify_csr (k : Core) (x : Team) (p : Nat) : CsrsOnly (fun n => n = csrTEAM ∨ n = csrGPOS ∨ n = csrGSIZE) k (k.identify x p) ∧
    (k.identify x p).csr csrTEAM = wordN (x.index * 2 ^ 32 + 0x60 + x.bn) := by
  refine ⟨((CsrsOnly.setCsr k _ (.inl rfl)).trans (.setCsr _ _ (.inr (.inl rfl)))).trans (.setCsr _ _ (.inr (.inr rfl))), ?_⟩
  simp [Core.identify, csrTEAM, csrGPOS, csrGSIZE, Nat.shiftLeft_eq]
theorem State.launchCore_core (s : State) (t : Nat) (x : Team) (p d : Nat) :
    (d = x.coreAt p → Launched t x p ((s.launchCore t x p).core d)) ∧ (d ≠ x.coreAt p → (s.launchCore t x p).core d = s.core d) := by
  refine ⟨?_, fun hd => (State.core_setCore ..).trans (if_neg hd)⟩
  rintro rfl
  unfold State.launchCore
  dsimp only
  set k1 : Core := { (s.core (x.coreAt p)).vacate with
    wbuf := if (s.core (x.coreAt p)).rcb = some (s.rcbOf x) then (s.core (x.coreAt p)).vacate.wbuf else [], rcb := some (s.rcbOf x),
    ctl := { mode := .run, team := t, pos := p, gpos := p % x.gang, pc := x.entry, did := (s.core (x.coreAt p)).vacate.ctl.did } } with hk1
  set k2 := (k1.identify x p).setCsr csrIC (wordN x.ic0) with hk2
  have hplace := (k1.identify_csr x p).2
  have h2 : CsrsOnly (fun _ => True) k1 k2 :=
    (⟨(k1.identify_csr x p).1.rest, fun _ h => absurd trivial h⟩ : CsrsOnly _ _ _).trans (.setCsr _ _ trivial)
  have hteam : k2.csr csrTEAM = wordN (x.index * 2 ^ 32 + 0x60 + x.bn) := (Core.csr_setCsr ..).trans ((if_neg (by decide)).trans hplace)
  have hic : k2.csr csrIC = wordN x.ic0 := (Core.csr_setCsr ..).trans (if_pos rfl)
  generalize hk3 : List.foldl (fun (k : Core) (v : Word × Nat) => k.setCsr (csrVWL + v.2) (v.1 &&& presetMask)) _ _ = k3
  have h3 : CsrsOnly presetCsr k2 k3 := by
    rw [← hk3]
    refine ((CsrsOnly.setCsr k2 _ (Nat.le_refl csrECM)).trans (.foldl _ (fun k v hv => .setCsr _ _ ?_) _)).trans (.foldl _ (fun k v _ => .setCsr _ _ ?_) _)
    · have : ∀ v ∈ launchViews, csrECM ≤ v.1 := by decide
      exact this v hv
    · show csrECM ≤ csrVWL + v.2
      simp only [csrECM, csrVWL]
      omega
  have hctl : k3.ctl = k1.ctl := by rw [h3.rest, h2.rest]
  have hflights : k3.flights = k1.flights := by rw [h3.rest, h2.rest]
  have hcsr : ∀ n, n < csrECM → k3.csr n = k2.csr n := fun n hn => h3.csr n (Nat.not_le.2 hn)
  have hcore : ∀ cs, (((s.setCore (x.coreAt p) ((k3.setS 1 (wordN (spadVa t x p)) 31).setS 62 (wordN (spadVa t x p + 0x60000)) 31)).replaceMem
      (spadBase (x.coreAt p)) 0x60000 cs).core (x.coreAt p)) = (k3.setS 1 (wordN (spadVa t x p)) 31).setS 62 (wordN (spadVa t x p + 0x60000)) 31 := fun cs =>
    (State.core_setCore ..).trans (if_pos rfl)
  rw [hcore]
  constructor
  case mode => rw [Core.ctl_setS, Core.ctl_setS, hctl]
  case team => rw [Core.ctl_setS, Core.ctl_setS, hctl]
  case pos => rw [Core.ctl_setS, Core.ctl_setS, hctl]
  case pc => rw [Core.ctl_setS, Core.ctl_setS, hctl]
  case ic => rw [(CoreKept.setS ..).csr, (CoreKept.setS ..).csr, hcsr csrIC (by decide), hic]
  case pad => simp [Core.sreg, Core.setS]
  case place => rw [(CoreKept.setS ..).csr, (CoreKept.setS ..).csr, hcsr csrTEAM (by decide), hteam]
  case flights =>
    rw [Core.flights_setS, Core.flights_setS, hflights]
    rfl

/-! A team's move onto its cores. -/

/-- Cores, teams and the residency queue stay. -/
structure SeatsKept (s t : State) : Prop where
  cores : t.cores = s.cores
  teams : t.teams = s.teams
  residency : t.residency = s.residency
theorem SeatsKept.refl (s : State) : SeatsKept s s := ⟨rfl, rfl, rfl⟩
theorem SeatsKept.trans {s t u : State} (h : SeatsKept s t) (h' : SeatsKept t u) : SeatsKept s u :=
  ⟨h'.cores.trans h.cores, h'.teams.trans h.teams, h'.residency.trans h.residency⟩
theorem SeatsKept.foldl {α : Type} {f : State → α → State} (hf : ∀ s x, SeatsKept s (f s x)) (l : List α) (s : State) :
    SeatsKept s (l.foldl f s) := by
  induction l generalizing s with
  | nil => exact .refl s
  | cons x l ih => exact (hf s x).trans (ih _)
theorem SeatsKept.core {s t : State} (h : SeatsKept s t) (c : Nat) : t.core c = s.core c := by rw [State.core, h.cores]; rfl
theorem SeatsKept.team {s t : State} (h : SeatsKept s t) (u : Nat) : t.team u = s.team u := by rw [State.team, h.teams]; rfl
theorem MemOnly.seatsKept {s t : State} (h : MemOnly s t) : SeatsKept s t := by rw [h]; exact ⟨rfl, rfl, rfl⟩
theorem ClaimsOnly.seatsKept {s t : State} (h : ClaimsOnly s t) : SeatsKept s t := by rw [h]; exact ⟨rfl, rfl, rfl⟩
theorem State.placeEarly_seatsKept (s : State) (key : Nat) : SeatsKept s (s.placeEarly key) := by
  have hcell : ∀ (u : State) (e : Nat × List Byte × Nat × Bool), SeatsKept u (u.placeCell key e.1 e.2.1 e.2.2.1 e.2.2.2) := fun u e => by
    unfold State.placeCell
    split <;> exact ⟨rfl, rfl, rfl⟩
  unfold State.placeEarly
  split
  · exact .refl s
  · exact (SeatsKept.foldl hcell _ s).trans ⟨rfl, rfl, rfl⟩
theorem State.rehome_seatsKept (s : State) (t : Nat) : SeatsKept s (s.rehome t) := by
  have hentries : ∀ (u : State) cls key, SeatsKept u (u.writeEntries cls key) := fun u cls key =>
    .foldl (f := fun (s : State) cl => { s with chantab := s.chantab.put {} (cl * 256 + key % 256) _ }) (fun _ _ => ⟨rfl, rfl, rfl⟩) cls u
  unfold State.rehome
  refine .foldl (fun u key => ?_) _ s
  have hchannel : ∀ f, SeatsKept u (u.onChannel key f) := fun _ => ⟨rfl, rfl, rfl⟩
  exact ((hchannel _).trans (State.placeEarly_seatsKept ..)).trans (hentries ..)
/-- Tables, barriers and channels follow a team to its cores (R221, R242, R306). -/
theorem State.arrived_seatsKept (s : State) (t : Nat) (x : Team) (f : Nat → Nat) :
    SeatsKept s ((((s.renameCores t f).entriesIn t x).mapSpads t true).rehome t) := by
  have hnames : SeatsKept s (s.renameCores t f) := ⟨rfl, rfl, rfl⟩
  exact ((hnames.trans (State.moveEntries_claimsOnly ..).seatsKept).trans (State.mapSpads_memOnly ..).seatsKept).trans
    (State.rehome_seatsKept ..)

/-! Residency. -/

/-- A team as it takes cores for the first time. -/
def State.seated (s : State) (t cl base bn : Nat) : Team :=
  { s.team t with mode := .resident, cluster := cl, base := base, home := base, bn := bn, since := 0, residentTicks := 0,
                  block := s.launchBlock (s.team t), args := 0 }
/-- The machine before its cores are launched. -/
def State.seat (s : State) (t cl base bn : Nat) : State :=
  ({ ((s.setTeam t (s.seated t cl base bn)).standIn (s.seated t cl base bn)) with
      residency := s.residency.filter (· != t), freeCtr := s.freeCtr + 32 } : State).onBarrier (cl * 32 + bn)
    fun _ => State.freshBarrier { ((s.setTeam t (s.seated t cl base bn)).standIn (s.seated t cl base bn)) with
      residency := s.residency.filter (· != t), freeCtr := s.freeCtr + 32 } t (s.seated t cl base bn)
theorem exec_residency {u cl base bn : Nat} {s : State} (hnext : s.nextResident = some u) (hmode : (s.team u).mode = .waiting)
    (hplace : s.placeTeam u = some (cl, base, bn)) :
    let x := s.seated u cl base bn
    exec (.residency u) s = .next ((((((List.range x.size).foldl (fun s p => s.launchCore u x p) (s.seat u cl base bn)).renameCores u
      (enterName u x)).entriesIn u x).mapSpads u true).rehome u) := by
  intro x
  show execResidency u s = _
  simp only [execResidency, hnext, hmode, hplace, ne_eq, not_true, or_self, if_false]
  rfl
theorem Team.coreAt_inj {x : Team} {p q : Nat} : x.coreAt p = x.coreAt q ↔ p = q := by simp [Team.coreAt]
theorem State.foldl_launchCore (t : Nat) (x : Team) (l : List Nat) (s : State) {p : Nat} (h : p ∈ l ∨ Launched t x p (s.core (x.coreAt p))) :
    Launched t x p ((l.foldl (fun s p => s.launchCore t x p) s).core (x.coreAt p)) := by
  induction l generalizing s with
  | nil => exact h.resolve_left List.not_mem_nil
  | cons q l ih =>
    obtain ⟨hself, hother⟩ := s.launchCore_core t x q (x.coreAt p)
    refine ih _ ?_
    by_cases hq : p = q
    · subst hq
      exact .inr (hself rfl)
    · rw [hother fun h => hq (Team.coreAt_inj.1 h)]
      exact h.imp_left fun hm => (List.mem_cons.1 hm).resolve_left hq
/-- A waiting team takes its cores (R21, R216, R228, R288, R295). -/
theorem residency_spec {u cl base bn : Nat} {s : State} (hnext : s.nextResident = some u) (hmode : (s.team u).mode = .waiting)
    (hplace : s.placeTeam u = some (cl, base, bn)) : ∃ t, exec (.residency u) s = .next t ∧ t.team u = s.seated u cl base bn ∧ u ∉ t.residency ∧
      ∀ p < (s.team u).size, Launched u (t.team u) p (t.core (cl * 64 + base + p)) := by
  set x := s.seated u cl base bn with hx
  have hseat : (s.seat u cl base bn).team u = x := by
    show (s.setTeam u x).team u = x
    rw [State.team_setTeam, if_pos rfl]
  have hkeep : ∀ l : List Nat, (l.foldl (fun s p => s.launchCore u x p) (s.seat u cl base bn)).teams = (s.seat u cl base bn).teams ∧
      (l.foldl (fun s p => s.launchCore u x p) (s.seat u cl base bn)).residency = (s.seat u cl base bn).residency := fun l =>
    ⟨List.foldl_keeps State.teams (fun s p => s.launchCore u x p) (fun _ _ => rfl) l _,
      List.foldl_keeps State.residency (fun s p => s.launchCore u x p) (fun _ _ => rfl) l _⟩
  obtain ⟨hteams, hresidency⟩ := hkeep (List.range x.size)
  have hmoved := State.arrived_seatsKept ((List.range x.size).foldl (fun s p => s.launchCore u x p) (s.seat u cl base bn)) u x (enterName u x)
  have hstands : ((List.range x.size).foldl (fun s p => s.launchCore u x p) (s.seat u cl base bn)).team u = x := by
    rw [State.team, hteams]
    exact hseat
  have hteam := (hmoved.team u).trans hstands
  refine ⟨_, exec_residency hnext hmode hplace, hteam, ?_, fun p hp => ?_⟩
  · rw [hmoved.residency, hresidency]
    simp [State.seat, State.onBarrier]
  · rw [hteam, hmoved.core]
    exact State.foldl_launchCore u x _ _ (.inl (List.mem_range.2 hp))

/-! Completion. -/

/-- A grid that one more team has completed in (R127, R289). -/
def Grid.teamDone (g : Grid) (txp : Bool) : Grid := { g with ended := g.ended + 1, txp := g.txp || txp }
theorem State.retireTeam_done {s : State} {t : Nat} (h : (s.grid (s.team t).grid).result = 0) :
    let txp := (s.team t).cores.any fun c => (s.core c).txp
    s.retireTeam t .done 0 =
      ((((((s.team t).cores.foldl State.dropWork (s.onGrid (s.team t).grid fun g => g.teamDone txp)).mapSpads t
        false).vacateTeam t).dropEntries (outSpad t) 0x2000000).onTeam t fun x =>
          { x with mode := .done, slot := none, image := none, yreq := none, leaving := false, txp := txp }) := by
  have hresult : ∀ d, s.writeResult (s.team t) 0 d = s := fun d => by simp [State.writeResult, h]
  intro txp
  unfold State.retireTeam
  simp only [hresult]
  rfl
theorem State.dropWork_placesKept (s : State) (c : Nat) : PlacesKept s (s.dropWork c) :=
  (s.takeBack_placesKept c false).trans (.foldl (fun v x => v.copyEnds_placesKept c x) _ _)
/-- A team whose every core has ended and performed completes (R127). -/
theorem teamCompletion_spec {u : Nat} {s : State} (hres : (s.team u).isResident = true)
    (hended : ∀ c ∈ (s.team u).cores, (s.core c).ctl.mode = .ended ∧ (s.core c).performed = true) (hsends : s.sends u = false)
    (hresult : (s.grid (s.team u).grid).result = 0) :
    ∃ t, exec (.teamCompletion u) s = .next t ∧ (t.team u).mode = .done ∧ (∀ c ∈ (s.team u).cores, (t.core c).ctl.mode = .idle) ∧
      (t.grid (s.team u).grid).ended = (s.grid (s.team u).grid).ended + 1 := by
  have hexec : exec (.teamCompletion u) s = .next (s.retireTeam u .done 0) := by
    have hall : ((s.team u).cores.all fun c => (s.core c).ctl.mode == .ended && (s.core c).performed) = true :=
      List.all_eq_true.2 fun c hc => by simp [(hended c hc).1, (hended c hc).2]
    show execTeamCompletion u s = _
    simp [execTeamCompletion, hres, hsends, hall]
  refine ⟨_, hexec, ?_⟩
  rw [State.retireTeam_done hresult]
  set txp := (s.team u).cores.any fun c => (s.core c).txp
  set v := ((s.team u).cores.foldl State.dropWork (s.onGrid (s.team u).grid fun g => g.teamDone txp)).mapSpads u false
  have hv : PlacesKept (s.onGrid (s.team u).grid fun g => g.teamDone txp) v :=
    (PlacesKept.foldl State.dropWork_placesKept _ _).trans (State.mapSpads_memOnly ..).placesKept
  obtain ⟨hvac, hidle⟩ := v.vacateTeam_spec u
  have hteam : v.team u = s.team u := congrArg (fun T : Table Team => T.get ({} : Team) u) hv.teams
  have hgrid : (v.vacateTeam u).grid (s.team u).grid = (s.grid (s.team u).grid).teamDone txp := by
    rw [State.grid, hvac.grids, hv.grids]
    exact (State.grid_onGrid ..).trans (if_pos rfl)
  rw [hteam] at hidle
  generalize v.vacateTeam u = y at hidle hgrid
  refine ⟨?_, hidle, ?_⟩
  · rw [State.team_onTeam, if_pos rfl]
  · show (y.grid (s.team u).grid).ended = _
    rw [hgrid]
    rfl

end Sys2Proof.Machine
end

section
/-! SUPPORT. A team that returns to its cores from its image (R242, R243, R296, R342). -/
namespace Sys2Proof.Machine
open Sys2Proof.Claims

theorem Table.get_foldl_range {α : Type} [DecidableEq α] (d : α) (v : Nat → α) (t : Table α) {n j : Nat} (h : j < n) :
    Table.get d ((List.range n).foldl (fun t i => t.put d i (v i)) t) j = v j := by
  induction n with
  | zero => omega
  | succ n ih =>
    rw [List.range_succ, List.foldl_append, List.foldl_cons, List.foldl_nil, Table.get_put]
    split
    · next hj => rw [hj]
    · exact ih (by omega)
/-- Registers 1 to n that are set in turn. -/
theorem Core.csr_foldl_range (v : Nat → Word) (k : Core) {n j : Nat} (h : j < n) (h0 : j ≠ 0) :
    ((List.range n).foldl (fun k i => if i = 0 then k else k.setCsr i (v i)) k).csr j = v j := by
  induction n with
  | zero => omega
  | succ n ih =>
    rw [List.range_succ, List.foldl_append, List.foldl_cons, List.foldl_nil]
    split
    · exact ih (by omega)
    · rw [Core.csr_setCsr]
      split
      · next hj => rw [hj]
      · exact ih (by omega)
/-- Bytes outside the range that a move fills stay. -/
theorem State.byte_moveMem_other (s : State) {a n b j : Nat} (h : j < b ∨ b + n ≤ j) : Memory.byte (s.moveMem a n b).mem j = Memory.byte s.mem j := by
  show Memory.byte (Memory.writeCells (Memory.clear s.mem b n) (Memory.moved s.mem a n b)) j = _
  rw [Memory.byte_writeCells _ _ _ fun q hq => ?_, Memory.byte_clear, if_neg (by omega)]
  obtain ⟨x, hx, rfl⟩ := List.mem_map.1 hq
  have hin := (List.mem_filter.1 hx).2
  simp only [Bool.and_eq_true, decide_eq_true_eq] at hin
  show x.1 - a + b ≠ j
  omega

/-! One core. -/

/-- A core has come back from block b of an image in memory m, `old` being what of it the image keeps beside (R242, R243). -/
structure Restored (m : List Host.Cell) (b : Nat) (old k : Core) : Prop where
  stands : StandsAs k m b
  copies : k.copies = old.copies
  flights : k.flights = old.flights
  mode : k.ctl.mode = if old.ctl.mode = .yielded then .run else old.ctl.mode

/-! The registers of a block. -/

theorem State.fixedRegs_s (s : State) (b e : Nat) (old : Regs) {r : Nat} (hr : r < 64) :
    (s.fixedRegs b e old).s.get 0 r = wordN (Memory.read s.mem (b + 8 * r) 8) := by
  unfold State.fixedRegs
  dsimp only
  exact Table.get_foldl_range 0 (fun i => wordN (Memory.read s.mem (b + 8 * i) 8)) [] hr
theorem State.fixedRegs_stag (s : State) (b e : Nat) (old : Regs) {r : Nat} (hr : r < 64) :
    (s.fixedRegs b e old).stag.get 31 r = (Memory.byte s.mem (b + 0x600 + r)).toNat := by
  unfold State.fixedRegs
  dsimp only
  unfold State.bytesAt
  exact Table.get_foldl_range 31 (fun i => (Memory.byte s.mem (b + 0x600 + i)).toNat) [] hr
theorem State.fixedRegs_clocks (s : State) (b e : Nat) (old : Regs) {i : Nat} (hi : i < 32) :
    (s.fixedRegs b e old).clocks.get 0 i = Memory.read s.mem (e + 4 * i) 4 := by
  unfold State.fixedRegs
  dsimp only
  exact Table.get_foldl_range 0 (fun i => Memory.read s.mem (e + 4 * i) 4) [] hi
/-- What a block of an image gives a core beside its control registers. -/
def State.regained (s : State) (x : Team) (ib : Nat) (old : Core) (p : Nat) : Core :=
  let b := ib + p * 0x200000
  let here := s.core (x.coreAt p)
  let q := ib + 0x8000000 + p * 1024
  let mx := { old.mx with routines := here.mx.routines, store := here.mx.store, act := here.mx.act,
                          queue := old.mx.queue.zipIdx.map fun e => e.1.fromRecord s (q + 256 * e.2) }
  { old with regs := s.fixedRegs b (b + 0x98800) old.regs, mx := mx, wbuf := s.linesAt (b + 0x80000) 0 768, rcb := some (s.rcbOf x) }
/-- With the control registers that the block keeps. -/
def State.regainedCsr (s : State) (x : Team) (ib : Nat) (old : Core) (p : Nat) : Core :=
  (List.range 256).foldl (fun (k : Core) n =>
    if n = 0 then k else k.setCsr n (wordN (Memory.read s.mem (ib + p * 0x200000 + 0x98000 + 8 * n) 8))) (s.regained x ib old p)
/-- With those that stay with the physical core or start anew (R359, R360, R362). -/
def State.unpacked (s : State) (x : Team) (ib : Nat) (old : Core) (p : Nat) : Core :=
  let here := s.core (x.coreAt p)
  let k := (((s.regainedCsr x ib old p).identify x p).setCsr csrCYC (here.csr csrCYC)).setCsr csrSTL (here.csr csrSTL)
  (List.range 4).foldl (fun (k : Core) i => k.setCsr (csrPMC + i) 0) (k.setCsr csrPMEV 0)
theorem CsrsOnly.mono {p q : Nat → Prop} {k k' : Core} (h : CsrsOnly p k k') (hq : ∀ n, p n → q n) : CsrsOnly q k k' :=
  ⟨h.rest, fun n hn => h.csr n fun hp => hn (hq n hp)⟩
/-- Of the block's registers IC stands as it is kept, and the rest of the core comes from the block or stays (R242, R243). -/
theorem State.unpacked_spec (s : State) (x : Team) (ib : Nat) (old : Core) (p : Nat) :
    CsrsOnly (fun _ => True) (s.regained x ib old p) (s.unpacked x ib old p) ∧
    (s.unpacked x ib old p).csr csrIC = wordN (Memory.read s.mem (ib + p * 0x200000 + 0x98020) 8) := by
  have hblock : CsrsOnly (fun _ => True) (s.regained x ib old p) (s.regainedCsr x ib old p) := .foldl _ (fun k n _ => by
    split
    · exact .refl _ k
    · exact .setCsr k _ trivial) _
  have hic : (s.regainedCsr x ib old p).csr csrIC = wordN (Memory.read s.mem (ib + p * 0x200000 + 0x98000 + 8 * csrIC) 8) :=
    Core.csr_foldl_range (fun n => wordN (Memory.read s.mem (ib + p * 0x200000 + 0x98000 + 8 * n) 8)) _ (by decide) (by decide)
  have hset : ∀ k n v, n ≠ csrIC → CsrsOnly (· ≠ csrIC) k (k.setCsr n v) := fun k n v hn => .setCsr k v hn
  have hplace : CsrsOnly (· ≠ csrIC) (s.regainedCsr x ib old p) ((s.regainedCsr x ib old p).identify x p) :=
    (Core.identify_csr _ x p).1.mono fun n hn => by rcases hn with rfl | rfl | rfl <;> decide
  have hlast : CsrsOnly (· ≠ csrIC) (s.regainedCsr x ib old p) (s.unpacked x ib old p) :=
    (((hplace.trans (hset _ _ _ (by decide))).trans (hset _ _ _ (by decide))).trans (hset _ _ _ (by decide))).trans
      (.foldl _ (fun k i _ => hset k _ _ (by simp only [csrPMC, csrIC]; omega)) _)
  exact ⟨hblock.trans (hlast.mono fun _ _ => trivial), (hlast.csr csrIC (not_not.2 rfl)).trans hic⟩
/-- A core goes on at the place and the level that the image names. -/
def Core.goOn (k : Core) (pc word level did : Nat) : Core :=
  { k with ctl := { k.ctl with
    pc := pc, rep := word / 256, dmask := word % 256, level := level, window := [], stall := 0, did := did, events := [], pmev := 0 } }.runOn
/-- The core that stands at position p of its team again. -/
def State.restored (s : State) (x : Team) (ib : Nat) (old : Core) (p : Nat) : Core :=
  let rec8 := fun (o : Nat) => Memory.read s.mem (ib + p * 0x200000 + 0x98800 + o) 8
  (s.unpacked x ib old p).goOn (rec8 0x80) (rec8 0x88) (rec8 0xF0) (if (s.core (x.coreAt p)).ctl.did = 1 then 1 else 0)
theorem Core.mode_runOn (k : Core) : k.runOn.ctl.mode = if k.ctl.mode = .yielded then .run else k.ctl.mode := by
  unfold Core.runOn
  dsimp only
  split
  · next h => rw [if_pos h]
  · next h => rw [if_neg h]
/-- What a core has where it goes on, its views moved. -/
theorem Core.goOn_keeps (u : Core) (pc word level did a n b : Nat) : let k := (u.goOn pc word level did).moveViews a n b
    k.regs = u.regs ∧ k.copies = u.copies ∧ k.flights = u.flights ∧ k.ctl.mode = (if u.ctl.mode = .yielded then .run else u.ctl.mode) ∧
      k.ctl.pc = pc ∧ k.ctl.level = level := ⟨rfl, rfl, rfl, Core.mode_runOn _, rfl, rfl⟩
theorem State.restoreCore_eq (s : State) (x : Team) (ib : Nat) (old : Core) (p : Nat) : s.restoreCore x ib old p =
    (s.setCore (x.coreAt p) ((s.restored x ib old p).moveViews (outSpad (s.restored x ib old p).ctl.team) (x.size * 0x80000)
      (spadBase (x.coreAt 0)))).moveMem (ib + p * 0x200000 + 0x20000) 0x60000 (spadBase (x.coreAt p)) := by
  unfold State.restoreCore State.restored Core.goOn State.unpacked State.regainedCsr State.regained
  rfl
theorem State.regained_keeps (s : State) (x : Team) (ib : Nat) (old : Core) (p : Nat) : let b := ib + p * 0x200000
    (s.regained x ib old p).regs = s.fixedRegs b (b + 0x98800) old.regs ∧ (s.regained x ib old p).copies = old.copies ∧
      (s.regained x ib old p).flights = old.flights ∧ (s.regained x ib old p).ctl = old.ctl := by
  unfold State.regained
  generalize s.fixedRegs _ _ _ = r
  exact ⟨rfl, rfl, rfl, rfl⟩
/-- The registers that the image gives beside the control registers, and what else stays as the image has it. -/
theorem State.unpacked_keeps (s : State) (x : Team) (ib : Nat) (old : Core) (p : Nat) :
    (s.unpacked x ib old p).regs =
      { s.fixedRegs (ib + p * 0x200000) (ib + p * 0x200000 + 0x98800) old.regs with csr := (s.unpacked x ib old p).regs.csr } ∧
    (s.unpacked x ib old p).copies = old.copies ∧ (s.unpacked x ib old p).flights = old.flights ∧
    (s.unpacked x ib old p).ctl = old.ctl := by
  have hrest := (s.unpacked_spec x ib old p).1.rest
  obtain ⟨hregs, hcopies, hflights, hctl⟩ := s.regained_keeps x ib old p
  rw [← hregs, ← hcopies, ← hflights, ← hctl]
  generalize s.unpacked x ib old p = u at hrest ⊢
  generalize s.regained x ib old p = g at hrest ⊢
  exact ⟨(congrArg Core.regs hrest :), (congrArg Core.copies hrest :), (congrArg Core.flights hrest :), (congrArg Core.ctl hrest :)⟩
theorem State.unpacked_goOn (s : State) (x : Team) (ib : Nat) (old : Core) (p : Nat) {pc level : Nat} (word did a n b : Nat)
    (hpc : pc = Memory.read s.mem (ib + p * 0x200000 + 0x98880) 8) (hlevel : level = Memory.read s.mem (ib + p * 0x200000 + 0x988F0) 8) :
    Restored s.mem (ib + p * 0x200000) old (((s.unpacked x ib old p).goOn pc word level did).moveViews a n b) := by
  have hic := (s.unpacked_spec x ib old p).2
  obtain ⟨hregs, hcopies, hflights, hctl⟩ := s.unpacked_keeps x ib old p
  generalize s.unpacked x ib old p = u at hic hregs hcopies hflights hctl ⊢
  obtain ⟨gregs, gcopies, gflights, gmode, gpc, glevel⟩ := u.goOn_keeps pc word level did a n b
  generalize (u.goOn pc word level did).moveViews a n b = k at gregs gcopies gflights gmode gpc glevel ⊢
  refine ⟨⟨gpc.trans hpc, ?_, glevel.trans hlevel, fun r h0 hr => ⟨?_, ?_⟩, fun i hi => ?_⟩, gcopies.trans hcopies,
    gflights.trans hflights, by rw [gmode, hctl]⟩
  · rw [Core.csr, gregs, ← Core.csr, hic]
  · rw [Core.sreg, if_neg (by omega), gregs, hregs]
    dsimp only
    rw [s.fixedRegs_s _ _ _ hr, wordN, BitVec.toNat_ofNat, Nat.mod_eq_of_lt (Memory.read_lt _ _ 8)]
  · rw [Core.stag, if_neg (by omega), gregs, hregs]
    dsimp only
    rw [s.fixedRegs_stag _ _ _ hr]
  · rw [Core.clock, gregs, hregs]
    dsimp only
    rw [s.fixedRegs_clocks _ _ _ hi]
theorem State.restored_spec (s : State) (x : Team) (ib : Nat) (old : Core) (p a n b : Nat) :
    Restored s.mem (ib + p * 0x200000) old ((s.restored x ib old p).moveViews a n b) :=
  s.unpacked_goOn x ib old p _ _ a n b (congrArg (Memory.read s.mem · 8) (by omega)) (congrArg (Memory.read s.mem · 8) (by omega))

/-! All cores of a team. -/

theorem standsAs_congr {k : Core} {m m' : List Host.Cell} {b : Nat} (h : StandsAs k m b)
    (hm : ∀ j < 0x98900, Memory.byte m' (b + j) = Memory.byte m (b + j)) : StandsAs k m' b := by
  obtain ⟨hpc, hic, hlevel, hregs, hclocks⟩ := h
  have hread : ∀ o n, o + n ≤ 0x98900 → Memory.read m' (b + o) n = Memory.read m (b + o) n := fun o n ho =>
    Memory.read_congr fun i hi => by
      rw [Nat.add_assoc]
      exact hm _ (by omega)
  refine ⟨hpc.trans (hread _ _ (by norm_num)).symm, hic.trans (congrArg wordN (hread _ _ (by norm_num)).symm),
    hlevel.trans (hread _ _ (by norm_num)).symm, fun r h0 hr => ?_, fun i hi => ?_⟩
  · rw [hread _ _ (by omega), Nat.add_assoc, hm _ (by omega), ← Nat.add_assoc]
    exact hregs r h0 hr
  · rw [hclocks i hi, Nat.add_assoc, hread _ _ (by omega)]
theorem Restored.congr {m m' : List Host.Cell} {b : Nat} {old k : Core} (h : Restored m b old k)
    (hm : ∀ j < 0x98900, Memory.byte m' (b + j) = Memory.byte m (b + j)) : Restored m' b old k :=
  ⟨standsAs_congr h.stands hm, h.copies, h.flights, h.mode⟩
/-- One core comes back; teams and what lies below the scratchpads stay. -/
theorem State.restoreCore_spec (s : State) (x : Team) (ib : Nat) (old : Core) (p : Nat) : let t := s.restoreCore x ib old p
    Restored s.mem (ib + p * 0x200000) old (t.core (x.coreAt p)) ∧ (∀ d, d ≠ x.coreAt p → t.core d = s.core d) ∧
      t.teams = s.teams ∧ t.residency = s.residency ∧ ∀ j < 4 * dieBytes, Memory.byte t.mem j = Memory.byte s.mem j := by
  have hback := s.restored_spec x ib old p (outSpad (s.restored x ib old p).ctl.team) (x.size * 0x80000) (spadBase (x.coreAt 0))
  rw [State.restoreCore_eq]
  generalize (s.restored x ib old p).moveViews _ _ _ = k at hback ⊢
  have hcore : ∀ a n b d, ((s.setCore (x.coreAt p) k).moveMem a n b).core d = if d = x.coreAt p then k else s.core d :=
    fun _ _ _ d => State.core_setCore ..
  refine ⟨?_, fun d hd => by rw [hcore, if_neg hd], rfl, rfl, fun j hj => State.byte_moveMem_other _ ?_⟩
  · rw [hcore, if_pos rfl]
    exact hback
  · simp only [dieBytes, spadBase] at hj ⊢
    omega
/-- The cores of an image from position n on come back. -/
def State.restoreAll (s : State) (x : Team) (ib : Nat) (ks : List Core) (n : Nat) : State :=
  (ks.zipIdx n).foldl (fun s k => s.restoreCore x ib k.1 k.2) s
theorem State.restoreAll_cons (s : State) (x : Team) (ib : Nat) (k : Core) (ks : List Core) (n : Nat) :
    s.restoreAll x ib (k :: ks) n = (s.restoreCore x ib k n).restoreAll x ib ks (n + 1) := by
  rw [State.restoreAll, List.zipIdx_cons, List.foldl_cons]
  rfl
theorem State.restoreAll_keeps (x : Team) (ib : Nat) (ks : List Core) (s : State) (n : Nat) : let t := s.restoreAll x ib ks n
    (∀ p < n, t.core (x.coreAt p) = s.core (x.coreAt p)) ∧ t.teams = s.teams ∧ t.residency = s.residency := by
  induction ks generalizing s n with
  | nil => exact ⟨fun _ _ => rfl, rfl, rfl⟩
  | cons k ks ih =>
    obtain ⟨-, hother, hteams, hresidency, -⟩ := s.restoreCore_spec x ib k n
    rw [State.restoreAll_cons]
    generalize s.restoreCore x ib k n = u at hother hteams hresidency ⊢
    obtain ⟨hcores, iteams, iresidency⟩ := ih u (n + 1)
    exact ⟨fun p hp => (hcores p (by omega)).trans (hother _ fun h => by have := Team.coreAt_inj.1 h; omega), iteams.trans hteams,
      iresidency.trans hresidency⟩
theorem State.restoreAll_spec {m : List Host.Cell} (x : Team) {ib : Nat} (hib : ib + 0x8100000 ≤ 4 * dieBytes) (ks : List Core) (s : State)
    (n : Nat) (hmem : ∀ j < 4 * dieBytes, Memory.byte s.mem j = Memory.byte m j) {p : Nat} {k : Core} (hp : n + p < 64) (hk : ks[p]? = some k) :
    Restored m (ib + (n + p) * 0x200000) k ((s.restoreAll x ib ks n).core (x.coreAt (n + p))) := by
  induction ks generalizing s n p with
  | nil => simp at hk
  | cons k0 ks ih =>
    obtain ⟨hself, -, -, -, hlow⟩ := s.restoreCore_spec x ib k0 n
    rw [State.restoreAll_cons]
    generalize s.restoreCore x ib k0 n = u at hself hlow ⊢
    cases p with
    | zero =>
      obtain rfl : k0 = k := by simpa using hk
      rw [Nat.add_zero, (State.restoreAll_keeps x ib ks u (n + 1)).1 n (by omega)]
      refine hself.congr fun j hj => (hmem _ ?_).symm
      omega
    | succ p =>
      have := ih u (n + 1) (p := p) (fun j hj => (hlow j hj).trans (hmem j hj)) (by omega) (by simpa using hk)
      rwa [Nat.add_assoc, Nat.add_comm 1 p] at this

/-! The event. -/

/-- A team as it takes cores again. -/
def State.reseated (s : State) (t cl base bn : Nat) : Team :=
  { s.team t with mode := .resident, cluster := cl, base := base, bn := bn, since := 0, image := none }
/-- The machine before the team's cores are restored. -/
def State.reseat (s : State) (t cl base bn : Nat) : State :=
  { (s.setTeam t (s.reseated t cl base bn)).standIn (s.reseated t cl base bn) with residency := s.residency.filter (· != t) }
theorem State.imageBase_reseat (s : State) (t cl base bn slot : Nat) :
    (s.reseat t cl base bn).imageBase ((s.reseat t cl base bn).rcbOf (s.reseated t cl base bn)) slot = s.imageBase (s.rcbOf (s.team t)) slot := by
  have hrcb : (s.reseat t cl base bn).rcbOf (s.reseated t cl base bn) = s.rcbOf (s.team t) := by
    show (((s.setTeam t (s.reseated t cl base bn)).onGrid (s.team t).grid fun g => { g with stood := joined cl g.stood }).grid (s.team t).grid).rcb = _
    rw [State.grid_onGrid, if_pos rfl]
    rfl
  rw [hrcb, State.imageBase, State.imageBase, State.region, State.region, regionWord_congr (s := s) (u := s.reseat t cl base bn) rfl]
theorem exec_swapIn {u cl base bn : Nat} {s : State} {im : Image} (hnext : s.nextResident = some u) (hmode : (s.team u).mode = .out)
    (hplace : s.placeTeam u = some (cl, base, bn)) (himage : (s.team u).image = some im) :
    let x := s.reseated u cl base bn
    let v := (s.reseat u cl base bn).restoreAll x (s.imageBase (s.rcbOf (s.team u)) ((s.team u).slot.getD 0)) im.cores 0
    exec (.swapIn u) s = .next (((((v.onBarrier (cl * 32 + bn) fun _ => v.returnBarrier u x im.barrier).renameCores u
      (enterName u x)).entriesIn u x).mapSpads u true).rehome u) := by
  intro x v
  rw [show v = _ from congrArg (fun ib => (s.reseat u cl base bn).restoreAll x ib im.cores 0) (s.imageBase_reseat u cl base bn _).symm]
  show execSwapIn u s = _
  simp only [execSwapIn, hnext, hmode, hplace, himage, ne_eq, not_true, or_self, if_false]
  rfl
/-- A team that was out takes cores again, and each stands as its block of the image has it (R242, R243, R296). -/
theorem swapIn_spec {u cl base bn : Nat} {s : State} {im : Image} (hnext : s.nextResident = some u) (hmode : (s.team u).mode = .out)
    (hplace : s.placeTeam u = some (cl, base, bn)) (himage : (s.team u).image = some im) (hhbm : imageInHbm s u ((s.team u).slot.getD 0)) :
    ∃ t, exec (.swapIn u) s = .next t ∧ t.team u = s.reseated u cl base bn ∧ u ∉ t.residency ∧ ∀ p k, p < 64 → im.cores[p]? = some k →
      Restored s.mem (imageAt s u ((s.team u).slot.getD 0) p) k (t.core (cl * 64 + base + p)) := by
  refine ⟨_, exec_swapIn hnext hmode hplace himage, ?_⟩
  set x := s.reseated u cl base bn with hx
  set ib := s.imageBase (s.rcbOf (s.team u)) ((s.team u).slot.getD 0) with hib
  have hroom : ib + 0x8100000 ≤ 4 * dieBytes := by simpa [imageInHbm, imageAt] using hhbm
  set v := (s.reseat u cl base bn).restoreAll x ib im.cores 0 with hv
  obtain ⟨-, hteams, hresidency⟩ := State.restoreAll_keeps x ib im.cores (s.reseat u cl base bn) 0
  have hmoved := State.arrived_seatsKept (v.onBarrier (cl * 32 + bn) fun _ => v.returnBarrier u x im.barrier) u x (enterName u x)
  refine ⟨(hmoved.team u).trans ?_, ?_, fun p k hp hk => ?_⟩
  · show v.team u = x
    rw [State.team, hteams]
    show (s.setTeam u x).team u = x
    rw [State.team_setTeam, if_pos rfl]
  · rw [hmoved.residency]
    show u ∉ v.residency
    rw [hresidency]
    simp [State.reseat]
  · rw [hmoved.core]
    have := State.restoreAll_spec x hroom im.cores (s.reseat u cl base bn) 0 (m := s.mem) (fun _ _ => rfl) (by omega : 0 + p < 64) hk
    rwa [Nat.zero_add] at this

end Sys2Proof.Machine
end

section
/-! SUPPORT. The image of a team that leaves: what its blocks hold of a core (R213, R242, R243, R301; log 19). -/
namespace Sys2Proof.Machine
open Sys2Proof.Claims

/-! Cells from an address on. -/

/-- All cells lie at an address or above it. -/
def Above (a : Nat) (cs : List (Nat × Byte)) : Prop := ∀ c ∈ cs, a ≤ c.1
@[simp] theorem above_nil (a : Nat) : Above a [] := fun _ h => absurd h List.not_mem_nil
@[simp] theorem above_append {a : Nat} {l m : List (Nat × Byte)} : Above a (l ++ m) ↔ Above a l ∧ Above a m := List.forall_mem_append
@[simp] theorem above_flatMap {α : Type} {a : Nat} {l : List α} {f : α → List (Nat × Byte)} :
    Above a (l.flatMap f) ↔ ∀ x ∈ l, Above a (f x) := List.forall_mem_flatMap
theorem Above.mono {a b : Nat} {cs : List (Nat × Byte)} (h : Above b cs) (hab : a ≤ b) : Above a cs := fun c hc => hab.trans (h c hc)
theorem above_cellsOf {a b : Nat} (h : a ≤ b) (n x : Nat) : Above a (cellsOf b n x) := fun c hc => by
  obtain ⟨i, -, rfl⟩ := List.mem_map.1 hc
  exact h.trans (Nat.le_add_right b i)
theorem above_cellsAt {a b : Nat} (h : a ≤ b) (bs : List Byte) : Above a (cellsAt b bs) := fun c hc => by
  obtain ⟨i, -, rfl⟩ := mem_cellsAt hc
  exact h.trans (Nat.le_add_right b i)
theorem above_wordsAt {a b : Nat} (h : a ≤ b) (room : Nat) (ws : List Nat) : Above a (wordsAt b room ws) :=
  above_flatMap.2 fun _ _ => above_cellsOf (by omega) _ _
theorem above_tableAt {a b : Nat} (h : a ≤ b) (w room : Nat) (t : List (Nat × Nat)) : Above a (tableAt b w room t) :=
  above_append.2 ⟨above_cellsOf h _ _, above_flatMap.2 fun _ _ => above_append.2 ⟨above_cellsOf (by omega) _ _, above_cellsOf (by omega) _ _⟩⟩
theorem above_lineCells {a b : Nat} {tb : Table Line} (h : ∀ e ∈ tb, a ≤ b + 128 * e.1) : Above a (lineCells tb b) :=
  above_flatMap.2 fun e he => above_cellsAt (h e he) _
theorem above_record {a b : Nat} (h : a ≤ b) (e : MxEntry) : Above a (e.record b) := by
  unfold MxEntry.record
  simp only [above_append, above_flatMap]
  exact ⟨⟨⟨above_cellsOf h _ _, fun _ _ => above_cellsOf (by omega) _ _⟩, fun _ _ => ⟨above_cellsOf (by omega) _ _, above_cellsOf (by omega) _ _⟩⟩,
    above_cellsOf (by omega) _ _⟩

/-! Reads of what was written. -/

theorem Above.byte {a j : Nat} {cs : List (Nat × Byte)} (h : Above a cs) (m : List Host.Cell) (hj : j < a) :
    Memory.byte (Memory.writeCells m cs) j = Memory.byte m j :=
  Memory.byte_writeCells _ _ _ fun c hc => by have := h c hc; omega
theorem Memory.read_writeCells_above {a b n : Nat} {cs : List (Nat × Byte)} (h : Above b cs) (m : List Host.Cell) (ha : a + n ≤ b) :
    Memory.read (Memory.writeCells m cs) a n = Memory.read m a n :=
  Memory.read_congr fun i hi => h.byte m (by omega)
/-- Words side by side read back. -/
theorem Memory.read_words (m : List Host.Cell) (a : Nat) (v : Nat → Nat) {n r : Nat} (h : r < n) :
    Memory.read (Memory.writeCells m ((List.range n).flatMap fun i => cellsOf (a + 8 * i) 8 (v i))) (a + 8 * r) 8 = v r % 2 ^ 64 := by
  induction n with
  | zero => omega
  | succ n ih =>
    rw [List.range_succ, List.flatMap_append, List.flatMap_singleton, Memory.writeCells_append]
    by_cases hr : r = n
    · rw [hr, Memory.read_write8]
    · rw [← ih (by omega)]
      exact Memory.read_writeCells_above (above_cellsOf le_rfl _ _) _ (by omega)
theorem State.mem_replaceMem (s : State) (a n : Nat) (cs : List (Nat × Byte)) :
    (s.replaceMem a n cs).mem = Memory.writeCells (Memory.clear s.mem a n) cs := rfl
theorem State.byte_replaceMem_below (s : State) {a j : Nat} {cs : List (Nat × Byte)} (n : Nat) (h : Above a cs) (hj : j < a) :
    Memory.byte (s.replaceMem a n cs).mem j = Memory.byte s.mem j := by
  rw [State.mem_replaceMem, h.byte _ hj, Memory.byte_clear, if_neg (by omega)]

/-! The parts of a block. -/

theorem Core.fixedBlock_eq (k : Core) (a : Nat) : ∃ rest,
    k.fixedBlock a = ((List.range 64).flatMap fun i => cellsOf (a + 8 * i) 8 (k.sreg i).toNat) ++ rest ∧ Above (a + 0x200) rest := by
  unfold Core.fixedBlock Core.latchBlock
  simp only [List.append_assoc]
  refine ⟨_, rfl, ?_⟩
  simp (disch := omega) [above_cellsOf]
theorem State.headBlock_above (s : State) (c a : Nat) : Above (a + 0x200) (s.headBlock c a) := by
  unfold State.headBlock
  refine above_flatMap.2 fun q _ => ?_
  split
  · split
    · exact above_cellsOf (by omega) _ _
    · exact above_nil _
  · exact above_nil _
theorem Core.stateBlock_pc (k : Core) (a : Nat) : ∃ pre post,
    k.stateBlock a = pre ++ cellsOf (a + 0x80) 8 k.ctl.pc ++ post ∧ Above (a + 0x88) post := by
  refine ⟨_, _, by unfold Core.stateBlock; simp only [List.append_assoc]; rw [← List.append_assoc], ?_⟩
  simp (disch := omega) [above_cellsOf, above_wordsAt]
theorem Core.stateBlock_level (k : Core) (a : Nat) : ∃ pre post,
    k.stateBlock a = pre ++ cellsOf (a + 0xF0) 8 k.heldLevel ++ post ∧ Above (a + 0xF8) post := by
  refine ⟨_, _, by unfold Core.stateBlock; simp only [List.append_assoc]; iterate 3 rw [← List.append_assoc], ?_⟩
  simp (disch := omega) [above_cellsOf, above_wordsAt]
theorem Core.stateBlock_above (k : Core) (a : Nat) : Above a (k.stateBlock a) := by
  unfold Core.stateBlock
  simp (disch := omega) [above_cellsOf, above_wordsAt]
theorem Core.routineBlock_above (k : Core) (a : Nat) : Above a (k.routineBlock a) := by
  unfold Core.routineBlock
  split
  · exact above_nil a
  · simp (disch := omega) [above_record, above_wordsAt, above_tableAt]

/-! One core. -/

/-- The block in memory m from b holds a core's scalar registers, place and activity level (R213, R243, R376). -/
structure Saved (k : Core) (m : List Host.Cell) (b : Nat) : Prop where
  regs : (∀ e ∈ k.regs.rs, 32 ≤ e.1) → ∀ r < 64, Memory.read m (b + 8 * r) 8 = (k.sreg r).toNat
  place : Memory.read m (b + 0x98880) 8 = k.ctl.pc % 2 ^ 64
  level : Memory.read m (b + 0x988F0) 8 = k.heldLevel % 2 ^ 64
theorem Saved.congr {k : Core} {m m' : List Host.Cell} {b : Nat} (h : Saved k m b)
    (hm : ∀ j < 0x98900, Memory.byte m' (b + j) = Memory.byte m (b + j)) : Saved k m' b := by
  have hread : ∀ o, o + 8 ≤ 0x98900 → Memory.read m' (b + o) 8 = Memory.read m (b + o) 8 := fun o ho => Memory.read_congr fun i hi => by
    rw [Nat.add_assoc]
    exact hm _ (by omega)
  exact ⟨fun hrs r hr => (hread _ (by omega)).trans (h.regs hrs r hr), (hread _ (by norm_num)).trans h.place,
    (hread _ (by norm_num)).trans h.level⟩
/-- A block with its fixed part written. -/
def State.blockRegs (s : State) (b c : Nat) : State :=
  s.replaceMem b 0x20000 ((s.core c).fixedBlock b ++ s.headBlock c b ++ lineCells (s.core c).regs.rs b)
/-- A block with the scratchpad, the weight buffer and the control registers written behind that. -/
def State.blockCsrs (s : State) (b c : Nat) : State :=
  let u := ((s.blockRegs b c).moveMem (spadBase c) 0x60000 (b + 0x20000)).replaceMem (b + 0x80000) 98304 (lineCells (s.core c).wbuf (b + 0x80000))
  u.replaceMem (b + 0x98000) 2048 ((List.range 256).flatMap fun n => cellsOf (b + 0x98000 + 8 * n) 8 (u.readCsr c n).toNat)
/-- A block with the core state written behind that. -/
def State.blockState (s : State) (b c : Nat) : State :=
  (s.blockCsrs b c).replaceMem (b + 0x98800) 30720 ((s.core c).stateBlock (b + 0x98800))
theorem State.saveCore_eq (s : State) (ib c p : Nat) : s.saveCore ib c p =
    ((s.blockState (ib + p * 0x200000) c).replaceMem (ib + p * 0x200000 + 0xA0000) 1441792
      ((s.core c).routineBlock (ib + p * 0x200000 + 0xA0000))).replaceMem (ib + 0x8000000 + p * 1024) 1024
      ((s.core c).mx.queue.zipIdx.flatMap fun e => e.1.record (ib + 0x8000000 + p * 1024 + 256 * e.2)) := rfl
theorem State.byte_blockRegs (s : State) {b j : Nat} (c : Nat) (hj : j < b) :
    Memory.byte (s.blockRegs b c).mem j = Memory.byte s.mem j := by
  refine s.byte_replaceMem_below _ ?_ hj
  obtain ⟨rest, heq, hrest⟩ := (s.core c).fixedBlock_eq b
  rw [heq]
  simp only [above_append, above_flatMap]
  exact ⟨⟨⟨fun _ _ => above_cellsOf (by omega) _ _, hrest.mono (by omega)⟩, (s.headBlock_above c b).mono (by omega)⟩,
    above_lineCells fun _ _ => by omega⟩
theorem State.byte_blockCsrs (s : State) {b j : Nat} (c : Nat) (hj : j < b + 0x20000) :
    Memory.byte (s.blockCsrs b c).mem j = Memory.byte (s.blockRegs b c).mem j := by
  unfold State.blockCsrs
  rw [State.byte_replaceMem_below _ _ (above_flatMap.2 fun _ _ => above_cellsOf (by omega) _ _) (by omega),
    State.byte_replaceMem_below _ _ (above_lineCells fun _ _ => by omega) (by omega), State.byte_moveMem_other _ (.inl hj)]
theorem State.byte_blockState (s : State) {b j : Nat} (c : Nat) (hj : j < b + 0x98800) :
    Memory.byte (s.blockState b c).mem j = Memory.byte (s.blockCsrs b c).mem j :=
  State.byte_replaceMem_below _ _ (Core.stateBlock_above _ _) hj
theorem State.byte_saveCore (s : State) {ib p j : Nat} (c : Nat) (hp : p < 64) (hj : j < ib + p * 0x200000 + 0xA0000) :
    Memory.byte (s.saveCore ib c p).mem j = Memory.byte (s.blockState (ib + p * 0x200000) c).mem j := by
  rw [State.saveCore_eq, State.byte_replaceMem_below _ _ (above_flatMap.2 fun _ _ => above_record (by omega) _) (by omega),
    State.byte_replaceMem_below _ _ (Core.routineBlock_above _ _) hj]
/-- A core's block lies behind the blocks of the cores before it. -/
theorem State.byte_saveCore_below (s : State) {ib p j : Nat} (c : Nat) (hp : p < 64) (hj : j < ib + p * 0x200000) :
    Memory.byte (s.saveCore ib c p).mem j = Memory.byte s.mem j := by
  rw [s.byte_saveCore c hp (by omega), s.byte_blockState c (by omega), s.byte_blockCsrs c (by omega), s.byte_blockRegs c hj]
theorem State.read_blockRegs (s : State) (b c : Nat) (hrs : ∀ e ∈ (s.core c).regs.rs, 32 ≤ e.1) {r : Nat} (hr : r < 64) :
    Memory.read (s.blockRegs b c).mem (b + 8 * r) 8 = ((s.core c).sreg r).toNat := by
  obtain ⟨rest, heq, hrest⟩ := (s.core c).fixedBlock_eq b
  have hlines : Above (b + 0x200) (lineCells (s.core c).regs.rs b) := above_lineCells fun e he => by have := hrs e he; omega
  rw [State.blockRegs, State.mem_replaceMem, heq, List.append_assoc, List.append_assoc, Memory.writeCells_append,
    Memory.read_writeCells_above (above_append.2 ⟨hrest, above_append.2 ⟨s.headBlock_above c b, hlines⟩⟩) _ (by omega),
    Memory.read_words _ _ _ hr, Nat.mod_eq_of_lt ((s.core c).sreg r).isLt]
theorem State.read_blockState (s : State) (b c : Nat) : let m := (s.blockState b c).mem
    Memory.read m (b + 0x98880) 8 = (s.core c).ctl.pc % 2 ^ 64 ∧ Memory.read m (b + 0x988F0) 8 = (s.core c).heldLevel % 2 ^ 64 := by
  have hword : ∀ (m : List Host.Cell) (pre post : List (Nat × Byte)) (a x : Nat), Above (a + 8) post →
      Memory.read (Memory.writeCells m (pre ++ cellsOf a 8 x ++ post)) a 8 = x % 2 ^ 64 := fun m pre post a x hpost => by
    rw [Memory.writeCells_append, Memory.read_writeCells_above hpost _ le_rfl, Memory.writeCells_append, Memory.read_write8]
  obtain ⟨pre, post, heq, hpost⟩ := (s.core c).stateBlock_pc (b + 0x98800)
  obtain ⟨pre', post', heq', hpost'⟩ := (s.core c).stateBlock_level (b + 0x98800)
  constructor
  · rw [State.blockState, State.mem_replaceMem, heq, show b + 0x98880 = b + 0x98800 + 0x80 by omega]
    exact hword _ _ _ _ _ (hpost.mono (by omega))
  · rw [State.blockState, State.mem_replaceMem, heq', show b + 0x988F0 = b + 0x98800 + 0xF0 by omega]
    exact hword _ _ _ _ _ (hpost'.mono (by omega))
/-- A core's block holds what the core has. -/
theorem State.saveCore_saved (s : State) (ib c : Nat) {p : Nat} (hp : p < 64) :
    Saved (s.core c) (s.saveCore ib c p).mem (ib + p * 0x200000) := by
  obtain ⟨hplace, hlevel⟩ := s.read_blockState (ib + p * 0x200000) c
  have hstate : Saved (s.core c) (s.blockState (ib + p * 0x200000) c).mem (ib + p * 0x200000) := by
    refine ⟨fun hrs r hr => ?_, hplace, hlevel⟩
    rw [← s.read_blockRegs _ c hrs hr]
    exact Memory.read_congr fun i hi => (s.byte_blockState c (by omega)).trans (s.byte_blockCsrs c (by omega))
  exact hstate.congr fun j hj => s.byte_saveCore c hp (by omega)

/-! All cores of a team. -/

/-- The blocks of the first n positions of a team are written. -/
def State.saveCores (s : State) (x : Team) (ib n : Nat) : State := (List.range n).foldl (fun s p => s.saveCore ib (x.coreAt p) p) s
theorem State.saveCore_memOnly (s : State) (ib c p : Nat) : MemOnly s (s.saveCore ib c p) := by
  have hreplace : ∀ (u : State) a n cs, MemOnly u (u.replaceMem a n cs) := fun _ _ _ _ => rfl
  have hmove : ∀ (u : State) a n b, MemOnly u (u.moveMem a n b) := fun _ _ _ _ => rfl
  rw [State.saveCore_eq, State.blockState, State.blockCsrs, State.blockRegs]
  exact (hreplace ..).trans ((hmove ..).trans ((hreplace ..).trans ((hreplace ..).trans ((hreplace ..).trans ((hreplace ..).trans (hreplace ..))))))
theorem State.saveCores_memOnly (s : State) (x : Team) (ib n : Nat) : MemOnly s (s.saveCores x ib n) :=
  .foldl (fun s p => s.saveCore_memOnly ib (x.coreAt p) p) _ s
theorem State.saveCores_saved (s : State) (x : Team) (ib : Nat) {n p : Nat} (hn : n ≤ 64) (hp : p < n) :
    Saved (s.core (x.coreAt p)) (s.saveCores x ib n).mem (ib + p * 0x200000) := by
  induction n with
  | zero => omega
  | succ n ih =>
    have hstep : s.saveCores x ib (n + 1) = (s.saveCores x ib n).saveCore ib (x.coreAt n) n := by
      rw [State.saveCores, List.range_succ, List.foldl_append]
      rfl
    rw [hstep]
    by_cases h : p = n
    · subst h
      have hcore : (s.saveCores x ib p).core (x.coreAt p) = s.core (x.coreAt p) := by rw [s.saveCores_memOnly x ib p]; rfl
      rw [← hcore]
      exact State.saveCore_saved _ _ _ (by omega)
    · exact (ih (by omega) (by omega)).congr fun j hj => State.byte_saveCore_below _ _ (by omega) (by omega)

end Sys2Proof.Machine
end

section
/-! SUPPORT. A team that leaves its cores (R242, R243, R296), and the events of teams together (O47). -/
namespace Sys2Proof.Machine
open Sys2Proof.Claims

/-! What the image is written of. -/

/-- Of core k only first-level lines and control registers have changed. -/
def Stilled (k k' : Core) : Prop := k' = { k with l1 := k'.l1, regs := { k.regs with csr := k'.regs.csr } }
theorem Stilled.trans {a b c : Core} (h : Stilled a b) (h' : Stilled b c) : Stilled a c := by
  unfold Stilled at *; rw [h', h]
theorem Stilled.keeps {k k' : Core} (h : Stilled k k') : k'.ctl = k.ctl ∧ k'.regs.rs = k.regs.rs ∧
    (∀ r, k'.sreg r = k.sreg r) ∧ ∀ r, k'.stag r = k.stag r := by
  rw [Stilled] at h
  rw [h]
  exact ⟨rfl, rfl, fun _ => rfl, fun _ => rfl⟩
/-- Cores that have written their lines home and show no yield request (R241, R242). -/
def State.quieted (s : State) (cs : List Nat) : State :=
  cs.foldl (fun s c => (s.l1Drop c true fun _ => true).onCore c fun k => k.setYield none) s
theorem State.saveTeam_eq (s : State) (t slot : Nat) : s.saveTeam t slot =
    (s.quieted (s.team t).cores).saveCores (s.team t) (s.imageBase (s.rcbOf (s.team t)) slot) (s.team t).size := rfl
theorem State.l1Drop_core (s : State) (c : Nat) (f : L1Line → Bool) (d : Nat) : (s.l1Drop c true f).core d =
    if d = c then { s.core c with l1 := (s.core c).l1.filter fun x => !f x } else s.core d := by
  have hback := MemOnly.foldl (f := State.writeBack) (fun u x => State.homeWrite_memOnly u _) ((s.core c).l1.filter f) s
  rw [State.l1Drop, if_pos rfl, State.core_setCore]
  split
  · rfl
  · rw [hback]
    rfl
theorem State.quieted_step (s : State) (c d : Nat) : let u := (s.l1Drop c true fun _ => true).onCore c fun k => k.setYield none
    Stilled (s.core d) (u.core d) ∧ (d = c → (u.core d).l1 = []) ∧ ((s.core d).l1 = [] → (u.core d).l1 = []) := by
  intro u
  have hcore : u.core d = if d = c then { s.core c with l1 := [] }.setYield none else s.core d := by
    have hgone : (s.core c).l1.filter (fun _ => !true) = [] := by simp
    show (State.onCore _ c _).core d = _
    rw [State.core_onCore, State.l1Drop_core, State.l1Drop_core, if_pos rfl, hgone]
    split <;> rfl
  rw [hcore]
  split
  · next h =>
    subst h
    exact ⟨rfl, fun _ => rfl, fun _ => rfl⟩
  · next h => exact ⟨rfl, fun he => absurd he h, id⟩
theorem State.quieted_core (cs : List Nat) (s : State) (d : Nat) :
    Stilled (s.core d) ((s.quieted cs).core d) ∧ (d ∈ cs ∨ (s.core d).l1 = [] → ((s.quieted cs).core d).l1 = []) := by
  induction cs generalizing s with
  | nil => exact ⟨rfl, fun h => h.resolve_left List.not_mem_nil⟩
  | cons c cs ih =>
    obtain ⟨hstill, hself, hempty⟩ := s.quieted_step c d
    obtain ⟨istill, iempty⟩ := ih ((s.l1Drop c true fun _ => true).onCore c fun k => k.setYield none)
    refine ⟨hstill.trans istill, fun h => iempty ?_⟩
    rcases h with h | h
    · exact (List.mem_cons.1 h).elim (fun he => .inr (hself he)) .inl
    · exact .inr (hempty h)
theorem State.quieted_placesKept (cs : List Nat) (s : State) : PlacesKept s (s.quieted cs) :=
  .foldl (fun s c => (s.l1Drop_placesKept c true _).trans (State.onCore_placesKept ..)) cs s

/-! Cores without lines go without a write. -/

theorem State.l1Drop_of_empty {s : State} {c : Nat} (f : L1Line → Bool) (h : (s.core c).l1 = []) :
    s.l1Drop c true f = s.setCore c { s.core c with l1 := [] } := by
  simp [State.l1Drop, h]
theorem State.emptied_mem (cs : List Nat) {s : State} (h : ∀ c ∈ cs, (s.core c).l1 = []) : (s.emptied cs).mem = s.mem := by
  induction cs generalizing s with
  | nil => rfl
  | cons d cs ih =>
    have hd := State.l1Drop_of_empty (fun _ => true) (h d (List.mem_cons_self ..))
    refine (ih (s := (s.l1Drop d true fun _ => true).onCore d Core.vacate) fun c hc => ?_).trans ?_
    · rw [hd, State.core_onCore, State.core_setCore]
      split
      · rfl
      · rw [State.core_setCore, if_neg ‹_›]
        exact h c (List.mem_cons_of_mem _ hc)
    · rw [hd]
      rfl
theorem State.vacateTeam_mem {s : State} {t : Nat} (h : ∀ c ∈ (s.team t).cores, (s.core c).l1 = []) : (s.vacateTeam t).mem = s.mem := by
  rw [← State.emptied_mem _ h]
  exact State.mem_entriesOut ..

/-! The team is out. -/

/-- A core as its team's image keeps it (R242, R252). -/
def State.imageCore (s : State) (t slot c : Nat) : Core :=
  ((s.saveTeam t slot).core c).moveViews (spadBase ((s.team t).coreAt 0)) ((s.team t).size * 0x80000) (outSpad t)
theorem State.saveTeam_core (s : State) (t slot c : Nat) : (s.saveTeam t slot).core c = (s.quieted (s.team t).cores).core c := by
  rw [State.saveTeam_eq, State.saveCores_memOnly]
  rfl
theorem State.saveTeam_team (s : State) (t slot u : Nat) : (s.saveTeam t slot).team u = s.team u := by
  rw [State.saveTeam_eq, State.saveCores_memOnly, State.team]
  exact congrArg (fun T : Table Team => T.get ({} : Team) u) (State.quieted_placesKept _ s).teams
theorem Core.heldLevel_congr {k k' : Core} (h : k'.ctl = k.ctl) : k'.heldLevel = k.heldLevel := by
  rw [Core.heldLevel, Core.heldLevel, Core.openWaits, Core.openWaits, h]
theorem State.imageCore_keeps (s : State) (t slot c : Nat) : (s.imageCore t slot c).ctl.pc = (s.core c).ctl.pc ∧
    ScalarKept [] (s.core c) (s.imageCore t slot c) := by
  obtain ⟨hctl, -, hreg, htag⟩ := ((State.quieted_core (s.team t).cores s c).1).keeps
  rw [← s.saveTeam_core t slot c] at hctl hreg htag
  exact ⟨(congrArg Ctl.pc hctl :), fun n _ => ⟨hreg n, htag n⟩⟩
/-- What a team's blocks hold (R213, R243, R376). -/
theorem State.saveTeam_saved (s : State) (t slot : Nat) {p : Nat} (hsize : (s.team t).size ≤ 64) (hp : p < (s.team t).size)
    (hrs : ∀ e ∈ (s.core ((s.team t).coreAt p)).regs.rs, 32 ≤ e.1) :
    let m := (s.saveTeam t slot).mem
    let k := s.core ((s.team t).coreAt p)
    (∀ r < 64, Memory.read m (imageAt s t slot p + 8 * r) 8 = (k.sreg r).toNat) ∧
      Memory.read m (imageAt s t slot p + 0x98880) 8 = k.ctl.pc % 2 ^ 64 ∧
      Memory.read m (imageAt s t slot p + 0x988F0) 8 = k.heldLevel % 2 ^ 64 := by
  obtain ⟨hctl, hlines, hreg, -⟩ := ((State.quieted_core (s.team t).cores s ((s.team t).coreAt p)).1).keeps
  obtain ⟨hregs, hplace, hlevel⟩ := (s.quieted (s.team t).cores).saveCores_saved (s.team t) (s.imageBase (s.rcbOf (s.team t)) slot) hsize hp
  rw [hlines] at hregs
  refine ⟨fun r hr => (hregs hrs r hr).trans (congrArg BitVec.toNat (hreg r)), ?_, ?_⟩
  · rw [← hctl]
    exact hplace
  · rw [show (s.core ((s.team t).coreAt p)).heldLevel = _ from (Core.heldLevel_congr hctl).symm]
    exact hlevel
theorem exec_preEmption_leaves {u slot : Nat} {s : State} (hres : (s.team u).isResident = true) (hleave : (s.team u).leaving = true)
    (hslot : (s.team u).slot = some slot) (hsends : s.sends u = false) (hquiet : ∀ c ∈ (s.team u).cores, (s.core c).quiet = true) :
    exec (.preEmption u) s = .next (s.swapOut u slot) := by
  have hall : ((s.team u).cores.all fun c => (s.core c).quiet) = true := List.all_eq_true.2 hquiet
  show execPreEmption u s = _
  simp [execPreEmption, hres, hleave, hslot, hsends, hall]
/-- A team as it is out with its image (R242). -/
def Team.takenOut (x : Team) (slot : Nat) (im : Image) : Team :=
  { x with mode := .out, image := some im, slot := some slot, yreq := none, leaving := false, tail := true }
/-- A team is out, and waits for residency where it was not parked (R242, R297). -/
def State.putOut (s : State) (t slot : Nat) (im : Image) (parked : Bool) : State :=
  let v := s.onTeam t fun x => x.takenOut slot im
  if parked then v else { v with residency := v.residency ++ [t] }
theorem State.putOut_spec (s : State) (t slot : Nat) (im : Image) (parked : Bool) : let u := s.putOut t slot im parked
    u.team t = (s.team t).takenOut slot im ∧ (parked = false → t ∈ u.residency) ∧ (∀ c, u.core c = s.core c) ∧ u.mem = s.mem := by
  have hout : (s.onTeam t fun x => x.takenOut slot im).team t = (s.team t).takenOut slot im := by rw [State.team_onTeam, if_pos rfl]
  unfold State.putOut
  cases parked
  · exact ⟨hout, fun _ => by simp, fun _ => rfl, rfl⟩
  · exact ⟨hout, nofun, fun _ => rfl, rfl⟩
theorem State.swapOut_eq (s : State) (t slot : Nat) : s.swapOut t slot = (((s.saveTeam t slot).mapSpads t false).vacateTeam t).putOut t slot
    { cores := (s.team t).cores.map (s.imageCore t slot), barrier := (s.saveTeam t slot).savedBarrier t } (s.team t).parked := rfl
/-- A team that leaves is out with its image; its cores are idle, and its memory is the one that the image was written to, its
scratchpads unmapped (R242, R243, R296). -/
theorem State.swapOut_spec (s : State) (u slot : Nat) : let t := s.swapOut u slot
    (t.team u).mode = .out ∧ (t.team u).slot = some slot ∧
      (∃ im, (t.team u).image = some im ∧ im.cores = (s.team u).cores.map (s.imageCore u slot)) ∧
      (∀ c ∈ (s.team u).cores, (t.core c).ctl.mode = .idle) ∧ ((s.team u).parked = false → u ∈ t.residency) ∧
      t.mem = ((s.saveTeam u slot).mapSpads u false).mem := by
  set w := (s.saveTeam u slot).mapSpads u false with hw
  have hmap := (s.saveTeam u slot).mapSpads_memOnly u false
  have hteam : w.team u = s.team u := by
    rw [hw, hmap, ← s.saveTeam_team u slot u]
    rfl
  have hlines : ∀ c ∈ (w.team u).cores, (w.core c).l1 = [] := fun c hc => by
    rw [hteam] at hc
    rw [hw, hmap]
    show ((s.saveTeam u slot).core c).l1 = []
    rw [s.saveTeam_core]
    exact (State.quieted_core _ s c).2 (.inl hc)
  obtain ⟨-, hidle⟩ := w.vacateTeam_spec u
  have hmem := State.vacateTeam_mem hlines
  rw [hteam] at hidle
  rw [s.swapOut_eq, ← hw]
  obtain ⟨hout, hresidency, hcores, hput⟩ := (w.vacateTeam u).putOut_spec u slot
    { cores := (s.team u).cores.map (s.imageCore u slot), barrier := (s.saveTeam u slot).savedBarrier u } (s.team u).parked
  exact ⟨congrArg Team.mode hout, congrArg Team.slot hout, ⟨_, congrArg Team.image hout, rfl⟩, fun c hc => by rw [hcores]; exact hidle c hc, hresidency, hput.trans hmem⟩

/-- Settles O47: a team's way onto its cores, off them and back, each event by what it leaves of the team, its cores and its image. -/
theorem teamEvents : Obligations.TeamEvents := by
  refine ⟨fun u s cl base bn hnext hmode hplace _ => ?_, fun u dl s hres hyreq hleave => ?_, fun u dl s hres hyreq hleave hdl hyielded => ?_,
    fun u s hres hyreq hleave hq hwaits hparked => ?_, fun u s hparked hwaits hcan hfirst => ?_,
    fun u s slot hres hleave hslot hsends hquiet => ?_, fun u s hres hleave hslot hfree => ?_,
    fun u s cl base bn im hnext hmode hplace himage hhbm => ?_, fun u s hres hended hsends hresult => ?_⟩
  case refine_1 =>
    obtain ⟨t, ht, hteam, hnot, hcores⟩ := residency_spec hnext hmode hplace
    refine ⟨t, ht, by rw [hteam]; rfl, by rw [hteam]; rfl, by rw [hteam]; rfl, hnot, fun p hp => ?_⟩
    obtain ⟨hrun, hof, hpos, hpc, hic, hpad, hnum, hflights⟩ := hcores p hp
    rw [hteam] at hpc hic hnum
    exact ⟨hrun, hof, hpos, hpc, hic, hpad, hnum, hflights⟩
  case refine_2 =>
    obtain ⟨hasks, hcores⟩ := s.postYield_spec u dl
    exact ⟨_, exec_yieldRequest hres hyreq hleave, hasks, hcores⟩
  case refine_3 => exact ⟨_, exec_yieldDeadlineExpiry hres hyreq hleave hdl hyielded, s.beginLeave_spec u⟩
  case refine_4 =>
    obtain ⟨hasks, hcores⟩ := s.postYield_spec u (s.now + s.quantum u / 8)
    exact ⟨_, exec_quantumExpiry hres hyreq hleave hq hwaits hparked, hasks, fun c hc => (hcores c hc).1⟩
  case refine_5 =>
    obtain ⟨hleaves, hstays, hcores⟩ := s.beginLeave_spec u
    exact ⟨_, exec_parkReclaim hparked hwaits hcan hfirst, hleaves, hstays.trans hparked, fun c hc => (hcores c hc).1⟩
  case refine_6 =>
    obtain ⟨hmode, hat, ⟨im, him, hcores⟩, hidle, hwaits, hmem⟩ := s.swapOut_spec u slot
    refine ⟨_, im, exec_preEmption_leaves hres hleave hslot hsends hquiet, hmode, hat, him, ?_, hidle, hwaits, fun p hp k hk => ?_,
      fun hsize p hp hrs => ?_⟩
    · simp [hcores, Team.cores]
    · obtain rfl : s.imageCore u slot ((s.team u).coreAt p) = k := by simpa [hcores, Team.cores, hp] using hk
      exact s.imageCore_keeps u slot _
    · obtain ⟨hregs, hpc, hlevel⟩ := s.saveTeam_saved u slot hsize hp hrs
      dsimp only
      rw [hmem]
      exact ⟨fun r hr hspared => hspared.trans (hregs r hr), fun hspared => hspared.trans hpc, fun hspared => hspared.trans hlevel⟩
  case refine_7 =>
    obtain ⟨t, ht, hstays, hleaves, hasks, hcores⟩ := exec_preEmption_stays hres hleave hslot hfree
    exact ⟨t, ht, hstays, hleaves, hasks, fun c hc => (hcores c hc).1⟩
  case refine_8 =>
    obtain ⟨t, ht, hteam, hnot, hcores⟩ := swapIn_spec hnext hmode hplace himage hhbm
    refine ⟨t, ht, by rw [hteam]; rfl, by rw [hteam]; rfl, hnot, fun p k hp hk => ?_⟩
    obtain ⟨hstands, hcopies, hflights, hcmode⟩ := hcores p k hp hk
    exact ⟨hstands, hcopies, hflights, hcmode⟩
  case refine_9 => exact teamCompletion_spec hres hended hsends hresult

end Sys2Proof.Machine
end
